-- ==== Sys2Proof/Word.lean ====
section
/-! DEFINITION. The words of the BX4 (R3, R6, R16) and the sparse table that holds numbered things. -/

namespace Sys2Proof

/-- One byte (R6). -/
abbrev Byte := BitVec 8

/-- The contents of an X register, a pointer, or a double word (R6, R16, R24). -/
abbrev Word := BitVec 64

/-- The contents of a V register (R16). -/
abbrev Vec := BitVec 512

/-- Things kept by number; a number that is not listed has the reader's default. -/
abbrev Map (α : Type) := List (Nat × α)

end Sys2Proof
end

