-- ==== Sys2Proof/Syntax.lean ====
section
/-! DEFINITION. The instructions of the BX4 and its further steps: one constructor for each row of the table of
operations and events. The first 219 are the instruction words of R231 to R249; the rest are engine commands, steps of
the units, and events from outside, whose arguments are what the unit or the outside decides. -/

namespace Sys2Proof

/-- Number of an X register (R219). -/
abbrev XReg := BitVec 5
/-- Number of a V register, or of a bound stream as 28 to 31 (R233). -/
abbrev VReg := BitVec 5
/-- Number of an M register (R232). -/
abbrev MReg := BitVec 3
/-- Number of a stream register (R232). -/
abbrev SReg := BitVec 2

/-- Rounding field (R194). -/
inductive Rm where
  | dyn | rne | rtz | rdn | rup
deriving DecidableEq, Repr

/-- Scope (R97). -/
inductive Scope where
  | core | die | pkg | dom | sys
deriving DecidableEq, Repr

/-- Order code (R105). -/
inductive Ord where
  | plain | acq | rel | ar
deriving DecidableEq, Repr

/-- Floating-point type of vector arithmetic (R190, R245). -/
inductive FTy where
  | f64 | f32 | bf16
deriving DecidableEq, Repr

/-- Floating-point type of VCVTF (R247). -/
inductive FTy8 where
  | f64 | f32 | bf16 | fp8
deriving DecidableEq, Repr

/-- Size of a scalar floating-point operation (R236): `.S` or `.D`. -/
inductive FSz where
  | s | d
deriving DecidableEq, Repr

/-- Element or access size of 1, 2, 4 or 8 bytes (R6, R244, R246). -/
inductive Sz where
  | b | h | w | d
deriving DecidableEq, Repr

/-- Kind of a scalar load (R234, R239). -/
inductive LdKind where
  | b | h | w | d | bu | hu | wu
deriving DecidableEq, Repr

/-- Condition of VCMP (R245). -/
inductive Cond where
  | eq | ne | lt | le
deriving DecidableEq, Repr

/-- Status of ENDL (R242). -/
inductive EndStatus where
  | ok | fault | user
deriving DecidableEq, Repr

/-- Engine of an ENQ (R252, R331). -/
inductive Engine where
  | mxu | bce | crypto
deriving DecidableEq, Repr

/-- What an atomic does at its home (R278 to R280). -/
inductive AtomFn where
  | add | and | or | xor | min | max | minu | maxu | swap | cas | fadd
deriving DecidableEq, Repr

/-- The one home of a byte (R17, R69): a core's slice, package memory by physical address, a host page by function and
I/O virtual address, another package by its offset, or the notice window of a function (R27). -/
inductive Place where
  | slice (core off : Nat)
  | phys (pa : Nat)
  | host (fn iova tgt : Nat)
  | remote (pkg off : Nat)
  | notice (fn : Nat)
deriving DecidableEq, Repr

/-- What answers a load (R99): its home in this package, or another package with the bytes it sent, or with the cause of
its XLATE fault (R37). For a store to another package the answer is only that of its translation (R38). -/
inductive Resp where
  | home
  | remote (data : BitVec 256)
  | xlate (cause : Nat)
  | bad (code : Nat)
deriving DecidableEq, Repr

/-- What a scrub or a read of a line finds (R80 to R83, R89): nothing or a corrected error; the corrected error by which the
controller finds an SRAM bank failed, the fourth line of R81; errors in a `line` that its next reader finds uncorrectable; a `sector` that
the scrubber itself finds so; or a failed node of a level of the integrity tree. -/
inductive Scrub where
  | corrected
  | bank (b : Nat)
  | line
  | sector
  | node (lvl : Nat)
deriving DecidableEq, Repr

/-- Kind of an access that arrives over the Novino link (R62, R414). -/
inductive RemKind where
  | read
  | write (poison : Bool)
  | atomic (f : AtomFn)
deriving DecidableEq, Repr

/-- What a configuration write names (R413, R406, R419). -/
inductive CfgField where
  | space | msixTable | lrbase | erbase | lrcfg | ercfg | hwlo | hwhi | busMaster | atomicRequester | pasid
deriving DecidableEq, Repr

/-- What the host does at a register: it writes 8 bytes, reads 8, or sends an AtomicOp of 4, 8 or 16 bytes with its operands (R7,
R400). -/
inductive RegOp where
  | write (val : Word)
  | read
  | atomic (f : AtomFn) (size : Nat) (a b : BitVec 128)
deriving DecidableEq, Repr

/-- A host address, and the translated address of its page as a completion gives it (R36). -/
structure AtsPage where
  iova : Nat
  target : Nat
deriving DecidableEq, Repr

/-- Status of a PCI Express completion (R281, R405). -/
inductive CplStatus where
  | ok | unsupported | abort
deriving DecidableEq, Repr

/-- The 326 operations and events of the table. -/
inductive Instr where
  /-- ADD (R259). Writes the 64-bit wrapping sum of two X registers. -/
  | add (rd : XReg) (ra : XReg) (rb : XReg)
  /-- SUB (R259). Writes the 64-bit wrapping difference of two X registers. -/
  | sub (rd : XReg) (ra : XReg) (rb : XReg)
  /-- AND (R259). Writes the bitwise AND of two X registers. -/
  | and (rd : XReg) (ra : XReg) (rb : XReg)
  /-- OR (R259). Writes the bitwise OR of two X registers. -/
  | or (rd : XReg) (ra : XReg) (rb : XReg)
  /-- XOR (R259). Writes the bitwise XOR of two X registers. -/
  | xor (rd : XReg) (ra : XReg) (rb : XReg)
  /-- ANDN (R259). Writes a AND NOT b. -/
  | andn (rd : XReg) (ra : XReg) (rb : XReg)
  /-- SLL (R259). Shifts left logically by b[5:0]. -/
  | sll (rd : XReg) (ra : XReg) (rb : XReg)
  /-- SRL (R259). Shifts right logically by b[5:0]. -/
  | srl (rd : XReg) (ra : XReg) (rb : XReg)
  /-- SRA (R259). Shifts right arithmetically by b[5:0]. -/
  | sra (rd : XReg) (ra : XReg) (rb : XReg)
  /-- SLT (R259). Writes 1 if a < b signed, else 0. -/
  | slt (rd : XReg) (ra : XReg) (rb : XReg)
  /-- SLTU (R259). Writes 1 if a < b unsigned, else 0. -/
  | sltu (rd : XReg) (ra : XReg) (rb : XReg)
  /-- MIN (R259). Writes the signed minimum. -/
  | min (rd : XReg) (ra : XReg) (rb : XReg)
  /-- MAX (R259). Writes the signed maximum. -/
  | max (rd : XReg) (ra : XReg) (rb : XReg)
  /-- MINU (R259). Writes the unsigned minimum. -/
  | minu (rd : XReg) (ra : XReg) (rb : XReg)
  /-- MAXU (R259). Writes the unsigned maximum. -/
  | maxu (rd : XReg) (ra : XReg) (rb : XReg)
  /-- MUL (R259). Writes the low 64 bits of the product. -/
  | mul (rd : XReg) (ra : XReg) (rb : XReg)
  /-- MULH (R259). Writes the high 64 bits of the signed product. -/
  | mulh (rd : XReg) (ra : XReg) (rb : XReg)
  /-- MULHU (R259). Writes the high 64 bits of the unsigned product. -/
  | mulhu (rd : XReg) (ra : XReg) (rb : XReg)
  /-- DIV (R260). Signed division toward zero, saturating on the edge cases. -/
  | div (rd : XReg) (ra : XReg) (rb : XReg)
  /-- DIVU (R260). Unsigned division, saturating on division by zero. -/
  | divu (rd : XReg) (ra : XReg) (rb : XReg)
  /-- REM (R260). Signed remainder, 0 in the edge cases. -/
  | rem (rd : XReg) (ra : XReg) (rb : XReg)
  /-- REMU (R260). Unsigned remainder, 0 on division by zero. -/
  | remu (rd : XReg) (ra : XReg) (rb : XReg)
  /-- CLZ (R259). Counts the leading zero bits. -/
  | clz (rd : XReg) (ra : XReg)
  /-- CTZ (R259). Counts the trailing zero bits. -/
  | ctz (rd : XReg) (ra : XReg)
  /-- POPC (R259). Counts the one bits. -/
  | popc (rd : XReg) (ra : XReg)
  /-- SLLI (R259). Shifts left logically by an immediate amount. -/
  | slli (rd : XReg) (ra : XReg) (sh : BitVec 6)
  /-- SRLI (R259). Shifts right logically by an immediate amount. -/
  | srli (rd : XReg) (ra : XReg) (sh : BitVec 6)
  /-- SRAI (R259). Shifts right arithmetically by an immediate amount. -/
  | srai (rd : XReg) (ra : XReg) (sh : BitVec 6)
  /-- COLG (R264). Reads a pointer's colour. -/
  | colg (rd : XReg) (ra : XReg)
  /-- COLS (R264). Sets a pointer's colour from another register. -/
  | cols (rd : XReg) (ra : XReg) (rb : XReg)
  /-- ADDI (R261). Adds a sign-extended immediate. -/
  | addi (rd : XReg) (ra : XReg) (imm : BitVec 16)
  /-- ANDI (R261). ANDs with a zero-extended immediate. -/
  | andi (rd : XReg) (ra : XReg) (imm : BitVec 16)
  /-- ORI (R261). ORs with a zero-extended immediate. -/
  | ori (rd : XReg) (ra : XReg) (imm : BitVec 16)
  /-- XORI (R261). XORs with a zero-extended immediate. -/
  | xori (rd : XReg) (ra : XReg) (imm : BitVec 16)
  /-- SLTI (R261). Signed compare against an immediate. -/
  | slti (rd : XReg) (ra : XReg) (imm : BitVec 16)
  /-- SLTIU (R261). Unsigned compare against a sign-extended immediate. -/
  | sltiu (rd : XReg) (ra : XReg) (imm : BitVec 16)
  /-- LIS (R262). Loads a sign-extended 16-bit immediate shifted into lane k. -/
  | lis (rd : XReg) (k : BitVec 2) (imm : BitVec 16)
  /-- LIH (R262). Inserts a 16-bit immediate into lane k, keeping other bits. -/
  | lih (rd : XReg) (k : BitVec 2) (imm : BitVec 16)
  /-- LEA (R263). Adds an offset within bits [45:0], keeping colour and package. -/
  | lea (rd : XReg) (ra : XReg) (imm : BitVec 16)
  /-- LDL_W (R273). Reads a sign-extended 4-byte literal as an instruction fetch. -/
  | ldlW (rd : XReg) (off : BitVec 19)
  /-- LDL_D (R273). Reads an 8-byte literal as an instruction fetch. -/
  | ldlD (rd : XReg) (off : BitVec 19)
  /-- LDLV (R273). Reads a 64-byte literal into a V register. -/
  | ldlv (rd : VReg) (off : BitVec 19)
  /-- JAL (R272). Jumps PC-relative and writes the link. -/
  | jal (rd : XReg) (off : BitVec 21)
  /-- JALR (R272). Jumps to a register plus offset and writes the link. -/
  | jalr (rd : XReg) (ra : XReg) (imm : BitVec 16)
  /-- FADD (R267). Scalar FP add, correctly rounded. -/
  | fadd (rd : XReg) (ra : XReg) (rb : XReg) (rm : Rm) (sz : FSz)
  /-- FSUB (R267). Scalar FP subtract. -/
  | fsub (rd : XReg) (ra : XReg) (rb : XReg) (rm : Rm) (sz : FSz)
  /-- FMUL (R267). Scalar FP multiply. -/
  | fmul (rd : XReg) (ra : XReg) (rb : XReg) (rm : Rm) (sz : FSz)
  /-- FDIV (R267). Scalar FP divide. -/
  | fdiv (rd : XReg) (ra : XReg) (rb : XReg) (rm : Rm) (sz : FSz)
  /-- FSQRT (R267). Scalar FP square root. -/
  | fsqrt (rd : XReg) (ra : XReg) (rm : Rm) (sz : FSz)
  /-- FMIN (R267). Scalar FP minimum by R201. -/
  | fmin (rd : XReg) (ra : XReg) (rb : XReg) (sz : FSz)
  /-- FMAX (R267). Scalar FP maximum by R201. -/
  | fmax (rd : XReg) (ra : XReg) (rb : XReg) (sz : FSz)
  /-- FEQ (R267). Writes 1 if the FP operands are equal. -/
  | feq (rd : XReg) (ra : XReg) (rb : XReg) (sz : FSz)
  /-- FLT (R267). Writes 1 if xa < xb. -/
  | flt (rd : XReg) (ra : XReg) (rb : XReg) (sz : FSz)
  /-- FLE (R267). Writes 1 if xa <= xb. -/
  | fle (rd : XReg) (ra : XReg) (rb : XReg) (sz : FSz)
  /-- FCLASS (R268). Writes the class word of an FP value. -/
  | fclass (rd : XReg) (ra : XReg) (sz : FSz)
  /-- FCVT_FP (R269). Converts between FP32 and FP64. -/
  | fcvtFp (rd : XReg) (ra : XReg) (rm : Rm) (sz : FSz)
  /-- FCVT_FROM_I64 (R269). Converts signed INT64 to FP. -/
  | fcvtFromI64 (rd : XReg) (ra : XReg) (rm : Rm) (sz : FSz)
  /-- FCVT_FROM_U64 (R269). Converts unsigned INT64 to FP. -/
  | fcvtFromU64 (rd : XReg) (ra : XReg) (rm : Rm) (sz : FSz)
  /-- FCVT_TO_I64 (R269). Converts FP to signed INT64 by R203. -/
  | fcvtToI64 (rd : XReg) (ra : XReg) (rm : Rm) (sz : FSz)
  /-- FCVT_TO_U64 (R269). Converts FP to unsigned INT64. -/
  | fcvtToU64 (rd : XReg) (ra : XReg) (rm : Rm) (sz : FSz)
  /-- FFMA (R270). Scalar fused multiply-add rounded once. -/
  | ffma (rd : XReg) (ra : XReg) (rb : XReg) (rc : XReg) (rm : Rm) (sz : FSz)
  /-- CSRR (R336). Reads a control register. -/
  | csrr (rd : XReg) (n : BitVec 12)
  /-- CSRW (R336). Writes a control register and returns its old value. -/
  | csrw (rd : XReg) (ra : XReg) (n : BitVec 12)
  /-- CSRS (R336). Sets bits of a control register. -/
  | csrs (rd : XReg) (ra : XReg) (n : BitVec 12)
  /-- CSRC (R336). Clears bits of a control register. -/
  | csrc (rd : XReg) (ra : XReg) (n : BitVec 12)
  /-- BEQ (R271). Branches if equal. -/
  | beq (ra : XReg) (rb : XReg) (off : BitVec 16)
  /-- BNE (R271). Branches if not equal. -/
  | bne (ra : XReg) (rb : XReg) (off : BitVec 16)
  /-- BLT (R271). Branches if less, signed. -/
  | blt (ra : XReg) (rb : XReg) (off : BitVec 16)
  /-- BGE (R271). Branches if greater or equal, signed. -/
  | bge (ra : XReg) (rb : XReg) (off : BitVec 16)
  /-- BLTU (R271). Branches if less, unsigned. -/
  | bltu (ra : XReg) (rb : XReg) (off : BitVec 16)
  /-- BGEU (R271). Branches if greater or equal, unsigned. -/
  | bgeu (ra : XReg) (rb : XReg) (off : BitVec 16)
  /-- VCVT_FP_FP (R306). Converts vector elements between FP types, FP8 with scale and AMAX. -/
  | vcvtFpFp (rd : VReg) (ra : VReg) (rb : XReg) (mk : MReg) (dst : FTy8) (src : FTy8) (rm : Rm)
  /-- VCVT_INT_TO_FP (R307). Converts signed integer elements to FP. -/
  | vcvtIntToFp (rd : VReg) (ra : VReg) (mk : MReg) (ity : Sz) (fty : FTy) (rm : Rm)
  /-- VCVT_FP_TO_INT (R307). Converts FP elements to signed integers by R203. -/
  | vcvtFpToInt (rd : VReg) (ra : VReg) (mk : MReg) (ity : Sz) (fty : FTy) (rm : Rm)
  /-- LD_B (R274). Plain sign-extended byte load. -/
  | ldB (rd : XReg) (ra : XReg) (imm : BitVec 16)
  /-- LD_H (R274). Plain sign-extended half load. -/
  | ldH (rd : XReg) (ra : XReg) (imm : BitVec 16)
  /-- LD_W (R274). Plain sign-extended word load. -/
  | ldW (rd : XReg) (ra : XReg) (imm : BitVec 16)
  /-- LD_D (R274). Plain double load. -/
  | ldD (rd : XReg) (ra : XReg) (imm : BitVec 16)
  /-- LD_BU (R274). Plain zero-extended byte load. -/
  | ldBu (rd : XReg) (ra : XReg) (imm : BitVec 16)
  /-- LD_HU (R274). Plain zero-extended half load. -/
  | ldHu (rd : XReg) (ra : XReg) (imm : BitVec 16)
  /-- LD_WU (R274). Plain zero-extended word load. -/
  | ldWu (rd : XReg) (ra : XReg) (imm : BitVec 16)
  /-- ST_B (R274). Plain byte store into the store buffer. -/
  | stB (rd : XReg) (ra : XReg) (imm : BitVec 16)
  /-- ST_H (R274). Plain half store. -/
  | stH (rd : XReg) (ra : XReg) (imm : BitVec 16)
  /-- ST_W (R274). Plain word store. -/
  | stW (rd : XReg) (ra : XReg) (imm : BitVec 16)
  /-- ST_D (R274). Plain double store. -/
  | stD (rd : XReg) (ra : XReg) (imm : BitVec 16)
  /-- LD_ACQ (R276). Load that is an acquire at its scope. -/
  | ldAcq (rd : XReg) (ra : XReg) (kind : LdKind) (sc : Scope) (imm : BitVec 7)
  /-- ST_REL (R276). Store that is a release at its scope. -/
  | stRel (rd : XReg) (ra : XReg) (kind : Sz) (sc : Scope) (imm : BitVec 7)
  /-- AMO_ADD_D (R278). Atomic 64-bit add returning the old value. -/
  | amoAddD (rd : XReg) (ra : XReg) (sc : Scope) (ord : Ord) (imm : BitVec 7)
  /-- AMO_AND_D (R278). Atomic 64-bit AND. -/
  | amoAndD (rd : XReg) (ra : XReg) (sc : Scope) (ord : Ord) (imm : BitVec 7)
  /-- AMO_OR_D (R278). Atomic 64-bit OR. -/
  | amoOrD (rd : XReg) (ra : XReg) (sc : Scope) (ord : Ord) (imm : BitVec 7)
  /-- AMO_XOR_D (R278). Atomic 64-bit XOR. -/
  | amoXorD (rd : XReg) (ra : XReg) (sc : Scope) (ord : Ord) (imm : BitVec 7)
  /-- AMO_MIN_D (R278). Atomic 64-bit signed minimum. -/
  | amoMinD (rd : XReg) (ra : XReg) (sc : Scope) (ord : Ord) (imm : BitVec 7)
  /-- AMO_MAX_D (R278). Atomic 64-bit signed maximum. -/
  | amoMaxD (rd : XReg) (ra : XReg) (sc : Scope) (ord : Ord) (imm : BitVec 7)
  /-- AMO_MINU_D (R278). Atomic 64-bit unsigned minimum. -/
  | amoMinuD (rd : XReg) (ra : XReg) (sc : Scope) (ord : Ord) (imm : BitVec 7)
  /-- AMO_MAXU_D (R278). Atomic 64-bit unsigned maximum. -/
  | amoMaxuD (rd : XReg) (ra : XReg) (sc : Scope) (ord : Ord) (imm : BitVec 7)
  /-- AMO_SWAP_D (R278). Atomic 64-bit swap. -/
  | amoSwapD (rd : XReg) (ra : XReg) (sc : Scope) (ord : Ord) (imm : BitVec 7)
  /-- AMO_ADD_W (R278). Atomic 32-bit add. -/
  | amoAddW (rd : XReg) (ra : XReg) (sc : Scope) (ord : Ord) (imm : BitVec 7)
  /-- AMO_AND_W (R278). Atomic 32-bit AND. -/
  | amoAndW (rd : XReg) (ra : XReg) (sc : Scope) (ord : Ord) (imm : BitVec 7)
  /-- AMO_OR_W (R278). Atomic 32-bit OR. -/
  | amoOrW (rd : XReg) (ra : XReg) (sc : Scope) (ord : Ord) (imm : BitVec 7)
  /-- AMO_XOR_W (R278). Atomic 32-bit XOR. -/
  | amoXorW (rd : XReg) (ra : XReg) (sc : Scope) (ord : Ord) (imm : BitVec 7)
  /-- AMO_MIN_W (R278). Atomic 32-bit signed minimum. -/
  | amoMinW (rd : XReg) (ra : XReg) (sc : Scope) (ord : Ord) (imm : BitVec 7)
  /-- AMO_MAX_W (R278). Atomic 32-bit signed maximum. -/
  | amoMaxW (rd : XReg) (ra : XReg) (sc : Scope) (ord : Ord) (imm : BitVec 7)
  /-- AMO_MINU_W (R278). Atomic 32-bit unsigned minimum. -/
  | amoMinuW (rd : XReg) (ra : XReg) (sc : Scope) (ord : Ord) (imm : BitVec 7)
  /-- AMO_MAXU_W (R278). Atomic 32-bit unsigned maximum. -/
  | amoMaxuW (rd : XReg) (ra : XReg) (sc : Scope) (ord : Ord) (imm : BitVec 7)
  /-- AMO_SWAP_W (R278). Atomic 32-bit swap. -/
  | amoSwapW (rd : XReg) (ra : XReg) (sc : Scope) (ord : Ord) (imm : BitVec 7)
  /-- CAS_W (R279). 32-bit compare and swap on a register pair. -/
  | casW (rd : XReg) (ra : XReg) (sc : Scope) (ord : Ord) (imm : BitVec 7)
  /-- CAS_D (R279). 64-bit compare and swap on a register pair. -/
  | casD (rd : XReg) (ra : XReg) (sc : Scope) (ord : Ord) (imm : BitVec 7)
  /-- CAS_Q (R279). 128-bit compare and swap on four registers. -/
  | casQ (rd : XReg) (ra : XReg) (sc : Scope) (ord : Ord) (imm : BitVec 7)
  /-- FAMO_ADD_S (R280). FP32 add at the home, returning the old value. -/
  | famoAddS (rd : XReg) (ra : XReg) (sc : Scope) (ord : Ord) (imm : BitVec 7)
  /-- FAMO_ADD_D (R280). FP64 add at the home, returning the old value. -/
  | famoAddD (rd : XReg) (ra : XReg) (sc : Scope) (ord : Ord) (imm : BitVec 7)
  /-- FENCE (R109). Orders earlier accesses of the chosen kinds within a scope before later ones. -/
  | fence (kind : BitVec 4) (sc : Scope)
  /-- WAIT (R284). Stalls until the LD, ST, CP and MX counters are within bounds. -/
  | wait (ld : BitVec 6) (st : BitVec 6) (cp : BitVec 6) (mx : BitVec 6)
  /-- SEND (R315). Queues a message with an X-register payload in the outbox. -/
  | send (rd : XReg) (ra : XReg) (rb : XReg) (c : Bool) (op : BitVec 4) (hid : BitVec 6)
  /-- SENDV (R315). Queues a message with a V-register payload. -/
  | sendv (rd : VReg) (ra : XReg) (rb : XReg) (c : Bool) (op : BitVec 4) (hid : BitVec 6)
  /-- ARM (R181). Queues an ARM that adds a count to a record. -/
  | arm (rd : XReg) (ra : XReg) (rb : XReg) (op : BitVec 4) (hid : BitVec 6)
  /-- DONE (R316). Ends the activation, drains its accesses and sends its outbox. -/
  | done
  /-- ENDL (R318). Ends the launch with status OK, FAULT or USER. -/
  | endl (ra : XReg) (status : EndStatus)
  /-- MSK (R317). Reads and changes the launch's handler mask on the core. -/
  | msk (rd : XReg) (ra : XReg) (rb : XReg)
  /-- LNCH (R319). Submits a launch record from the device. -/
  | lnch (rd : XReg) (ra : XReg)
  /-- FXCVT (R320). Converts an FXADD accumulator to FP64. -/
  | fxcvt (rd : XReg) (ra : XReg) (rm : Rm)
  /-- RINIT (R322). Initialises a ring. -/
  | rinit (ra : XReg) (rb : XReg)
  /-- RFREE (R322). Frees a ring. -/
  | rfree (ra : XReg)
  /-- RWAIT (R322). Waits for a ring slot to fill and acquires it. -/
  | rwait (ra : XReg) (rb : XReg)
  /-- RREL (R322). Releases filled ring slots. -/
  | rrel (ra : XReg) (rb : XReg)
  /-- RSTAT (R323). Reads a ring's status. -/
  | rstat (rd : XReg) (ra : XReg)
  /-- SBIND (R327). Binds a stream register to a descriptor. -/
  | sbind (rd : SReg) (ra : XReg)
  /-- SUNB (R329). Unbinds a stream, draining pushes. -/
  | sunb (rd : SReg)
  /-- SSTAT (R330). Reads a stream's status. -/
  | sstat (rd : XReg) (ra : SReg)
  /-- MXST (R332). Reads the MXU state and clears its err field. -/
  | mxst (rd : XReg)
  /-- RQRY (R67). Reports what an owner holds at a byte. -/
  | rqry (rd : XReg) (ra : XReg) (rb : XReg)
  /-- PLBINV (R54). Removes one owner's PLB entries partition-wide. -/
  | plbinv (ra : XReg)
  /-- PLBINV_ALL (R54). Removes every owner's PLB entries partition-wide. -/
  | plbinvAll
  /-- TLBINV (R335). Invalidates TLB entries over a range on every core of the partition. -/
  | tlbinv (ra : XReg) (rb : XReg)
  /-- TRAP (R345). Traps to the monitor with kind 1. -/
  | trap (ra : XReg)
  /-- MCALL (R345). Traps to the monitor with kind 2 to ask a service. -/
  | mcall (ra : XReg)
  /-- ERET (R346). Returns from the monitor to the level before the trap. -/
  | eret
  /-- IDLE (R347). Stalls the monitor string until an event or runnable record. -/
  | idle
  /-- BAR (R286). Commits early, drains near accesses and arrives at the quire barrier. -/
  | bar
  /-- GRANT (R59). Grants rights over a range to another owner via the rights unit. -/
  | grant (rd : XReg) (ra : XReg) (rb : XReg) (rc : XReg)
  /-- REVOKE (R63). Revokes, recolours or sweeps a range via the rights unit. -/
  | revoke (rd : XReg) (ra : XReg) (rb : XReg) (rc : XReg)
  /-- ENQ (R252). Patches an engine command template and enqueues it. -/
  | enq (eng : Engine) (ra : XReg) (rb : XReg) (off : BitVec 13)
  /-- VLD (R309). Contiguous vector load. -/
  | vld (rd : VReg) (ra : XReg) (mk : MReg) (e : Sz)
  /-- VST (R309). Contiguous vector store. -/
  | vst (rd : VReg) (ra : XReg) (mk : MReg) (e : Sz)
  /-- VLDS (R309). Strided vector load. -/
  | vlds (rd : VReg) (ra : XReg) (rb : XReg) (mk : MReg) (e : Sz)
  /-- VSTS (R309). Strided vector store. -/
  | vsts (rd : VReg) (ra : XReg) (rb : XReg) (mk : MReg) (e : Sz)
  /-- VGATH (R309). Indexed vector gather. -/
  | vgath (rd : VReg) (ra : XReg) (rb : VReg) (mk : MReg) (e : Sz)
  /-- VSCAT (R309). Indexed vector scatter. -/
  | vscat (rd : VReg) (ra : XReg) (rb : VReg) (mk : MReg) (e : Sz)
  /-- VLDJ (R216). Loads a jet plane by plane. -/
  | vldj (rd : VReg) (ra : XReg) (mk : MReg) (e : Sz)
  /-- VSTJ (R216). Stores a jet plane by plane. -/
  | vstj (rd : VReg) (ra : XReg) (mk : MReg) (e : Sz)
  /-- VADD_FP (R292). Vector FP add, on whole jets at JORD >= 1. -/
  | vaddFp (ty : FTy) (rd : VReg) (ra : VReg) (rb : VReg) (mk : MReg) (rm : Rm)
  /-- VSUB_FP (R292). Vector FP subtract. -/
  | vsubFp (ty : FTy) (rd : VReg) (ra : VReg) (rb : VReg) (mk : MReg) (rm : Rm)
  /-- VMUL_FP (R292). Vector FP multiply. -/
  | vmulFp (ty : FTy) (rd : VReg) (ra : VReg) (rb : VReg) (mk : MReg) (rm : Rm)
  /-- VDIV (R292). Vector FP divide. -/
  | vdiv (ty : FTy) (rd : VReg) (ra : VReg) (rb : VReg) (mk : MReg) (rm : Rm)
  /-- VSQRT (R292). Vector FP square root. -/
  | vsqrt (ty : FTy) (rd : VReg) (ra : VReg) (mk : MReg) (rm : Rm)
  /-- VRSQ (R292). Vector reciprocal square root. -/
  | vrsq (ty : FTy) (rd : VReg) (ra : VReg) (mk : MReg) (rm : Rm)
  /-- VEXP (R292). Vector exponential. -/
  | vexp (ty : FTy) (rd : VReg) (ra : VReg) (mk : MReg) (rm : Rm)
  /-- VLOG (R292). Vector natural logarithm. -/
  | vlog (ty : FTy) (rd : VReg) (ra : VReg) (mk : MReg) (rm : Rm)
  /-- VSIN (R292). Vector sine. -/
  | vsin (ty : FTy) (rd : VReg) (ra : VReg) (mk : MReg) (rm : Rm)
  /-- VCOS (R292). Vector cosine. -/
  | vcos (ty : FTy) (rd : VReg) (ra : VReg) (mk : MReg) (rm : Rm)
  /-- VTANH (R292). Vector hyperbolic tangent. -/
  | vtanh (ty : FTy) (rd : VReg) (ra : VReg) (mk : MReg) (rm : Rm)
  /-- VMIN_FP (R292). Vector FP minimum by R201. -/
  | vminFp (ty : FTy) (rd : VReg) (ra : VReg) (rb : VReg) (mk : MReg)
  /-- VMAX_FP (R292). Vector FP maximum by R201. -/
  | vmaxFp (ty : FTy) (rd : VReg) (ra : VReg) (rb : VReg) (mk : MReg)
  /-- VABS_FP (R292). Clears the sign bit of each FP element. -/
  | vabsFp (ty : FTy) (rd : VReg) (ra : VReg) (mk : MReg)
  /-- VNEG_FP (R292). Inverts the sign bit of each FP element. -/
  | vnegFp (ty : FTy) (rd : VReg) (ra : VReg) (mk : MReg)
  /-- VCMP_FP (R293). FP compare writing a mask by condition EQ, NE, LT or LE. -/
  | vcmpFp (ty : FTy) (rd : MReg) (ra : VReg) (rb : VReg) (mk : MReg) (cond : Cond)
  /-- VREDSUM_FP (R294). Exact FP sum of active elements, rounded once. -/
  | vredsumFp (ty : FTy) (rd : VReg) (ra : VReg) (mk : MReg) (rm : Rm)
  /-- VREDMAX_FP (R294). FP maximum of active elements. -/
  | vredmaxFp (ty : FTy) (rd : VReg) (ra : VReg) (mk : MReg)
  /-- VREDMIN_FP (R294). FP minimum of active elements. -/
  | vredminFp (ty : FTy) (rd : VReg) (ra : VReg) (mk : MReg)
  /-- JSEED (R296). Builds a seeded variable jet from a vector. -/
  | jseed (ty : FTy) (rd : VReg) (ra : VReg) (mk : MReg)
  /-- JCONST (R296). Builds a constant jet from a vector. -/
  | jconst (ty : FTy) (rd : VReg) (ra : VReg) (mk : MReg)
  /-- JGET (R297). Extracts coefficient k of a jet. -/
  | jget (ty : FTy) (rd : VReg) (ra : VReg) (k : BitVec 2) (mk : MReg)
  /-- JSET (R297). Sets coefficient k of a jet. -/
  | jset (ty : FTy) (rd : VReg) (ra : VReg) (k : BitVec 2) (mk : MReg)
  /-- JDER (R298). Writes k! times coefficient k, rounded once. -/
  | jder (ty : FTy) (rd : VReg) (ra : VReg) (k : BitVec 2) (mk : MReg) (rm : Rm)
  /-- VADD_INT (R300). Vector integer add, wrapping. -/
  | vaddInt (rd : VReg) (ra : VReg) (rb : VReg) (mk : MReg) (e : Sz)
  /-- VSUB_INT (R300). Vector integer subtract. -/
  | vsubInt (rd : VReg) (ra : VReg) (rb : VReg) (mk : MReg) (e : Sz)
  /-- VMUL_INT (R300). Vector integer multiply, low bits. -/
  | vmulInt (rd : VReg) (ra : VReg) (rb : VReg) (mk : MReg) (e : Sz)
  /-- VMIN_INT (R300). Vector signed minimum. -/
  | vminInt (rd : VReg) (ra : VReg) (rb : VReg) (mk : MReg) (e : Sz)
  /-- VMAX_INT (R300). Vector signed maximum. -/
  | vmaxInt (rd : VReg) (ra : VReg) (rb : VReg) (mk : MReg) (e : Sz)
  /-- VABS_INT (R300). Vector signed absolute value. -/
  | vabsInt (rd : VReg) (ra : VReg) (mk : MReg) (e : Sz)
  /-- VNEG_INT (R300). Vector integer negate. -/
  | vnegInt (rd : VReg) (ra : VReg) (mk : MReg) (e : Sz)
  /-- VAND (R300). Vector bitwise AND. -/
  | vand (rd : VReg) (ra : VReg) (rb : VReg) (mk : MReg) (e : Sz)
  /-- VOR (R300). Vector bitwise OR. -/
  | vor (rd : VReg) (ra : VReg) (rb : VReg) (mk : MReg) (e : Sz)
  /-- VXOR (R300). Vector bitwise XOR. -/
  | vxor (rd : VReg) (ra : VReg) (rb : VReg) (mk : MReg) (e : Sz)
  /-- VSHL (R300). Vector shift left. -/
  | vshl (rd : VReg) (ra : VReg) (rb : VReg) (mk : MReg) (e : Sz)
  /-- VSHR (R300). Vector logical shift right. -/
  | vshr (rd : VReg) (ra : VReg) (rb : VReg) (mk : MReg) (e : Sz)
  /-- VSRA (R300). Vector arithmetic shift right. -/
  | vsra (rd : VReg) (ra : VReg) (rb : VReg) (mk : MReg) (e : Sz)
  /-- VCMP_EQ (R300). Integer equal compare to a mask. -/
  | vcmpEq (rd : MReg) (ra : VReg) (rb : VReg) (mk : MReg) (e : Sz)
  /-- VCMP_NE (R300). Integer not-equal compare to a mask. -/
  | vcmpNe (rd : MReg) (ra : VReg) (rb : VReg) (mk : MReg) (e : Sz)
  /-- VCMP_LT (R300). Signed less-than compare to a mask. -/
  | vcmpLt (rd : MReg) (ra : VReg) (rb : VReg) (mk : MReg) (e : Sz)
  /-- VCMP_LE (R300). Signed less-or-equal compare to a mask. -/
  | vcmpLe (rd : MReg) (ra : VReg) (rb : VReg) (mk : MReg) (e : Sz)
  /-- VCMP_LTU (R300). Unsigned less-than compare to a mask. -/
  | vcmpLtu (rd : MReg) (ra : VReg) (rb : VReg) (mk : MReg) (e : Sz)
  /-- VCMP_LEU (R300). Unsigned less-or-equal compare to a mask. -/
  | vcmpLeu (rd : MReg) (ra : VReg) (rb : VReg) (mk : MReg) (e : Sz)
  /-- VREDSUM_INT (R300). Wrapping integer sum of active elements. -/
  | vredsumInt (rd : VReg) (ra : VReg) (mk : MReg) (e : Sz)
  /-- VREDMAX_INT (R300). Signed maximum of active elements. -/
  | vredmaxInt (rd : VReg) (ra : VReg) (mk : MReg) (e : Sz)
  /-- VREDMIN_INT (R300). Signed minimum of active elements. -/
  | vredminInt (rd : VReg) (ra : VReg) (mk : MReg) (e : Sz)
  /-- VMOV (R301). Moves active elements. -/
  | vmov (rd : VReg) (ra : VReg) (mk : MReg) (e : Sz)
  /-- VSEL (R301). Selects each element from ra or rb by the mask. -/
  | vsel (rd : VReg) (ra : VReg) (rb : VReg) (mk : MReg) (e : Sz)
  /-- VBCAST (R301). Broadcasts an X register into active elements. -/
  | vbcast (rd : VReg) (ra : XReg) (mk : MReg) (e : Sz)
  /-- VEXT (R302). Extracts one element to an X register. -/
  | vext (rd : XReg) (ra : VReg) (rb : XReg) (e : Sz)
  /-- VINS (R302). Inserts an X register into one element. -/
  | vins (rd : VReg) (ra : XReg) (rb : XReg) (e : Sz)
  /-- VIOTA (R302). Writes the count of active elements below each element. -/
  | viota (rd : VReg) (mk : MReg) (e : Sz)
  /-- VPERM (R303). Permutes elements by an index vector. -/
  | vperm (rd : VReg) (ra : VReg) (rb : VReg) (mk : MReg) (e : Sz)
  /-- VSLIDE (R303). Slides elements by a signed distance. -/
  | vslide (rd : VReg) (ra : VReg) (rb : XReg) (mk : MReg) (e : Sz)
  /-- MAND (R304). Mask AND. -/
  | mand (rd : MReg) (ra : MReg) (rb : MReg)
  /-- MOR (R304). Mask OR. -/
  | mor (rd : MReg) (ra : MReg) (rb : MReg)
  /-- MNOT (R304). Mask NOT. -/
  | mnot (rd : MReg) (ra : MReg)
  /-- MPOP (R304). Counts the one bits of a mask. -/
  | mpop (rd : XReg) (ra : MReg)
  /-- VFMA_F64 (R295). FP64 fused a*b+c. -/
  | vfmaF64 (rd : VReg) (ra : VReg) (rb : VReg) (rc : VReg) (rm : Rm) (mk : MReg)
  /-- VFMA_F32 (R295). FP32 fused a*b+c. -/
  | vfmaF32 (rd : VReg) (ra : VReg) (rb : VReg) (rc : VReg) (rm : Rm) (mk : MReg)
  /-- VFMA_BF16 (R295). BF16 fused a*b+c. -/
  | vfmaBf16 (rd : VReg) (ra : VReg) (rb : VReg) (rc : VReg) (rm : Rm) (mk : MReg)
  /-- VFMS_F64 (R295). FP64 fused a*b-c. -/
  | vfmsF64 (rd : VReg) (ra : VReg) (rb : VReg) (rc : VReg) (rm : Rm) (mk : MReg)
  /-- VFMS_F32 (R295). FP32 fused a*b-c. -/
  | vfmsF32 (rd : VReg) (ra : VReg) (rb : VReg) (rc : VReg) (rm : Rm) (mk : MReg)
  /-- VFMS_BF16 (R295). BF16 fused a*b-c. -/
  | vfmsBf16 (rd : VReg) (ra : VReg) (rb : VReg) (rc : VReg) (rm : Rm) (mk : MReg)
  /-- VFNMA_F64 (R295). FP64 fused -(a*b)+c. -/
  | vfnmaF64 (rd : VReg) (ra : VReg) (rb : VReg) (rc : VReg) (rm : Rm) (mk : MReg)
  /-- VFNMA_F32 (R295). FP32 fused -(a*b)+c. -/
  | vfnmaF32 (rd : VReg) (ra : VReg) (rb : VReg) (rc : VReg) (rm : Rm) (mk : MReg)
  /-- VFNMA_BF16 (R295). BF16 fused -(a*b)+c. -/
  | vfnmaBf16 (rd : VReg) (ra : VReg) (rb : VReg) (rc : VReg) (rm : Rm) (mk : MReg)
  /-- VFNMS_F64 (R295). FP64 fused -(a*b)-c. -/
  | vfnmsF64 (rd : VReg) (ra : VReg) (rb : VReg) (rc : VReg) (rm : Rm) (mk : MReg)
  /-- VFNMS_F32 (R295). FP32 fused -(a*b)-c. -/
  | vfnmsF32 (rd : VReg) (ra : VReg) (rb : VReg) (rc : VReg) (rm : Rm) (mk : MReg)
  /-- VFNMS_BF16 (R295). BF16 fused -(a*b)-c. -/
  | vfnmsBf16 (rd : VReg) (ra : VReg) (rb : VReg) (rc : VReg) (rm : Rm) (mk : MReg)
  /-- POWER_ON (R448). Power-on runs boot and bring-up phases to READY or failure. -/
  | powerOn (fail : Option (Nat × Nat))
  /-- ENQ_APPEND (R252). A stalled ENQ appends its command once queue space and a ring slot are free. -/
  | enqAppend (core : Nat) (str : Nat)
  /-- MX_LOADB (R354). Loads a B tile, scale and checksum column into a macro. -/
  | mxLoadb (core : Nat)
  /-- MX_ROWS (R355). Streams A rows through resident tiles with checked K-steps. -/
  | mxRows (core : Nat)
  /-- MX_DRAIN (R357). Converts accumulator rows and writes them to a slice, optionally waking a core. -/
  | mxDrain (core : Nat)
  /-- MX_ZERO (R358). Zeroes accumulator rows and clears their poison. -/
  | mxZero (core : Nat)
  /-- MX_CHKRD (R359). Checks a resident tile against its checksum column and writes a report. -/
  | mxChkrd (core : Nat)
  /-- BC_COPY (R362). Copies elements by a five-dimensional shape in gathered writes. -/
  | bcCopy (core : Nat)
  /-- BC_FILL (R362). Fills a shaped destination with a pattern. -/
  | bcFill (core : Nat)
  /-- CR_SHA_INIT (R364). Sets a SHA-384 context to its initial value. -/
  | crShaInit
  /-- CR_SHA_UPDATE (R364). Absorbs bytes into a SHA-384 context. -/
  | crShaUpdate
  /-- CR_SHA_FINAL (R364). Pads and writes a SHA-384 digest. -/
  | crShaFinal
  /-- CR_ECV (R365). Verifies an ECDSA P-384 signature. -/
  | crEcv
  /-- CR_RNG (R366). Writes random bytes from the CTR_DRBG. -/
  | crRng (healthy : Bool)
  /-- ENGINE_COMPLETION (R136). A command's last access performs; its ring slot fills, its counter falls, or its wake-up is sent. -/
  | engineCompletion (core : Nat) (eng : Engine)
  /-- STORE_ACKNOWLEDGEMENT (R102). A home acknowledges a store; the store buffer sends its next store. -/
  | storeAcknowledgement (core : Nat) (str : Nat) (ix : Nat) (ev : Nat)
  /-- LOAD_RESPONSE (R99). A load's data returns from its home and binds the register. -/
  | loadResponse (core : Nat) (str : Nat) (ix : Nat) (ev : Nat) (resp : Resp)
  /-- ERROR_RESPONSE (R390). An access ends with an error response; a store is reported with origin 3. -/
  | errorResponse (core : Nat) (str : Nat) (ix : Nat) (isLoad : Bool) (window : Bool)
  /-- TLB_WALK (R33). The walker completes a table walk for a TLB miss and installs the leaf or faults. -/
  | tlbWalk (core : Nat)
  /-- PLB_SEARCH (R53). A PLB miss completes its binary search of the owner's rights table. -/
  | plbSearch (core : Nat)
  /-- RIGHTS_REQUEST (R60). The rights unit validates a GRANT or REVOKE and sends HOLD on success. -/
  | rightsRequest (part : Nat)
  /-- HOLD (R60). A core removes the named owners' PLB entries over the range. -/
  | hold (core : Nat)
  /-- HOLD_ACKNOWLEDGE (R60). A core acknowledges HOLD after draining accesses checked against removed entries. -/
  | holdAcknowledge (core : Nat)
  /-- RIGHTS_TABLE_WRITE (R60). With every acknowledgement in, the rights unit writes the tables and sends RELEASE. -/
  | rightsTableWrite (part : Nat)
  /-- RELEASE (R60). Stalled accesses resume against the new tables and the instruction retires. -/
  | release (part : Nat)
  /-- MESSAGE_ARRIVAL (R174). A message arrives at a core and folds into or creates a record. -/
  | messageArrival (ix : Nat) (tagOk : Bool)
  /-- ARM_ARRIVAL (R181). An ARM arrives, adding to a record's count and arming it. -/
  | armArrival (ix : Nat) (tagOk : Bool)
  /-- NACK (R77). A NACK makes the sending NI resend the message, reporting UNCORR on the fourth failure. -/
  | nack (ix : Nat)
  /-- RESPONSE_TIMEOUT (R77). A requester waiting 2^20 cycles treats the packet as an error response. -/
  | responseTimeout (core : Nat) (str : Nat) (ix : Nat) (isLoad : Bool)
  /-- RECORD_SELECTION (R165). A free string selects the highest-priority runnable unmasked record. -/
  | recordSelection (core : Nat) (str : Nat)
  /-- RECORD_AGEING (R165). A runnable unselected record's effective priority rises after each full 2^16 cycles. -/
  | recordAgeing (core : Nat) (ix : Nat)
  /-- REPLAY (R169). A shadow launch discards its versions and restarts from START. -/
  | replay (launch : Nat)
  /-- STREAM_ELEMENT_READ (R140). The stream unit prefetches a source element. -/
  | streamElementRead (core : Nat) (str : Nat) (st : Nat) (ix : Nat)
  /-- STREAM_PUSH_PERFORM (R140). A pushed element performs at its home. -/
  | streamPushPerform (core : Nat) (str : Nat) (st : Nat) (ix : Nat)
  /-- LAUNCH_RECORD_READ (R155). The launch unit reads a launch record from a ring and decides it. -/
  | launchRecordRead (vf : Nat) (record : Option (BitVec 1024))
  /-- START_MESSAGE (R161). When every quire is resident each core receives START. -/
  | startMessage (launch : Nat)
  /-- LAUNCH_END (R162). A status reaches the launch unit; dispatch stops and the launch departs. -/
  | launchEnd (part : Nat) (ix : Nat)
  /-- COMPLETION_RECORD_WRITE (R146). After every access and command of the launch ends, the completion record is written. -/
  | completionRecordWrite (launch : Nat)
  /-- QUANTUM_EXPIRY (R380). The current quantum runs out and the launch unit sends SWITCH. -/
  | quantumExpiry (part : Nat)
  /-- SWITCH (R380). A core saves and clears the outgoing VF and reports. -/
  | switch (core : Nat)
  /-- GO (R381). A core restores the incoming VF's save block and engines and reports. -/
  | go (core : Nat)
  /-- QUANTUM_START (R381). All cores have reported restore; the quantum starts. -/
  | quantumStart (part : Nat)
  /-- NOTICE_POST (R27). The host-link unit accepts a notice-window store as a type 4 event entry. -/
  | noticePost (core : Nat) (str : Nat) (ix : Nat)
  /-- EVENT_ENTRY_WRITE (R406). The unit writes an event entry when the ring has room and raises vector 1. -/
  | eventEntryWrite (vf : Nat) (sendable : Bool)
  /-- POISON_NOTICE (R90). A controller reports a new poison span and the root core writes a notice record. -/
  | poisonNotice (part : Nat)
  /-- NOTICE_TRAP (R394). The root core raises a notice trap on the partition's first core. -/
  | noticeTrap (part : Nat)
  /-- PATROL_SCRUB (R83). A controller scrubs a line, correcting or poisoning it. -/
  | patrolScrub (home : Place) (result : Scrub)
  /-- MONITOR_FAULT_REPORT (R393). A monitor-mode fault is reported to the root core, which resets the partition. -/
  | monitorFaultReport (core : Nat)
  /-- RESET_DRAIN_COMPLETE (R396). After outstanding requests drain or time out, the reset meters, clears, rekeys and re-creates. -/
  | resetDrainComplete (part : Nat) (image : Option (List Byte))
  /-- PMCMD_UNKNOWN_OP (R404). A command with an unknown op ends with BADOP. -/
  | pmcmdUnknownOp
  /-- CREATE (R404). Creates a partition and starts its monitor. -/
  | create (image : Option (List Byte))
  /-- GRANULE_GIVE (R404). Gives cleared granules to a stopped partition. -/
  | granuleGive
  /-- GRANULE_TAKE (R404). Takes granules back from a stopped partition. -/
  | granuleTake
  /-- BINDVF (R404). Binds a VF with its save and parameter areas. -/
  | bindvf
  /-- UNBINDVF (R404). Unbinds an idle VF. -/
  | unbindvf
  /-- SHADOWPOOL (R404). Replaces the partition's shadow pool. -/
  | shadowpool
  /-- DOMAIN_ADD (R404). Opens an SPDM session with another package to add a domain member. -/
  | domainAdd (peerAdded : Bool)
  /-- DOMAIN_REMOVE (R404). Removes a domain member at once. -/
  | domainRemove
  /-- DOMAIN_MEMBER_ACTIVE (R404). The peer adds this partition and the member becomes active. -/
  | domainMemberActive (part : Nat) (q : Nat)
  /-- START (R404). Starts a stopped partition. -/
  | start
  /-- STOP (R404). Stops admission; completes when no launch is admitted. -/
  | stop
  /-- RESET (R396). Fences and resets a partition with re-creation. -/
  | reset
  /-- TEARDOWN (R396). Fences and tears down a partition, freeing its resources. -/
  | teardown
  /-- RESETVF (R398). Resets one VF's launches, strings and save area. -/
  | resetvf
  /-- QUANTUM_TABLE_WRITE (R378). A quantum table write takes effect at the next walk step and may schedule at once. -/
  | quantumTableWrite (part : Nat) (i : Nat) (val : Word)
  /-- LRDB_WRITE (R405). Launch doorbell write, checked before records are read. -/
  | lrdbWrite (vf : Nat) (val : Word)
  /-- ERDB_WRITE (R405). Event doorbell write advancing the read index. -/
  | erdbWrite (vf : Nat) (val : Word)
  /-- LRCFG_WRITE (R405). Launch ring configuration write; EN = 0 clears the error and indices. -/
  | lrcfgWrite (vf : Nat) (val : Word)
  /-- ERCFG_WRITE (R405). Event ring configuration write; EN = 0 clears the error, EN = 1 resumes waiting entries. -/
  | ercfgWrite (vf : Nat) (val : Word)
  /-- HMSG_POST (R410). Host posts a message to handler 62 of a launch. -/
  | hmsgPost (vf : Nat) (size : Nat) (data : BitVec 512)
  /-- AGREPLY_WRITE (R411). Host agent replies to an atomic request. -/
  | agreplyWrite (vf : Nat) (data : BitVec 256)
  /-- AGENT_TIMEOUT (R411). No agent reply within AGTO faults the atomic with HOST_ABORT. -/
  | agentTimeout (vf : Nat) (id : Nat)
  /-- REGISTER_WRITE (R7). A write to a host-visible register with no behaviour of its own; a read of one, or an AtomicOp to one (R400), is
  an event of the same kind. -/
  | registerWrite (fn : Nat) (off : Nat) (op : RegOp)
  /-- CONFIGURATION_WRITE (R413). A configuration or locked-register write, moving a locked TDI to ERROR. -/
  | configurationWrite (fn : Nat) (field : CfgField) (val : Word)
  /-- LOCK_INTERFACE (R413). TDISP request locking a VF's interface. -/
  | lockInterface (vf : Nat)
  /-- START_INTERFACE (R413). TDISP request moving a locked interface to RUN. -/
  | startInterface (vf : Nat)
  /-- STOP_INTERFACE (R413). TDISP request returning the interface to CONFIG_UNLOCKED. -/
  | stopInterface (vf : Nat)
  /-- IDE_INTEGRITY_FAILURE (R412). A TLP fails IDE integrity and its stream becomes Insecure. -/
  | ideIntegrityFailure (fn : Nat) (stream : Nat)
  /-- ATS_TRANSLATION_COMPLETION (R36). An ATS completion arrives and replaces the cached entry. -/
  | atsTranslationCompletion (vf : Nat) (page : AtsPage) (reads : Bool) (writes : Bool)
  /-- PAGE_REQUEST_GROUP_RESPONSE (R409). A PRI response arrives, matched by incarnation or discarded. -/
  | pageRequestGroupResponse (vf : Nat) (slot : Nat) (incarn : Nat) (success : Bool)
  /-- ATS_INVALIDATE_REQUEST (R36). Drops matching cached translations and completes after their requests are sent. -/
  | atsInvalidateRequest (vf : Nat) (iova : Nat) (len : Nat)
  /-- HOST_COMPLETION (R147). A PCIe completion for a host load, atomic or flush read arrives. -/
  | hostCompletion (id : Nat) (status : CplStatus) (data : BitVec 256)
  /-- COMPLETION_TIMEOUT (R281). A host request's completion timeout expires, faulting with HOST_ABORT. -/
  | completionTimeout (id : Nat)
  /-- NOVINO_REQUEST (R62). An access arrives over the Novino link and is translated and performed at home. -/
  | novinoRequest (part : Nat) (q : Nat) (off : Nat) (size : Nat) (kind : RemKind) (data : BitVec 256)
  /-- REKEY (R414). A root-core pair rekeys the Novino link before 2^32 flits. -/
  | rekey (part : Nat) (q : Nat)
  /-- GET_VERSION (R434). SPDM version request; resets connection state. -/
  | getVersion (fn : Nat)
  /-- GET_CAPABILITIES (R434). SPDM capabilities request. -/
  | getCapabilities (fn : Nat) (ver : Nat)
  /-- NEGOTIATE_ALGORITHMS (R434). SPDM algorithm negotiation. -/
  | negotiateAlgorithms (fn : Nat) (ver : Nat)
  /-- GET_DIGESTS (R434). SPDM certificate digests request. -/
  | getDigests (fn : Nat) (ver : Nat)
  /-- GET_CERTIFICATE (R434). SPDM certificate request. -/
  | getCertificate (fn : Nat) (ver : Nat) (off : Nat) (len : Nat)
  /-- CHALLENGE (R434). SPDM challenge signed with the alias key. -/
  | challenge (fn : Nat) (ver : Nat) (nonce : BitVec 256)
  /-- GET_MEASUREMENTS (R435). Returns measurement indices, appending a HOST snapshot for watermark indices. -/
  | getMeasurements (fn : Nat) (ver : Nat) (index : Nat) (nonce : BitVec 256)
  /-- KEY_EXCHANGE (R434). SPDM key exchange. -/
  | keyExchange (fn : Nat) (ver : Nat) (data : BitVec 256)
  /-- FINISH (R434). SPDM session finish. -/
  | finish (fn : Nat) (ver : Nat) (data : BitVec 256)
  /-- END_SESSION (R434). SPDM session end. -/
  | endSession (fn : Nat) (ver : Nat)
  /-- UNSUPPORTED_SPDM_REQUEST (R434). An unknown SPDM request code is answered UnsupportedRequest. -/
  | unsupportedSpdmRequest (fn : Nat) (code : Nat)
  /-- WEAR_SAMPLE (R441). The root core samples every core's monitors every 2^30 cycles and advances states. -/
  | wearSample (samples : List (Nat × Nat × Nat))
  /-- STRESS_FACTOR_UPDATE (R441). The stress estimator yields a new factor every 2^16 cycles. -/
  | stressFactorUpdate (core : Nat) (s : BitVec 16)
  /-- LIFETIME_RECORD_WRITE (R446). The root core writes lifetime records to flash every 2^36 cycles. -/
  | lifetimeRecordWrite
  /-- THROTTLE (R452). Power or junction temperature crosses a limit and cores are throttled or released. -/
  | throttle (core : Nat) (on : Bool)
  /-- THERMAL_TRIP (R452). A junction reaches 110 C; all partitions are reset and compute dies unpowered. -/
  | thermalTrip (core : Nat)
  /-- FUNDAMENTAL_RESET (R449). A fundamental reset clears RDY and restarts bring-up. -/
  | fundamentalReset
  /-- ILLEGAL_ENCODING (R253). A fetched word whose major opcode is unallocated, or whose codes or fields are reserved, raises ILLEGAL at decode with no effect. -/
  | illegalEncoding (w : BitVec 32)
  /-- ORDERLY_SHUTDOWN (R446). At an orderly shutdown the root core writes every core's lifetime record to flash. -/
  | orderlyShutdown
  /-- POWER_LOSS (R446). Power is lost, and all state is lost along with any wear charged since the last lifetime-record write. -/
  | powerLoss
  /-- LINK_TRAINING (R448). The Novino ports and the PCI Express port train, and their link versions are negotiated, independently of the bring-up phases. -/
  | linkTraining (port : Nat) (version : Nat)
  /-- IDE_KM_KEY_PROG (R400). An IDE_KM request within an SPDM session programs the keys of an IDE stream. -/
  | ideKmKeyProg (fn : Nat) (stream : Nat)
deriving DecidableEq, Repr

end Sys2Proof
end

