-- ==== Sys2Proof/WellFormed.lean ====
section
/-! DEFINITION. Well-formed instructions: the limits that the operand types of Syntax do not state by themselves (R232,
R237 to R248, R253), and for the further steps that each names a unit the package has (R11 to R16, R20, R400). -/

namespace Sys2Proof

/-- The control-register numbers of R337. -/
def csrNumbers : List Nat :=
  [0x000, 0x001, 0x002, 0x003, 0x004, 0x005, 0x006, 0x007, 0x010, 0x011, 0x012, 0x013, 0x014, 0x020, 0x021, 0x022, 0x023,
   0x030, 0x031, 0x032, 0x033, 0x034, 0x035, 0x036, 0x037, 0x038, 0x039, 0x040, 0x041, 0x042, 0x048, 0x049, 0x050, 0x051,
   0x052, 0x053, 0x060, 0x061, 0x070, 0x071]

def csrDefined (n : BitVec 12) : Bool := csrNumbers.contains n.toNat

/-- An atomic of order PLAIN has scope DIE (R239). -/
def atomScopeOk (sc : Scope) (o : Ord) : Bool := o ≠ .plain || sc = .die

/-- Physical core number (R14), the root core as 4,096 (R15). -/
def coreOk (c : Nat) : Bool := c ≤ 4096
def strOk (k : Nat) : Bool := k < 4
def partOk (p : Nat) : Bool := p < 16
def vfOk (f : Nat) : Bool := 1 ≤ f && f ≤ 256
def fnOk (f : Nat) : Bool := f ≤ 256
def pkgOk (q : Nat) : Bool := q < 1024

def WellFormed (i : Instr) : Bool :=
  match i with
  | .csrr _ n => csrDefined n
  | .csrw _ _ n => csrDefined n
  | .csrs _ _ n => csrDefined n
  | .csrc _ _ n => csrDefined n
  | .vcvtFpFp _ _ rb _ dst src _ => dst ≠ src && (dst = .fp8 || rb = 0)
  | .amoAddD _ _ sc o _ => atomScopeOk sc o
  | .amoAndD _ _ sc o _ => atomScopeOk sc o
  | .amoOrD _ _ sc o _ => atomScopeOk sc o
  | .amoXorD _ _ sc o _ => atomScopeOk sc o
  | .amoMinD _ _ sc o _ => atomScopeOk sc o
  | .amoMaxD _ _ sc o _ => atomScopeOk sc o
  | .amoMinuD _ _ sc o _ => atomScopeOk sc o
  | .amoMaxuD _ _ sc o _ => atomScopeOk sc o
  | .amoSwapD _ _ sc o _ => atomScopeOk sc o
  | .amoAddW _ _ sc o _ => atomScopeOk sc o
  | .amoAndW _ _ sc o _ => atomScopeOk sc o
  | .amoOrW _ _ sc o _ => atomScopeOk sc o
  | .amoXorW _ _ sc o _ => atomScopeOk sc o
  | .amoMinW _ _ sc o _ => atomScopeOk sc o
  | .amoMaxW _ _ sc o _ => atomScopeOk sc o
  | .amoMinuW _ _ sc o _ => atomScopeOk sc o
  | .amoMaxuW _ _ sc o _ => atomScopeOk sc o
  | .amoSwapW _ _ sc o _ => atomScopeOk sc o
  | .casW rd _ sc o _ => atomScopeOk sc o && rd.toNat % 2 = 0
  | .casD rd _ sc o _ => atomScopeOk sc o && rd.toNat % 2 = 0
  | .casQ rd _ sc o _ => atomScopeOk sc o && rd.toNat % 4 = 0
  | .famoAddS _ _ sc o _ => atomScopeOk sc o
  | .famoAddD _ _ sc o _ => atomScopeOk sc o
  | .fence kind _ => kind ≠ 0
  | .send rd _ _ _ _ _ => rd.toNat % 4 = 0
  | .endl ra st => st ≠ .ok || ra = 0
  | .fxcvt _ ra _ => ra.toNat % 4 = 0
  | .vcmpFp _ rd _ _ _ _ => rd ≠ 0
  | .vcmpEq rd _ _ _ _ => rd ≠ 0
  | .vcmpNe rd _ _ _ _ => rd ≠ 0
  | .vcmpLt rd _ _ _ _ => rd ≠ 0
  | .vcmpLe rd _ _ _ _ => rd ≠ 0
  | .vcmpLtu rd _ _ _ _ => rd ≠ 0
  | .vcmpLeu rd _ _ _ _ => rd ≠ 0
  | .mand rd _ _ => rd ≠ 0
  | .mor rd _ _ => rd ≠ 0
  | .mnot rd _ => rd ≠ 0
  | .add _ _ _ => true
  | .sub _ _ _ => true
  | .and _ _ _ => true
  | .or _ _ _ => true
  | .xor _ _ _ => true
  | .andn _ _ _ => true
  | .sll _ _ _ => true
  | .srl _ _ _ => true
  | .sra _ _ _ => true
  | .slt _ _ _ => true
  | .sltu _ _ _ => true
  | .min _ _ _ => true
  | .max _ _ _ => true
  | .minu _ _ _ => true
  | .maxu _ _ _ => true
  | .mul _ _ _ => true
  | .mulh _ _ _ => true
  | .mulhu _ _ _ => true
  | .div _ _ _ => true
  | .divu _ _ _ => true
  | .rem _ _ _ => true
  | .remu _ _ _ => true
  | .clz _ _ => true
  | .ctz _ _ => true
  | .popc _ _ => true
  | .slli _ _ _ => true
  | .srli _ _ _ => true
  | .srai _ _ _ => true
  | .colg _ _ => true
  | .cols _ _ _ => true
  | .addi _ _ _ => true
  | .andi _ _ _ => true
  | .ori _ _ _ => true
  | .xori _ _ _ => true
  | .slti _ _ _ => true
  | .sltiu _ _ _ => true
  | .lis _ _ _ => true
  | .lih _ _ _ => true
  | .lea _ _ _ => true
  | .ldlW _ _ => true
  | .ldlD _ _ => true
  | .ldlv _ _ => true
  | .jal _ _ => true
  | .jalr _ _ _ => true
  | .fadd _ _ _ _ _ => true
  | .fsub _ _ _ _ _ => true
  | .fmul _ _ _ _ _ => true
  | .fdiv _ _ _ _ _ => true
  | .fsqrt _ _ _ _ => true
  | .fmin _ _ _ _ => true
  | .fmax _ _ _ _ => true
  | .feq _ _ _ _ => true
  | .flt _ _ _ _ => true
  | .fle _ _ _ _ => true
  | .fclass _ _ _ => true
  | .fcvtFp _ _ _ _ => true
  | .fcvtFromI64 _ _ _ _ => true
  | .fcvtFromU64 _ _ _ _ => true
  | .fcvtToI64 _ _ _ _ => true
  | .fcvtToU64 _ _ _ _ => true
  | .ffma _ _ _ _ _ _ => true
  | .beq _ _ _ => true
  | .bne _ _ _ => true
  | .blt _ _ _ => true
  | .bge _ _ _ => true
  | .bltu _ _ _ => true
  | .bgeu _ _ _ => true
  | .vcvtIntToFp _ _ _ _ _ _ => true
  | .vcvtFpToInt _ _ _ _ _ _ => true
  | .ldB _ _ _ => true
  | .ldH _ _ _ => true
  | .ldW _ _ _ => true
  | .ldD _ _ _ => true
  | .ldBu _ _ _ => true
  | .ldHu _ _ _ => true
  | .ldWu _ _ _ => true
  | .stB _ _ _ => true
  | .stH _ _ _ => true
  | .stW _ _ _ => true
  | .stD _ _ _ => true
  | .ldAcq _ _ _ _ _ => true
  | .stRel _ _ _ _ _ => true
  | .wait _ _ _ _ => true
  | .sendv _ _ _ _ _ _ => true
  | .arm _ _ _ _ _ => true
  | .done => true
  | .msk _ _ _ => true
  | .lnch _ _ => true
  | .rinit _ _ => true
  | .rfree _ => true
  | .rwait _ _ => true
  | .rrel _ _ => true
  | .rstat _ _ => true
  | .sbind _ _ => true
  | .sunb _ => true
  | .sstat _ _ => true
  | .mxst _ => true
  | .rqry _ _ _ => true
  | .plbinv _ => true
  | .plbinvAll => true
  | .tlbinv _ _ => true
  | .trap _ => true
  | .mcall _ => true
  | .eret => true
  | .idle => true
  | .bar => true
  | .grant _ _ _ _ => true
  | .revoke _ _ _ _ => true
  | .enq _ _ _ _ => true
  | .vld _ _ _ _ => true
  | .vst _ _ _ _ => true
  | .vlds _ _ _ _ _ => true
  | .vsts _ _ _ _ _ => true
  | .vgath _ _ _ _ _ => true
  | .vscat _ _ _ _ _ => true
  | .vldj _ _ _ _ => true
  | .vstj _ _ _ _ => true
  | .vaddFp _ _ _ _ _ _ => true
  | .vsubFp _ _ _ _ _ _ => true
  | .vmulFp _ _ _ _ _ _ => true
  | .vdiv _ _ _ _ _ _ => true
  | .vsqrt _ _ _ _ _ => true
  | .vrsq _ _ _ _ _ => true
  | .vexp _ _ _ _ _ => true
  | .vlog _ _ _ _ _ => true
  | .vsin _ _ _ _ _ => true
  | .vcos _ _ _ _ _ => true
  | .vtanh _ _ _ _ _ => true
  | .vminFp _ _ _ _ _ => true
  | .vmaxFp _ _ _ _ _ => true
  | .vabsFp _ _ _ _ => true
  | .vnegFp _ _ _ _ => true
  | .vredsumFp _ _ _ _ _ => true
  | .vredmaxFp _ _ _ _ => true
  | .vredminFp _ _ _ _ => true
  | .jseed _ _ _ _ => true
  | .jconst _ _ _ _ => true
  | .jget _ _ _ _ _ => true
  | .jset _ _ _ _ _ => true
  | .jder _ _ _ _ _ _ => true
  | .vaddInt _ _ _ _ _ => true
  | .vsubInt _ _ _ _ _ => true
  | .vmulInt _ _ _ _ _ => true
  | .vminInt _ _ _ _ _ => true
  | .vmaxInt _ _ _ _ _ => true
  | .vabsInt _ _ _ _ => true
  | .vnegInt _ _ _ _ => true
  | .vand _ _ _ _ _ => true
  | .vor _ _ _ _ _ => true
  | .vxor _ _ _ _ _ => true
  | .vshl _ _ _ _ _ => true
  | .vshr _ _ _ _ _ => true
  | .vsra _ _ _ _ _ => true
  | .vredsumInt _ _ _ _ => true
  | .vredmaxInt _ _ _ _ => true
  | .vredminInt _ _ _ _ => true
  | .vmov _ _ _ _ => true
  | .vsel _ _ _ _ _ => true
  | .vbcast _ _ _ _ => true
  | .vext _ _ _ _ => true
  | .vins _ _ _ _ => true
  | .viota _ _ _ => true
  | .vperm _ _ _ _ _ => true
  | .vslide _ _ _ _ _ => true
  | .mpop _ _ => true
  | .vfmaF64 _ _ _ _ _ _ => true
  | .vfmaF32 _ _ _ _ _ _ => true
  | .vfmaBf16 _ _ _ _ _ _ => true
  | .vfmsF64 _ _ _ _ _ _ => true
  | .vfmsF32 _ _ _ _ _ _ => true
  | .vfmsBf16 _ _ _ _ _ _ => true
  | .vfnmaF64 _ _ _ _ _ _ => true
  | .vfnmaF32 _ _ _ _ _ _ => true
  | .vfnmaBf16 _ _ _ _ _ _ => true
  | .vfnmsF64 _ _ _ _ _ _ => true
  | .vfnmsF32 _ _ _ _ _ _ => true
  | .vfnmsBf16 _ _ _ _ _ _ => true
  | .enqAppend core str => coreOk core && strOk str
  | .mxLoadb core => coreOk core
  | .mxRows core => coreOk core
  | .mxDrain core => coreOk core
  | .mxZero core => coreOk core
  | .mxChkrd core => coreOk core
  | .bcCopy core => coreOk core
  | .bcFill core => coreOk core
  | .crShaInit => true
  | .crShaUpdate => true
  | .crShaFinal => true
  | .crEcv => true
  | .crRng _ => true
  | .engineCompletion core _ => coreOk core
  | .storeAcknowledgement core str _ _ => coreOk core && strOk str
  | .loadResponse core str _ _ _ => coreOk core && strOk str
  | .errorResponse core str _ _ _ => coreOk core && strOk str
  | .tlbWalk core => coreOk core
  | .plbSearch core => coreOk core
  | .rightsRequest part => partOk part
  | .hold core => coreOk core
  | .holdAcknowledge core => coreOk core
  | .rightsTableWrite part => partOk part
  | .release part => partOk part
  | .messageArrival _ _ => true
  | .armArrival _ _ => true
  | .nack _ => true
  | .responseTimeout core str _ _ => coreOk core && strOk str
  | .recordSelection core str => coreOk core && strOk str
  | .recordAgeing core _ => coreOk core
  | .replay _ => true
  | .streamElementRead core str _ _ => coreOk core && strOk str
  | .streamPushPerform core str _ _ => coreOk core && strOk str
  | .launchRecordRead vf _ => vfOk vf
  | .startMessage _ => true
  | .launchEnd part _ => partOk part
  | .completionRecordWrite _ => true
  | .quantumExpiry part => partOk part
  | .switch core => coreOk core
  | .go core => coreOk core
  | .quantumStart part => partOk part
  | .noticePost core str _ => coreOk core && strOk str
  | .eventEntryWrite vf _ => vfOk vf
  | .poisonNotice part => partOk part
  | .noticeTrap part => partOk part
  | .patrolScrub _ _ => true
  | .monitorFaultReport core => coreOk core
  | .resetDrainComplete part _ => partOk part
  | .pmcmdUnknownOp => true
  | .create _ => true
  | .granuleGive => true
  | .granuleTake => true
  | .bindvf => true
  | .unbindvf => true
  | .shadowpool => true
  | .domainAdd _ => true
  | .domainRemove => true
  | .domainMemberActive part q => partOk part && pkgOk q
  | .start => true
  | .stop => true
  | .reset => true
  | .teardown => true
  | .resetvf => true
  | .quantumTableWrite part _ _ => partOk part
  | .lrdbWrite vf _ => vfOk vf
  | .erdbWrite vf _ => vfOk vf
  | .lrcfgWrite vf _ => vfOk vf
  | .ercfgWrite vf _ => vfOk vf
  | .hmsgPost vf _ _ => vfOk vf
  | .agreplyWrite vf _ => vfOk vf
  | .agentTimeout vf _ => vfOk vf
  | .registerWrite fn _ _ => fnOk fn
  | .configurationWrite fn _ _ => fnOk fn
  | .lockInterface vf => vfOk vf
  | .startInterface vf => vfOk vf
  | .stopInterface vf => vfOk vf
  | .ideIntegrityFailure fn _ => fnOk fn
  | .atsTranslationCompletion vf _ _ _ => vfOk vf
  | .pageRequestGroupResponse vf _ _ _ => vfOk vf
  | .atsInvalidateRequest vf _ _ => vfOk vf
  | .hostCompletion _ _ _ => true
  | .completionTimeout _ => true
  | .novinoRequest part q _ _ _ _ => partOk part && pkgOk q
  | .rekey part q => partOk part && pkgOk q
  | .getVersion fn => fnOk fn
  | .getCapabilities fn _ => fnOk fn
  | .negotiateAlgorithms fn _ => fnOk fn
  | .getDigests fn _ => fnOk fn
  | .getCertificate fn _ _ _ => fnOk fn
  | .challenge fn _ _ => fnOk fn
  | .getMeasurements fn _ _ _ => fnOk fn
  | .keyExchange fn _ _ => fnOk fn
  | .finish fn _ _ => fnOk fn
  | .endSession fn _ => fnOk fn
  | .unsupportedSpdmRequest fn _ => fnOk fn
  | .wearSample _ => true
  | .stressFactorUpdate core _ => coreOk core
  | .lifetimeRecordWrite => true
  | .throttle core _ => coreOk core
  | .thermalTrip core => coreOk core
  | .powerOn _ => true
  | .fundamentalReset => true
  | .illegalEncoding _ => true
  | .orderlyShutdown => true
  | .powerLoss => true
  | .linkTraining _ _ => true
  | .ideKmKeyProg fn _ => fnOk fn

end Sys2Proof
end

