-- ==== Sys2Proof/Decode.lean ====
section
/-! DEFINITION. Decoding and encoding of instruction words: the nine formats and the opcode map (R231 to R249), the words
that name no instruction (R253), and the inverse. A word is a natural number below 2^32, bit 0 least significant. -/

namespace Sys2Proof

/-- Why a word names no instruction (R253). -/
inductive DecErr where
  | major | code | rounding | scope | order | register | mustBeZero | short
deriving DecidableEq, Repr

/-- Bits [lo + n - 1 : lo] of a word. -/
def bitsAt (w lo n : Nat) : Nat := w / 2 ^ lo % 2 ^ n

def fieldD (w : Nat) : BitVec 5 := BitVec.ofNat 5 (bitsAt w 21 5)
def fieldA (w : Nat) : BitVec 5 := BitVec.ofNat 5 (bitsAt w 16 5)
def fieldB (w : Nat) : BitVec 5 := BitVec.ofNat 5 (bitsAt w 11 5)
def fieldC (w : Nat) : BitVec 5 := BitVec.ofNat 5 (bitsAt w 6 5)
def fieldImm16 (w : Nat) : BitVec 16 := BitVec.ofNat 16 (bitsAt w 0 16)
def fieldMask (w : Nat) : BitVec 3 := BitVec.ofNat 3 (bitsAt w 8 3)

/-- A rounding field (R194). -/
def rmOf (n : Nat) : Except DecErr Rm :=
  match n with
  | 0 => .ok .dyn | 1 => .ok .rne | 2 => .ok .rtz | 3 => .ok .rdn | 4 => .ok .rup
  | _ => .error .rounding

def rmCode (r : Rm) : Nat :=
  match r with
  | .dyn => 0 | .rne => 1 | .rtz => 2 | .rdn => 3 | .rup => 4

/-- A scope field (R97). -/
def scopeOf (n : Nat) : Except DecErr Scope :=
  match n with
  | 0 => .ok .core | 1 => .ok .die | 2 => .ok .pkg | 3 => .ok .dom | 4 => .ok .sys
  | _ => .error .scope

def scopeCode (s : Scope) : Nat :=
  match s with
  | .core => 0 | .die => 1 | .pkg => 2 | .dom => 3 | .sys => 4

/-- An order field (R105). -/
def ordOf (n : Nat) : Ord :=
  match n with
  | 0 => .plain | 1 => .acq | 2 => .rel | _ => .ar

def ordCode (o : Ord) : Nat :=
  match o with
  | .plain => 0 | .acq => 1 | .rel => 2 | .ar => 3

def ftyOf (n : Nat) : Except DecErr FTy :=
  match n with
  | 0 => .ok .f64 | 1 => .ok .f32 | 2 => .ok .bf16 | _ => .error .code

def ftyCode (t : FTy) : Nat :=
  match t with
  | .f64 => 0 | .f32 => 1 | .bf16 => 2

def fty8Of (n : Nat) : FTy8 :=
  match n with
  | 0 => .f64 | 1 => .f32 | 2 => .bf16 | _ => .fp8

def fty8Code (t : FTy8) : Nat :=
  match t with
  | .f64 => 0 | .f32 => 1 | .bf16 => 2 | .fp8 => 3

def szOf (n : Nat) : Sz :=
  match n with
  | 0 => .b | 1 => .h | 2 => .w | _ => .d

def szCode (t : Sz) : Nat :=
  match t with
  | .b => 0 | .h => 1 | .w => 2 | .d => 3

def fszOf (n : Nat) : FSz :=
  match n with
  | 0 => .s | _ => .d

def fszCode (t : FSz) : Nat :=
  match t with
  | .s => 0 | .d => 1

def ldOf (n : Nat) : Except DecErr LdKind :=
  match n with
  | 0 => .ok .b | 1 => .ok .h | 2 => .ok .w | 3 => .ok .d | 4 => .ok .bu | 5 => .ok .hu | 6 => .ok .wu
  | _ => .error .code

def ldCode (k : LdKind) : Nat :=
  match k with
  | .b => 0 | .h => 1 | .w => 2 | .d => 3 | .bu => 4 | .hu => 5 | .wu => 6

def condOf (n : Nat) : Except DecErr Cond :=
  match n with
  | 0 => .ok .eq | 1 => .ok .ne | 2 => .ok .lt | 3 => .ok .le | _ => .error .code

def condCode (c : Cond) : Nat :=
  match c with
  | .eq => 0 | .ne => 1 | .lt => 2 | .le => 3

def endOf (n : Nat) : Except DecErr EndStatus :=
  match n with
  | 0 => .ok .ok | 3 => .ok .fault | 6 => .ok .user | _ => .error .code

def endCode (e : EndStatus) : Nat :=
  match e with
  | .ok => 0 | .fault => 3 | .user => 6

def engOf (n : Nat) : Except DecErr Engine :=
  match n with
  | 0 => .ok .mxu | 1 => .ok .bce | 2 => .ok .crypto | _ => .error .code

def engCode (e : Engine) : Nat :=
  match e with
  | .mxu => 0 | .bce => 1 | .crypto => 2

def bitCode (b : Bool) : Nat := if b then 1 else 0

/-- A field that must be zero (R253). -/
def zero (n : Nat) (r : Except DecErr Instr) : Except DecErr Instr :=
  if n = 0 then r else .error .mustBeZero

/-- A condition on a register field (R232, R239, R241, R242). -/
def regOk (c : Bool) (r : Except DecErr Instr) : Except DecErr Instr :=
  if c then r else .error .register

/-- A five-bit field that names an M register (R232). -/
def mreg (n : Nat) (k : MReg → Except DecErr Instr) : Except DecErr Instr :=
  if n < 8 then k (BitVec.ofNat 3 n) else .error .register

/-- A five-bit field that names M1 to M7 as a destination (R232). -/
def mdst (n : Nat) (k : MReg → Except DecErr Instr) : Except DecErr Instr :=
  if n = 0 then .error .register else mreg n k

/-- A five-bit field that names an S register (R232). -/
def sreg (n : Nat) (k : SReg → Except DecErr Instr) : Except DecErr Instr :=
  if n < 4 then k (BitVec.ofNat 2 n) else .error .register

/-- A field holding a coefficient number (R245). -/
def coef (n : Nat) (k : BitVec 2 → Except DecErr Instr) : Except DecErr Instr :=
  if n < 4 then k (BitVec.ofNat 2 n) else .error .mustBeZero

/-- INT (R235). -/
def decInt (w : Nat) : Except DecErr Instr :=
  let d := fieldD w
  let a := fieldA w
  let b := fieldB w
  let fn := bitsAt w 0 8
  let r (i : Instr) := zero (bitsAt w 8 3) (.ok i)
  let u (i : Instr) := zero (bitsAt w 8 8) (.ok i)
  let sh : BitVec 6 := BitVec.ofNat 6 (bitsAt w 11 5 + 32 * bitsAt w 8 1)
  let s (i : Instr) := zero (bitsAt w 9 2) (.ok i)
  match fn with
  | 0x00 => r (.add d a b)
  | 0x01 => r (.sub d a b)
  | 0x02 => r (.and d a b)
  | 0x03 => r (.or d a b)
  | 0x04 => r (.xor d a b)
  | 0x05 => r (.andn d a b)
  | 0x06 => r (.sll d a b)
  | 0x07 => r (.srl d a b)
  | 0x08 => r (.sra d a b)
  | 0x09 => r (.slt d a b)
  | 0x0A => r (.sltu d a b)
  | 0x0B => r (.min d a b)
  | 0x0C => r (.max d a b)
  | 0x0D => r (.minu d a b)
  | 0x0E => r (.maxu d a b)
  | 0x10 => r (.mul d a b)
  | 0x11 => r (.mulh d a b)
  | 0x12 => r (.mulhu d a b)
  | 0x13 => r (.div d a b)
  | 0x14 => r (.divu d a b)
  | 0x15 => r (.rem d a b)
  | 0x16 => r (.remu d a b)
  | 0x18 => u (.clz d a)
  | 0x19 => u (.ctz d a)
  | 0x1A => u (.popc d a)
  | 0x20 => s (.slli d a sh)
  | 0x21 => s (.srli d a sh)
  | 0x22 => s (.srai d a sh)
  | 0x28 => u (.colg d a)
  | 0x29 => r (.cols d a b)
  | _ => .error .code

/-- FP (R236). -/
def decFp (w : Nat) : Except DecErr Instr :=
  let d := fieldD w
  let a := fieldA w
  let b := fieldB w
  let z := fszOf (bitsAt w 0 1)
  let r3 (k : Rm → Instr) : Except DecErr Instr := (rmOf (bitsAt w 8 3)).bind fun m => .ok (k m)
  let r2 (k : Rm → Instr) : Except DecErr Instr := zero (bitsAt w 11 5) (r3 k)
  let n3 (i : Instr) := zero (bitsAt w 8 3) (.ok i)
  match bitsAt w 1 7 with
  | 0 => r3 fun m => .fadd d a b m z
  | 1 => r3 fun m => .fsub d a b m z
  | 2 => r3 fun m => .fmul d a b m z
  | 3 => r3 fun m => .fdiv d a b m z
  | 4 => r2 fun m => .fsqrt d a m z
  | 5 => n3 (.fmin d a b z)
  | 6 => n3 (.fmax d a b z)
  | 7 => n3 (.feq d a b z)
  | 8 => n3 (.flt d a b z)
  | 9 => n3 (.fle d a b z)
  | 10 => zero (bitsAt w 11 5) (n3 (.fclass d a z))
  | 16 => r2 fun m => .fcvtFp d a m z
  | 17 => r2 fun m => .fcvtFromI64 d a m z
  | 18 => r2 fun m => .fcvtFromU64 d a m z
  | 19 => r2 fun m => .fcvtToI64 d a m z
  | 20 => r2 fun m => .fcvtToU64 d a m z
  | _ => .error .code

/-- Control-register access (R237): the number must be one of the map of R337. -/
def decCsr (w : Nat) : Except DecErr Instr :=
  let n : BitVec 12 := BitVec.ofNat 12 (bitsAt w 0 12)
  let k (i : Instr) : Except DecErr Instr := if csrDefined n then .ok i else .error .code
  match bitsAt w 12 4 with
  | 0 => zero (bitsAt w 16 5) (k (.csrr (fieldD w) n))
  | 1 => k (.csrw (fieldD w) (fieldA w) n)
  | 2 => k (.csrs (fieldD w) (fieldA w) n)
  | 3 => k (.csrc (fieldD w) (fieldA w) n)
  | _ => .error .code

/-- LI (R237). -/
def decLi (w : Nat) : Except DecErr Instr :=
  let k : BitVec 2 := BitVec.ofNat 2 (bitsAt w 16 2)
  zero (bitsAt w 19 2)
    (if bitsAt w 18 1 = 1 then .ok (.lis (fieldD w) k (fieldImm16 w)) else .ok (.lih (fieldD w) k (fieldImm16 w)))

/-- LIT (R238). -/
def decLit (w : Nat) : Except DecErr Instr :=
  let off : BitVec 19 := BitVec.ofNat 19 (bitsAt w 0 19)
  match bitsAt w 19 2 with
  | 0 => .ok (.ldlW (fieldD w) off)
  | 1 => .ok (.ldlD (fieldD w) off)
  | 2 => .ok (.ldlv (fieldD w) off)
  | _ => .error .code

/-- VCVTF (R247). -/
def decVcvtf (w : Nat) : Except DecErr Instr :=
  let t := fty8Of (bitsAt w 6 2)
  let s := fty8Of (bitsAt w 4 2)
  zero (bitsAt w 0 1)
    ((rmOf (bitsAt w 1 3)).bind fun m =>
      if t = s then .error .code
      else if t ≠ .fp8 ∧ bitsAt w 11 5 ≠ 0 then .error .mustBeZero
      else .ok (.vcvtFpFp (fieldD w) (fieldA w) (fieldB w) (fieldMask w) t s m))

/-- VCVTI (R247). -/
def decVcvti (w : Nat) : Except DecErr Instr :=
  zero (bitsAt w 11 5)
    ((ftyOf (bitsAt w 3 2)).bind fun f =>
      (rmOf (bitsAt w 0 3)).bind fun m =>
        let i := szOf (bitsAt w 5 2)
        if bitsAt w 7 1 = 0 then .ok (.vcvtIntToFp (fieldD w) (fieldA w) (fieldMask w) i f m)
        else .ok (.vcvtFpToInt (fieldD w) (fieldA w) (fieldMask w) i f m))

/-- MEMO (R239): loads with ACQ, stores with REL. -/
def decMemo (w : Nat) : Except DecErr Instr :=
  let imm : BitVec 7 := BitVec.ofNat 7 (bitsAt w 0 7)
  let kind := bitsAt w 12 4
  if kind < 8 then
    (ldOf kind).bind fun k =>
      (scopeOf (bitsAt w 9 3)).bind fun sc =>
        if bitsAt w 7 2 = 1 then .ok (.ldAcq (fieldD w) (fieldA w) k sc imm) else .error .order
  else if kind < 12 then
    (scopeOf (bitsAt w 9 3)).bind fun sc =>
      if bitsAt w 7 2 = 2 then .ok (.stRel (fieldD w) (fieldA w) (szOf (kind - 8)) sc imm) else .error .order
  else .error .code

/-- The fields shared by the atomics (R239): PLAIN order requires scope DIE. -/
def decAtom (w : Nat) (k : XReg → XReg → Scope → Ord → BitVec 7 → Instr) : Except DecErr Instr :=
  (scopeOf (bitsAt w 9 3)).bind fun sc =>
    let o := ordOf (bitsAt w 7 2)
    if o = .plain ∧ sc ≠ .die then .error .scope
    else .ok (k (fieldD w) (fieldA w) sc o (BitVec.ofNat 7 (bitsAt w 0 7)))

/-- AMOD (R239). -/
def decAmod (w : Nat) : Except DecErr Instr :=
  match bitsAt w 12 4 with
  | 0 => decAtom w .amoAddD
  | 1 => decAtom w .amoAndD
  | 2 => decAtom w .amoOrD
  | 3 => decAtom w .amoXorD
  | 4 => decAtom w .amoMinD
  | 5 => decAtom w .amoMaxD
  | 6 => decAtom w .amoMinuD
  | 7 => decAtom w .amoMaxuD
  | 8 => decAtom w .amoSwapD
  | _ => .error .code

/-- AMOW (R239): a CAS pair starts at an even register, a CAS.Q group at a multiple of 4. -/
def decAmow (w : Nat) : Except DecErr Instr :=
  match bitsAt w 12 4 with
  | 0 => decAtom w .amoAddW
  | 1 => decAtom w .amoAndW
  | 2 => decAtom w .amoOrW
  | 3 => decAtom w .amoXorW
  | 4 => decAtom w .amoMinW
  | 5 => decAtom w .amoMaxW
  | 6 => decAtom w .amoMinuW
  | 7 => decAtom w .amoMaxuW
  | 8 => decAtom w .amoSwapW
  | 9 => regOk (bitsAt w 21 5 % 2 = 0) (decAtom w .casW)
  | 10 => regOk (bitsAt w 21 5 % 2 = 0) (decAtom w .casD)
  | 11 => regOk (bitsAt w 21 5 % 4 = 0) (decAtom w .casQ)
  | 12 => decAtom w .famoAddS
  | 13 => decAtom w .famoAddD
  | _ => .error .code

/-- FENCE (R239). -/
def decFence (w : Nat) : Except DecErr Instr :=
  if bitsAt w 12 4 = 0 then .error .code
  else zero (bitsAt w 16 10) (zero (bitsAt w 0 9)
    ((scopeOf (bitsAt w 9 3)).bind fun sc => .ok (.fence (BitVec.ofNat 4 (bitsAt w 12 4)) sc)))

/-- WAIT (R240). -/
def decWait (w : Nat) : Except DecErr Instr :=
  let f (lo : Nat) : BitVec 6 := BitVec.ofNat 6 (bitsAt w lo 6)
  if bitsAt w 0 2 = 0 then .ok (.wait (f 20) (f 14) (f 8) (f 2)) else .error .code

/-- SEND, SENDV and ARM (R241). -/
def decSend (w : Nat) : Except DecErr Instr :=
  regOk (bitsAt w 21 5 % 4 = 0)
    (.ok (.send (fieldD w) (fieldA w) (fieldB w) (bitsAt w 10 1 = 1) (BitVec.ofNat 4 (bitsAt w 6 4))
      (BitVec.ofNat 6 (bitsAt w 0 6))))

def decSendv (w : Nat) : Except DecErr Instr :=
  .ok (.sendv (fieldD w) (fieldA w) (fieldB w) (bitsAt w 10 1 = 1) (BitVec.ofNat 4 (bitsAt w 6 4))
    (BitVec.ofNat 6 (bitsAt w 0 6)))

def decArm (w : Nat) : Except DecErr Instr :=
  zero (bitsAt w 10 1)
    (.ok (.arm (fieldD w) (fieldA w) (fieldB w) (BitVec.ofNat 4 (bitsAt w 6 4)) (BitVec.ofNat 6 (bitsAt w 0 6))))

/-- SYS (R242). -/
def decSys (w : Nat) : Except DecErr Instr :=
  let d := fieldD w
  let a := fieldA w
  let b := fieldB w
  let nd (r : Except DecErr Instr) := zero (bitsAt w 21 5) r
  let na (r : Except DecErr Instr) := zero (bitsAt w 16 5) r
  let nb (r : Except DecErr Instr) := zero (bitsAt w 11 5) r
  let nx (r : Except DecErr Instr) := zero (bitsAt w 8 3) r
  match bitsAt w 0 8 with
  | 0x00 => nd (na (nb (nx (.ok .done))))
  | 0x01 => nd (nb ((endOf (bitsAt w 8 3)).bind fun st =>
      if st = .ok ∧ bitsAt w 16 5 ≠ 0 then .error .mustBeZero else .ok (.endl a st)))
  | 0x02 => nx (.ok (.msk d a b))
  | 0x03 => nb (nx (.ok (.lnch d a)))
  | 0x04 => nb (regOk (bitsAt w 16 5 % 4 = 0) ((rmOf (bitsAt w 8 3)).bind fun m => .ok (.fxcvt d a m)))
  | 0x08 => nd (nx (.ok (.rinit a b)))
  | 0x09 => nd (nb (nx (.ok (.rfree a))))
  | 0x0A => nd (nx (.ok (.rwait a b)))
  | 0x0B => nd (nx (.ok (.rrel a b)))
  | 0x0C => nb (nx (.ok (.rstat d a)))
  | 0x10 => nb (nx (sreg (bitsAt w 21 5) fun s => .ok (.sbind s a)))
  | 0x11 => na (nb (nx (sreg (bitsAt w 21 5) fun s => .ok (.sunb s))))
  | 0x12 => nb (nx (sreg (bitsAt w 16 5) fun s => .ok (.sstat d s)))
  | 0x18 => na (nb (nx (.ok (.mxst d))))
  | 0x20 => nx (.ok (.rqry d a b))
  | 0x21 => nd (nb (zero (bitsAt w 9 2) (if bitsAt w 8 1 = 0 then .ok (.plbinv a) else na (.ok .plbinvAll))))
  | 0x22 => nd (nx (.ok (.tlbinv a b)))
  | 0x28 => nd (nb (nx (.ok (.trap a))))
  | 0x29 => nd (nb (nx (.ok (.mcall a))))
  | 0x2A => nd (na (nb (nx (.ok .eret))))
  | 0x2B => nd (na (nb (nx (.ok .idle))))
  | 0x30 => nd (na (nb (nx (.ok .bar))))
  | _ => .error .code

/-- RIGHTS (R243). -/
def decRights (w : Nat) : Except DecErr Instr :=
  zero (bitsAt w 0 3)
    (match bitsAt w 3 3 with
    | 0 => .ok (.grant (fieldD w) (fieldA w) (fieldB w) (fieldC w))
    | 1 => .ok (.revoke (fieldD w) (fieldA w) (fieldB w) (fieldC w))
    | _ => .error .code)

/-- ENQ (R231, R252). -/
def decEnq (w : Nat) : Except DecErr Instr :=
  (engOf (bitsAt w 23 3)).bind fun e =>
    .ok (.enq e (BitVec.ofNat 5 (bitsAt w 18 5)) (BitVec.ofNat 5 (bitsAt w 13 5)) (BitVec.ofNat 13 (bitsAt w 0 13)))

/-- VMEM (R244). -/
def decVmem (w : Nat) : Except DecErr Instr :=
  let d := fieldD w
  let a := fieldA w
  let b := fieldB w
  let m := fieldMask w
  let e := szOf (bitsAt w 3 2)
  zero (bitsAt w 0 3)
    (match bitsAt w 5 3 with
    | 0 => zero (bitsAt w 11 5) (.ok (.vld d a m e))
    | 1 => zero (bitsAt w 11 5) (.ok (.vst d a m e))
    | 2 => .ok (.vlds d a b m e)
    | 3 => .ok (.vsts d a b m e)
    | 4 => .ok (.vgath d a b m e)
    | 5 => .ok (.vscat d a b m e)
    | 6 => zero (bitsAt w 11 5) (.ok (.vldj d a m e))
    | _ => zero (bitsAt w 11 5) (.ok (.vstj d a m e)))

/-- VF64, VF32 and VBF16 (R245). -/
def decVf (t : FTy) (w : Nat) : Except DecErr Instr :=
  let d := fieldD w
  let a := fieldA w
  let b := fieldB w
  let m := fieldMask w
  let r (k : Rm → Instr) : Except DecErr Instr := (rmOf (bitsAt w 0 3)).bind fun rm => .ok (k rm)
  let r1 (k : Rm → Instr) : Except DecErr Instr := zero (bitsAt w 11 5) (r k)
  let n (i : Instr) := zero (bitsAt w 0 3) (.ok i)
  let n1 (i : Instr) := zero (bitsAt w 11 5) (n i)
  match bitsAt w 3 5 with
  | 0 => r fun rm => .vaddFp t d a b m rm
  | 1 => r fun rm => .vsubFp t d a b m rm
  | 2 => r fun rm => .vmulFp t d a b m rm
  | 3 => r fun rm => .vdiv t d a b m rm
  | 4 => r1 fun rm => .vsqrt t d a m rm
  | 5 => r1 fun rm => .vrsq t d a m rm
  | 6 => r1 fun rm => .vexp t d a m rm
  | 7 => r1 fun rm => .vlog t d a m rm
  | 8 => r1 fun rm => .vsin t d a m rm
  | 9 => r1 fun rm => .vcos t d a m rm
  | 10 => r1 fun rm => .vtanh t d a m rm
  | 11 => n (.vminFp t d a b m)
  | 12 => n (.vmaxFp t d a b m)
  | 13 => n1 (.vabsFp t d a m)
  | 14 => n1 (.vnegFp t d a m)
  | 15 => mdst (bitsAt w 21 5) fun md => (condOf (bitsAt w 0 3)).bind fun c => .ok (.vcmpFp t md a b m c)
  | 16 => r1 fun rm => .vredsumFp t d a m rm
  | 17 => n1 (.vredmaxFp t d a m)
  | 18 => n1 (.vredminFp t d a m)
  | 19 => n1 (.jseed t d a m)
  | 20 => n1 (.jconst t d a m)
  | 21 => coef (bitsAt w 11 5) fun k => n (.jget t d a k m)
  | 22 => coef (bitsAt w 11 5) fun k => n (.jset t d a k m)
  | 23 => coef (bitsAt w 11 5) fun k => r fun rm => .jder t d a k m rm
  | _ => .error .code

/-- VX (R246). -/
def decVx (w : Nat) : Except DecErr Instr :=
  let d := fieldD w
  let a := fieldA w
  let b := fieldB w
  let m := fieldMask w
  let e := szOf (bitsAt w 0 2)
  let u (i : Instr) := zero (bitsAt w 11 5) (.ok i)
  let nm (r : Except DecErr Instr) := zero (bitsAt w 8 3) r
  let cmp (k : MReg → Instr) := mdst (bitsAt w 21 5) fun md => .ok (k md)
  let e11 (r : Except DecErr Instr) : Except DecErr Instr := if bitsAt w 0 2 = 3 then r else .error .code
  match bitsAt w 2 6 with
  | 0 => .ok (.vaddInt d a b m e)
  | 1 => .ok (.vsubInt d a b m e)
  | 2 => .ok (.vmulInt d a b m e)
  | 3 => .ok (.vminInt d a b m e)
  | 4 => .ok (.vmaxInt d a b m e)
  | 5 => u (.vabsInt d a m e)
  | 6 => u (.vnegInt d a m e)
  | 7 => .ok (.vand d a b m e)
  | 8 => .ok (.vor d a b m e)
  | 9 => .ok (.vxor d a b m e)
  | 10 => .ok (.vshl d a b m e)
  | 11 => .ok (.vshr d a b m e)
  | 12 => .ok (.vsra d a b m e)
  | 13 => cmp fun md => .vcmpEq md a b m e
  | 14 => cmp fun md => .vcmpNe md a b m e
  | 15 => cmp fun md => .vcmpLt md a b m e
  | 16 => cmp fun md => .vcmpLe md a b m e
  | 17 => cmp fun md => .vcmpLtu md a b m e
  | 18 => cmp fun md => .vcmpLeu md a b m e
  | 19 => u (.vredsumInt d a m e)
  | 20 => u (.vredmaxInt d a m e)
  | 21 => u (.vredminInt d a m e)
  | 24 => u (.vmov d a m e)
  | 25 => .ok (.vsel d a b m e)
  | 26 => u (.vbcast d a m e)
  | 27 => nm (.ok (.vext d a b e))
  | 28 => nm (.ok (.vins d a b e))
  | 29 => zero (bitsAt w 11 10) (.ok (.viota d m e))
  | 30 => .ok (.vperm d a b m e)
  | 31 => .ok (.vslide d a b m e)
  | 32 => e11 (nm (mdst (bitsAt w 21 5) fun md => mreg (bitsAt w 16 5) fun ma => mreg (bitsAt w 11 5) fun mb => .ok (.mand md ma mb)))
  | 33 => e11 (nm (mdst (bitsAt w 21 5) fun md => mreg (bitsAt w 16 5) fun ma => mreg (bitsAt w 11 5) fun mb => .ok (.mor md ma mb)))
  | 34 => e11 (nm (zero (bitsAt w 11 5) (mdst (bitsAt w 21 5) fun md => mreg (bitsAt w 16 5) fun ma => .ok (.mnot md ma))))
  | 35 => e11 (nm (zero (bitsAt w 11 5) (mreg (bitsAt w 16 5) fun ma => .ok (.mpop d ma))))
  | _ => .error .code

/-- VFM (R248): form and type from the major. -/
def decVfm (w : Nat) : Except DecErr Instr :=
  (rmOf (bitsAt w 3 3)).bind fun rm =>
    let d := fieldD w
    let a := fieldA w
    let b := fieldB w
    let c := fieldC w
    let m : MReg := BitVec.ofNat 3 (bitsAt w 0 3)
    match bitsAt w 26 6 with
    | 0x34 => .ok (.vfmaF64 d a b c rm m)
    | 0x35 => .ok (.vfmaF32 d a b c rm m)
    | 0x36 => .ok (.vfmaBf16 d a b c rm m)
    | 0x37 => .ok (.vfmsF64 d a b c rm m)
    | 0x38 => .ok (.vfmsF32 d a b c rm m)
    | 0x39 => .ok (.vfmsBf16 d a b c rm m)
    | 0x3A => .ok (.vfnmaF64 d a b c rm m)
    | 0x3B => .ok (.vfnmaF32 d a b c rm m)
    | 0x3C => .ok (.vfnmaBf16 d a b c rm m)
    | 0x3D => .ok (.vfnmsF64 d a b c rm m)
    | 0x3E => .ok (.vfnmsF32 d a b c rm m)
    | 0x3F => .ok (.vfnmsBf16 d a b c rm m)
    | _ => .error .major

/-- FFMA (R236). -/
def decFfma (w : Nat) : Except DecErr Instr :=
  zero (bitsAt w 1 2) ((rmOf (bitsAt w 3 3)).bind fun rm =>
    .ok (.ffma (fieldD w) (fieldA w) (fieldB w) (fieldC w) rm (fszOf (bitsAt w 0 1))))

/-- The instruction that a 32-bit word names, or why it names none (R231, R234, R253). -/
def decodeWord (w : Nat) : Except DecErr Instr :=
  let d := fieldD w
  let a := fieldA w
  let i := fieldImm16 w
  match bitsAt w 26 6 with
  | 0x01 => decInt w
  | 0x02 => .ok (.addi d a i)
  | 0x03 => .ok (.andi d a i)
  | 0x04 => .ok (.ori d a i)
  | 0x05 => .ok (.xori d a i)
  | 0x06 => .ok (.slti d a i)
  | 0x07 => .ok (.sltiu d a i)
  | 0x08 => decLi w
  | 0x09 => .ok (.lea d a i)
  | 0x0A => decLit w
  | 0x0B => .ok (.jal d (BitVec.ofNat 21 (bitsAt w 0 21)))
  | 0x0C => .ok (.jalr d a i)
  | 0x0D => decFp w
  | 0x0E => decFfma w
  | 0x0F => decCsr w
  | 0x10 => .ok (.beq d a i)
  | 0x11 => .ok (.bne d a i)
  | 0x12 => .ok (.blt d a i)
  | 0x13 => .ok (.bge d a i)
  | 0x14 => .ok (.bltu d a i)
  | 0x15 => .ok (.bgeu d a i)
  | 0x16 => decVcvtf w
  | 0x17 => decVcvti w
  | 0x18 => .ok (.ldB d a i)
  | 0x19 => .ok (.ldH d a i)
  | 0x1A => .ok (.ldW d a i)
  | 0x1B => .ok (.ldD d a i)
  | 0x1C => .ok (.ldBu d a i)
  | 0x1D => .ok (.ldHu d a i)
  | 0x1E => .ok (.ldWu d a i)
  | 0x20 => .ok (.stB d a i)
  | 0x21 => .ok (.stH d a i)
  | 0x22 => .ok (.stW d a i)
  | 0x23 => .ok (.stD d a i)
  | 0x24 => decMemo w
  | 0x25 => decAmod w
  | 0x26 => decAmow w
  | 0x27 => decFence w
  | 0x28 => decWait w
  | 0x29 => decSend w
  | 0x2A => decSendv w
  | 0x2B => decArm w
  | 0x2C => decSys w
  | 0x2D => decRights w
  | 0x2E => decEnq w
  | 0x2F => decVmem w
  | 0x30 => decVf .f64 w
  | 0x31 => decVf .f32 w
  | 0x32 => decVf .bf16 w
  | 0x33 => decVx w
  | 0x00 => .error .major
  | 0x1F => .error .major
  | _ => decVfm w

/-- The little-endian word of four bytes (R3, R231). -/
def wordOfBytes (b0 b1 b2 b3 : Byte) : Nat :=
  b0.toNat + 256 * b1.toNat + 65536 * b2.toNat + 16777216 * b3.toNat

/-- The four bytes of a word, lowest address first. -/
def bytesOfWord (w : Nat) : List Byte :=
  [BitVec.ofNat 8 w, BitVec.ofNat 8 (w / 256), BitVec.ofNat 8 (w / 65536), BitVec.ofNat 8 (w / 16777216)]

/-- Decoding of any bytes: the instruction of the first word and the bytes after it, or why there is none. -/
def decode (bs : List Byte) : Except DecErr (Instr × List Byte) :=
  match bs with
  | b0 :: b1 :: b2 :: b3 :: rest =>
    match decodeWord (wordOfBytes b0 b1 b2 b3) with
    | .ok i => .ok (i, rest)
    | .error e => .error e
  | _ => .error .short

/-- What the decoder reads from an instruction whose bits are `w`, numbered as the opcode table numbers them. Every
instruction is one 32-bit word, so bits above `nbits` are zero. -/
def decodeTableWord (nbits w : Nat) : Option Instr :=
  match decode (bytesOfWord (w % 2 ^ nbits)) with
  | .ok (i, _) => some i
  | .error _ => none

/-- The word of an instruction, from the same opcode map; none for the steps that are no instruction words. -/
def encode (i : Instr) : Option Nat :=
  match i with
  | .add rd ra rb => some (0x04000000 + rd.toNat * 2097152 + ra.toNat * 65536 + rb.toNat * 2048)
  | .sub rd ra rb => some (0x04000001 + rd.toNat * 2097152 + ra.toNat * 65536 + rb.toNat * 2048)
  | .and rd ra rb => some (0x04000002 + rd.toNat * 2097152 + ra.toNat * 65536 + rb.toNat * 2048)
  | .or rd ra rb => some (0x04000003 + rd.toNat * 2097152 + ra.toNat * 65536 + rb.toNat * 2048)
  | .xor rd ra rb => some (0x04000004 + rd.toNat * 2097152 + ra.toNat * 65536 + rb.toNat * 2048)
  | .andn rd ra rb => some (0x04000005 + rd.toNat * 2097152 + ra.toNat * 65536 + rb.toNat * 2048)
  | .sll rd ra rb => some (0x04000006 + rd.toNat * 2097152 + ra.toNat * 65536 + rb.toNat * 2048)
  | .srl rd ra rb => some (0x04000007 + rd.toNat * 2097152 + ra.toNat * 65536 + rb.toNat * 2048)
  | .sra rd ra rb => some (0x04000008 + rd.toNat * 2097152 + ra.toNat * 65536 + rb.toNat * 2048)
  | .slt rd ra rb => some (0x04000009 + rd.toNat * 2097152 + ra.toNat * 65536 + rb.toNat * 2048)
  | .sltu rd ra rb => some (0x0400000a + rd.toNat * 2097152 + ra.toNat * 65536 + rb.toNat * 2048)
  | .min rd ra rb => some (0x0400000b + rd.toNat * 2097152 + ra.toNat * 65536 + rb.toNat * 2048)
  | .max rd ra rb => some (0x0400000c + rd.toNat * 2097152 + ra.toNat * 65536 + rb.toNat * 2048)
  | .minu rd ra rb => some (0x0400000d + rd.toNat * 2097152 + ra.toNat * 65536 + rb.toNat * 2048)
  | .maxu rd ra rb => some (0x0400000e + rd.toNat * 2097152 + ra.toNat * 65536 + rb.toNat * 2048)
  | .mul rd ra rb => some (0x04000010 + rd.toNat * 2097152 + ra.toNat * 65536 + rb.toNat * 2048)
  | .mulh rd ra rb => some (0x04000011 + rd.toNat * 2097152 + ra.toNat * 65536 + rb.toNat * 2048)
  | .mulhu rd ra rb => some (0x04000012 + rd.toNat * 2097152 + ra.toNat * 65536 + rb.toNat * 2048)
  | .div rd ra rb => some (0x04000013 + rd.toNat * 2097152 + ra.toNat * 65536 + rb.toNat * 2048)
  | .divu rd ra rb => some (0x04000014 + rd.toNat * 2097152 + ra.toNat * 65536 + rb.toNat * 2048)
  | .rem rd ra rb => some (0x04000015 + rd.toNat * 2097152 + ra.toNat * 65536 + rb.toNat * 2048)
  | .remu rd ra rb => some (0x04000016 + rd.toNat * 2097152 + ra.toNat * 65536 + rb.toNat * 2048)
  | .clz rd ra => some (0x04000018 + rd.toNat * 2097152 + ra.toNat * 65536)
  | .ctz rd ra => some (0x04000019 + rd.toNat * 2097152 + ra.toNat * 65536)
  | .popc rd ra => some (0x0400001a + rd.toNat * 2097152 + ra.toNat * 65536)
  | .slli rd ra sh => some (0x04000020 + rd.toNat * 2097152 + ra.toNat * 65536 + sh.toNat % 32 * 2048 + sh.toNat / 32 * 256)
  | .srli rd ra sh => some (0x04000021 + rd.toNat * 2097152 + ra.toNat * 65536 + sh.toNat % 32 * 2048 + sh.toNat / 32 * 256)
  | .srai rd ra sh => some (0x04000022 + rd.toNat * 2097152 + ra.toNat * 65536 + sh.toNat % 32 * 2048 + sh.toNat / 32 * 256)
  | .colg rd ra => some (0x04000028 + rd.toNat * 2097152 + ra.toNat * 65536)
  | .cols rd ra rb => some (0x04000029 + rd.toNat * 2097152 + ra.toNat * 65536 + rb.toNat * 2048)
  | .addi rd ra imm => some (0x08000000 + rd.toNat * 2097152 + ra.toNat * 65536 + imm.toNat)
  | .andi rd ra imm => some (0x0c000000 + rd.toNat * 2097152 + ra.toNat * 65536 + imm.toNat)
  | .ori rd ra imm => some (0x10000000 + rd.toNat * 2097152 + ra.toNat * 65536 + imm.toNat)
  | .xori rd ra imm => some (0x14000000 + rd.toNat * 2097152 + ra.toNat * 65536 + imm.toNat)
  | .slti rd ra imm => some (0x18000000 + rd.toNat * 2097152 + ra.toNat * 65536 + imm.toNat)
  | .sltiu rd ra imm => some (0x1c000000 + rd.toNat * 2097152 + ra.toNat * 65536 + imm.toNat)
  | .lis rd k imm => some (0x20040000 + rd.toNat * 2097152 + k.toNat * 65536 + imm.toNat)
  | .lih rd k imm => some (0x20000000 + rd.toNat * 2097152 + k.toNat * 65536 + imm.toNat)
  | .lea rd ra imm => some (0x24000000 + rd.toNat * 2097152 + ra.toNat * 65536 + imm.toNat)
  | .ldlW rd off => some (0x28000000 + rd.toNat * 2097152 + off.toNat)
  | .ldlD rd off => some (0x28080000 + rd.toNat * 2097152 + off.toNat)
  | .ldlv rd off => some (0x28100000 + rd.toNat * 2097152 + off.toNat)
  | .jal rd off => some (0x2c000000 + rd.toNat * 2097152 + off.toNat)
  | .jalr rd ra imm => some (0x30000000 + rd.toNat * 2097152 + ra.toNat * 65536 + imm.toNat)
  | .fadd rd ra rb rm sz => some (0x34000000 + rd.toNat * 2097152 + ra.toNat * 65536 + rb.toNat * 2048 + rmCode rm * 256 + fszCode sz)
  | .fsub rd ra rb rm sz => some (0x34000002 + rd.toNat * 2097152 + ra.toNat * 65536 + rb.toNat * 2048 + rmCode rm * 256 + fszCode sz)
  | .fmul rd ra rb rm sz => some (0x34000004 + rd.toNat * 2097152 + ra.toNat * 65536 + rb.toNat * 2048 + rmCode rm * 256 + fszCode sz)
  | .fdiv rd ra rb rm sz => some (0x34000006 + rd.toNat * 2097152 + ra.toNat * 65536 + rb.toNat * 2048 + rmCode rm * 256 + fszCode sz)
  | .fsqrt rd ra rm sz => some (0x34000008 + rd.toNat * 2097152 + ra.toNat * 65536 + rmCode rm * 256 + fszCode sz)
  | .fmin rd ra rb sz => some (0x3400000a + rd.toNat * 2097152 + ra.toNat * 65536 + rb.toNat * 2048 + fszCode sz)
  | .fmax rd ra rb sz => some (0x3400000c + rd.toNat * 2097152 + ra.toNat * 65536 + rb.toNat * 2048 + fszCode sz)
  | .feq rd ra rb sz => some (0x3400000e + rd.toNat * 2097152 + ra.toNat * 65536 + rb.toNat * 2048 + fszCode sz)
  | .flt rd ra rb sz => some (0x34000010 + rd.toNat * 2097152 + ra.toNat * 65536 + rb.toNat * 2048 + fszCode sz)
  | .fle rd ra rb sz => some (0x34000012 + rd.toNat * 2097152 + ra.toNat * 65536 + rb.toNat * 2048 + fszCode sz)
  | .fclass rd ra sz => some (0x34000014 + rd.toNat * 2097152 + ra.toNat * 65536 + fszCode sz)
  | .fcvtFp rd ra rm sz => some (0x34000020 + rd.toNat * 2097152 + ra.toNat * 65536 + rmCode rm * 256 + fszCode sz)
  | .fcvtFromI64 rd ra rm sz => some (0x34000022 + rd.toNat * 2097152 + ra.toNat * 65536 + rmCode rm * 256 + fszCode sz)
  | .fcvtFromU64 rd ra rm sz => some (0x34000024 + rd.toNat * 2097152 + ra.toNat * 65536 + rmCode rm * 256 + fszCode sz)
  | .fcvtToI64 rd ra rm sz => some (0x34000026 + rd.toNat * 2097152 + ra.toNat * 65536 + rmCode rm * 256 + fszCode sz)
  | .fcvtToU64 rd ra rm sz => some (0x34000028 + rd.toNat * 2097152 + ra.toNat * 65536 + rmCode rm * 256 + fszCode sz)
  | .ffma rd ra rb rc rm sz => some (0x38000000 + rd.toNat * 2097152 + ra.toNat * 65536 + rb.toNat * 2048 + rc.toNat * 64 + rmCode rm * 8 + fszCode sz)
  | .csrr rd n => some (0x3c000000 + rd.toNat * 2097152 + n.toNat)
  | .csrw rd ra n => some (0x3c001000 + rd.toNat * 2097152 + ra.toNat * 65536 + n.toNat)
  | .csrs rd ra n => some (0x3c002000 + rd.toNat * 2097152 + ra.toNat * 65536 + n.toNat)
  | .csrc rd ra n => some (0x3c003000 + rd.toNat * 2097152 + ra.toNat * 65536 + n.toNat)
  | .beq ra rb off => some (0x40000000 + ra.toNat * 2097152 + rb.toNat * 65536 + off.toNat)
  | .bne ra rb off => some (0x44000000 + ra.toNat * 2097152 + rb.toNat * 65536 + off.toNat)
  | .blt ra rb off => some (0x48000000 + ra.toNat * 2097152 + rb.toNat * 65536 + off.toNat)
  | .bge ra rb off => some (0x4c000000 + ra.toNat * 2097152 + rb.toNat * 65536 + off.toNat)
  | .bltu ra rb off => some (0x50000000 + ra.toNat * 2097152 + rb.toNat * 65536 + off.toNat)
  | .bgeu ra rb off => some (0x54000000 + ra.toNat * 2097152 + rb.toNat * 65536 + off.toNat)
  | .vcvtFpFp rd ra rb mk dst src rm => some (0x58000000 + rd.toNat * 2097152 + ra.toNat * 65536 + rb.toNat * 2048 + mk.toNat * 256 + fty8Code dst * 64 + fty8Code src * 16 + rmCode rm * 2)
  | .vcvtIntToFp rd ra mk ity fty rm => some (0x5c000000 + rd.toNat * 2097152 + ra.toNat * 65536 + mk.toNat * 256 + szCode ity * 32 + ftyCode fty * 8 + rmCode rm)
  | .vcvtFpToInt rd ra mk ity fty rm => some (0x5c000080 + rd.toNat * 2097152 + ra.toNat * 65536 + mk.toNat * 256 + szCode ity * 32 + ftyCode fty * 8 + rmCode rm)
  | .ldB rd ra imm => some (0x60000000 + rd.toNat * 2097152 + ra.toNat * 65536 + imm.toNat)
  | .ldH rd ra imm => some (0x64000000 + rd.toNat * 2097152 + ra.toNat * 65536 + imm.toNat)
  | .ldW rd ra imm => some (0x68000000 + rd.toNat * 2097152 + ra.toNat * 65536 + imm.toNat)
  | .ldD rd ra imm => some (0x6c000000 + rd.toNat * 2097152 + ra.toNat * 65536 + imm.toNat)
  | .ldBu rd ra imm => some (0x70000000 + rd.toNat * 2097152 + ra.toNat * 65536 + imm.toNat)
  | .ldHu rd ra imm => some (0x74000000 + rd.toNat * 2097152 + ra.toNat * 65536 + imm.toNat)
  | .ldWu rd ra imm => some (0x78000000 + rd.toNat * 2097152 + ra.toNat * 65536 + imm.toNat)
  | .stB rd ra imm => some (0x80000000 + rd.toNat * 2097152 + ra.toNat * 65536 + imm.toNat)
  | .stH rd ra imm => some (0x84000000 + rd.toNat * 2097152 + ra.toNat * 65536 + imm.toNat)
  | .stW rd ra imm => some (0x88000000 + rd.toNat * 2097152 + ra.toNat * 65536 + imm.toNat)
  | .stD rd ra imm => some (0x8c000000 + rd.toNat * 2097152 + ra.toNat * 65536 + imm.toNat)
  | .ldAcq rd ra kind sc imm => some (0x90000080 + rd.toNat * 2097152 + ra.toNat * 65536 + ldCode kind * 4096 + scopeCode sc * 512 + imm.toNat)
  | .stRel rd ra kind sc imm => some (0x90008100 + rd.toNat * 2097152 + ra.toNat * 65536 + szCode kind * 4096 + scopeCode sc * 512 + imm.toNat)
  | .amoAddD rd ra sc ord imm => some (0x94000000 + rd.toNat * 2097152 + ra.toNat * 65536 + scopeCode sc * 512 + ordCode ord * 128 + imm.toNat)
  | .amoAndD rd ra sc ord imm => some (0x94001000 + rd.toNat * 2097152 + ra.toNat * 65536 + scopeCode sc * 512 + ordCode ord * 128 + imm.toNat)
  | .amoOrD rd ra sc ord imm => some (0x94002000 + rd.toNat * 2097152 + ra.toNat * 65536 + scopeCode sc * 512 + ordCode ord * 128 + imm.toNat)
  | .amoXorD rd ra sc ord imm => some (0x94003000 + rd.toNat * 2097152 + ra.toNat * 65536 + scopeCode sc * 512 + ordCode ord * 128 + imm.toNat)
  | .amoMinD rd ra sc ord imm => some (0x94004000 + rd.toNat * 2097152 + ra.toNat * 65536 + scopeCode sc * 512 + ordCode ord * 128 + imm.toNat)
  | .amoMaxD rd ra sc ord imm => some (0x94005000 + rd.toNat * 2097152 + ra.toNat * 65536 + scopeCode sc * 512 + ordCode ord * 128 + imm.toNat)
  | .amoMinuD rd ra sc ord imm => some (0x94006000 + rd.toNat * 2097152 + ra.toNat * 65536 + scopeCode sc * 512 + ordCode ord * 128 + imm.toNat)
  | .amoMaxuD rd ra sc ord imm => some (0x94007000 + rd.toNat * 2097152 + ra.toNat * 65536 + scopeCode sc * 512 + ordCode ord * 128 + imm.toNat)
  | .amoSwapD rd ra sc ord imm => some (0x94008000 + rd.toNat * 2097152 + ra.toNat * 65536 + scopeCode sc * 512 + ordCode ord * 128 + imm.toNat)
  | .amoAddW rd ra sc ord imm => some (0x98000000 + rd.toNat * 2097152 + ra.toNat * 65536 + scopeCode sc * 512 + ordCode ord * 128 + imm.toNat)
  | .amoAndW rd ra sc ord imm => some (0x98001000 + rd.toNat * 2097152 + ra.toNat * 65536 + scopeCode sc * 512 + ordCode ord * 128 + imm.toNat)
  | .amoOrW rd ra sc ord imm => some (0x98002000 + rd.toNat * 2097152 + ra.toNat * 65536 + scopeCode sc * 512 + ordCode ord * 128 + imm.toNat)
  | .amoXorW rd ra sc ord imm => some (0x98003000 + rd.toNat * 2097152 + ra.toNat * 65536 + scopeCode sc * 512 + ordCode ord * 128 + imm.toNat)
  | .amoMinW rd ra sc ord imm => some (0x98004000 + rd.toNat * 2097152 + ra.toNat * 65536 + scopeCode sc * 512 + ordCode ord * 128 + imm.toNat)
  | .amoMaxW rd ra sc ord imm => some (0x98005000 + rd.toNat * 2097152 + ra.toNat * 65536 + scopeCode sc * 512 + ordCode ord * 128 + imm.toNat)
  | .amoMinuW rd ra sc ord imm => some (0x98006000 + rd.toNat * 2097152 + ra.toNat * 65536 + scopeCode sc * 512 + ordCode ord * 128 + imm.toNat)
  | .amoMaxuW rd ra sc ord imm => some (0x98007000 + rd.toNat * 2097152 + ra.toNat * 65536 + scopeCode sc * 512 + ordCode ord * 128 + imm.toNat)
  | .amoSwapW rd ra sc ord imm => some (0x98008000 + rd.toNat * 2097152 + ra.toNat * 65536 + scopeCode sc * 512 + ordCode ord * 128 + imm.toNat)
  | .casW rd ra sc ord imm => some (0x98009000 + rd.toNat * 2097152 + ra.toNat * 65536 + scopeCode sc * 512 + ordCode ord * 128 + imm.toNat)
  | .casD rd ra sc ord imm => some (0x9800a000 + rd.toNat * 2097152 + ra.toNat * 65536 + scopeCode sc * 512 + ordCode ord * 128 + imm.toNat)
  | .casQ rd ra sc ord imm => some (0x9800b000 + rd.toNat * 2097152 + ra.toNat * 65536 + scopeCode sc * 512 + ordCode ord * 128 + imm.toNat)
  | .famoAddS rd ra sc ord imm => some (0x9800c000 + rd.toNat * 2097152 + ra.toNat * 65536 + scopeCode sc * 512 + ordCode ord * 128 + imm.toNat)
  | .famoAddD rd ra sc ord imm => some (0x9800d000 + rd.toNat * 2097152 + ra.toNat * 65536 + scopeCode sc * 512 + ordCode ord * 128 + imm.toNat)
  | .fence kind sc => some (0x9c000000 + kind.toNat * 4096 + scopeCode sc * 512)
  | .wait ld st cp mx => some (0xa0000000 + ld.toNat * 1048576 + st.toNat * 16384 + cp.toNat * 256 + mx.toNat * 4)
  | .send rd ra rb c op hid => some (0xa4000000 + rd.toNat * 2097152 + ra.toNat * 65536 + rb.toNat * 2048 + bitCode c * 1024 + op.toNat * 64 + hid.toNat)
  | .sendv rd ra rb c op hid => some (0xa8000000 + rd.toNat * 2097152 + ra.toNat * 65536 + rb.toNat * 2048 + bitCode c * 1024 + op.toNat * 64 + hid.toNat)
  | .arm rd ra rb op hid => some (0xac000000 + rd.toNat * 2097152 + ra.toNat * 65536 + rb.toNat * 2048 + op.toNat * 64 + hid.toNat)
  | .done => some (0xb0000000)
  | .endl ra status => some (0xb0000001 + ra.toNat * 65536 + endCode status * 256)
  | .msk rd ra rb => some (0xb0000002 + rd.toNat * 2097152 + ra.toNat * 65536 + rb.toNat * 2048)
  | .lnch rd ra => some (0xb0000003 + rd.toNat * 2097152 + ra.toNat * 65536)
  | .fxcvt rd ra rm => some (0xb0000004 + rd.toNat * 2097152 + ra.toNat * 65536 + rmCode rm * 256)
  | .rinit ra rb => some (0xb0000008 + ra.toNat * 65536 + rb.toNat * 2048)
  | .rfree ra => some (0xb0000009 + ra.toNat * 65536)
  | .rwait ra rb => some (0xb000000a + ra.toNat * 65536 + rb.toNat * 2048)
  | .rrel ra rb => some (0xb000000b + ra.toNat * 65536 + rb.toNat * 2048)
  | .rstat rd ra => some (0xb000000c + rd.toNat * 2097152 + ra.toNat * 65536)
  | .sbind rd ra => some (0xb0000010 + rd.toNat * 2097152 + ra.toNat * 65536)
  | .sunb rd => some (0xb0000011 + rd.toNat * 2097152)
  | .sstat rd ra => some (0xb0000012 + rd.toNat * 2097152 + ra.toNat * 65536)
  | .mxst rd => some (0xb0000018 + rd.toNat * 2097152)
  | .rqry rd ra rb => some (0xb0000020 + rd.toNat * 2097152 + ra.toNat * 65536 + rb.toNat * 2048)
  | .plbinv ra => some (0xb0000021 + ra.toNat * 65536)
  | .plbinvAll => some (0xb0000121)
  | .tlbinv ra rb => some (0xb0000022 + ra.toNat * 65536 + rb.toNat * 2048)
  | .trap ra => some (0xb0000028 + ra.toNat * 65536)
  | .mcall ra => some (0xb0000029 + ra.toNat * 65536)
  | .eret => some (0xb000002a)
  | .idle => some (0xb000002b)
  | .bar => some (0xb0000030)
  | .grant rd ra rb rc => some (0xb4000000 + rd.toNat * 2097152 + ra.toNat * 65536 + rb.toNat * 2048 + rc.toNat * 64)
  | .revoke rd ra rb rc => some (0xb4000008 + rd.toNat * 2097152 + ra.toNat * 65536 + rb.toNat * 2048 + rc.toNat * 64)
  | .enq eng ra rb off => some (0xb8000000 + engCode eng * 8388608 + ra.toNat * 262144 + rb.toNat * 8192 + off.toNat)
  | .vld rd ra mk e => some (0xbc000000 + rd.toNat * 2097152 + ra.toNat * 65536 + mk.toNat * 256 + szCode e * 8)
  | .vst rd ra mk e => some (0xbc000020 + rd.toNat * 2097152 + ra.toNat * 65536 + mk.toNat * 256 + szCode e * 8)
  | .vlds rd ra rb mk e => some (0xbc000040 + rd.toNat * 2097152 + ra.toNat * 65536 + rb.toNat * 2048 + mk.toNat * 256 + szCode e * 8)
  | .vsts rd ra rb mk e => some (0xbc000060 + rd.toNat * 2097152 + ra.toNat * 65536 + rb.toNat * 2048 + mk.toNat * 256 + szCode e * 8)
  | .vgath rd ra rb mk e => some (0xbc000080 + rd.toNat * 2097152 + ra.toNat * 65536 + rb.toNat * 2048 + mk.toNat * 256 + szCode e * 8)
  | .vscat rd ra rb mk e => some (0xbc0000a0 + rd.toNat * 2097152 + ra.toNat * 65536 + rb.toNat * 2048 + mk.toNat * 256 + szCode e * 8)
  | .vldj rd ra mk e => some (0xbc0000c0 + rd.toNat * 2097152 + ra.toNat * 65536 + mk.toNat * 256 + szCode e * 8)
  | .vstj rd ra mk e => some (0xbc0000e0 + rd.toNat * 2097152 + ra.toNat * 65536 + mk.toNat * 256 + szCode e * 8)
  | .vaddFp ty rd ra rb mk rm => some (0xc0000000 + ftyCode ty * 67108864 + rd.toNat * 2097152 + ra.toNat * 65536 + rb.toNat * 2048 + mk.toNat * 256 + rmCode rm)
  | .vsubFp ty rd ra rb mk rm => some (0xc0000008 + ftyCode ty * 67108864 + rd.toNat * 2097152 + ra.toNat * 65536 + rb.toNat * 2048 + mk.toNat * 256 + rmCode rm)
  | .vmulFp ty rd ra rb mk rm => some (0xc0000010 + ftyCode ty * 67108864 + rd.toNat * 2097152 + ra.toNat * 65536 + rb.toNat * 2048 + mk.toNat * 256 + rmCode rm)
  | .vdiv ty rd ra rb mk rm => some (0xc0000018 + ftyCode ty * 67108864 + rd.toNat * 2097152 + ra.toNat * 65536 + rb.toNat * 2048 + mk.toNat * 256 + rmCode rm)
  | .vsqrt ty rd ra mk rm => some (0xc0000020 + ftyCode ty * 67108864 + rd.toNat * 2097152 + ra.toNat * 65536 + mk.toNat * 256 + rmCode rm)
  | .vrsq ty rd ra mk rm => some (0xc0000028 + ftyCode ty * 67108864 + rd.toNat * 2097152 + ra.toNat * 65536 + mk.toNat * 256 + rmCode rm)
  | .vexp ty rd ra mk rm => some (0xc0000030 + ftyCode ty * 67108864 + rd.toNat * 2097152 + ra.toNat * 65536 + mk.toNat * 256 + rmCode rm)
  | .vlog ty rd ra mk rm => some (0xc0000038 + ftyCode ty * 67108864 + rd.toNat * 2097152 + ra.toNat * 65536 + mk.toNat * 256 + rmCode rm)
  | .vsin ty rd ra mk rm => some (0xc0000040 + ftyCode ty * 67108864 + rd.toNat * 2097152 + ra.toNat * 65536 + mk.toNat * 256 + rmCode rm)
  | .vcos ty rd ra mk rm => some (0xc0000048 + ftyCode ty * 67108864 + rd.toNat * 2097152 + ra.toNat * 65536 + mk.toNat * 256 + rmCode rm)
  | .vtanh ty rd ra mk rm => some (0xc0000050 + ftyCode ty * 67108864 + rd.toNat * 2097152 + ra.toNat * 65536 + mk.toNat * 256 + rmCode rm)
  | .vminFp ty rd ra rb mk => some (0xc0000058 + ftyCode ty * 67108864 + rd.toNat * 2097152 + ra.toNat * 65536 + rb.toNat * 2048 + mk.toNat * 256)
  | .vmaxFp ty rd ra rb mk => some (0xc0000060 + ftyCode ty * 67108864 + rd.toNat * 2097152 + ra.toNat * 65536 + rb.toNat * 2048 + mk.toNat * 256)
  | .vabsFp ty rd ra mk => some (0xc0000068 + ftyCode ty * 67108864 + rd.toNat * 2097152 + ra.toNat * 65536 + mk.toNat * 256)
  | .vnegFp ty rd ra mk => some (0xc0000070 + ftyCode ty * 67108864 + rd.toNat * 2097152 + ra.toNat * 65536 + mk.toNat * 256)
  | .vcmpFp ty rd ra rb mk cond => some (0xc0000078 + ftyCode ty * 67108864 + rd.toNat * 2097152 + ra.toNat * 65536 + rb.toNat * 2048 + mk.toNat * 256 + condCode cond)
  | .vredsumFp ty rd ra mk rm => some (0xc0000080 + ftyCode ty * 67108864 + rd.toNat * 2097152 + ra.toNat * 65536 + mk.toNat * 256 + rmCode rm)
  | .vredmaxFp ty rd ra mk => some (0xc0000088 + ftyCode ty * 67108864 + rd.toNat * 2097152 + ra.toNat * 65536 + mk.toNat * 256)
  | .vredminFp ty rd ra mk => some (0xc0000090 + ftyCode ty * 67108864 + rd.toNat * 2097152 + ra.toNat * 65536 + mk.toNat * 256)
  | .jseed ty rd ra mk => some (0xc0000098 + ftyCode ty * 67108864 + rd.toNat * 2097152 + ra.toNat * 65536 + mk.toNat * 256)
  | .jconst ty rd ra mk => some (0xc00000a0 + ftyCode ty * 67108864 + rd.toNat * 2097152 + ra.toNat * 65536 + mk.toNat * 256)
  | .jget ty rd ra k mk => some (0xc00000a8 + ftyCode ty * 67108864 + rd.toNat * 2097152 + ra.toNat * 65536 + k.toNat * 2048 + mk.toNat * 256)
  | .jset ty rd ra k mk => some (0xc00000b0 + ftyCode ty * 67108864 + rd.toNat * 2097152 + ra.toNat * 65536 + k.toNat * 2048 + mk.toNat * 256)
  | .jder ty rd ra k mk rm => some (0xc00000b8 + ftyCode ty * 67108864 + rd.toNat * 2097152 + ra.toNat * 65536 + k.toNat * 2048 + mk.toNat * 256 + rmCode rm)
  | .vaddInt rd ra rb mk e => some (0xcc000000 + rd.toNat * 2097152 + ra.toNat * 65536 + rb.toNat * 2048 + mk.toNat * 256 + szCode e)
  | .vsubInt rd ra rb mk e => some (0xcc000004 + rd.toNat * 2097152 + ra.toNat * 65536 + rb.toNat * 2048 + mk.toNat * 256 + szCode e)
  | .vmulInt rd ra rb mk e => some (0xcc000008 + rd.toNat * 2097152 + ra.toNat * 65536 + rb.toNat * 2048 + mk.toNat * 256 + szCode e)
  | .vminInt rd ra rb mk e => some (0xcc00000c + rd.toNat * 2097152 + ra.toNat * 65536 + rb.toNat * 2048 + mk.toNat * 256 + szCode e)
  | .vmaxInt rd ra rb mk e => some (0xcc000010 + rd.toNat * 2097152 + ra.toNat * 65536 + rb.toNat * 2048 + mk.toNat * 256 + szCode e)
  | .vabsInt rd ra mk e => some (0xcc000014 + rd.toNat * 2097152 + ra.toNat * 65536 + mk.toNat * 256 + szCode e)
  | .vnegInt rd ra mk e => some (0xcc000018 + rd.toNat * 2097152 + ra.toNat * 65536 + mk.toNat * 256 + szCode e)
  | .vand rd ra rb mk e => some (0xcc00001c + rd.toNat * 2097152 + ra.toNat * 65536 + rb.toNat * 2048 + mk.toNat * 256 + szCode e)
  | .vor rd ra rb mk e => some (0xcc000020 + rd.toNat * 2097152 + ra.toNat * 65536 + rb.toNat * 2048 + mk.toNat * 256 + szCode e)
  | .vxor rd ra rb mk e => some (0xcc000024 + rd.toNat * 2097152 + ra.toNat * 65536 + rb.toNat * 2048 + mk.toNat * 256 + szCode e)
  | .vshl rd ra rb mk e => some (0xcc000028 + rd.toNat * 2097152 + ra.toNat * 65536 + rb.toNat * 2048 + mk.toNat * 256 + szCode e)
  | .vshr rd ra rb mk e => some (0xcc00002c + rd.toNat * 2097152 + ra.toNat * 65536 + rb.toNat * 2048 + mk.toNat * 256 + szCode e)
  | .vsra rd ra rb mk e => some (0xcc000030 + rd.toNat * 2097152 + ra.toNat * 65536 + rb.toNat * 2048 + mk.toNat * 256 + szCode e)
  | .vcmpEq rd ra rb mk e => some (0xcc000034 + rd.toNat * 2097152 + ra.toNat * 65536 + rb.toNat * 2048 + mk.toNat * 256 + szCode e)
  | .vcmpNe rd ra rb mk e => some (0xcc000038 + rd.toNat * 2097152 + ra.toNat * 65536 + rb.toNat * 2048 + mk.toNat * 256 + szCode e)
  | .vcmpLt rd ra rb mk e => some (0xcc00003c + rd.toNat * 2097152 + ra.toNat * 65536 + rb.toNat * 2048 + mk.toNat * 256 + szCode e)
  | .vcmpLe rd ra rb mk e => some (0xcc000040 + rd.toNat * 2097152 + ra.toNat * 65536 + rb.toNat * 2048 + mk.toNat * 256 + szCode e)
  | .vcmpLtu rd ra rb mk e => some (0xcc000044 + rd.toNat * 2097152 + ra.toNat * 65536 + rb.toNat * 2048 + mk.toNat * 256 + szCode e)
  | .vcmpLeu rd ra rb mk e => some (0xcc000048 + rd.toNat * 2097152 + ra.toNat * 65536 + rb.toNat * 2048 + mk.toNat * 256 + szCode e)
  | .vredsumInt rd ra mk e => some (0xcc00004c + rd.toNat * 2097152 + ra.toNat * 65536 + mk.toNat * 256 + szCode e)
  | .vredmaxInt rd ra mk e => some (0xcc000050 + rd.toNat * 2097152 + ra.toNat * 65536 + mk.toNat * 256 + szCode e)
  | .vredminInt rd ra mk e => some (0xcc000054 + rd.toNat * 2097152 + ra.toNat * 65536 + mk.toNat * 256 + szCode e)
  | .vmov rd ra mk e => some (0xcc000060 + rd.toNat * 2097152 + ra.toNat * 65536 + mk.toNat * 256 + szCode e)
  | .vsel rd ra rb mk e => some (0xcc000064 + rd.toNat * 2097152 + ra.toNat * 65536 + rb.toNat * 2048 + mk.toNat * 256 + szCode e)
  | .vbcast rd ra mk e => some (0xcc000068 + rd.toNat * 2097152 + ra.toNat * 65536 + mk.toNat * 256 + szCode e)
  | .vext rd ra rb e => some (0xcc00006c + rd.toNat * 2097152 + ra.toNat * 65536 + rb.toNat * 2048 + szCode e)
  | .vins rd ra rb e => some (0xcc000070 + rd.toNat * 2097152 + ra.toNat * 65536 + rb.toNat * 2048 + szCode e)
  | .viota rd mk e => some (0xcc000074 + rd.toNat * 2097152 + mk.toNat * 256 + szCode e)
  | .vperm rd ra rb mk e => some (0xcc000078 + rd.toNat * 2097152 + ra.toNat * 65536 + rb.toNat * 2048 + mk.toNat * 256 + szCode e)
  | .vslide rd ra rb mk e => some (0xcc00007c + rd.toNat * 2097152 + ra.toNat * 65536 + rb.toNat * 2048 + mk.toNat * 256 + szCode e)
  | .mand rd ra rb => some (0xcc000083 + rd.toNat * 2097152 + ra.toNat * 65536 + rb.toNat * 2048)
  | .mor rd ra rb => some (0xcc000087 + rd.toNat * 2097152 + ra.toNat * 65536 + rb.toNat * 2048)
  | .mnot rd ra => some (0xcc00008b + rd.toNat * 2097152 + ra.toNat * 65536)
  | .mpop rd ra => some (0xcc00008f + rd.toNat * 2097152 + ra.toNat * 65536)
  | .vfmaF64 rd ra rb rc rm mk => some (0xd0000000 + rd.toNat * 2097152 + ra.toNat * 65536 + rb.toNat * 2048 + rc.toNat * 64 + rmCode rm * 8 + mk.toNat)
  | .vfmaF32 rd ra rb rc rm mk => some (0xd4000000 + rd.toNat * 2097152 + ra.toNat * 65536 + rb.toNat * 2048 + rc.toNat * 64 + rmCode rm * 8 + mk.toNat)
  | .vfmaBf16 rd ra rb rc rm mk => some (0xd8000000 + rd.toNat * 2097152 + ra.toNat * 65536 + rb.toNat * 2048 + rc.toNat * 64 + rmCode rm * 8 + mk.toNat)
  | .vfmsF64 rd ra rb rc rm mk => some (0xdc000000 + rd.toNat * 2097152 + ra.toNat * 65536 + rb.toNat * 2048 + rc.toNat * 64 + rmCode rm * 8 + mk.toNat)
  | .vfmsF32 rd ra rb rc rm mk => some (0xe0000000 + rd.toNat * 2097152 + ra.toNat * 65536 + rb.toNat * 2048 + rc.toNat * 64 + rmCode rm * 8 + mk.toNat)
  | .vfmsBf16 rd ra rb rc rm mk => some (0xe4000000 + rd.toNat * 2097152 + ra.toNat * 65536 + rb.toNat * 2048 + rc.toNat * 64 + rmCode rm * 8 + mk.toNat)
  | .vfnmaF64 rd ra rb rc rm mk => some (0xe8000000 + rd.toNat * 2097152 + ra.toNat * 65536 + rb.toNat * 2048 + rc.toNat * 64 + rmCode rm * 8 + mk.toNat)
  | .vfnmaF32 rd ra rb rc rm mk => some (0xec000000 + rd.toNat * 2097152 + ra.toNat * 65536 + rb.toNat * 2048 + rc.toNat * 64 + rmCode rm * 8 + mk.toNat)
  | .vfnmaBf16 rd ra rb rc rm mk => some (0xf0000000 + rd.toNat * 2097152 + ra.toNat * 65536 + rb.toNat * 2048 + rc.toNat * 64 + rmCode rm * 8 + mk.toNat)
  | .vfnmsF64 rd ra rb rc rm mk => some (0xf4000000 + rd.toNat * 2097152 + ra.toNat * 65536 + rb.toNat * 2048 + rc.toNat * 64 + rmCode rm * 8 + mk.toNat)
  | .vfnmsF32 rd ra rb rc rm mk => some (0xf8000000 + rd.toNat * 2097152 + ra.toNat * 65536 + rb.toNat * 2048 + rc.toNat * 64 + rmCode rm * 8 + mk.toNat)
  | .vfnmsBf16 rd ra rb rc rm mk => some (0xfc000000 + rd.toNat * 2097152 + ra.toNat * 65536 + rb.toNat * 2048 + rc.toNat * 64 + rmCode rm * 8 + mk.toNat)
  | .enqAppend _ _ => none
  | .mxLoadb _ => none
  | .mxRows _ => none
  | .mxDrain _ => none
  | .mxZero _ => none
  | .mxChkrd _ => none
  | .bcCopy _ => none
  | .bcFill _ => none
  | .crShaInit => none
  | .crShaUpdate => none
  | .crShaFinal => none
  | .crEcv => none
  | .crRng _ => none
  | .engineCompletion _ _ => none
  | .storeAcknowledgement _ _ _ _ => none
  | .loadResponse _ _ _ _ _ => none
  | .errorResponse _ _ _ _ _ => none
  | .tlbWalk _ => none
  | .plbSearch _ => none
  | .rightsRequest _ => none
  | .hold _ => none
  | .holdAcknowledge _ => none
  | .rightsTableWrite _ => none
  | .release _ => none
  | .messageArrival _ _ => none
  | .armArrival _ _ => none
  | .nack _ => none
  | .responseTimeout _ _ _ _ => none
  | .recordSelection _ _ => none
  | .recordAgeing _ _ => none
  | .replay _ => none
  | .streamElementRead _ _ _ _ => none
  | .streamPushPerform _ _ _ _ => none
  | .launchRecordRead _ _ => none
  | .startMessage _ => none
  | .launchEnd _ _ => none
  | .completionRecordWrite _ => none
  | .quantumExpiry _ => none
  | .switch _ => none
  | .go _ => none
  | .quantumStart _ => none
  | .noticePost _ _ _ => none
  | .eventEntryWrite _ _ => none
  | .poisonNotice _ => none
  | .noticeTrap _ => none
  | .patrolScrub _ _ => none
  | .monitorFaultReport _ => none
  | .resetDrainComplete _ _ => none
  | .pmcmdUnknownOp => none
  | .create _ => none
  | .granuleGive => none
  | .granuleTake => none
  | .bindvf => none
  | .unbindvf => none
  | .shadowpool => none
  | .domainAdd _ => none
  | .domainRemove => none
  | .domainMemberActive _ _ => none
  | .start => none
  | .stop => none
  | .reset => none
  | .teardown => none
  | .resetvf => none
  | .quantumTableWrite _ _ _ => none
  | .lrdbWrite _ _ => none
  | .erdbWrite _ _ => none
  | .lrcfgWrite _ _ => none
  | .ercfgWrite _ _ => none
  | .hmsgPost _ _ _ => none
  | .agreplyWrite _ _ => none
  | .agentTimeout _ _ => none
  | .registerWrite _ _ _ => none
  | .configurationWrite _ _ _ => none
  | .lockInterface _ => none
  | .startInterface _ => none
  | .stopInterface _ => none
  | .ideIntegrityFailure _ _ => none
  | .atsTranslationCompletion _ _ _ _ => none
  | .pageRequestGroupResponse _ _ _ _ => none
  | .atsInvalidateRequest _ _ _ => none
  | .hostCompletion _ _ _ => none
  | .completionTimeout _ => none
  | .novinoRequest _ _ _ _ _ _ => none
  | .rekey _ _ => none
  | .getVersion _ => none
  | .getCapabilities _ _ => none
  | .negotiateAlgorithms _ _ => none
  | .getDigests _ _ => none
  | .getCertificate _ _ _ _ => none
  | .challenge _ _ _ => none
  | .getMeasurements _ _ _ _ => none
  | .keyExchange _ _ _ => none
  | .finish _ _ _ => none
  | .endSession _ _ => none
  | .unsupportedSpdmRequest _ _ => none
  | .wearSample _ => none
  | .stressFactorUpdate _ _ => none
  | .lifetimeRecordWrite => none
  | .throttle _ _ => none
  | .thermalTrip _ => none
  | .powerOn _ => none
  | .fundamentalReset => none
  | .illegalEncoding _ => none
  | .orderlyShutdown => none
  | .powerLoss => none
  | .linkTraining _ _ => none
  | .ideKmKeyProg _ _ => none

end Sys2Proof
end

