-- ==== Sys2Proof/Config.lean ====
section
/-! DEFINITION. The free values: what the specification leaves open and the machine still goes on with. Each is an
opaque constant applied to a counter of the state, so nothing can be proved of its value. -/

namespace Sys2Proof.Config

/-- Which of the moves that are due is made next, as any number (R116, R142, R376; log 1). -/
opaque choice : Nat → Nat

/-- Extra cycles that pass on a core while one instruction retires (R22, R379, R384; log 8). -/
opaque cycles : Nat → Nat

/-- A fresh number for a value the specification does not give: bytes of the random generator, signatures, keys
(R75, R366, R433; log 9). -/
opaque fresh : Nat → BitVec 384

/-- Bytes of the random generator that are written next (R366; log 9). -/
opaque random : Nat → BitVec 8

/-- Which of the free places a record takes, and which record is moved to the spill table (R186, R187; log 10). -/
opaque spillPlace : Nat → Nat

/-- A correctly rounded special function where the working precision of the model does not decide it: the result as a
significand of the working precision. Function number, then the operand's encoding (R200; log 11). -/
opaque special : Nat → Nat → Nat

/-- FWD as the configuration block of a monitor image asks for it: the specification does not give the block's form (R43,
R388). -/
opaque forwards : List (BitVec 8) → Bool

/-- Whether a write or an atomic had performed whose answer is lost (R77; log 61). -/
opaque performed : Nat → Bool

/-- How many packets carry what a unit moves, where the specification does not say how it is cut into packets (R76; log 70). -/
opaque packets : Nat → Nat

/-- The verification data of an SPDM FINISH are those of the transcript hash, under the keys of the session (R434; log 27). -/
opaque verified : BitVec 384 → BitVec 256 → Bool

/-- Which of the sectors that an engine has still to read it reads next (R133, R135; log 54). -/
opaque pick : Nat → Nat

/-- Which sector an engine reads ahead of its need: 0 none, else a command of its queue and a piece of that command (R133; log 54). -/
opaque ahead : Nat → Nat
/-- Whether a fetch is served by the instruction cache or reads the home again (R16, R156; log 55). -/
opaque refetch : Nat → Bool

/-- The digest of the ROM and of the fuse configuration, of which the hash of the public key and the least security version are given (R429,
R431; log 9). -/
opaque romDigest : BitVec 384 → Nat → BitVec 384

/-- The digest of the partition map: the partitions that are not FREE, each with its number, its clusters and its granules (R431; log 9). -/
opaque mapDigest : List (Nat × List Nat × List Nat) → BitVec 384

/-- The alias key that the ROM derives from the identity key and the two measurements (R433; log 9). -/
opaque aliasKey : BitVec 384 → BitVec 384 → BitVec 384

/-- The certificate chain of slot 0 for an alias key (R433; log 9). -/
opaque chain : BitVec 384 → List (BitVec 8)

/-- The signature with an alias key over a digest, in two halves (R433; log 9). -/
opaque sign : BitVec 384 → BitVec 384 → Bool → BitVec 384

/-- A monitor reading of a core that the outside does not give, or a difference against a baseline of 0: core, monitor and reading
(R440, R441; log 7). -/
opaque reading : Nat → Nat → Nat → Nat

end Sys2Proof.Config
end

