-- ==== Sys2Proof/Machine/State.lean ====
section
/-! DEFINITION. The state of one BX4 package, as plain data: its strings, cores, memories, partitions, virtual functions,
launches, host link and root core, and the state at power-on. -/

namespace Sys2Proof.Machine

/-! ## Faults, places and small data -/

/-- A fault: code, detail and the value of TRAPV (R341, R386). -/
structure FaultInfo where
  code : Nat
  detail : Nat
  val : Word
deriving DecidableEq, Repr

/-- Mark of a bad 32-byte sector (R84). -/
inductive Poison where
  /-- Its error was passed on to it: its reader faults with POISON. -/
  | poisoned
  /-- An error its reader detects itself: that reader faults with UNCORR. -/
  | uncorrectable
deriving DecidableEq, Repr

/-- Memory cells by flat address (see `flat`), in canonical form. -/
abbrev Memory := List Host.Cell

/-- Part of an access in one 32-byte sector: the sector's place and its bytes, by offset in the sector, each with the
number of its byte in the whole access (R112). -/
structure SectorEv where
  place : Place
  bytes : List (Nat × Nat)
deriving DecidableEq, Repr

/-- A translation held by the TLB (R34). -/
structure TlbEntry where
  va : Nat
  size : Nat
  target : Nat
  host : Bool
  home : Bool
  hcl : Nat
deriving DecidableEq, Repr

/-- A range entry of a rights table (R46); `rights` has R at bit 0 to D at bit 5. -/
structure RightsEntry where
  base : Nat
  len : Nat
  pkg : Nat
  colour : Nat
  rights : Nat
  q : Bool
  grantor : Nat
deriving DecidableEq, Repr

/-- An entry of the PLB (R52). -/
structure PlbEntry where
  owner : Nat
  entry : RightsEntry
deriving DecidableEq, Repr

/-- A miss that an access waits on: of the TLB (R34), of the PLB (R53), of the ATS cache with its stage (R36: 0
translation requested, 1 page requested, 2 translation requested again, 3 refused), or the translation by another package
of an access (R38), the 32-byte sector that a host page or another package is asked for (R37, R115), or the answer to an engine's write to
another package through a pointer (R136). `str` is the
requester: the string, or 4 to 7 for the streams of string `str` − 4, 8 for the BCE (on core 4,096 the crypto engine), 9 for the MXU, each
stream and each command asking under a number 1,024 × n higher (see `Stream` and `Cmd`); core 4,100 + p stands for the launch unit of partition p, and 8 + f is its number as it reads for function f. `elts` is what an instruction that pops more elements of a
stream than its buffer holds waits for (R328). -/
inductive Miss where
  | tlb (str va : Nat)
  | plb (str owner pkg off : Nat)
  | host (str vf page : Nat) (write : Bool) (stage : Nat)
  | remote (str pkg off : Nat)
  | data (str : Nat) (place : Place)
  | write (str : Nat) (place : Place) (ptr : Word)
  | elts (str st last : Nat)
deriving DecidableEq, Repr

/-- What a requester's own miss found (R33, R36, R37, R53): the model's own, so that the waiting access uses exactly that
result. `hostAbort` tells that an IDE failure has ended the
request for a page (R412), `noRemote` holds the fault that another package's translation ends with, `sector` the bytes of a sector from outside the package,
`noFlush` that the read failed which was to show stores to the host to have arrived (R412),
`failed` the fault that its request met; with `lost` the packet of its next access over the mesh fails its tag check or is lost (R77). -/
inductive Hand where
  | page (va : Nat) (e : TlbEntry)
  | noPage (va cause : Nat)
  | range (owner pkg off : Nat) (e : RightsEntry)
  | noRange (owner pkg off : Nat)
  | noHost (vf page : Nat)
  | noFlush
  | hostAbort (vf page : Nat)
  | remoteOk (pkg off : Nat)
  | noRemote (pkg off code detail : Nat)
  | sector (place : Place) (d : BitVec 256)
  | failed (place : Place) (code detail : Nat)
  | lost
deriving DecidableEq, Repr

/-! ## Messages and records -/

/-- Where a message goes (R161): a logical core, or the host. -/
inductive MsgDest where
  | core (lcore : Nat)
  | host
deriving DecidableEq, Repr

/-- A message or an ARM (R161, R181, R315). `arm` holds the argument of an ARM; `mon` marks one sent in monitor mode. -/
structure Msg where
  launch : Nat
  dest : MsgDest
  hid : Nat
  key : BitVec 40
  op : Nat
  cnt : Bool
  src : Nat
  payload : BitVec 256
  arm : Option (BitVec 32)
  mon : Bool
deriving DecidableEq, Repr

/-- A message the NI has sent and that has not arrived (R77, R141): the core and the string that sent it; the number that
the string's stores must have passed before it may arrive; whether it holds an outbox slot; the activation; the failed
checks of its tag, and whether its last failure awaits its NACK; and its packet's sequence number, receiving and sending unit (R76); `vf`
is its launch's VF. -/
structure Flight where
  msg : Msg
  fromCore : Nat
  fromStr : Nat
  after : Nat
  slot : Bool
  actId : Nat
  nacks : Nat
  nacked : Bool
  seq : Nat := 0
  unit : Nat := 0
  sender : Nat := 0
  vf : Nat := 0
deriving DecidableEq, Repr

/-- A combining record (R173, R187). `since` is the cycle at which it last became runnable, `ord` the place of
that event in the core's order (R165, R183), and `spill` the spill entry that holds it, if one does. -/
structure Rec where
  launch : Nat
  hid : Nat
  key : BitVec 40
  op : Nat
  src : Nat
  payload : BitVec 256
  count : BitVec 32
  armed : Bool
  c : Bool
  flags : BitVec 8
  wrap : BitVec 32
  nc : Bool
  redo : Nat
  since : Word
  ord : Nat
  spill : Option Nat
deriving DecidableEq, Repr

/-! ## Strings -/

/-- An element of a source stream that has been read: its data or the fault held with it (R328). -/
inductive Elt where
  | data (v : Vec)
  | bad (f : FaultInfo)
deriving DecidableEq, Repr

/-- A pushed element that has not wholly performed (R140), with the place of its push in the string's order and its pointer; `past` are
its events that have performed. -/
structure Push where
  seq : Nat
  ptr : Word
  data : Vec
  evs : List SectorEv
  past : List SectorEv := []
deriving DecidableEq, Repr

/-- A bound stream (R326 to R330). `fetched` are the elements read and not popped, by element number; `num` tells bound streams apart, and until
its first access `after` is the number below which its string's accesses must have performed (R140). -/
structure Stream where
  dst : Bool
  base : Word
  strides : Vector (BitVec 32) 5
  extents : Vector (BitVec 16) 5
  owner : BitVec 14
  pos : Nat
  fetched : List (Nat × Elt)
  pushes : List Push
  num : Nat := 0
  after : Option Nat := none
deriving DecidableEq, Repr

/-- A store in the store buffer (R275): the events that have not performed, its data by byte number, its place in the
string's order, whether its home is near (R98), its scope if it is a release, and what it was checked against (R60); for a
vector store also the pointer of each element, by its byte number (R310, R390). `past` are its events that have performed (R140). -/
structure Store where
  seq : Nat
  evs : List SectorEv
  data : BitVec 4096
  near : Bool
  rel : Option Scope
  owner : BitVec 14
  ptr : Word
  ptrs : List (Nat × Word) := []
  launch : Option Nat
  past : List SectorEv := []
deriving DecidableEq, Repr

/-- What an outstanding entry of the load table does with its bytes. -/
inductive LoadDst where
  /-- A scalar load (R274). -/
  | x (rd : XReg) (kind : LdKind)
  /-- A vector load: the register of byte 0 of plane 0, and 64 bytes for each of its `n` planes (R309). -/
  | v (rd : VReg) (n : Nat)
  /-- A vector load whose register names a stream bound for writing: the events of the pushes, by plane (R233). -/
  | p (rd : VReg) (planes : List (List SectorEv))
  /-- An atomic with its operands (R278 to R280); the last field is the rounding mode of a FAMO. -/
  | amo (rd : XReg) (f : AtomFn) (size : Nat) (a b : BitVec 128) (mode : BitVec 2)
deriving DecidableEq, Repr

/-- A load or an atomic that has issued (R99, R285): events that have not performed, bytes that have come, the first
fault met by its lowest byte, and what is needed to raise that fault precisely. `sure` marks one that will not fault, so that
later instructions run before it performs (R275; log 13), `undo` is the index stream of a gather as it was before the pop (R310), `more` counts
the instructions without an effect that have retired right behind it, `mon` tells the bank of the X registers that it writes, that of
the mode in which it issued (R343), `unsent` are its events outside the package whose requests wait for earlier accesses, and a `dead` one belongs to an activation that
has been rolled back: nothing comes of it any more (R380). -/
structure Load where
  seq : Nat
  dst : LoadDst
  evs : List SectorEv
  got : List (Nat × Byte)
  bad : Option (Nat × FaultInfo)
  flags : BitVec 5
  near : Bool
  acq : Option Scope
  rel : Option Scope := none
  owner : BitVec 14
  ptr : Word
  ptrs : List (Nat × Word) := []
  pc : Word
  sure : Bool := false
  undo : Option (Nat × Stream) := none
  more : Nat := 0
  mon : Bool := false
  unsent : List SectorEv := []
  dead : Bool := false
deriving DecidableEq, Repr

/-- An activation (R163, R166 to R168). `id` tells the activations of a core apart; `jmarks` are the marks of the sectors of the
lines that the journal holds, by sector of the slice. -/
structure Activation where
  id : Nat
  launch : Nat
  trig : Rec
  epri : Nat
  ec : Bool
  rst : Bool
  outbox : List Msg
  journal : List (Nat × Vec)
  jmarks : List (Nat × Poison)
  mask0 : Option (BitVec 64)
deriving DecidableEq, Repr

/-- What a string is doing (R165, R316, R346, R393). -/
inductive Run where
  /-- Free for selection. -/
  | free
  /-- Runs an activation, or the monitor. -/
  | running
  /-- Stopped: by the end of its launch, a fence, or a fault in monitor mode. -/
  | stopped
deriving DecidableEq, Repr

/-- A sector that an engine command has read: the number of the pointers to it, its place, and its bytes with the fault of a bad sector, or
no bytes with the fault that its access met. -/
structure SectorRead where
  sec : Nat
  place : Place
  bytes : List Byte
  bad : Option FaultInfo
deriving DecidableEq, Repr

/-- An engine command with what ENQ sampled (R134, R252, R349) and how far it has got (R368, R369). `got` are the sectors that it has
read, a sector that the command itself has then written standing there once more (R133, R135, R362), `num` tells the commands of an
engine apart, and until its first access `after` is the number below which its string's accesses must have performed (R134). -/
structure Cmd where
  word : BitVec 256
  shape : BitVec 512
  owner : BitVec 14
  ity : Bool
  mscla : Word
  mxinj : Word
  launch : Option Nat
  str : Nat
  actId : Nat
  tmpl : Word
  ring : Option (Nat × BitVec 32)
  waitOn : Option (Nat × BitVec 32)
  waited : Bool
  done : Nat
  fin : Option (Option FaultInfo)
  got : List SectorRead := []
  num : Nat := 0
  after : Option Nat := none
deriving DecidableEq, Repr

/-- What a string waits for beside its own accesses. -/
inductive Wait where
  | none
  /-- ENQ: queue space and a ring slot (R324). -/
  | enq (eng : Engine) (cmd : Cmd) (ring : Option Nat)
  /-- BAR: the generation it waits to pass (R159). -/
  | bar (gen : Nat)
  /-- RWAIT: the ring and the index (R322). -/
  | ring (g j : Nat)
  /-- RWAIT whose ring has been initialised or freed since (R322). -/
  | ringLost
  /-- GRANT or REVOKE: the register that takes the status when the rights unit returns it (R60). -/
  | rights (rd : XReg)
  /-- LNCH: the record that it has copied, while the launch unit has no room for it (R319). -/
  | lnch (record : BitVec 1024)
  /-- IDLE (R347). -/
  | idle
deriving DecidableEq, Repr

/-- One string (R16, R287, R337). `routed`: MISROUTE has counted the fetch of its instruction under way (R73). -/
structure Str where
  run : Run
  pc : Word
  x : Vector Word 32
  xm : Vector Word 32
  v : Vector Vec 32
  m : Vector (BitVec 64) 8
  st : Vector (Option Stream) 4
  owner : BitVec 14
  lvl : BitVec 2
  pp : BitVec 2
  jord : BitVec 2
  fflg : BitVec 5
  jflg : BitVec 15
  vrnd : BitVec 2
  amax : BitVec 33
  mfmt : Bool
  mscla : Word
  mxinj : Word
  trapc : BitVec 18
  trapv : Word
  trappc : Word
  act : Option Activation
  sb : List Store
  lds : List Load
  seq : Nat
  hostDirty : Bool
  flush : Option Nat
  wait : Wait
  inHand : List Hand
  routed : Bool
deriving DecidableEq, Repr

/-! ## Cores -/

/-- A ring object (R321). -/
structure Ring where
  v : Bool
  s : Nat
  l : BitVec 32
  a : BitVec 32
  filled : List Nat
  pend : Nat
deriving DecidableEq, Repr

/-- A macro of the MXU (R353). The tile is sparse: an unlisted byte is 0. -/
structure Macro where
  tile : Memory
  sb : BitVec 32
  ity : Bool
  csum : List (Nat × Int)
  poison : Bool
  cleared : Bool
deriving DecidableEq, Repr

/-- The MXU of a core (R353, R372). Accumulator elements by row × 128 + column; `accBad` are the poisoned 32-byte sectors, by
row × 16 + sector. -/
structure Mxu where
  holder : Option Nat
  macros : Vector Macro 4
  acc : Map (BitVec 32)
  accBad : List Nat
  queue : List Cmd
  err : BitVec 8
deriving DecidableEq, Repr

/-- A launch on one core (R337, R371, R383). `wearu` is in units of 2^-40 wear unit (R442). -/
structure OnCore where
  lcore : Nat
  wbase : Nat
  strs : List Nat
  mask : BitVec 64
  mxcorr : BitVec 32
  opcnt : Word
  wearu : Nat
deriving DecidableEq, Repr

/-- What a core has saved of a VF (R383): the launches whose state the block in the save area holds, in its order; what the bytes of the
block do not tell, the restore reading the rest there (log 18); and the cycle from which the VF was descheduled (R189). -/
structure SaveBlock where
  live : List Nat
  strs : List (Nat × Str)
  records : List Rec
  rings : List (Nat × Ring)
  bce : List Cmd
  mxu : Mxu
  cycle : Word
deriving DecidableEq, Repr

/-- Registers of one VF on one core (R337, R384), and its save block. -/
structure VfCore where
  amofb : Bool
  vtime : Word
  stolen : Word
  saved : Option SaveBlock
deriving DecidableEq, Repr

/-- Progress of a switch on one core (R380, R381); `since` is the core's cycle at which SWITCH came. -/
inductive CoreSw where
  | none
  | told (out inn : Nat) (since : Word)
  | saved
  | go (inn : Nat)
  | restored
deriving DecidableEq, Repr

/-- A HOLD at one core (R60): the owners named, or every owner; the range; whether accesses drain; and how far it is. -/
structure HoldReq where
  owners : Option (List Nat)
  pkg : Nat
  lo : Nat
  hi : Nat
  drain : Bool
  removed : Bool
  acked : Bool
deriving DecidableEq, Repr

/-- State of a core's life (R443). -/
inductive WState where
  | service | derated | drained | retired
deriving DecidableEq, Repr

/-- Wear of one core (R440 to R446): lifetime charge in units of 2^-40 wear unit, readings and baselines, the two counts
of R443, the cause and the state, and the stress factor in force. -/
structure Wear where
  wear : Nat
  bti : Nat
  em : Nat
  btib : BitVec 32
  emb : BitVec 32
  cntDerated : Nat
  cntDrained : Nat
  cause : BitVec 3
  state : WState
  stress : BitVec 16
  throttled : Bool
deriving DecidableEq, Repr

/-- One core (R16). `held` is what the misses of its streams and engines found; `icache` the sectors of its instruction cache by
flat address (R16, R156); `niStop` the launches whose messages its NI has stopped accepting for want of room (R188). -/
structure Core where
  part : Option Nat
  vf : Option Nat
  strs : List (Nat × Str)
  res : List (Nat × OnCore)
  records : List Rec
  stamp : Nat
  rings : List (Nat × Ring)
  bce : List Cmd
  mxu : Mxu
  tlb : List TlbEntry
  plb : List PlbEntry
  misses : List Miss
  held : List (Nat × Hand)
  icache : List (Nat × BitVec 256)
  niStop : List Nat
  hold : Option HoldReq
  cycle : Word
  mentry : Word
  vfs : List (Nat × VfCore)
  sw : CoreSw
  monFault : Option FaultInfo
  wear : Wear
deriving DecidableEq, Repr

/-! ## Launches, functions and partitions -/

/-- Where a launch stands (R155, R162, R373). -/
inductive LPhase where
  /-- Queued or waiting in its VF's queue. -/
  | queued
  /-- Admitted; its cores have not received START. -/
  | admitted
  | running
  /-- Its state departs; then its completion record is written (R95, R146). `keep` tells an end by ENDL, which commits the
  copies of a shadow launch (R169). -/
  | ending (status value : Nat) (keep : Bool)
deriving DecidableEq, Repr

/-- The barrier of a quire (R159): generation and cores that have arrived. -/
structure Barrier where
  gen : Nat
  arrived : List Nat
deriving DecidableEq, Repr

/-- A launch (R154 to R164, R407). `parent` is the launch that submitted it, `pcore` the core for which the message to it is (R162). `ends` are the statuses on their
way to the launch unit, each with whether ENDL sent it; `reading` tells that its decision waits for a read outside the package. -/
structure Launch where
  serial : Word
  vf : Nat
  part : Nat
  record : BitVec 1024
  issuer : Option (BitVec 14)
  parent : Option Nat
  pcore : Option Nat := none
  phase : LPhase
  place : List Nat
  handlers : BitVec 4096
  pblocks : List Nat
  replays : Nat
  replayDue : Bool
  shadow : Nat
  barriers : List (Nat × Barrier)
  ends : List (Nat × Nat × Bool)
  reading : Bool
deriving DecidableEq, Repr

/-- TDISP state of a function (R413). -/
inductive Tdi where
  | unlocked | locked | run | error
deriving DecidableEq, Repr

/-- An entry waiting to be written to an event ring (R406): its 512 bits with P = 0, whether it raises vector 1, and
whether it is a type 4 entry. -/
structure EventEntry where
  bits : BitVec 512
  notify : Bool
  msgOf : Option (Nat × Nat)
deriving DecidableEq, Repr

/-- A request to the host agent (R411): its id, and the atomic that waits for the reply. -/
structure AgentReq where
  id : Nat
  core : Nat
  str : Nat
  seq : Nat
deriving DecidableEq, Repr

/-- State of one function, a VF or the PF as number 0 (R401, R402, R404 to R413). `pri` holds the outstanding page requests:
slot, incarnation, page, and whether for writing; `inval` the invalidations whose completion is due. -/
structure Vf where
  part : Option Nat
  lrbase : Word
  lrcfg : Word
  erbase : Word
  ercfg : Word
  agto : Word
  hwlo : Word
  hwhi : Word
  lh : BitVec 16
  lp : BitVec 16
  ed : BitVec 16
  ep : BitVec 16
  le : Bool
  ee : Bool
  lcode : BitVec 4
  ecode : BitVec 4
  stale : BitVec 32
  incarn : Nat
  lcount : BitVec 48
  entries : List EventEntry
  erchk : Bool
  save : Nat
  parea : Nat
  pareaLen : Nat
  pfree : List Nat
  pasid : BitVec 20
  busMaster : Bool
  atomicReq : Bool
  tdi : Tdi
  ideKeyed : List Nat
  pri : List (Nat × Nat × Nat × Bool)
  inval : List (Nat × Nat)
  agents : List AgentReq
  nextAgent : BitVec 16
deriving DecidableEq, Repr

/-- A GRANT or REVOKE in the rights unit (R60). -/
structure RightsReq where
  core : Nat
  str : Nat
  isGrant : Bool
  xa : Word
  xb : Word
  xc : Word
  owner : BitVec 14
deriving DecidableEq, Repr

/-- The rights unit of a partition (R60): requests in order of arrival, the first being performed; whether it has been
validated with status 0 and HOLD sent, and whether the tables are written. -/
structure RightsUnit where
  queue : List RightsReq
  validated : Bool
  written : Bool
deriving DecidableEq, Repr

/-- A member package of a partition's domain set (R37, R404, R414). -/
structure Member where
  pkg : Nat
  part : Nat
  weAdded : Bool
  peerAdded : Bool
  rekeys : Nat
deriving DecidableEq, Repr

/-- A poisoned span (R89, R90). -/
structure Span where
  die : Nat
  pa : Nat
  len : Nat
  lvl : Nat
deriving DecidableEq, Repr

/-- PSTATE (R403). -/
inductive PState where
  | free | stopped | running | fenced
deriving DecidableEq, Repr

/-- Where the launch unit's rotation stands (R378, R380, R381). -/
inductive Rot where
  | none
  | steady (timed : Bool)
  | saving (out inn : Nat)
  | restoring (inn : Nat)
deriving DecidableEq, Repr

/-- One partition (R42, R43, R403, R404, R436, R438). -/
structure Partition where
  pstate : PState
  ownlim : Nat
  clusters : List Nat
  granules : List Nat
  home : Nat
  root : Nat
  members : List Member
  pool : List Nat
  image : Word
  imageLen : Nat
  fwd : Bool
  keyGen : Nat
  monMeas : BitVec 384
  rights : RightsUnit
  qt : Vector Word 32
  qpos : Nat
  sched : Option Nat
  rot : Rot
  serial : Word
  meters : Vector Word 16
  wearSub : Nat
  wseq : Word
  whead : BitVec 384
  wlbase : Word
  wlcfg : Word
  wlpasid : Word
  spans : List Span
  notices : List Span
  noticeDue : List Word
  stopping : Bool
  resetKind : Option Bool
deriving DecidableEq, Repr

/-! ## Host link, root core and device -/

/-- A request sent to the host that awaits its completion (R147, R281, R411). -/
inductive HostReq where
  | load (core str seq : Nat) (ev : SectorEv)
  /-- `agent` is AMOFB as sampled at issue (R419). -/
  | atomic (core str seq : Nat) (agent : Bool)
  | flush (core str : Nat)
  /-- A sector that a fetch, an instruction's own read, a stream, an engine or a launch unit reads (R115); see `Miss`. -/
  | read (core who : Nat) (place : Place)
deriving DecidableEq, Repr

/-- A translation in the ATS cache (R36). -/
structure AtsEntry where
  vf : Nat
  pasid : BitVec 20
  page : Nat
  target : Nat
  reads : Bool
  writes : Bool
deriving DecidableEq, Repr

/-- Traffic that leaves the package, in order (R36, R147, R150, R397, R400, R406, R414, R439). Host addresses are the
translated ones (R36); `relaxed` is the Relaxed Ordering attribute. -/
inductive Out where
  | hostRead (vf addr : Nat) (id : Nat) (relaxed : Bool)
  | hostWrite (vf addr : Nat) (bytes : List (Nat × Byte)) (relaxed : Bool)
  | hostAtomic (vf addr size : Nat) (f : AtomFn) (a b : BitVec 128) (id : Nat) (relaxed : Bool)
  | hostFlush (vf id : Nat)
  | atsRequest (vf page : Nat)
  | pageRequest (vf page slot incarn : Nat) (write : Bool)
  | invalidateDone (vf page len : Nat)
  /-- One of the two writes of an event entry: `n` bytes from `off` of its slot on (R406). -/
  | eventEntry (vf slot off n : Nat) (bits : BitVec 512) (relaxed : Bool)
  | msix (fn vector : Nat) (relaxed : Bool)
  | watermark (part pasid addr : Nat) (record : BitVec 2048)
  | novinoRead (pkg off : Nat) (bytes : List Nat)
  | novinoAtomic (pkg off size : Nat) (f : AtomFn) (a b : BitVec 128) (mode : BitVec 2)
  | novinoTranslate (pkg off : Nat)
  | novinoWrite (pkg off : Nat) (bytes : List (Nat × Byte)) (poison : Bool)
  | hostReply (fn : Nat) (old : BitVec 128)
  | regReply (fn : Nat) (val : Word)
  | novinoReply (pkg : Nat) (bytes : List (Nat × Byte)) (err : Option (Nat × Nat))
  | novinoNack (pkg : Nat) (reset : Bool)
  | completerAbort (fn : Nat)
  | unsupported (fn : Nat)
  | spdm (fn : Nat) (code : Nat) (param : Nat) (body : List Byte)
deriving DecidableEq, Repr

/-- State of a function's SPDM connection (R434). -/
inductive SpdmState where
  | none | version | capabilities | algorithms
deriving DecidableEq, Repr

/-- State of a function's SPDM session. -/
inductive SpdmSession where
  | none | exchanged | open
deriving DecidableEq, Repr

/-- A function's SPDM connection (R434): state, version, and the messages that its transcripts hold: those of the connection's set-up, which
begin each of them, those of the certificate exchange (M1), and those of the session (TH); the session. -/
structure Spdm where
  state : SpdmState
  version : Nat
  setup : List Byte
  certs : List Byte
  keys : List Byte
  session : SpdmSession
deriving DecidableEq, Repr

/-- A SHA-384 context of the crypto engine (R364). -/
structure ShaCtx where
  h : List Word
  buf : List Byte
  len : Nat
deriving DecidableEq, Repr

/-- State of the bring-up (R448, R449), with the reference operating point of the ageing monitors (R440); `tripped` tells that the compute
dies lose their power once every partition has gone through its reset (R452). -/
structure Device where
  rdy : Bool
  fail : Bool
  phase : BitVec 4
  bstep : BitVec 4
  unit : BitVec 16
  powered : Bool
  coreMap : List (Nat × WState)
  records : List (Nat × BitVec 256)
  refPoint : BitVec 384
  ports : List (Nat × Nat)
  tripped : Bool := false
  insecure : List Nat := []
deriving DecidableEq, Repr

/-- The command mailbox (R404). `run` is the command as the write that started it gave it, and `begun` the model's own: the command has
started and has not yet completed. -/
structure Mailbox where
  begun : Bool
  cmd : Word
  stat : Word
  args : Vector Word 8
  res : Word
  run : Word := 0
deriving DecidableEq, Repr

/-- The root core's own state (R364, R366, R428 to R434, R446); `bankReports` are the SRAM banks that controllers have
reported as failed, with their shares (R81). -/
structure Root where
  meas : Vector (BitVec 384) 16
  crypto : List Cmd
  sha : Vector (Option ShaCtx) 4
  drbgFailed : Bool
  drbgFailures : Nat
  drawn : Nat
  stage1 : List Byte
  keyHash : BitVec 384
  minSvn : Nat
  flash : List (Nat × BitVec 256)
  aliasKey : BitVec 384
  bankReports : List (Nat × Nat)
  mbox : Mailbox
  spdm : List (Nat × Spdm)
deriving DecidableEq, Repr

/-- Which agent moves next: a string issues, an event of `inputs` is taken, or a unit takes the step of that name. -/
inductive Turn where
  | issue (core str : Nat)
  | input
  | enqAppend (core str : Nat)
  | mxu (core : Nat)
  | bce (core : Nat)
  | crypto
  | completion (core : Nat) (eng : Engine)
  | writeAnswer (core : Nat)
  | storeAck (core str ix ev : Nat)
  | noticePost (core str ix : Nat)
  | loadResponse (core str ix ev : Nat)
  | tlbWalk (core : Nat)
  | plbSearch (core : Nat)
  | rightsRequest (part : Nat)
  | hold (core : Nat)
  | holdAcknowledge (core : Nat)
  | rightsTableWrite (part : Nat)
  | release (part : Nat)
  | arrival (ix : Nat)
  | recordSelection (core str : Nat)
  | replay (launch : Nat)
  | streamElementRead (core str st ix : Nat)
  | streamPush (core str st ix : Nat)
  | decide (vf : Nat)
  | commitBlock (key block : Nat)
  | copyBack (key block : Nat)
  | startMessage (launch : Nat)
  | launchEnd (part ix : Nat)
  | completionRecord (launch : Nat)
  | switch (core : Nat)
  | go (core : Nat)
  | quantumStart (part : Nat)
  | eventEntryWrite (vf : Nat)
  | poisonNotice (part : Nat)
  | noticeTrap (part : Nat)
  | monitorFaultReport (core : Nat)
deriving DecidableEq, Repr

/-- The whole package. `turn` is the move already chosen, if one is; `tick` freshens the free values; `cur` is the string
whose instruction is executing; `inputs` are the events from outside that have not been taken. `rows` are the rows of slices
and SRAM dies whose valid bit is 1, by flat address (R70, R92, R94); `ctrs` the counters of the integrity tree that are not 0, by
level and number of the child (R86); `redirects` are the blocks that the key of a shadow launch has redirected, and `copyAt` the blocks of the
pool in which the copies lie, by number of the copy (R170); `switched` the blocks of a committed shadow launch that accesses reach in their copy until it is
copied back (R170); `seqs` the next sequence number of an NI under a partition's key (R76); and `counts` what each NI has discarded and
counted, by unit number (R95, R171, R396, R397). -/
structure State where
  turn : Option Turn
  tick : Nat
  cur : Nat × Nat
  inputs : List Instr
  pkg : Nat
  cores : List (Nat × Core)
  mem : Memory
  bad : List (Nat × Poison)
  badBanks : List (Nat × Nat)
  redirects : List (Nat × Nat)
  copyAt : List (Nat × Nat)
  switched : List (Nat × Nat)
  rows : List Nat
  ctrs : List (Nat × BitVec 56)
  seqs : List (Nat × BitVec 78)
  counts : List (Nat × Nat)
  parts : List (Nat × Partition)
  vfs : List (Nat × Vf)
  launches : List (Nat × Launch)
  nextId : Nat
  net : List Flight
  ats : List AtsEntry
  hostReqs : List (Nat × HostReq)
  out : List Out
  dev : Device
  root : Root
deriving DecidableEq, Repr

/-! ## Outcomes -/

/-- Why a step stops with a fault. -/
inductive Fault where
  /-- Raised by `step` alone: the turn names a core or a string that the package does not have (R13, R16). Safe: no such
  move exists. -/
  | noSuchString (core str : Nat)
deriving DecidableEq, Repr

/-- Why an instruction is refused. -/
inductive Refusal where
  /-- Raised by an arm of `exec` alone, for an instruction that has no meaning yet. Safe. -/
  | notModelled (mnemonic : String)
deriving DecidableEq, Repr

/-- What an instruction or an event answers. -/
abbrev Out1 := Host.Outcome State Fault Refusal

/-! ## The state at power-on -/

/-- A string at power-on (R163, R337; log 4). -/
def Str.init : Str :=
  { run := .free, pc := 0, x := Vector.replicate 32 0, xm := Vector.replicate 32 0, v := Vector.replicate 32 0,
    m := Vector.replicate 8 0, st := Vector.replicate 4 none, owner := 0, lvl := 0, pp := 0, jord := 0, fflg := 0,
    jflg := 0, vrnd := 0, amax := 0, mfmt := false, mscla := 0, mxinj := 0, trapc := 0, trapv := 0, trappc := 0,
    act := none, sb := [], lds := [], seq := 0, hostDirty := false, flush := none, wait := .none, inHand := [], routed := false }

/-- A free ring (R321). -/
def Ring.init : Ring := { v := false, s := 0, l := 0, a := 0, filled := [], pend := 0 }

/-- A cleared macro (R92, R353). -/
def Macro.init : Macro := { tile := [], sb := 0, ity := false, csum := [], poison := false, cleared := true }

/-- A cleared MXU (R91, R353). -/
def Mxu.init : Mxu :=
  { holder := none, macros := Vector.replicate 4 Macro.init, acc := [], accBad := [], queue := [], err := 0 }

/-- Registers of a VF on a core when it is created (R337, R384). -/
def VfCore.init : VfCore := { amofb := false, vtime := 0, stolen := 0, saved := none }

/-- Wear at power-on: state SERVICE (R443); baselines 0 and stress 1.0 (log 7). -/
def Wear.init : Wear :=
  { wear := 0, bti := 0, em := 0, btib := 0, emb := 0, cntDerated := 0, cntDrained := 0, cause := 0, state := .service,
    stress := 0x100, throttled := false }

/-- A core at power-on. -/
def Core.init : Core :=
  { part := none, vf := none, strs := [], res := [], records := [], stamp := 0, rings := [], bce := [], mxu := Mxu.init,
    tlb := [], plb := [], misses := [], held := [], icache := [], niStop := [], hold := none, cycle := 0, mentry := 0, vfs := [], sw := .none,
    monFault := none, wear := Wear.init }

/-- A function at power-on (R401, R402). -/
def Vf.init : Vf :=
  { part := none, lrbase := 0, lrcfg := 0, erbase := 0, ercfg := 0, agto := 0xFFFF, hwlo := 0, hwhi := 0, lh := 0,
    lp := 0, ed := 0, ep := 0, le := false, ee := false, lcode := 0, ecode := 0, stale := 0, incarn := 0, lcount := 0,
    entries := [], erchk := false, save := 0, parea := 0, pareaLen := 0, pfree := [], pasid := 0, busMaster := false,
    atomicReq := false, tdi := .unlocked, ideKeyed := [], pri := [], inval := [], agents := [], nextAgent := 0 }

/-- An idle rights unit (R60). -/
def RightsUnit.init : RightsUnit := { queue := [], validated := false, written := false }

/-- A partition number that is FREE (R403, R436). -/
def Partition.init : Partition :=
  { pstate := .free, ownlim := 0, clusters := [], granules := [], home := 0, root := 0, members := [], pool := [],
    image := 0, imageLen := 0, fwd := true, keyGen := 0, monMeas := 0, rights := RightsUnit.init,
    qt := Vector.replicate 32 0, qpos := 0, sched := none, rot := .none, serial := 0, meters := Vector.replicate 16 0,
    wearSub := 0, wseq := 0, whead := 0, wlbase := 0, wlcfg := 0, wlpasid := 0, spans := [], notices := [],
    noticeDue := [], stopping := false, resetKind := none }

/-- A launch before anything is known of it. -/
def Launch.init : Launch :=
  { serial := 0, vf := 0, part := 0, record := 0, issuer := none, parent := none, phase := .queued, place := [],
    handlers := 0, pblocks := [], replays := 0, replayDue := false, shadow := 0, barriers := [], ends := [],
    reading := false }

/-- A connection on which nothing has been said (R434). -/
def Spdm.init : Spdm := { state := .none, version := 0, setup := [], certs := [], keys := [], session := .none }

/-- The device at power-on, before bring-up (R449). -/
def Device.init : Device :=
  { rdy := false, fail := false, phase := 0, bstep := 0, unit := 0, powered := true, coreMap := [], records := [],
    refPoint := 0, ports := [] }

/-- The root core at power-on: measurements zero (R431); flash and fuses as log 6 says. -/
def Root.init : Root :=
  { meas := Vector.replicate 16 0, crypto := [], sha := Vector.replicate 4 none, drbgFailed := false, drbgFailures := 0,
    drawn := 0, stage1 := [], keyHash := 0, minSvn := 0, flash := [], aliasKey := 0, bankReports := [],
    mbox := { begun := false, cmd := 0, stat := 0, args := Vector.replicate 8 0, res := 0 }, spdm := [] }

/-- The package at power-on: the POWER_ON event is all that has been given to it (R448; log 3). -/
def State.reset : State :=
  { turn := none, tick := 0, cur := (0, 0), inputs := [.powerOn none], pkg := 0, cores := [], mem := [], bad := [],
    badBanks := [], redirects := [], copyAt := [], switched := [], rows := [], ctrs := [], seqs := [], counts := [], parts := [], vfs := [], launches := [], nextId := 0, net := [], ats := [],
    hostReqs := [], out := [], dev := Device.init, root := Root.init }

end Sys2Proof.Machine
end

