-- ==== Sys2Proof/Machine/Assoc.lean ====
section
/-! DEFINITION. Tables kept by number, sparse memory in canonical form, bit fields and pointer arithmetic. -/

namespace Sys2Proof.Machine

/-! ## Tables -/

/-- The entry of number `k`. -/
def mfind {α : Type} : Map α → Nat → Option α
  | [], _ => none
  | (i, v) :: t, k => if i = k then some v else mfind t k

/-- The entry of number `k`, or the default `d`. -/
def mget {α : Type} (d : α) (m : Map α) (k : Nat) : α := (mfind m k).getD d

/-- A table without the entry of number `k`. -/
def mdel {α : Type} (m : Map α) (k : Nat) : Map α := m.filter (fun p => p.1 != k)

/-- Places an entry before the first entry of a higher number. -/
def mins {α : Type} : Map α → Nat → α → Map α
  | [], k, v => [(k, v)]
  | (i, w) :: t, k, v => if k < i then (k, v) :: (i, w) :: t else (i, w) :: mins t k v

/-- Sets the entry of number `k`. -/
def mset {α : Type} (m : Map α) (k : Nat) (v : α) : Map α := mins (mdel m k) k v

/-- Changes the entry of number `k`, which starts from `d` when there is none. -/
def mmod {α : Type} (d : α) (m : Map α) (k : Nat) (f : α → α) : Map α := mset m k (f (mget d m k))

/-! ## Memory -/

/-- The byte at a flat address; an address that is not listed reads zero (R87, R92, R94). -/
def Memory.get (m : Memory) (a : Nat) : Byte := mget 0 m a

/-- Writes one byte; writing zero removes the entry. -/
def Memory.put (m : Memory) (a : Nat) (b : Byte) : Memory := if b = 0 then mdel m a else mset m a b

/-- The canonical form: addresses strictly rising and no zero byte listed. -/
def Memory.wf : Memory → Bool
  | [] => true
  | [(_, b)] => b != 0
  | (a, b) :: (a', b') :: t => b != 0 && decide (a < a') && Memory.wf ((a', b') :: t)

/-- The `n` bytes from address `a` on. -/
def Memory.bytes (m : Memory) (a : Nat) : Nat → List Byte
  | 0 => []
  | n + 1 => m.get a :: Memory.bytes m (a + 1) n

/-- Writes bytes from address `a` on. -/
def Memory.putBytes (m : Memory) (a : Nat) : List Byte → Memory
  | [] => m
  | b :: t => (m.put a b).putBytes (a + 1) t

/-- The little-endian number in a list of bytes (R3). -/
def leNat : List Byte → Nat
  | [] => 0
  | b :: t => b.toNat + 256 * leNat t

/-- The low `n` bytes of a number, least significant first (R3). -/
def leBytes : Nat → Nat → List Byte
  | 0, _ => []
  | n + 1, v => BitVec.ofNat 8 v :: leBytes n (v / 256)

/-- The big-endian number in a list of bytes. -/
def beNat (l : List Byte) : Nat := leNat l.reverse

/-- Reads `n` bytes as a little-endian number. -/
def Memory.num (m : Memory) (a n : Nat) : Nat := leNat (m.bytes a n)

/-- Writes a number as `n` little-endian bytes. -/
def Memory.putNum (m : Memory) (a n v : Nat) : Memory := m.putBytes a (leBytes n v)

/-- Makes every byte of a range zero. -/
def Memory.clear (m : Memory) (a n : Nat) : Memory := m.filter (fun c => !(decide (a ≤ c.1) && decide (c.1 < a + n)))

/-- The cells of a list whose addresses rise from `lo` on and whose bytes are not zero. -/
def Memory.rising : Nat → Memory → Memory
  | _, [] => []
  | lo, (a, b) :: t => if lo ≤ a ∧ b ≠ 0 then (a, b) :: Memory.rising (a + 1) t else Memory.rising lo t

/-- The `n` bytes from `a` on become those of another memory. -/
def Memory.splice (m : Memory) (a n : Nat) (x : Memory) : Memory :=
  m.filter (fun c => decide (c.1 < a)) ++ (Memory.rising a x).filter (fun c => decide (c.1 < a + n))
    ++ m.filter (fun c => decide (a + n ≤ c.1))

/-- The `n` bytes from `a` on, by offset. -/
def Memory.part (m : Memory) (a n : Nat) : Memory :=
  (m.filter (fun c => decide (a ≤ c.1) && decide (c.1 < a + n))).map (fun c => (c.1 - a, c.2))

/-- Bytes given by offset, as they stand from `a` on. -/
def Memory.shift (m : Memory) (a : Nat) : Memory := m.map (fun c => (c.1 + a, c.2))

/-- Flat address of a byte of a core's slice (R70). -/
def sliceFlat (core off : Nat) : Nat := 2 ^ 42 + core * 2 ^ 19 + off

/-- Number of a version of a shadow launch: its partition and its shadow number (R170). -/
def shadowKey (part k : Nat) : Nat := part * 256 + k

/-- Number of the copy of a 4 KiB block (R170). -/
def copyKey (key block : Nat) : Nat := key * 2 ^ 30 + block

/-! ## Fields and pointers -/

/-- Bits [lo + n − 1 : lo] of a number. -/
def field (v lo n : Nat) : Nat := (v >>> lo) % 2 ^ n

/-- Bit `i` of a number. -/
def bitAt (v i : Nat) : Bool := field v i 1 == 1

/-- The signed value of the low `n` bits. -/
def sfield (v n : Nat) : Int := if v % 2 ^ n < 2 ^ (n - 1) then (v % 2 ^ n : Nat) else ((v % 2 ^ n : Nat) : Int) - (2 ^ n : Nat)

/-- 1 or 0. -/
def b2n (b : Bool) : Nat := if b then 1 else 0

/-- The colour, the package index and the offset of a pointer (R24). -/
def ptrColour (p : Word) : Nat := field p.toNat 56 8
/-- See `ptrColour`. -/
def ptrPkg (p : Word) : Nat := field p.toNat 46 10
/-- See `ptrColour`. -/
def ptrOff (p : Word) : Nat := field p.toNat 0 46

/-- next(a, d): adds within the offset, so that colour and package stay (R256). -/
def nextPtr (a : Word) (d : Int) : Word :=
  (BitVec.extractLsb' 46 18 a) ++ (BitVec.extractLsb' 0 46 a + BitVec.ofInt 46 d)

/-- Adds to a counter that saturates at 2^64 − 1 (R436). -/
def satAdd (w : Word) (n : Nat) : Word := if w.toNat + n < 2 ^ 64 then w + BitVec.ofNat 64 n else BitVec.allOnes 64

/-- Replaces element `i` of a list, if it has one. -/
def setAt {α : Type} : List α → Nat → α → List α
  | [], _, _ => []
  | _ :: t, 0, v => v :: t
  | h :: t, i + 1, v => h :: setAt t i v

/-- A list without element `i`. -/
def dropAt {α : Type} : List α → Nat → List α
  | [], _ => []
  | _ :: t, 0 => t
  | h :: t, i + 1 => h :: dropAt t i

/-- 0, 1, …, n − 1. -/
def upTo (n : Nat) : List Nat := List.range n

/-- True when the ranges [a, a + n) and [b, b + k) share a number. -/
def overlaps (a n b k : Nat) : Bool := decide (a < b + k) && decide (b < a + n)

end Sys2Proof.Machine
end

