-- ==== Sys2Proof/Machine/Ops.lean ====
section
/-! DEFINITION. The named operations over the state: access to its parts, registers, retiring an instruction, early
commit and rollback, forwarding of fault records, and taking a fault or a trap. -/

namespace Sys2Proof.Machine

/-! ## Parts of the state -/

/-- Core `c` (4,096 is the root core). -/
def State.core (s : State) (c : Nat) : Core := mget Core.init s.cores c
/-- Replaces a core. -/
def State.setCore (s : State) (c : Nat) (v : Core) : State := { s with cores := mset s.cores c v }
/-- Changes a core. -/
def State.modCore (s : State) (c : Nat) (f : Core → Core) : State := s.setCore c (f (s.core c))
/-- String `k` of a core. -/
def Core.str (c : Core) (k : Nat) : Str := mget Str.init c.strs k
/-- Replaces a string of a core. -/
def Core.setStr (c : Core) (k : Nat) (v : Str) : Core := { c with strs := mset c.strs k v }
/-- String `k` of core `c`. -/
def State.str (s : State) (c k : Nat) : Str := (s.core c).str k
/-- Replaces a string. -/
def State.setStr (s : State) (c k : Nat) (v : Str) : State := s.modCore c (fun co => co.setStr k v)
/-- Changes a string. -/
def State.modStr (s : State) (c k : Nat) (f : Str → Str) : State := s.setStr c k (f (s.str c k))
/-- The string whose instruction is executing. -/
def State.curStr (s : State) : Str := s.str s.cur.1 s.cur.2
/-- Replaces that string. -/
def State.setCurStr (s : State) (t : Str) : State := s.setStr s.cur.1 s.cur.2 t
/-- Its core. -/
def State.curCore (s : State) : Core := s.core s.cur.1
/-- Partition `p`. -/
def State.part (s : State) (p : Nat) : Partition := mget Partition.init s.parts p
/-- Changes a partition. -/
def State.modPart (s : State) (p : Nat) (f : Partition → Partition) : State :=
  { s with parts := mset s.parts p (f (s.part p)) }
/-- Function `f`. -/
def State.vf (s : State) (f : Nat) : Vf := mget Vf.init s.vfs f
/-- Changes a function. -/
def State.modVf (s : State) (f : Nat) (g : Vf → Vf) : State := { s with vfs := mset s.vfs f (g (s.vf f)) }
/-- The launch of internal number `l`. -/
def State.launch (s : State) (l : Nat) : Option Launch := mfind s.launches l
/-- Changes a launch, if there is one of that number. -/
def State.modLaunch (s : State) (l : Nat) (f : Launch → Launch) : State :=
  match s.launch l with
  | some v => { s with launches := mset s.launches l (f v) }
  | none => s
/-- A launch on a core. -/
def Core.on (c : Core) (l : Nat) : Option OnCore := mfind c.res l
/-- Changes a launch on a core, if it is there. -/
def State.modOn (s : State) (c l : Nat) (f : OnCore → OnCore) : State :=
  match (s.core c).on l with
  | some v => s.modCore c (fun co => { co with res := mset co.res l (f v) })
  | none => s
/-- Registers of a VF on a core. -/
def Core.vfc (c : Core) (f : Nat) : VfCore := mget VfCore.init c.vfs f
/-- Sends traffic out of the package. -/
def State.emit (s : State) (o : Out) : State := { s with out := s.out ++ [o] }
/-- The counter that freshens free values goes on. -/
def State.bump (s : State) : State := { s with tick := s.tick + 1 }

/-- The launch a string belongs to. -/
def Str.launch (t : Str) : Option Nat := t.act.map (·.launch)

/-! ## Launch records (R154) and handler entries (R160) -/

/-- A field of the launch record. -/
def Launch.f (l : Launch) (lo n : Nat) : Nat := field l.record.toNat lo n
/-- NLCORE. -/
def Launch.nlcore (l : Launch) : Nat := (l.f 328 8 + 1) * l.f 320 8 * 16
/-- Bytes of the slice window of each core. -/
def Launch.winBytes (l : Launch) : Nat := l.f 344 8 * 4096
/-- Parameter block length. -/
def Launch.plen (l : Launch) : Nat := l.f 160 32
/-- The owner under which it runs. -/
def Launch.owner (l : Launch) : Nat := l.f 16 14
/-- SHADOW. -/
def Launch.isShadow (l : Launch) : Bool := bitAt l.record.toNat 8
/-- Strings per core. -/
def Launch.nstr (l : Launch) : Nat := l.f 336 2 + 1
/-- The handler table entry of a handler. -/
def Launch.handler (l : Launch) (hid : Nat) : Nat := field l.handlers.toNat (64 * hid) 64
/-- V of a handler. -/
def Launch.handlerV (l : Launch) (hid : Nat) : Bool := bitAt (l.handler hid) 32
/-- Priority of a handler. -/
def Launch.handlerPri (l : Launch) (hid : Nat) : Nat := field (l.handler hid) 34 2
/-- The core of a logical index. -/
def Launch.phys (l : Launch) (lc : Nat) : Nat := l.place.getD lc 4095

/-! ## Registers -/

/-- Reads an X register of the bank of the string's mode; X0 reads zero (R255, R343). -/
def Str.getX (t : Str) (r : XReg) : Word :=
  if r = 0 then 0 else if t.lvl = 0 then t.x[r.toNat]'(r.isLt) else t.xm[r.toNat]'(r.isLt)

/-- Writes an X register of the bank of the string's mode; a write to X0 is discarded (R255, R343). -/
def Str.setX (t : Str) (r : XReg) (v : Word) : Str :=
  if r = 0 then t
  else if t.lvl = 0 then { t with x := t.x.set r.toNat v r.isLt }
  else { t with xm := t.xm.set r.toNat v r.isLt }

/-- Reads an M register; M0 reads all ones (R163). -/
def Str.getM (t : Str) (r : MReg) : BitVec 64 := if r = 0 then BitVec.allOnes 64 else t.m[r.toNat]'(r.isLt)

/-- Writes an M register; M0 stays all ones. -/
def Str.setM (t : Str) (r : MReg) (v : BitVec 64) : Str := if r = 0 then t else { t with m := t.m.set r.toNat v r.isLt }

/-- Reads a V register, streams aside. -/
def Str.rawV (t : Str) (r : VReg) : Vec := t.v[r.toNat]'(r.isLt)

/-- Writes a V register, streams aside. -/
def Str.setV (t : Str) (r : VReg) (v : Vec) : Str := { t with v := t.v.set r.toNat v r.isLt }

/-- The register that follows a register of a pair or group. -/
def regUp (r : BitVec 5) (k : Nat) : BitVec 5 := r + BitVec.ofNat 5 k

/-! ## Meters, cycles and wear -/

/-- Adds to a meter (R436). -/
def Partition.meter (p : Partition) (i n : Nat) : Partition :=
  if h : i < 16 then { p with meters := p.meters.set i (satAdd (p.meters[i]'h) n) h } else p

/-- Adds to a meter of a core's partition. -/
def State.meterOf (s : State) (c i n : Nat) : State :=
  match (s.core c).part with
  | some p => s.modPart p (fun q => q.meter i n)
  | none => s

/-- Adds a wear charge, in units of 2^-40, to a partition's WEAR meter (R442). -/
def Partition.chargeWear (p : Partition) (u : Nat) : Partition :=
  let w := p.wearSub + u
  { p with wearSub := w, meters := p.meters.set 12 (satAdd 0 (min (w / 2 ^ 24) (2 ^ 64 - 1))) (by decide) }

/-- Some string of the core holds an activation or runs monitor code (R436, R442). -/
def Core.busy (co : Core) : Bool := co.strs.any (fun p => p.2.act.isSome || (p.2.run == .running && p.2.lvl != 0))

/-- The launch of the lowest-numbered string of a core that holds an activation (R442). -/
def Core.lowest (co : Core) : Option Nat := [0, 1, 2, 3].findSome? (fun k => (mfind co.strs k).bind (fun t => t.act.map (·.launch)))

/-- Adds a wear charge to a launch on a core (R442). -/
def chargeLaunch (res : List (Nat × OnCore)) (l : Option Nat) (u : Nat) : List (Nat × OnCore) :=
  match l with
  | some i => match mfind res i with
    | some o => mset res i { o with wearu := o.wearu + u }
    | none => res
  | none => res

/-- `n` cycles pass on a core, in the first of which a string issues if `issued`, for launch `l`; `live` are the VFs that are runnable
there (R337, R384, R436, R442). -/
def Core.pass (co : Core) (live : List Nat) (issued : Bool) (l : Option Nat) (n : Nat) : Core :=
  let u := if co.busy then co.wear.stress.toNat * 256 else 0
  let m := if issued then Nat.min 1 n else 0
  let res := chargeLaunch (chargeLaunch co.res l (m * u)) co.lowest ((n - m) * u)
  let cnt (q : Nat × VfCore) : Nat × VfCore :=
    if !live.contains q.1 then q
    else if co.vf = some q.1 ∧ (co.sw = .none ∨ co.sw = .restored) then (q.1, { q.2 with vtime := q.2.vtime + BitVec.ofNat 64 n })
    else (q.1, { q.2 with stolen := q.2.stolen + BitVec.ofNat 64 n })
  { co with cycle := co.cycle + BitVec.ofNat 64 n, res := res, vfs := co.vfs.map cnt,
            wear := { co.wear with wear := co.wear.wear + n * u } }

/-- VFs with a launch resident on a core (R384). -/
def State.liveOn (s : State) (c : Nat) : List Nat := (s.core c).res.filterMap (fun r => (s.launch r.1).map (·.vf))

/-- `n` cycles pass on core `c`, in the first of which a string issues for launch `l` if `issued` (R384, R436, R442). -/
def State.elapse (s : State) (c : Nat) (issued : Bool) (l : Option Nat) (n : Nat) : State :=
  let u := if (s.core c).busy then n * (s.core c).wear.stress.toNat * 256 else 0
  let s1 := s.modCore c (fun co => co.pass (s.liveOn c) issued l n)
  match (s.core c).part with
  | some p => s1.modPart p (fun q => (q.meter 11 (if (s.core c).busy then n else 0)).chargeWear u)
  | none => s1

/-- Cycles pass while an instruction of launch `l` retires on core `c`: one and a free number more (log 8). -/
def State.pass (s : State) (c : Nat) (l : Option Nat) : State := s.elapse c true l (1 + Config.cycles s.tick)

/-- One more instruction of a launch has retired on a core (R337). -/
def OnCore.count (o : OnCore) : OnCore := { o with opcnt := o.opcnt + 1 }

/-- The string that waits on a miss; see `Miss`. -/
def Miss.str : Miss → Nat
  | .tlb k _ => k
  | .plb k _ _ _ => k
  | .host k _ _ _ _ => k
  | .remote k _ _ => k
  | .data k _ => k
  | .write k _ _ => k
  | .elts k _ _ => k

/-- The misses of string `k` itself are forgotten: the access that made them is over. -/
def Core.dropMisses (co : Core) (k : Nat) : Core := { co with misses := co.misses.filter (fun m => m.str != k) }

/-- The executing string's instruction retires: its pc becomes `pc`, OPCNT counts it, and cycles pass. -/
def State.retireTo (s : State) (pc : Word) : State :=
  let t := s.curStr
  let s1 := (s.setCurStr { t with pc := pc, inHand := [], wait := .none, routed := false }).modCore s.cur.1 (fun co => co.dropMisses s.cur.2)
  let s2 := match t.launch with
    | some l => s1.modOn s.cur.1 l OnCore.count
    | none => s1
  s2.pass s.cur.1 t.launch

/-- The instruction retires and the next in sequence follows (R256). -/
def State.retire (s : State) : State := s.retireTo (nextPtr s.curStr.pc 4)

/-! ## Physical addresses (R28, R71 to R73) -/

/-- The physical address is DRAM (R28). -/
def isDram (pa : Nat) : Bool := decide (pa < 2 ^ 41) && decide (pa % 0x8000000000 < 0x4800000000)
/-- The physical address is in an SRAM die (R28). -/
def isSram (pa : Nat) : Bool :=
  decide (2 ^ 41 ≤ pa) && decide (pa < 2 ^ 41 + 4 * 0x200000000) && decide ((pa - 2 ^ 41) % 0x200000000 < 0x180000000)

/-- Number of the 64 MiB granule of a physical address that is no hole (R43). -/
def granuleOf (pa : Nat) : Option Nat :=
  if isDram pa then some (4608 * (pa / 0x8000000000) + pa % 0x8000000000 / 0x4000000)
  else if isSram pa then some (18432 + 96 * ((pa - 2 ^ 41) / 0x200000000) + (pa - 2 ^ 41) % 0x200000000 / 0x4000000)
  else none

/-- First physical address of a granule. -/
def granuleBase (g : Nat) : Nat :=
  if g < 18432 then g / 4608 * 0x8000000000 + g % 4608 * 0x4000000
  else 2 ^ 41 + (g - 18432) / 96 * 0x200000000 + (g - 18432) % 96 * 0x4000000

/-- Die of a physical address (R28). -/
def paDie (pa : Nat) : Nat := if pa < 2 ^ 41 then pa / 0x8000000000 else (pa - 2 ^ 41) / 0x200000000

/-- Home cluster of a physical address on its die (R71, R72). -/
def homeCluster (pa : Nat) : Nat :=
  if pa < 2 ^ 41 then
    let o := pa % 0x8000000000
    if o < 0x2400000000 then field o 8 6 else (o - 0x2400000000) / 0x90000000
  else field ((pa - 2 ^ 41) % 0x200000000) 8 6

/-- Die and cluster of a core (R14). -/
def coreDie (c : Nat) : Nat := c / 1024
/-- See `coreDie`; clusters are numbered 64 × die + cy × 8 + cx. -/
def coreCluster (c : Nat) : Nat := c / 16

/-- A leaf's homing is correctly declared (R73). -/
def declaredRight (home : Bool) (hcl target size : Nat) : Bool :=
  if !isDram target then !home
  else
    let o := target % 0x8000000000
    if home then decide (0x2400000000 ≤ o) && (o - 0x2400000000) / 0x90000000 == hcl
      && (o + size - 1 - 0x2400000000) / 0x90000000 == hcl
    else decide (o + size ≤ 0x2400000000)

/-- An entry of the TLB holds the address. -/
def TlbEntry.hits (e : TlbEntry) (va : Nat) : Bool := decide (e.va ≤ va) && decide (va < e.va + e.size)

/-! ## Packets (R76, R77) -/

/-- Unit number of the NI of a core, or of the launch unit that core 4,100 + p stands for; see `Miss`. -/
def coreUnit (c : Nat) : Nat := if c = 4096 then 0x1360 else if 4100 ≤ c then 0x1340 + (c - 4100) else c
/-- Unit number of the bulk copy engine of a core's cluster. -/
def bceUnit (c : Nat) : Nat := if c = 4096 then 0x1360 else 0x1200 + coreCluster c
/-- Unit number of the host-link unit. -/
def hostUnit : Nat := 0x1300
/-- Unit number of the Novino port that carries an offset's traffic with other packages: requests spread across the 36 ports by address, one
sector after another (R414; log 56). -/
def novinoUnit (off : Nat) : Nat := 0x1310 + off / 32 % 36
/-- Unit number of a partition's launch unit. -/
def launchUnit (p : Nat) : Nat := 0x1340 + p
/-- Unit number of a partition's rights unit. -/
def rightsNi (p : Nat) : Nat := 0x1350 + p

/-- Unit number of the NI at a home. -/
def homeUnit : Place → Nat
  | .slice c _ => coreUnit c
  | .phys a => (if a < 2 ^ 41 then 0x1100 else 0x1000) + 64 * paDie a + homeCluster a
  | .host _ _ _ => hostUnit
  | .remote _ o => novinoUnit o
  | .notice _ => hostUnit

/-- An access of core `c` to a home crosses the mesh: not to its own slice, and not to its cluster's own SRAM share (R70, R71). -/
def crosses (c : Nat) : Place → Bool
  | .slice d _ => c != d
  | .phys a => decide (a < 2 ^ 41) || 64 * paDie a + homeCluster a != coreCluster c
  | _ => true

/-- Kinds of packets. -/
inductive PktKind where
  | read | write | atomic | response | message | acknowledgement | nack | error
deriving DecidableEq, Repr

/-- Code of a kind. -/
def PktKind.code : PktKind → Nat
  | .read => 0
  | .write => 1
  | .atomic => 2
  | .response => 3
  | .message => 4
  | .acknowledgement => 5
  | .nack => 6
  | .error => 7

/-- The header flit of a packet. -/
def headerFlit (tag : BitVec 64) (seq : BitVec 78) (part : Nat) (kind : PktKind) (src dst : Nat) (body : BitVec 78) : BitVec 256 :=
  tag ++ seq ++ BitVec.ofNat 4 part ++ BitVec.ofNat 4 kind.code ++ BitVec.ofNat 14 src ++ BitVec.ofNat 14 dst ++ body

/-- The next sequence number of an NI under the key of a partition. -/
def State.seqOf (s : State) (unit part : Nat) : BitVec 78 := mget 0 s.seqs (16 * unit + part)

/-- An NI sends one packet. -/
def State.packet (s : State) (unit part : Nat) : State :=
  { s with seqs := mset s.seqs (16 * unit + part) (s.seqOf unit part + 1) }

/-- One packet of a unit to a home, and one back. -/
def State.roundTrip (s : State) (unit : Nat) (pl : Place) (part : Nat) : State := (s.packet unit part).packet (homeUnit pl) part

/-- An NI and the NI at a home of the package exchange a free number of packets, one at least each way: the specification does not say how the
unit cuts what it moves into packets (R76; log 70). -/
def State.traffic (s : State) (unit home part : Nat) : State :=
  let n := BitVec.ofNat 78 (1 + Config.packets (s.tick + unit))
  { s with seqs := mmod 0 (mmod 0 s.seqs (16 * unit + part) (· + n)) (16 * home + part) (· + n) }

/-- Numbers without those that stand again further on. -/
def distinct : List Nat → List Nat
  | [] => []
  | a :: t => if t.contains a then distinct t else a :: distinct t

/-- Addresses that stand for the homes of a range: the homes of the interleaved half come round every 16 KiB, and a range of less than 2.25 GiB
lies in one part of the other half but for its end (R72). -/
def homeSteps (a n : Nat) : List Nat :=
  let k := (n + 255) / 256
  (upTo (Nat.min 64 k)).map (fun i => a + 256 * i) ++ (upTo (Nat.min 64 (k - 64))).map (fun i => a + n - 1 - 256 * i)

/-- A unit exchanges packets with the NIs of all homes of a range of physical addresses. -/
def State.trafficTo (s : State) (unit a n part : Nat) : State :=
  (distinct ((homeSteps a n).map (fun x => homeUnit (.phys x)))).foldl (fun s h => s.traffic unit h part) s

/-- The keys of a partition are installed: every sequence number starts at 0. -/
def State.installKey (s : State) (part : Nat) : State := { s with seqs := s.seqs.filter (fun x => x.1 % 16 != part) }

/-- The partition of a core, or of the launch unit that core 4,100 + p stands for. -/
def State.partOf (s : State) (c : Nat) : Option Nat := if 4100 ≤ c then some (c - 4100) else (s.core c).part

/-- A packet of a unit of core `c` goes to a home, and one comes back, if the access crosses the mesh. -/
def State.packets (s : State) (c unit : Nat) (pl : Place) : State :=
  match s.partOf c with
  | some p => if crosses c pl then s.roundTrip unit pl p else s
  | none => s

/-- Once a partition is fenced, the NIs of its cores send nothing more, and the slots of the package refuse the mesh requests of its units
(R396, R397). -/
def State.refuses (s : State) (c : Nat) (pl : Place) : Bool :=
  crosses c pl && (match s.partOf c with
    | some p => (s.part p).pstate == .fenced
    | none => false)

/-- An NI discards something and counts it (R95, R171, R396, R397). -/
def State.countAt (s : State) (unit : Nat) : State := { s with counts := mset s.counts unit (mget 0 s.counts unit + 1) }

/-! ## Valid bits and write counters (R70, R86, R87, R92, R94) -/

/-- Number of the counter of level `lvl` that covers an address; level 0 stands for the counter of a line, which a node of level 1
holds, and level 6 for one of the root's. -/
def ctrKey (lvl a : Nat) : Nat := lvl * 2 ^ 48 + a / (64 * 8 ^ lvl)

/-- First address of the row that holds a byte of a slice or of an SRAM die. -/
def rowOf (a : Nat) : Nat := if 2 ^ 42 ≤ a then a / 64 * 64 else a / 1024 * 1024

/-- The byte's row is valid, or its line has been written since it was cleared. -/
def State.written (s : State) (a : Nat) : Bool :=
  if 2 ^ 42 ≤ a || isSram a then s.rows.contains (rowOf a)
  else (mfind s.ctrs (ctrKey 0 a)).isSome

/-- A write to the line of an address sets its row's valid bit, or increments the counters along its path. -/
def State.touch (s : State) (a : Nat) : State :=
  if 2 ^ 42 ≤ a || isSram a then if s.rows.contains (rowOf a) then s else { s with rows := rowOf a :: s.rows }
  else { s with ctrs := (upTo 7).foldl (fun m l => mset m (ctrKey l a) (mget 0 m (ctrKey l a) + 1)) s.ctrs }

/-- Adds `f k` to the counter of every number `k` of a rising list. -/
def bumpAll (f : Nat → Nat) : List Nat → List (Nat × BitVec 56) → List (Nat × BitVec 56)
  | [], m => m
  | k :: ks, [] => (k, BitVec.ofNat 56 (f k)) :: bumpAll f ks []
  | k :: ks, (j, v) :: m =>
    if j = k then (k, v + BitVec.ofNat 56 (f k)) :: bumpAll f ks m else (k, BitVec.ofNat 56 (f k)) :: bumpAll f ks ((j, v) :: m)

/-- One write to each of the lines `lo` to `hi` of DRAM, as the counters of a level see it. -/
def bumpLevel (lo hi lvl : Nat) (m : List (Nat × BitVec 56)) : List (Nat × BitVec 56) :=
  let k0 := ctrKey lvl (64 * lo)
  let k1 := ctrKey lvl (64 * hi)
  let w := 8 ^ lvl
  let f (k : Nat) : Nat := Nat.min hi ((k % 2 ^ 48 + 1) * w - 1) + 1 - Nat.max lo (k % 2 ^ 48 * w)
  m.filter (fun x => decide (x.1 < k0))
    ++ bumpAll f ((upTo (k1 + 1 - k0)).map (k0 + ·)) (m.filter (fun x => decide (k0 ≤ x.1) && decide (x.1 ≤ k1)))
    ++ m.filter (fun x => decide (k1 < x.1))

/-- The same for every line of a range. -/
def State.touchRange (s : State) (a n : Nat) : State :=
  if n = 0 then s
  else if 2 ^ 42 ≤ a || isSram a then (upTo ((a % 64 + n + 63) / 64)).foldl (fun s i => s.touch (a / 64 * 64 + 64 * i)) s
  else { s with ctrs := (upTo 7).foldl (fun m l => bumpLevel (a / 64) ((a + n - 1) / 64) l m) s.ctrs }

/-- The listed poisoned spans of the dies (R89). -/
def State.allSpans (s : State) : List Span := s.parts.flatMap (fun p => p.2.spans)

/-- The part of a span that lies in [a, a + n): its first address and its length. -/
def Span.cut (a n : Nat) (x : Span) : Nat × Nat := (Nat.max x.pa a, Nat.min (x.pa + x.len) (a + n) - Nat.max x.pa a)

/-- Memory after a write to [a, a + n) that would leave `m`: what falls in a listed span is discarded (R89); a slice or window lies in none. -/
def State.outsideSpans (s : State) (a n : Nat) (m : Memory) : Memory :=
  if 2 ^ 42 ≤ a then m
  else (s.allSpans.filter (fun x => overlaps x.pa x.len a n)).foldl (fun m x =>
    m.splice (x.cut a n).1 (x.cut a n).2 (s.mem.part (x.cut a n).1 (x.cut a n).2 |>.shift (x.cut a n).1)) m

/-- A unit of the package writes bytes; a write in a listed span is discarded (R89). -/
def State.putBytes (s : State) (a : Nat) (b : List Byte) : State :=
  { s with mem := s.outsideSpans a b.length (s.mem.putBytes a b) }.touchRange a b.length

/-- The same for a little-endian number of `n` bytes. -/
def State.putNum (s : State) (a n v : Nat) : State := s.putBytes a (leBytes n v)

/-- Marks of the sectors of a range of flat addresses go. -/
def clearMarks (b : List (Nat × Poison)) (a n : Nat) : List (Nat × Poison) := b.filter (fun x => !overlaps a n (32 * x.1) 32)

/-- A unit of the package writes a whole 64-byte line, whose marks go (R84). -/
def State.putLine (s : State) (a v : Nat) : State := { s.putNum a 64 v with bad := clearMarks s.bad a 64 }

/-- A range is cleared: it reads zero, without poison, its valid bits and its counters being 0 (R92, R94). -/
def State.clearRange (s : State) (a n : Nat) : State :=
  { s with mem := s.mem.clear a n, bad := clearMarks s.bad a n, rows := s.rows.filter (fun x => !overlaps a n x 1),
           ctrs := s.ctrs.filter (fun x => !overlaps a n (x.1 % 2 ^ 48 * (64 * 8 ^ (x.1 / 2 ^ 48))) 1) }

/-! ## Performing bytes at a home -/

/-- Flat address of a place that this package holds. -/
def placeFlat : Place → Option Nat
  | .slice c o => some (sliceFlat c o)
  | .phys a => some a
  | _ => none

/-- Moves a place by a number of bytes. -/
def placeAdd : Place → Nat → Place
  | .slice c o, n => .slice c (o + n)
  | .phys a, n => .phys (a + n)
  | .host f a b, n => .host f (a + n) (b + n)
  | .remote p o, n => .remote p (o + n)
  | .notice f, _ => .notice f

/-- Where the copy of a block lies that a shadow launch has made: in the block of the pool that was chosen for it (R17, R170). -/
def State.copyPa (s : State) (key : Nat) (a : Nat) : Nat := mget 0 s.copyAt (copyKey key (a / 4096)) * 4096 + a % 4096

/-- Flat address that an access reaches: the copy of a block that its launch has redirected, the copy of a block that a commit has
switched and not yet copied back, or the original (R170). That an access to a block of the pool by that block's own address reaches the copy
which lies there is the model's choice (log 71). -/
def State.version (s : State) (key : Nat) (a : Nat) : Nat :=
  if 2 ^ 42 ≤ a then a
  else if key != 0 && s.redirects.contains (key, a / 4096) then s.copyPa key a
  else match s.switched.find? (fun r => r.2 == a / 4096) with
    | some r => s.copyPa r.1 a
    | none => a

/-- Memory as the units of the package see it that read tables: a block that a commit has switched reads as its copy (R170). -/
def State.seen (s : State) : Memory :=
  s.switched.foldl (fun m r => m.splice (r.2 * 4096) 4096 ((s.mem.part (s.copyPa r.1 (r.2 * 4096)) 4096).shift (r.2 * 4096))) s.mem

/-- The key of a launch's shadow versions; 0 when it has none (R170). -/
def State.shadowOf (s : State) (l : Option Nat) : Nat :=
  match l with
  | some i => match s.launch i with
    | some v => if v.shadow = 0 then 0 else shadowKey v.part v.shadow
    | none => 0
  | none => 0

/-- Copies of a key that its launch may still make: 510 in each unit of budget (R170). -/
def State.shadowRoom (s : State) (l : Option Nat) (key : Nat) : Bool :=
  match l with
  | some i => match s.launch i with
    | some v => decide ((s.redirects.filter (fun r => r.1 == key)).length < 510 * v.f 640 32)
    | none => false
  | none => false

/-- Sends a status of a launch to the launch unit (R162); `keep` marks one that ENDL sends. -/
def State.endWith (s : State) (l status value : Nat) (keep : Bool) : State :=
  s.modLaunch l (fun v => { v with ends := v.ends ++ [(status, value, keep)] })

/-- The same, for a status that ENDL does not send. -/
def State.endLaunch (s : State) (l status value : Nat) : State := s.endWith l status value false

/-- The physical address lies in a listed poisoned span of its die (R89). -/
def State.inSpan (s : State) (pa : Nat) : Bool :=
  decide (pa < 2 ^ 42) && s.parts.any (fun p => p.2.spans.any (fun x => overlaps x.pa x.len pa 1))

/-- Number of the SRAM share that holds an address, by die and cluster (R81). -/
def shareOf (a : Nat) : Nat := paDie a * 64 + homeCluster a

/-- Two banks of the SRAM share that holds an address have failed, so that none of its lines can be read (R81). -/
def State.shareLost (s : State) (a : Nat) : Bool :=
  isSram a && decide (2 ≤ (s.badBanks.filter (fun b => b.1 == shareOf a)).length)

/-- Mark of the sector that holds a flat address, an error that its reader detects itself included: poisoned in a listed span, and
otherwise none in a row that is not valid, or a line whose counter is 0 (R81, R84, R87, R89, R92). -/
def State.markAt (s : State) (v : Nat) : Option Poison :=
  if s.inSpan v then some .poisoned
  else if !s.written v then none
  else match mfind s.bad (v / 32) with
    | some m => some m
    | none => if s.shareLost v then some .uncorrectable else none

/-- Mark of the sector that an access of a launch to a flat address reaches. -/
def State.mark (s : State) (l : Option Nat) (a : Nat) : Option Poison := s.markAt (s.version (s.shadowOf l) a)

/-- The two blocks of the pool lie in one 2 MiB unit of budget (R170). -/
def sameUnit (a b : Nat) : Bool := a / 512 == b / 512

/-- A block of the pool may take a copy of a key: it is one of the first 510 of its 2 MiB unit, holds no copy, and the unit holds none of
another key (R170). -/
def State.copyFree (s : State) (key b : Nat) : Bool :=
  decide (b % 512 < 510) && s.copyAt.all (fun r => r.2 != b && (r.1 / 2 ^ 30 == key || !sameUnit r.2 b))

/-- The block that the next copy of a key takes: the first free one of the partition's pool that no listed poisoned span touches, or the
first free one (R170; log 71). -/
def State.copySpot (s : State) (key : Nat) : Option Nat :=
  let spots := (s.part (key / 256)).pool.flatMap (fun g => (upTo 0x4000).map (granuleBase g / 4096 + ·))
  match spots.find? (fun b => s.copyFree key b && !(upTo 8).any (fun i => s.inSpan (b * 4096 + 512 * i))) with
  | some b => some b
  | none => spots.find? (s.copyFree key)

/-- A controller copies a 4 KiB block: the bytes, and poison for every bad sector that it reads, which it poisons in place too (R84). -/
def State.copyBlock (s : State) (from_ to_ : Nat) : State :=
  let hurt := (upTo 128).filter (fun i => (s.markAt (from_ + 32 * i)).isSome)
  let s1 := s.putBytes to_ (s.mem.bytes from_ 4096)
  { s1 with bad := hurt.foldl (fun m i => mset (if s.inSpan (from_ + 32 * i) then m else mset m (from_ / 32 + i) .poisoned) (to_ / 32 + i) .poisoned)
              (clearMarks s1.bad to_ 4096) }

/-- The first write of a shadow launch to a block copies the block and redirects it; a launch whose budget is exhausted ends with RESOURCE,
code BUDGET (R169, R170, R374). -/
def State.redirect (s : State) (l : Option Nat) (a : Nat) : State :=
  let key := s.shadowOf l
  if key = 0 || decide (2 ^ 42 ≤ a) || s.redirects.contains (key, a / 4096) then s
  else match (if s.shadowRoom l key then s.copySpot key else none), l with
  | some to_, _ =>
    { s.copyBlock (s.version 0 (a / 4096 * 4096)) (to_ * 4096) with
      redirects := s.redirects ++ [(key, a / 4096)], copyAt := mset s.copyAt (copyKey key (a / 4096)) to_ }
  | none, some i => s.endLaunch i 1 8
  | none, none => s

/-- Bytes of the sector event's home, in the order of the event's list. -/
def State.readEv (s : State) (l : Option Nat) (a : Nat) (bs : List (Nat × Nat)) : List (Nat × Byte) :=
  bs.map (fun b => (b.2, s.mem.get (s.version (s.shadowOf l) (a + b.1))))

/-- Byte `i` of stored data. -/
def dataByte (d : BitVec 4096) (i : Nat) : Byte := BitVec.extractLsb' (8 * i) 8 d

/-- Writes bytes at a flat address, `bs` being offsets with their byte numbers in `d`; a sector written whole loses its
mark (R84). A write of a shadow launch that has no budget left performs nothing (R169). -/
def State.writeEv (s : State) (l : Option Nat) (a : Nat) (bs : List (Nat × Nat)) (d : BitVec 4096) : State :=
  let s1 := s.redirect l a
  let key := s1.shadowOf l
  if key ≠ 0 && decide (a < 2 ^ 42) && !s1.redirects.contains (key, a / 4096) then s1 else
  let m := bs.foldl (fun m b => Memory.put m (s1.version key (a + b.1)) (dataByte d b.2)) s1.mem
  let bad := if decide (32 ≤ bs.length) then mdel s1.bad (s1.version key a / 32) else s1.bad
  ({ s1 with mem := m, bad := bad } : State).touch (s1.version key a)

/-- A write of a launch to a home has no budget left for the copy that it needs, and performs nothing (R169, R170). -/
def State.starved (s : State) (l : Option Nat) (pl : Place) : Bool :=
  match pl with
  | .phys a => s.shadowOf l != 0 && !(s.redirect l a).redirects.contains (s.shadowOf l, a / 4096)
  | _ => false

/-- The fault that consuming a sector of this package raises (R84). -/
def badAt (s : State) (l : Option Nat) (a : Nat) (p : Word) : Option FaultInfo :=
  match s.mark l a with
  | some .uncorrectable => some { code := 0x21, detail := 0, val := p }
  | some .poisoned => some { code := 0x20, detail := 0, val := p }
  | none => none

/-- A read that finds an uncorrectable sector poisons it in place (R84). -/
def State.poisonFound (s : State) (l : Option Nat) (a : Nat) : State :=
  match s.mark l a with
  | some .uncorrectable => { s with bad := mset s.bad (s.version (s.shadowOf l) a / 32) .poisoned }
  | _ => s

/-- Which BYTE meter an access from core `c` to a place counts in (R436). -/
def byteMeter (c : Nat) : Place → Nat
  | .slice d _ => if c = d then 5 else 6
  | .phys pa => if 2 ^ 41 ≤ pa then 7 else 8
  | .host _ _ _ => 9
  | .notice _ => 9
  | .remote _ _ => 10

/-- The bytes of a write that performs count in the meter of its home (R436). -/
def State.meterWrite (s : State) (c : Nat) (l : Option Nat) (pl : Place) (n : Nat) : State :=
  if s.starved l pl then s else s.meterOf c (byteMeter c pl) n

/-- The record is runnable (R183). -/
def Rec.runnable (r : Rec) : Bool := !r.c || bitAt r.flags.toNat 6 || (r.armed && r.count == 0)

/-! ## The spill table (R186, R187) -/

/-- CRC-32 with the IEEE polynomial, bit by bit over a number of `n` bits, lowest first. -/
def crcGo : Nat → Nat → Nat → Nat
  | 0, _, c => c
  | n + 1, v, c =>
    let b := (c ^^^ v) % 2
    crcGo n (v / 2) (if b = 1 then (c / 2) ^^^ 0xEDB88320 else c / 2)

/-- chk of an entry: CRC-32 of bits [511:96] (R187). -/
def spillChk (v : Nat) : Nat := crcGo 416 (v / 2 ^ 96) 0xFFFFFFFF ^^^ 0xFFFFFFFF

/-- The 512 bits of a spill entry (R187). -/
def spillBits (r : Rec) : Nat :=
  let hi := r.src * 2 ^ 96 + b2n r.nc * 2 ^ 127 + r.redo * 2 ^ 128 + r.op * 2 ^ 130 + r.hid * 2 ^ 134 + r.key.toNat * 2 ^ 140
    + 2 ^ 180 + b2n r.runnable * 2 ^ 181 + b2n r.c * 2 ^ 182 + b2n r.armed * 2 ^ 183 + r.flags.toNat * 2 ^ 184
    + r.wrap.toNat * 2 ^ 192 + r.count.toNat * 2 ^ 224 + r.payload.toNat * 2 ^ 256
  hi + spillChk hi * 2 ^ 64 + r.since.toNat

/-- Reads a record back from an entry, if its check holds and its operator is defined. -/
def spillRead (r : Rec) (v : Nat) : Option Rec :=
  if field v 64 32 = spillChk v ∧ field v 130 4 < 12 then
    some { r with payload := BitVec.ofNat 256 (field v 256 256), count := BitVec.ofNat 32 (field v 224 32),
                  wrap := BitVec.ofNat 32 (field v 192 32), flags := BitVec.ofNat 8 (field v 184 8), armed := bitAt v 183,
                  c := bitAt v 182, key := BitVec.ofNat 40 (field v 140 40), hid := field v 134 6, op := field v 130 4,
                  redo := field v 128 2, nc := bitAt v 127, src := field v 96 16, since := BitVec.ofNat 64 (field v 0 64) }
  else none

/-- Entries of the spill table, QSPN (R154, R164). -/
def Launch.qspn (l : Launch) : Nat := l.f 368 16 * 64

/-- Sizes of the named regions (R154). -/
def Launch.rsz (l : Launch) (i : Nat) : Nat := l.f (384 + 32 * i) 32

/-- Offset of region `i` in the window; region 8 stands for the end of the regions (R164). -/
def Launch.regionOff (l : Launch) : Nat → Nat
  | 0 => 0
  | i + 1 => (l.regionOff i + l.rsz i + 63) / 64 * 64

/-- Offset of the spill table in the window (R164). -/
def Launch.spillOff (l : Launch) : Nat := (l.regionOff 8 + 4095) / 4096 * 4096

/-- Flat address of spill entry `i` of a launch on core `c`. -/
def spillFlat (c : Nat) (o : OnCore) (l : Launch) (i : Nat) : Nat := sliceFlat c (o.wbase + l.spillOff + 64 * i)

/-- Places a record: at its spill entry, in a slot, or at a free spill entry, which the free value picks; none if there is no
room (R186 to R188). -/
def State.placeRec (s : State) (c : Nat) (r : Rec) : Option State :=
  let co := s.core c
  match s.launch r.launch, co.on r.launch with
  | some l, some o =>
    let slots := (co.records.filter (fun x => x.spill.isNone)).length
    let used := (co.records.filter (fun x => x.launch == r.launch)).filterMap (·.spill)
    let free := (upTo l.qspn).filter (fun i => !used.contains i)
    let spill : Option (Option Nat) := match r.spill with
      | some i => some (some i)
      | none => if slots < 256 then some none
        else if free.isEmpty then none else some (some (free.getD (Config.spillPlace s.tick % free.length) 0))
    spill.map (fun sp =>
      let s1 := match sp with
        | some i => s.putLine (spillFlat c o l i) (spillBits r)
        | none => s
      s1.modCore c (fun co => { co with records := co.records ++ [{ r with spill := sp }], stamp := co.stamp + 1 }))
  | _, _ => none

/-- The spill entry of a record takes new bits. -/
def State.putSpill (s : State) (c : Nat) (r : Rec) (v : Nat) : State :=
  match r.spill, s.launch r.launch, (s.core c).on r.launch with
  | some i, some l, some o => s.putLine (spillFlat c o l i) v
  | _, _, _ => s

/-- A record takes the place of one of its core, in its slot or its spill entry (R174). -/
def State.foldRec (s : State) (c : Nat) (r r2 : Rec) : State :=
  (s.putSpill c r (spillBits r2)).modCore c (fun co =>
    { co with records := co.records.map (fun x => if x == r then r2 else x), stamp := co.stamp + 1 })

/-- Takes a record out of the core's list, its spill entry with it; its NI accepts messages again (R188). -/
def State.dropRec (s : State) (c : Nat) (r : Rec) : State :=
  (s.putSpill c r 0).modCore c (fun co => { co with records := co.records.filter (fun x => x != r), niStop := [] })

/-! ## Early commit and rollback -/

/-- Unit number of the NI that receives a message of a launch. -/
def destUnit (l : Launch) : MsgDest → Nat
  | .core n => coreUnit (l.phys n)
  | .host => hostUnit

/-- A message leaves the NI of a unit of its launch's partition, under that NI's next sequence number; one that the unit sends to itself
does not cross the mesh and takes none (R76). -/
def State.post (s : State) (unit : Nat) (f : Flight) : State :=
  match s.launch f.msg.launch with
  | some l =>
    let d := destUnit l f.msg.dest
    { (if d = unit then s else s.packet unit l.part) with net := s.net ++ [{ f with seq := (s.seqOf unit l.part).toNat, unit := d, sender := unit, vf := l.vf }] }
  | none => { s with net := s.net ++ [f] }

/-- Messages leave the outbox of string `k` for the network; they arrive after the string's stores below number `after`
have performed (R141). -/
def State.sendAll (s : State) (c k id after : Nat) (ms : List Msg) : State :=
  ms.foldl (fun s m => s.post (coreUnit c) { msg := m, fromCore := c, fromStr := k, after := after, slot := true, actId := id,
                                             nacks := 0, nacked := false }) s

/-- The activation of a string commits early: its outbox is sent, its journal is discarded, it is no longer restartable
(R166). -/
def State.commitEarly (s : State) (c k : Nat) : State :=
  let t := s.str c k
  match t.act with
  | some a =>
    if a.ec then s
    else (s.setStr c k { t with act := some { a with ec := true, rst := false, outbox := [], journal := [],
                                                      jmarks := [], mask0 := none } }).sendAll c k a.id t.seq a.outbox
  | none => s

/-- Strings of a core by number. -/
def strNums : List Nat := [0, 1, 2, 3]

/-- Outbox slots of a core that are taken (R167). -/
def State.slotsUsed (s : State) (c : Nat) : Nat :=
  (strNums.map (fun k => match (s.str c k).act with | some a => a.outbox.length | none => 0)).foldl (· + ·) 0
    + (s.net.filter (fun f => f.slot && f.fromCore == c)).length

/-- Journal lines of a core that are taken (R167). -/
def State.linesUsed (s : State) (c : Nat) : Nat :=
  (strNums.map (fun k => match (s.str c k).act with | some a => a.journal.length | none => 0)).foldl (· + ·) 0

/-- Every activation of the core that has not committed early and passes the test commits early. -/
def State.commitWhere (s : State) (c : Nat) (f : Activation → Bool) : State :=
  strNums.foldl (fun s k => match (s.str c k).act with
    | some a => if f a then s.commitEarly c k else s
    | none => s) s

/-- For want of an outbox slot (R167). -/
def State.commitForSlot (s : State) (c k : Nat) : State :=
  (s.commitWhere c (fun a => !a.outbox.isEmpty)).commitEarly c k

/-- For want of a journal line (R167). -/
def State.commitForLine (s : State) (c k : Nat) : State :=
  (s.commitWhere c (fun a => !a.journal.isEmpty)).commitEarly c k

/-- A 64-byte line of a slice as a vector. -/
def State.line (s : State) (c n : Nat) : Vec := BitVec.ofNat 512 (s.mem.num (sliceFlat c (64 * n)) 64)

/-- The marks of a line of a slice, by sector of the slice (R84). -/
def State.lineMarks (s : State) (c n : Nat) : List (Nat × Poison) :=
  [2 * n, 2 * n + 1].filterMap (fun i => (s.mark none (sliceFlat c (32 * i))).map (fun m => (i, m)))

/-- Takes one line into the journal of a string's activation, where it is restartable and the line is new; a 65th line, or
no free line on the core, commits early instead (R166, R167). -/
def State.journalLine (s : State) (c k n : Nat) : State :=
  match (s.str c k).act with
  | some a =>
    if !a.rst || a.journal.any (fun j => j.1 == n) then s
    else if 64 ≤ a.journal.length then s.commitEarly c k
    else if 64 ≤ s.linesUsed c then s.commitForLine c k
    else
      let a1 := { a with journal := a.journal ++ [(n, s.line c n)], jmarks := a.jmarks ++ s.lineMarks c n }
      s.setStr c k { s.str c k with act := some a1 }
  | none => s

/-- Performs the events of one store or push of core `c` that lie in its slice (R436). -/
def State.drainEvs (s : State) (c : Nat) (evs : List SectorEv) (d : BitVec 4096) : State :=
  evs.foldl (fun s ev => match ev.place with
    | .slice e o => (s.meterOf c (byteMeter c ev.place) ev.bytes.length).writeEv none (sliceFlat e o) ev.bytes d
    | _ => s) s

/-- Performs every store and push of a restartable activation, all of them to its own slice (R166, R275). -/
def State.drainOwn (s : State) (c k : Nat) : State :=
  let t := s.str c k
  let s1 := t.sb.foldl (fun s e => s.drainEvs c e.evs e.data) s
  let s2 := t.st.toList.foldl (fun s x => match x with
    | some x => x.pushes.foldl (fun s p => s.drainEvs c p.evs (p.data.zeroExtend 4096)) s
    | none => s) s1
  s2.setStr c k { t with sb := [], st := t.st.map (fun x => x.map (fun x => { x with pushes := [] })) }

/-- Restores the journal, with the marks of its lines, and the handler mask of a rolled-back activation (R169, R317). -/
def State.restoreJournal (s : State) (c : Nat) (a : Activation) : State :=
  let s1 := a.journal.foldl (fun s j =>
    { s with mem := s.mem.putNum (sliceFlat c (64 * j.1)) 64 j.2.toNat, bad := clearMarks s.bad (sliceFlat c (64 * j.1)) 64 }) s
  let s2 : State := { s1 with bad := a.jmarks.foldl (fun m x => mset m (sliceFlat c (32 * x.1) / 32) x.2) s1.bad }
  match a.mask0 with
  | some w => s2.modOn c a.launch (fun o => { o with mask := w })
  | none => s2

/-- The record of a rolled-back activation returns as one that matches nothing, to a slot or to the spill table (R169, R186, R189);
with room in neither it takes a slot (log 57). -/
def State.returnRec (s : State) (c : Nat) (a : Activation) (redo : Nat) : State :=
  let co := s.core c
  let r : Rec := { a.trig with nc := true, redo := redo, since := co.cycle, ord := co.stamp, spill := none }
  (s.placeRec c r).getD (s.modCore c (fun co => { co with records := co.records ++ [r], stamp := co.stamp + 1 }))

/-- A string that is free, with nothing of its activation left but its monitor bank (R163, R164, R337, R343); that its stores to the host have
still to be shown to have arrived is not forgotten (R147), nor are loads of a rolled-back activation that have not come back (R380). -/
def Str.freed (t : Str) : Str :=
  { Str.init with
    xm := t.xm, seq := t.seq, hostDirty := t.hostDirty, flush := t.flush, lds := t.lds.filter (·.dead) }

/-- Rolls an activation back and returns its record, freeing the string (R169, R380). -/
def State.rollBack (s : State) (c k : Nat) (redo : Nat) : State :=
  match (s.str c k).act with
  | some a =>
    let s1 := (s.drainOwn c k).restoreJournal c a
    (s1.setStr c k (s1.str c k).freed).returnRec c a redo
  | none => s

/-! ## Fault records (R389 to R392) -/

/-- The core of launch `l` forwards a fault record to the FAULT handler, as a message to itself that takes no outbox slot
(R390). -/
def State.forwardRec (s : State) (c l : Nat) (x4 ptr pc info : Nat) : State :=
  match (s.core c).on l with
  | none => s
  | some o =>
    s.post (coreUnit c) { msg := { launch := l, dest := .core o.lcore, hid := 63, key := 0, op := 0, cnt := false, src := o.lcore,
                                   payload := BitVec.ofNat 256 (x4 + ptr * 2 ^ 64 + pc * 2 ^ 128 + info * 2 ^ 192),
                                   arm := none, mon := true },
                          fromCore := c, fromStr := 0, after := 0, slot := false, actId := 0, nacks := 0, nacked := false }

/-- Word X4 of a fault record (R389). -/
def recWord (eng str origin kind detail code : Nat) : Nat :=
  eng * 2 ^ 26 + str * 2 ^ 24 + origin * 2 ^ 20 + kind * 2 ^ 16 + detail * 2 ^ 8 + code

/-- A write of a launch that ended with an error response is reported with origin 3 (R390). -/
def State.reportWrite (s : State) (c : Nat) (l : Option Nat) (p : Word) (code : Nat) : State :=
  match l with
  | some i => s.forwardRec c i (recWord 0 0 3 0 0 code) p.toNat 0 0
  | none => s

/-- The translation by another package that a store's event needs has ended with a NACK or a timeout (R38, R414). -/
def Str.refusedEv (t : Str) (e : SectorEv) : Bool :=
  match e.place with
  | .remote q o => t.inHand.any (fun h => match h with
    | .noRemote p x c _ => p == q && x / 4096 == o / 4096 && c == 0x41
    | _ => false)
  | _ => false

/-! ## Traps and faults -/

/-- A trap to the monitor (R341, R343): saves the cause, the value and the address, and continues at MENTRY in monitor
mode with the monitor bank. -/
def Str.trap (t : Str) (mentry : Word) (kind detail code : Nat) (val pc : Word) : Str :=
  { t with trapc := BitVec.ofNat 18 (kind * 65536 + detail * 256 + code), trapv := val, trappc := pc, pp := t.lvl,
           lvl := 1, pc := mentry, wait := .none, inHand := [], routed := false }

/-- The codes that a restartable activation absorbs (R169). -/
def isPoisonCode (code : Nat) : Bool := code == 0x20 || code == 0x21

/-- A synchronous fault of string `k` of core `c`, whose instruction stands at `pc`: in user mode R387, in monitor mode
R393. A string that has been stopped takes none (R162, R396). -/
def State.takeFault (s : State) (c k : Nat) (pc : Word) (f : FaultInfo) : State :=
  let t := s.str c k
  if t.run = .stopped then s
  else if t.lvl ≠ 0 then
    (s.setStr c k { t with run := .stopped, wait := .none, inHand := [] }).modCore c
      (fun co => { co with monFault := some f })
  else match t.act with
    | none => s.setStr c k (t.trap (s.core c).mentry 0 f.detail f.code f.val pc)
    | some a =>
      if a.rst && isPoisonCode f.code && decide (a.trig.redo < 2) then s.rollBack c k (a.trig.redo + 1)
      else
        let s1 := if a.rst then (s.drainOwn c k).restoreJournal c a else s
        let t1 := s1.str c k
        s1.setStr c k ({ t1 with act := some { a with outbox := [], journal := [], jmarks := [], mask0 := none } }.trap
          (s.core c).mentry 0 f.detail f.code f.val pc)

/-- A fault of the executing instruction. -/
def State.fault (s : State) (f : FaultInfo) : State :=
  (s.modCore s.cur.1 (fun co => co.dropMisses s.cur.2)).takeFault s.cur.1 s.cur.2 s.curStr.pc f

/-! ## How an instruction ends -/

/-- Why an instruction does not go on: it faults, or it stalls and is issued again, with a miss to be served or none. `met` is a fault that it
meets on its way: the homes to which its packets have gone, whether the access itself was sent, and the flat address of the sector whose
error its reader has found (R73, R76, R77, R84). -/
inductive Stop where
  | fault (f : FaultInfo)
  | met (f : FaultInfo) (via : List Place) (sent : Bool) (bad : Option Nat)
  | stall (m : Option Miss)
deriving DecidableEq, Repr

/-- Where an instruction that has gone through leaves its string. -/
inductive Adv where
  /-- It retires and the next follows. -/
  | step
  /-- It retires and control goes to an address. -/
  | to (pc : Word)
  /-- It has not retired; what it changed stands, and it is issued again. -/
  | again
  /-- It has placed its string itself. -/
  | placed
deriving DecidableEq, Repr

/-- The steps of an instruction: it ends with a fault or a stall and no effect, or with a result and a state. -/
abbrev M := StateT State (Except Stop)

/-- Raises a fault. -/
def raise {α : Type} (code : Nat) (detail : Nat := 0) (val : Word := 0) : M α :=
  throw (.fault { code := code, detail := detail, val := val })

/-- Stalls. -/
def stall {α : Type} : M α := throw (.stall none)

/-- Stalls unless the condition holds. -/
def await (b : Bool) : M Unit := if b then pure () else stall

/-- The executing string. -/
def theStr : M Str := do return (← get).curStr

/-- Changes the executing string. -/
def modStr (f : Str → Str) : M Unit := modify (fun s => s.setCurStr (f s.curStr))

/-- Two misses wait for the same thing. -/
def Miss.same : Miss → Miss → Bool
  | .host a b c _ _, .host a' b' c' _ _ => a == a' && b == b' && c == c'
  | x, y => x == y

/-- Puts a miss in the queue of the core, unless it stands there already (R34, R53); one that the host or another package
serves is sent to it (R36, R38). -/
def State.queueMiss (s : State) (c : Nat) (m : Option Miss) : State :=
  match m with
  | none => s
  | some x =>
    if (s.core c).misses.any x.same then s
    else
      let s1 := s.modCore c (fun co => { co with misses := co.misses ++ [x] })
      match x with
      | .host _ vf page _ _ => s1.emit (.atsRequest vf page)
      | .remote _ pkg off => s1.emit (.novinoTranslate pkg off)
      | .data k pl => match pl with
        | .host f _ a => (({ s1 with hostReqs := mset s1.hostReqs s1.nextId (.read c k pl), nextId := s1.nextId + 1 } : State).packets c
            (coreUnit c) pl).emit (.hostRead f a s1.nextId true)
        | .remote q o => (s1.packets c (coreUnit c) pl).emit (.novinoRead q o (upTo 32))
        | _ => s1
      | _ => s1

/-- What is kept under number `i` is for requester `k`: its own, or what is for the next access of an engine, whichever command makes it. -/
def heldFor (k i : Nat) : Bool := i == k || i == k % 1024

/-- What the misses of requester `k` of a core found; see `Miss`. -/
def Core.hands (co : Core) (k : Nat) : List Hand :=
  if k < 4 then (co.str k).inHand else (co.held.filter (fun h => heldFor k h.1)).map (·.2)

/-- A miss of a core leaves its queue, and what it found goes to the requester that waits. -/
def State.serve (s : State) (c k : Nat) (m : Miss) (h : Hand) : State :=
  let s1 := s.modCore c (fun co => { co with misses := co.misses.filter (fun x => x != m) })
  if k < 4 then s1.modStr c k (fun t => { t with inHand := t.inHand ++ [h] })
  else s1.modCore c (fun co => { co with held := co.held ++ [(k, h)] })

/-- A requested sector, or the answer to a write, has not come yet. -/
def Miss.isData : Miss → Bool
  | .data _ _ => true
  | .write _ _ _ => true
  | _ => false

/-- A translation by another package has not come yet. -/
def Miss.isRemote : Miss → Bool
  | .remote _ _ _ => true
  | _ => false

/-- The answer to a write has not come yet. -/
def Miss.isWrite : Miss → Bool
  | .write _ _ _ => true
  | _ => false

/-- The requests of the requesters that pass the test, and what theirs found, are forgotten. -/
def Core.dropFor (co : Core) (f : Nat → Bool) : Core :=
  { co with misses := co.misses.filter (fun m => !f m.str), held := co.held.filter (fun h => !f h.1) }

/-- A requester other than a string is done: what its misses found is forgotten, and those that ask for no sector (R136, R329). -/
def Core.dropHeld (co : Core) (k : Nat) : Core :=
  { co with misses := co.misses.filter (fun m => m.str != k || m.isData), held := co.held.filter (fun h => h.1 != k) }

/-- What a requester has asked for outside the package has not come: a sector, the answer to its write, or a translation by another package. -/
def Core.awaits (co : Core) (f : Nat → Bool) : Bool := co.misses.any (fun m => (m.isData || m.isRemote) && f m.str)

/-- The answer to a requester's write to another package has not come. -/
def Core.awaitsWrite (co : Core) (k : Nat) : Bool := co.misses.any (fun m => m.isWrite && m.str == k)

/-- A push of the string passes the test, made or still to be made by an outstanding load. -/
def Str.anyPush (t : Str) (f : Push → Bool) : Bool := t.st.toList.any (fun x => match x with | some x => x.pushes.any f | none => false)

/-- Every access of the string that stands before number `n` has performed, those to the host being known to have arrived (R134, R140, R147). -/
def Str.released (t : Str) (n : Nat) : Bool :=
  t.sb.all (fun x => decide (n ≤ x.seq)) && t.lds.all (fun l => l.evs.isEmpty || decide (n ≤ l.seq)) && !t.anyPush (fun p => decide (p.seq < n))
    && !t.hostDirty && t.flush.isNone

/-- What waits for the accesses before a number, if it waits still, may go on. -/
def Str.releases (t : Str) (after : Option Nat) : Bool := match after with | none => true | some n => t.released n

/-- Only the host has still to show that stores have arrived, and it has not been asked (R147). -/
def Str.wantsFlush (t : Str) (after : Option Nat) : Bool :=
  !t.releases after && t.flush.isNone && t.hostDirty && ({ t with hostDirty := false }).releases after

/-- Number of a command of an engine as a requester; see `Miss`. -/
def engId (e : Engine) (cmd : Cmd) : Nat := (match e with | .mxu => 9 | _ => 8) + 1024 * cmd.num

/-- Number of a stream of string `k` as a requester; see `Miss`. -/
def Stream.asks (x : Stream) (k : Nat) : Nat := 4 + k + 1024 * x.num

/-- The requester is string `k` or one of its streams. -/
def ofString (k i : Nat) : Bool := i == k || i % 1024 == 4 + k

/-- Numbers, as requesters, of the commands of a core's engines that pass the test. -/
def Core.askers (co : Core) (f : Cmd → Bool) : List Nat := (co.bce.filter f).map (engId .bce) ++ (co.mxu.queue.filter f).map (engId .mxu)

/-- The access of core `c` through `p` counts as misrouted, if it goes through a misdeclared leaf (R73). -/
def State.misrouted (s : State) (c : Nat) (p : Word) : State :=
  match (s.core c).tlb.find? (fun e => e.hits (ptrOff p)) with
  | some e =>
    if ptrPkg p != s.pkg || decide (2 ^ 45 ≤ ptrOff p) || declaredRight e.home e.hcl e.target e.size || e.host then s else s.meterOf c 14 1
  | none => s

/-- What an access of core `c` for launch `l` leaves that has met a fault on its way: the packets of its unit count, the access counts if it
was sent and misrouted, and its reader poisons the bad sector in place (R73, R76, R84). -/
def State.metBad (s : State) (c unit : Nat) (l : Option Nat) (p : Word) (via : List Place) (sent : Bool) (bad : Option Nat) : State :=
  let s1 := via.foldl (fun s pl => s.packets c unit pl) s
  let s2 := if sent then s1.misrouted c p else s1
  match bad with
  | some a => s2.poisonFound l a
  | none => s2

/-- A fault that the executing instruction meets on its way. -/
def State.faultAt (s : State) (f : FaultInfo) (via : List Place) (sent : Bool) (bad : Option Nat) : State :=
  (s.metBad s.cur.1 (coreUnit s.cur.1) s.curStr.launch f.val via sent bad).fault f

/-! ## Homes, scopes and sectors (R97, R98, R104) -/

/-- Die of a home in this package. -/
def placeDie : Place → Option Nat
  | .slice c _ => some (coreDie c)
  | .phys a => some (paDie a)
  | _ => none

/-- The home is within DIE scope of a core (R98). -/
def nearTo (c : Nat) (p : Place) : Bool := placeDie p == some (coreDie c)

/-- The home is within a scope of a core (R97). The notice window counts as the host's side, within SYS only (log 59); root-private
SRAM is the root core's own slice (log 14). -/
def inScope (c : Nat) (sc : Scope) (p : Place) : Bool :=
  match sc, p with
  | .core, .slice d _ => c == d
  | .core, _ => false
  | .die, p => nearTo c p
  | .pkg, .slice _ _ => true
  | .pkg, .phys _ => true
  | .pkg, _ => false
  | .dom, .slice _ _ => true
  | .dom, .phys _ => true
  | .dom, .remote _ _ => true
  | .dom, _ => false
  | .sys, _ => true

/-- Number of the sector of a place, with the kind of its home. -/
def sectorOf : Place → Nat × Nat × Nat
  | .slice c o => (0, c, o / 32)
  | .phys a => (1, 0, a / 32)
  | .host f _ a => (2, f, a / 32)
  | .remote p o => (3, p, o / 32)
  | .notice f => (4, f, 0)

/-- The sector events touch a byte in common. -/
def evMeets (a b : SectorEv) : Bool :=
  sectorOf a.place == sectorOf b.place && a.bytes.any (fun x => b.bytes.any (fun y => x.1 == y.1))

/-- The sector events lie in the same sector (R104). -/
def evSame (a b : SectorEv) : Bool := sectorOf a.place == sectorOf b.place

/-- The home is a host page or another package. -/
def outside : Place → Bool
  | .host _ _ _ => true
  | .remote _ _ => true
  | .notice _ => true
  | _ => false

/-! ## Loads that have not come back (R102, R275; log 13) -/

/-- Number that FFLG has among the registers that an outstanding entry writes. -/
def flagReg : Nat := 64

/-- Registers that an outstanding entry will write: X registers by their number, V registers as 32 to 63, and FFLG. -/
def LoadDst.regs : LoadDst → List Nat
  | .x rd _ => if rd = 0 then [] else [rd.toNat]
  | .v rd n => (upTo n).map (fun k => 32 + (rd.toNat + k) % 32)
  | .p rd _ => [32 + rd.toNat]
  | .amo rd f n _ _ _ =>
    (if rd = 0 then [] else [rd.toNat]) ++ (if f = .cas ∧ n = 16 then [(rd.toNat + 1) % 32] else [])
      ++ (if f = .fadd then [flagReg] else [])

/-- Numbers of X registers. -/
def xRegs (l : List XReg) : List Nat := l.map (·.toNat)

/-- A register waits for an outstanding load; an X register only for one that issued in the mode of the same bank (R343). -/
def Str.pending (t : Str) (r : Nat) : Bool :=
  t.lds.any (fun l => (decide (32 ≤ r) || l.mon == (t.lvl != 0)) && l.dst.regs.contains r)

/-- The entry is an atomic. -/
def Load.isAtomic (l : Load) : Bool :=
  match l.dst with
  | .amo _ _ _ _ _ _ => true
  | _ => false

/-- An atomic to a host page is outstanding, past which the string issues nothing (R281). -/
def Str.hostAtomic (t : Str) : Bool :=
  t.lds.any (fun l => l.isAtomic && l.evs.any (fun e => match e.place with | .host _ _ _ => true | _ => false))

/-- An event that still comes from outside ends a load of string `k` of core `c` in an error (R77, R84, R95, R414). -/
def failsLoad (c k : Nat) : Instr → Bool
  | .errorResponse d j _ isLoad _ => d == c && j == k && isLoad
  | .responseTimeout d j _ isLoad => d == c && j == k && isLoad
  | .loadResponse d j _ _ r => d == c && j == k && (match r with
      | .xlate _ => true
      | .bad _ => true
      | _ => false)
  | _ => false

/-- An event that still comes from outside ends a request of a load of string `k` of core `c` to the host in an error (R281, R412). -/
def State.failsHost (s : State) (c k seq : Nat) : Instr → Bool
  | .hostCompletion id st _ => st != .ok && (match mfind s.hostReqs id with
      | some (.load d j n _) => d == c && j == k && n == seq
      | _ => false)
  | .completionTimeout id => match mfind s.hostReqs id with
      | some (.load d j n _) => d == c && j == k && n == seq
      | _ => false
  | .ideIntegrityFailure _ _ => true
  | _ => false

/-- A sector is bad, or may turn bad: a rollback may bring a sector of a slice back with its mark, and a copy may be made where a block of a
shadow pool is reached directly (R84, R169, R170). -/
def State.mayTurnBad (s : State) (la : Option Nat) (pl : Place) : Bool :=
  match pl with
  | .slice c o => (s.mark la (sliceFlat c o)).isSome || (s.core c).strs.any (fun k => match k.2.act with
      | some a => a.jmarks.any (fun m => m.1 == o / 32)
      | none => false)
  | .phys a => (s.mark la a).isSome || (s.version (s.shadowOf la) a == a && s.parts.any (fun p => p.2.pool.any (fun g => granuleOf a == some g)))
  | _ => false

/-- An event of an earlier load holds a later access to its sector (R104); two far loads of disjoint bytes pass each other, as R125 and
R132 show (log 60). -/
def holdsSector (c : Nat) (l : Load) (isLoad : Bool) (e x : SectorEv) : Bool :=
  evSame e x && !(isLoad && !l.isAtomic && !nearTo c e.place && !evMeets e x)

/-- An earlier load `l` holds back an event, the near order apart (R104, R106): it is an outstanding acquire whose scope takes in the event's
home, or it has the sector outstanding. `isLoad` tells a load's event from another's. -/
def Load.holdsFar (c : Nat) (isLoad : Bool) (e : SectorEv) (l : Load) : Bool :=
  (match l.acq with | some sc => !l.evs.isEmpty && inScope c sc e.place | none => false) || l.evs.any (holdsSector c l isLoad e)

/-- The same, or both are near (R102). -/
def Load.holds (c : Nat) (isLoad : Bool) (e : SectorEv) (l : Load) : Bool :=
  l.holdsFar c isLoad e || (nearTo c e.place && l.evs.any (fun x => nearTo c x.place))

/-- The scope of a release takes in the home of an event. -/
def inRel (c : Nat) (rel : Option Scope) (e : SectorEv) : Bool := match rel with | some sc => inScope c sc e.place | none => false

/-- An earlier store of the buffer holds back an event of load `l`: a sector in common, for an atomic both near, or in the scope of its release
(R104, R107, R108). -/
def Store.holds (c : Nat) (l : Load) (e : SectorEv) (x : Store) : Bool :=
  decide (x.seq < l.seq) && x.evs.any (fun y => evSame e y || (l.isAtomic && nearTo c e.place && nearTo c y.place) || inRel c l.rel y)

/-- Earlier accesses hold back an event of load `l`, the order of near loads apart; `before` are the loads before it (R104, R106 to R108). -/
def blocked (c : Nat) (t : Str) (before : List Load) (l : Load) (e : SectorEv) : Bool :=
  t.sb.any (Store.holds c l e) || before.any (fun x => x.holdsFar c (!l.isAtomic) e || x.evs.any (inRel c l.rel))

/-- Some store of the string to the host has still to be shown to have arrived, or to perform (R147). -/
def Str.hostOpen (t : Str) : Bool :=
  t.hostDirty || t.flush.isSome || t.sb.any (fun x => x.evs.any (fun e => match e.place with | .host _ _ _ => true | _ => false))

/-- A release at SYS scope to a home in the packages waits until earlier stores to the host are known to have arrived (R147). -/
def flushFirst (t : Str) (rel : Option Scope) (pl : Option Place) : Bool :=
  rel == some .sys && (t.hostDirty || t.flush.isSome) && (match pl with | some (.host _ _ _) => false | _ => true)

/-- What is earlier than a load and not the near order holds it back at present from a home of the package (R104, R106, R107, R147). -/
def Load.isHeld (c : Nat) (t : Str) (before : List Load) (l : Load) : Bool :=
  l.evs.any (fun e => (placeFlat e.place).isSome && (blocked c t before l e || (l.rel == some .sys && t.hostOpen)))

/-- All that is earlier than a load can be performed in program order at once: no load before it reaches outside the package, no store before it
goes to the notice window, and no release of it has to wait for the host (R147). -/
def Load.forceable (t : Str) (before : List Load) (l : Load) : Bool :=
  before.all (fun x => x.evs.all (fun e => (placeFlat e.place).isSome))
    && t.sb.all (fun x => decide (l.seq < x.seq) || x.evs.all (fun e => match e.place with | .notice _ => false | _ => true))
    && !(t.hostOpen && ((l :: before).any (fun x => x.rel == some .sys) || t.sb.any (fun x => x.rel == some .sys)))

/-- An outstanding load of string `k` of core `c`, with those before it, will not fault: every sector of this package that it still reads is
good (what turns it bad later finds that the load has performed, see `State.sureFirst`), and no event that still comes ends it in an error
(log 13). -/
def State.canBeSure (s : State) (c k : Nat) (la : Option Nat) (before : List Load) (l : Load) : Bool :=
  l.bad.isNone && !s.inputs.any (failsLoad c k) && (!l.isHeld c (s.str c k) before || l.forceable (s.str c k) before)
    && l.evs.all (fun e => match e.place with
      | .host _ _ _ => !l.isAtomic && !s.inputs.any (s.failsHost c k l.seq)
      | pl => !s.mayTurnBad la pl)

/-- Loads become sure in program order, as far as they can; `before` are those before them. -/
def State.sureGo (s : State) (c k : Nat) (la : Option Nat) (before : List Load) : List Load → List Load
  | [] => []
  | l :: ls => if l.sure || s.canBeSure c k la before l then { l with sure := true } :: s.sureGo c k la (before ++ [l]) ls else l :: ls

/-- No outstanding load of the string will fault, and none writes one of the registers. -/
def Str.ready (t : Str) (regs : List Nat) : Bool := t.lds.all (·.sure) && !regs.any t.pending

/-- The state in which an instruction that names registers may run behind the outstanding loads of its string; none while it must
wait. -/
def settled (regs : List Nat) (s : State) : Option State :=
  if s.curStr.lds.isEmpty then some s
  else
    let t := { s.curStr with lds := s.sureGo s.cur.1 s.cur.2 s.curStr.launch [] s.curStr.lds }
    if t.ready regs then some (s.setCurStr t) else none

/-- The state in which the executing string takes a fault: with no load outstanding; or, where the fault is a trap that undoes nothing,
with none that will fault, so that each still binds the bank of its mode (R275, R387); none while it must wait. -/
def State.atFault (s : State) : Option State :=
  if s.curStr.lds.isEmpty then some s
  else if s.curStr.lvl == 0 && (match s.curStr.act with | some a => !a.rst | none => true) then settled [] s
  else none

/-- The executing string takes a fault once it may. -/
def State.faultDue (s : State) (f : State → State) : Out1 :=
  match s.atFault with
  | some s1 => .next (f s1)
  | none => .next s

/-- Runs an instruction of the executing string. A fault waits for the loads before it (R275). -/
def runInstr (f : M Adv) (s : State) : Out1 :=
  match f.run s with
  | .error (.fault e) => s.faultDue (·.fault e)
  | .error (.met e v b a) => s.faultDue (·.faultAt e v b a)
  | .error (.stall m) => .next (s.queueMiss s.cur.1 m)
  | .ok (.step, s') => .next s'.retire
  | .ok (.to pc, s') => .next (s'.retireTo pc)
  | .ok (.again, s') => .next s'
  | .ok (.placed, s') => .next s'

/-- The same as a step of an instruction. -/
def settle (regs : List Nat) : M Unit := do
  match settled regs (← get) with
  | some s => set s
  | none => stall

/-- An instruction that only changes its string, and the X and V registers that it names; see `settled`. -/
def strOp (regs : List Nat) (f : Str → Str) (s : State) : Out1 :=
  match settled regs s with
  | some s => .next (s.setCurStr (f s.curStr)).retire
  | none => .next s

/-- The same, for an instruction that sets the pc. -/
def strJump (regs : List Nat) (f : Str → Str) (pc : Str → Word) (s : State) : Out1 :=
  match settled regs s with
  | some s => .next ((s.setCurStr (f s.curStr)).retireTo (pc s.curStr))
  | none => .next s

/-- The same, for an instruction that may fault; its fault waits for the loads before it. -/
def strTry (regs : List Nat) (f : Str → Except FaultInfo Str) (s : State) : Out1 :=
  match settled regs s with
  | some s => match f s.curStr with
    | .ok t => .next (s.setCurStr t).retire
    | .error e => s.faultDue (·.fault e)
  | none => .next s

/-- Waits until no load of the string is outstanding (log 13). -/
def quiet : M Unit := do await (← theStr).lds.isEmpty

end Sys2Proof.Machine
end

