-- ==== Sys2Proof/Machine/Rights.lean ====
section
/-! DEFINITION. The owner directory and the rights tables in memory (R41 to R47), and what GRANT, REVOKE and RQRY do to
them or read from them (R57 to R67). -/

namespace Sys2Proof.Machine

/-! ## Tables in memory -/

/-- Address of an owner's directory entry (R42, R43). -/
def dirAddr (p : Partition) (o : Nat) : Nat := p.home + 0x1000 + 16 * o

/-- OWNLIM (R42). -/
def Partition.lim (p : Partition) : Nat := 2 ^ p.ownlim

/-- A directory entry as a number (R42). -/
def dirEntry (m : Memory) (p : Partition) (o : Nat) : Nat := m.num (dirAddr p o) 16

/-- True when an owner is LIVE (R42). -/
def isLive (m : Memory) (p : Partition) (o : Nat) : Bool := decide (o < p.lim) && field (dirEntry m p o) 96 2 == 1

/-- Decodes a rights entry (R46). -/
def RightsEntry.ofNat (v : Nat) : RightsEntry :=
  { base := field v 0 46, len := field v 64 46, pkg := field v 46 10, colour := field v 128 8, rights := field v 136 6,
    q := bitAt v 142, grantor := field v 144 14 }

/-- Encodes a rights entry (R46). -/
def RightsEntry.toNum (e : RightsEntry) : Nat :=
  e.base + e.pkg * 2 ^ 46 + e.len * 2 ^ 64 + e.colour * 2 ^ 128 + e.rights * 2 ^ 136 + b2n e.q * 2 ^ 142
    + e.grantor * 2 ^ 144

/-- The entries of an owner's table; an owner that is not LIVE has none (R53). -/
def table (m : Memory) (p : Partition) (o : Nat) : List RightsEntry :=
  if isLive m p o then
    (upTo (field (dirEntry m p o) 80 16)).map (fun i => RightsEntry.ofNat (m.num (field (dirEntry m p o) 0 42 + 32 * i) 32))
  else []

/-- Writes an owner's table and its cnt. -/
def putTable (m : Memory) (p : Partition) (o : Nat) (l : List RightsEntry) : Memory :=
  let tb := field (dirEntry m p o) 0 42
  let m1 := (upTo l.length).foldl (fun m i => match l[i]? with
    | some e => m.putNum (tb + 32 * i) 32 e.toNum
    | none => m) m
  m1.putNum (dirAddr p o + 10) 2 l.length

/-- The entry covers the byte. -/
def RightsEntry.covers (e : RightsEntry) (pkg off : Nat) : Bool :=
  e.pkg == pkg && decide (e.base ≤ off) && decide (off < e.base + e.len)

/-- Searches an owner's table for the entry that covers a byte (R53). The bytes of the table are used whatever the marks of their
sectors (log 64). -/
def search (m : Memory) (p : Partition) (o pkg off : Nat) : Option RightsEntry :=
  (table m p o).find? (fun e => e.covers pkg off)

/-! ## Changing a table -/

/-- Splits the entry that `x` lies inside of. -/
def splitAt (pkg x : Nat) (l : List RightsEntry) : List RightsEntry :=
  l.flatMap (fun e => if e.pkg == pkg && decide (e.base < x) && decide (x < e.base + e.len) then
      [{ e with len := x - e.base }, { e with base := x, len := e.base + e.len - x }]
    else [e])

/-- The entry lies within [lo, hi) of the package. -/
def within (pkg lo hi : Nat) (e : RightsEntry) : Bool :=
  e.pkg == pkg && decide (lo ≤ e.base) && decide (e.base + e.len ≤ hi)

/-- Overlaps [lo, hi) of the package. -/
def touches (pkg lo hi : Nat) (e : RightsEntry) : Bool :=
  e.pkg == pkg && decide (e.base < hi) && decide (lo < e.base + e.len)

/-- Changes the parts of a table that lie in [lo, hi); `none` deletes a part. -/
def overRange (pkg lo hi : Nat) (f : RightsEntry → Option RightsEntry) (l : List RightsEntry) : List RightsEntry :=
  (splitAt pkg hi (splitAt pkg lo l)).flatMap (fun e => if within pkg lo hi e then (f e).toList else [e])

/-- Order of table entries: ascending base; those of different packages by package first (log 63). -/
def entryKey (e : RightsEntry) : Nat := e.pkg * 2 ^ 46 + e.base

/-- Inserts an entry in order. -/
def insertEntry (e : RightsEntry) : List RightsEntry → List RightsEntry
  | [] => [e]
  | h :: t => if entryKey e < entryKey h then e :: h :: t else h :: insertEntry e t

/-- Adjacent entries with equal colour, rights, grantor and Q are one (R46). -/
def mergeGo (e : RightsEntry) : List RightsEntry → List RightsEntry
  | [] => [e]
  | h :: t =>
    if h.pkg == e.pkg && e.base + e.len == h.base && h.colour == e.colour && h.rights == e.rights && h.q == e.q
        && h.grantor == e.grantor then mergeGo { e with len := e.len + h.len } t
    else e :: mergeGo h t

/-- Sorts and merges (R46). -/
def tidy (l : List RightsEntry) : List RightsEntry :=
  match l.foldl (fun acc e => insertEntry e acc) [] with
  | [] => []
  | h :: t => mergeGo h t

/-- The parts of [lo, hi) that no entry covers. -/
def gaps (pkg lo hi : Nat) (l : List RightsEntry) : List (Nat × Nat) :=
  let inside := (l.foldl (fun acc e => insertEntry e acc) []).filter (touches pkg lo hi)
  let r := inside.foldl (fun (a : Nat × List (Nat × Nat)) e =>
    (max a.1 (e.base + e.len), if a.1 < e.base then a.2 ++ [(a.1, e.base)] else a.2)) (lo, [])
  if r.1 < hi then r.2 ++ [(r.1, hi)] else r.2

/-- GRANT over one part of the issuer's (R59). -/
def grantPart (pkg m g lo hi colour : Nat) (l : List RightsEntry) : List RightsEntry :=
  (overRange pkg lo hi (fun e => some { e with rights := e.rights ||| m, colour := colour, grantor := g, q := false }) l)
    ++ (gaps pkg lo hi l).map (fun x =>
      { base := x.1, len := x.2 - x.1, pkg := pkg, colour := colour, rights := m, q := false, grantor := g })

/-- The target's table after GRANT (R59). -/
def grantTable (pkg lo hi m g : Nat) (issuer target : List RightsEntry) : List RightsEntry :=
  tidy ((issuer.filter (touches pkg lo hi)).foldl
    (fun t e => grantPart pkg m g (max lo e.base) (min hi (e.base + e.len)) e.colour t) target)

/-- The target's table after a plain REVOKE (R63). -/
def revokeTable (pkg lo hi m : Nat) (l : List RightsEntry) : List RightsEntry :=
  tidy (overRange pkg lo hi (fun e =>
    let r := e.rights &&& (63 ^^^ m)
    if r = 0 then none else some { e with rights := r }) l)

/-- Recolours one part (R50). -/
def recolour (e : RightsEntry) : RightsEntry := if e.colour = 255 then { e with q := true } else { e with colour := e.colour + 1 }

/-- A table after a recolour: those that keep their rights, and those that lose them (R64). -/
def recolourTable (pkg lo hi : Nat) (keep : Bool) (l : List RightsEntry) : List RightsEntry :=
  tidy (overRange pkg lo hi (fun e => if keep then some (recolour e) else none) l)

/-- A table after a sweep (R65). -/
def sweepTable (pkg lo hi : Nat) (l : List RightsEntry) : List RightsEntry :=
  tidy (overRange pkg lo hi (fun e => some (if e.q then { e with colour := 1, q := false } else e)) l)

/-! ## Arguments and status -/

/-- The fields of a GRANT or REVOKE (R57). -/
structure RightsArgs where
  pkg : Nat
  lo : Nat
  hi : Nat
  colour : Nat
  sw : Bool
  rc : Bool
  m : Nat
  t : Nat
  g : Nat
  isGrant : Bool
deriving DecidableEq, Repr

/-- Reads them from the registers. -/
def RightsReq.args (r : RightsReq) : RightsArgs :=
  { pkg := ptrPkg r.xa, lo := ptrOff r.xa, hi := ptrOff r.xa + r.xb.toNat, colour := ptrColour r.xa,
    sw := bitAt r.xc.toNat 25, rc := bitAt r.xc.toNat 24, m := field r.xc.toNat 16 6, t := field r.xc.toNat 0 14,
    g := r.owner.toNat, isGrant := r.isGrant }

/-- Status 1, BADARG (R58). -/
def badArg (r : RightsReq) : Bool :=
  let a := r.args
  let x := r.xc.toNat
  field x 26 38 != 0 || field x 22 2 != 0 || field x 14 2 != 0 || (a.isGrant && a.m == 0)
    || decide (2 ^ 45 ≤ a.lo) || a.lo % 256 != 0 || r.xb.toNat % 256 != 0 || r.xb == 0 || decide (2 ^ 45 < a.hi)
    || (a.sw && a.rc) || (a.isGrant && (a.sw || a.rc))

/-- Every byte of the range is covered by an entry that passes the test. -/
def coveredBy (a : RightsArgs) (f : RightsEntry → Bool) (l : List RightsEntry) : Bool :=
  (gaps a.pkg a.lo a.hi (l.filter (fun e => touches a.pkg a.lo a.hi e && f e))).isEmpty

/-- The tables that a request with status 0 writes: owners with their new tables. -/
def newTables (m : Memory) (p : Partition) (a : RightsArgs) : List (Nat × List RightsEntry) :=
  if a.sw then (upTo p.lim).filterMap (fun o =>
    if (table m p o).any (touches a.pkg a.lo a.hi) then some (o, sweepTable a.pkg a.lo a.hi (table m p o)) else none)
  else if a.rc then (upTo p.lim).filterMap (fun o =>
    if (table m p o).any (touches a.pkg a.lo a.hi) then
      some (o, recolourTable a.pkg a.lo a.hi (o == a.g || o == 0) (table m p o)) else none)
  else if a.isGrant then [(a.t, grantTable a.pkg a.lo a.hi a.m a.g (table m p a.g) (table m p a.t))]
  else [(a.t, revokeTable a.pkg a.lo a.hi a.m (table m p a.t))]

/-- The status of a GRANT or REVOKE (R58, R63 to R65); the checks run in the order of the status numbers. -/
def rightsStatus (m : Memory) (p : Partition) (r : RightsReq) : Nat :=
  let a := r.args
  let plain := !a.sw && !a.rc
  let mine := table m p (if a.sw then 0 else a.g)
  let inRange (l : List RightsEntry) := l.filter (touches a.pkg a.lo a.hi)
  let needs := if plain then 16 ||| a.m else 16
  if badArg r then 1
  else if plain && (decide (p.lim ≤ a.t) || !isLive m p a.t || a.t == a.g) then 2
  else if !coveredBy a (fun e => e.rights &&& needs == needs) mine then 3
  else if (inRange mine).any (fun e => e.colour != a.colour || (e.q && !a.sw)) then 4
  else if a.isGrant && (inRange (table m p a.t)).any (fun e => e.colour != a.colour || e.grantor != a.g) then 5
  else if (newTables m p a).any (fun x => decide (field (dirEntry m p x.1) 64 16 < x.2.length)) then 6
  else if plain && !a.isGrant && a.g != 0 && (inRange (table m p a.t)).any (fun e => e.grantor != a.g) then 7
  else if a.rc && a.g != 0 && (inRange mine).any (fun e => e.grantor != 0) then 7
  else if a.sw && (inRange mine).any (fun e => !e.q) then 7
  else 0

/-- Owners whose tables a request changes; none names every owner (R60). -/
def holdOwners (a : RightsArgs) : Option (List Nat) := if a.sw || a.rc then none else some [a.t]

/-! ## RQRY -/

/-- What RQRY reports of an entry (R67). -/
def rqryWord (e : RightsEntry) : Word :=
  BitVec.ofNat 64 (e.colour + e.rights * 256 + b2n e.q * 2 ^ 14 + 2 ^ 15 + e.grantor * 2 ^ 16)

end Sys2Proof.Machine
end

