-- ==== Sys2Proof/Machine/Xlate.lean ====
section
/-! DEFINITION. Physical addresses, the deckle, and the walk of the translation tables (R28 to R33). -/

namespace Sys2Proof.Machine

/-! ## Physical addresses -/

/-- Every byte of [pa, pa + n) lies in granules of the partition (R33). -/
def inDeckle (p : Partition) (pa n : Nat) : Bool :=
  (upTo ((pa % 0x4000000 + n + 0x3FFFFFF) / 0x4000000)).all (fun i =>
    match granuleOf (pa / 0x4000000 * 0x4000000 + i * 0x4000000) with
    | some g => p.granules.contains g
    | none => false)

/-! ## The walk -/

/-- Lowest index bit, number of index bits of a table at a level with a granule bit (R30); the low bit is also log₂ of what
an entry covers. -/
def indexOf (lvl : Nat) (g : Bool) : Nat × Nat :=
  match lvl, g with
  | 4, _ => (39, 6)
  | 3, _ => (30, 9)
  | 2, false => (21, 9)
  | 2, true => (26, 4)
  | _, false => (12, 9)
  | _, true => (16, 5)

/-- A table pointer is allowed at this level (R30). -/
def pointerAllowed (lvl : Nat) (g : Bool) : Bool := lvl == 4 || lvl == 3 || (lvl == 2 && !g)
/-- A leaf is allowed at this level (R30). -/
def leafAllowed (lvl : Nat) : Bool := decide (lvl ≤ 3) && lvl != 0

/-- Bytes of the table that an entry at a level points to (R30). -/
def tableSize (lvl : Nat) (g : Bool) : Nat := 8 * 2 ^ (indexOf lvl g).2

/-- An entry that breaks R31 or R32 where it stands (cause BADENT). -/
def badEntry (lvl : Nat) (g : Bool) (e : Nat) : Bool :=
  if bitAt e 1 then
    !pointerAllowed lvl g || field e 56 8 != 0 || field e 42 14 != 0 || field e 3 4 != 0
      || (lvl == 4 && bitAt e 2) || (field e 7 49 * 128) % tableSize (lvl - 1) (bitAt e 2) != 0
  else
    let sz := 2 ^ (indexOf lvl g).1
    let t := field e 12 44 * 4096
    !leafAllowed lvl || field e 56 2 != 0 || field e 6 6 != 0 || bitAt e 2 || bitAt e 4
      || t % sz != 0 || (!bitAt e 3 && field e 42 14 != 0)
      || (bitAt e 5 && (bitAt e 3 || !isDram t))

/-- The walk (R33), `fuel` levels deep: a leaf, or the cause of its XLATE fault. -/
def walkGo (m : Memory) (p : Partition) (va : Nat) : Nat → Nat → Nat → Bool → Except Nat TlbEntry
  | 0, _, _, _ => .error 4
  | fuel + 1, b, lvl, g =>
    let (lo, n) := indexOf lvl g
    let e := m.num (b + 8 * field va lo n) 8
    if !bitAt e 0 then .error 3
    else if badEntry lvl g e then .error 4
    else if bitAt e 1 then
      let b2 := field e 7 49 * 128
      if !inDeckle p b2 8 then .error 5 else walkGo m p va fuel b2 (lvl - 1) (bitAt e 2)
    else
      let sz := 2 ^ lo
      let t := field e 12 44 * 4096
      if !bitAt e 3 && !inDeckle p t sz then .error 5
      else .ok { va := va / sz * sz, size := sz, target := t, host := bitAt e 3, home := bitAt e 5, hcl := field e 58 6 }

/-- Translates a virtual address by the partition's tables (R33). -/
def walk (m : Memory) (p : Partition) (va : Nat) : Except Nat TlbEntry := walkGo m p va 4 p.root 4 false

/-- The addresses of the entries that the walk reads (R33). -/
def walkPath (m : Memory) (p : Partition) (va : Nat) : Nat → Nat → Nat → Bool → List Nat
  | 0, _, _, _ => []
  | fuel + 1, b, lvl, g =>
    let a := b + 8 * field va (indexOf lvl g).1 (indexOf lvl g).2
    let e := m.num a 8
    a :: (if bitAt e 0 && !badEntry lvl g e && bitAt e 1 && inDeckle p (field e 7 49 * 128) 8 then
      walkPath m p va fuel (field e 7 49 * 128) (lvl - 1) (bitAt e 2) else [])

/-- The entries that the walk of an address in partition `p` reads (R33). -/
def State.walkOf (s : State) (p va : Nat) : List Nat := walkPath s.seen (s.part p) va 4 (s.part p).root 4 false

/-- A unit of core `c` reads sectors at their homes, each with one packet there and one back; bad ones are poisoned in place (R76, R84). -/
def State.readAll (s : State) (c : Nat) (l : List Nat) : State :=
  l.foldl (fun s a => (s.packets c (coreUnit c) (.phys a)).poisonFound none a) s

/-- A walk for core `c` of partition `p` reads its entries (R33). -/
def State.walked (s : State) (c p va : Nat) : State := s.readAll c (s.walkOf p va)

/-- The entries that a binary search between `lo` and `hi` of a table reads for a byte, halving the lower part down where it does not divide
(R53; log 64). -/
def halves (t : List RightsEntry) (pkg off : Nat) : Nat → Nat → Nat → List Nat
  | 0, _, _ => []
  | fuel + 1, lo, hi =>
    let i := (lo + hi) / 2
    match (if lo < hi then t[i]? else none) with
    | none => []
    | some e =>
      i :: (if e.covers pkg off then []
        else if pkg * 2 ^ 46 + off < entryKey e then halves t pkg off fuel lo i else halves t pkg off fuel (i + 1) hi)

/-- The addresses of the sectors that a search for an owner reads (R42, R53). -/
def searchPath (m : Memory) (p : Partition) (o pkg off : Nat) : List Nat :=
  let t := table m p o
  dirAddr p o :: (halves t pkg off 17 0 t.length).map (fun i => field (dirEntry m p o) 0 42 + 32 * i)

/-- A search for core `c` of partition `p` reads the directory entry of an owner and entries of its table (R53). -/
def State.searched (s : State) (c p o pkg off : Nat) : State := s.readAll c (searchPath s.seen (s.part p) o pkg off)

/-! ## TLB and PLB -/

/-- Installs an entry: overlapping entries go, the least recently used beyond 128 goes (R34). -/
def tlbInstall (l : List TlbEntry) (e : TlbEntry) : List TlbEntry :=
  (e :: l.filter (fun x => !overlaps x.va x.size e.va e.size)).take 128

/-- Installs an entry: the least recently used beyond 64 goes (R52). -/
def plbInstall (l : List PlbEntry) (e : PlbEntry) : List PlbEntry := (e :: l.filter (fun x => x != e)).take 64

/-- A HOLD in force names the owner (R60). -/
def HoldReq.names (h : HoldReq) (o : Nat) : Bool :=
  h.removed && (match h.owners with | none => true | some l => l.contains o)

end Sys2Proof.Machine
end

