-- ==== Sys2Proof/Machine/Access.lean ====
section
/-! DEFINITION. The checks of every access in their order (R24 to R27, R36 to R40, R48 to R56), the homes and scopes of
places (R97, R98), and the data that an access finds (R84, R395). -/

namespace Sys2Proof.Machine

/-- Access kinds by the right they need (R48). -/
inductive Acc where
  | r | w | x | a
deriving DecidableEq, Repr

/-- Bit of the right (R46). -/
def Acc.bit : Acc → Nat
  | .r => 1
  | .w => 2
  | .x => 4
  | .a => 8
/-- The fault code of the right (R386). -/
def Acc.code : Acc → Nat
  | .r => 0x11
  | .w => 0x12
  | .x => 0x13
  | .a => 0x14

/-- Who makes an access: core, requester's number (see `Miss`), owner in force, monitor mode, launch, and the function under which it
reaches host pages. -/
structure Who where
  core : Nat
  id : Nat
  owner : Nat
  mon : Bool
  launch : Option Nat
  fn : Nat
deriving DecidableEq, Repr

/-- Unit number of the NI of a requester. -/
def Who.unit (w : Who) : Nat := if w.id % 1024 == 8 && decide (w.core < 4096) then bceUnit w.core else coreUnit w.core

/-- Function under which a launch, or monitor code of no launch, reaches host pages from a core: the launch's VF, else the VF that is
scheduled there, else function 0 (R36; log 58). -/
def strFn (s : State) (c : Nat) (l : Option Nat) : Nat :=
  match l.bind s.launch with
  | some v => v.vf
  | none => (s.core c).vf.getD 0

/-- A string making a data access (R56). -/
def dataWho (s : State) : Who :=
  { core := s.cur.1, id := s.cur.2, owner := s.curStr.owner.toNat, mon := s.curStr.lvl != 0, launch := s.curStr.launch,
    fn := strFn s s.cur.1 s.curStr.launch }

/-- A string fetching an instruction or a literal (R56). -/
def fetchWho (s : State) : Who :=
  { core := s.cur.1, id := s.cur.2, owner := if s.curStr.lvl = 0 then s.curStr.owner.toNat else 0,
    mon := s.curStr.lvl != 0, launch := s.curStr.launch, fn := strFn s s.cur.1 s.curStr.launch }

/-- The package is an active member of the partition's domain (R37, R404). -/
def Partition.member (p : Partition) (q : Nat) : Bool := p.members.any (fun m => m.pkg == q && m.weAdded && m.peerAdded)

/-- Bits [45:44] of a pointer's offset (R25). -/
def ptrSpace (p : Word) : Nat := ptrOff p / 2 ^ 44

/-- Moves an element that passes the test to the front (R34, R52). -/
def toFront {α : Type} [DecidableEq α] (l : List α) (x : α) : List α := x :: l.filter (fun y => y != x)

/-- A read of a table entry, of those at some addresses, has failed its tag check or been lost on the mesh: the access that needs it ends with
UNCORR (R77). -/
def tableLost (w : Who) (l : List Nat) (p : Word) : M Unit := do
  if l.any (fun a => crosses w.core (.phys a)) && (((← get).core w.core).hands w.id).contains .lost then
    throw (.met { code := 0x21, detail := 0, val := p } ((l.take 1).map .phys) false none)
  else pure ()

/-- A HOLD is in force on a core that names the owner (R60). -/
def Core.holdNames (co : Core) (o : Nat) : Bool := match co.hold with | some h => h.names o | none => false

/-- The rights entry that covers a byte for an owner: from the PLB, from the string's own search, or by a search (R51 to
R53). A named owner's miss waits while a HOLD is in force (R60). -/
def rightsOf (w : Who) (ptr : Word) : M (Option RightsEntry) := do
  let (pkg, off) := (ptrPkg ptr, ptrOff ptr)
  let s ← get
  let co := s.core w.core
  match co.plb.find? (fun e => e.owner == w.owner && e.entry.covers pkg off) with
  | some e =>
    set (s.modCore w.core (fun co => { co with plb := toFront co.plb e }))
    return some e.entry
  | none =>
    if co.holdNames w.owner then stall
    else if w.id < 4 then
      let r : Option (Option RightsEntry) := (co.str w.id).inHand.findSome? (fun h => match h with
          | .range o _ _ e => if o == w.owner && e.covers pkg off then some (some e) else none
          | .noRange o p x => if o == w.owner && p == pkg && x == off then some none else none
          | _ => none)
      match r with
      | some r => return r
      | none =>
        tableLost w ((co.part.map (fun p => searchPath s.seen (s.part p) w.owner pkg off)).getD []) ptr
        throw (.stall (some (.plb w.id w.owner pkg off)))
    else
      match co.part with
      | none => return none
      | some p =>
        tableLost w (searchPath s.seen (s.part p) w.owner pkg off) ptr
        let r := search s.seen (s.part p) w.owner pkg off
        match r with
        | some e => set ((s.searched w.core p w.owner pkg off).modCore w.core (fun co => { co with plb := plbInstall co.plb { owner := w.owner, entry := e } }))
        | none => set (s.searched w.core p w.owner pkg off)
        return r

/-- The translation of a virtual address: from the TLB, from the string's own walk, or by a walk (R33 to R35). -/
def xlateOf (w : Who) (p : Word) : M TlbEntry := do
  let s ← get
  let va := ptrOff p
  let co := s.core w.core
  match co.tlb.find? (fun e => e.hits va) with
  | some e =>
    set (s.modCore w.core (fun co => { co with tlb := toFront co.tlb e }))
    return e
  | none =>
    if w.id < 4 then
      let r : Option (Except Nat TlbEntry) := (co.str w.id).inHand.findSome? (fun h => match h with
          | .page _ e => if e.hits va then some (Except.ok e) else none
          | .noPage x c => if x == va then some (Except.error c) else none
          | _ => none)
      match r with
      | some (.ok e) => return e
      | some (.error c) => raise 0x10 c p
      | none =>
        tableLost w ((co.part.map (fun pn => s.walkOf pn va)).getD []) p
        throw (.stall (some (.tlb w.id va)))
    else
      match co.part with
      | none => raise 0x10 3 p
      | some pn =>
        tableLost w (s.walkOf pn va) p
        match walk s.seen (s.part pn) va with
        | .ok e =>
          set ((s.walked w.core pn va).modCore w.core (fun co => { co with tlb := tlbInstall co.tlb e }))
          return e
        | .error c => throw (.met { code := 0x10, detail := c, val := p } ((s.walkOf pn va).map .phys) false none)

/-- Onward translation of a host page (R36): the home is the iova with its translated address. A cached translation serves an atomic if it
permits writes; that its permission to read is not asked for is the model's choice (log 72). -/
def hostOf (w : Who) (k : Acc) (p : Word) (iova : Nat) : M Place := do
  let s ← get
  let f := w.fn
  let page := iova / 4096
  let wr := k == .w || k == .a
  let miss : M Place :=
    if ((s.core w.core).hands w.id).contains (.noHost f page) then raise 0x10 6 p
    else if ((s.core w.core).hands w.id).contains (.hostAbort f page) then raise 0x41 0 p
    else throw (.stall (some (.host w.id f page wr 0)))
  match s.ats.find? (fun e => e.vf == f && e.page == page && e.pasid == (s.vf f).pasid) with
  | some e => if (if wr then e.writes else e.reads) then return .host f iova (e.target * 4096 + iova % 4096) else miss
  | none => miss

/-- Another package has translated the offset of an access to it (R37, R38). A NACK or a timeout ends an atomic with HOST_ABORT; a load goes on
to meet it where its register would receive the element, and a store to be reported (R312, R390, R414; see `Str.refusedEv`). -/
def remoteXl (w : Who) (k : Acc) (p : Word) : M Unit := do
  let s ← get
  let off := ptrOff p
  let pkg := ptrPkg p
  let r : Option (Option (Nat × Nat)) := ((s.core w.core).hands w.id).findSome? (fun h => match h with
      | .remoteOk q x => if q == pkg && x / 4096 == off / 4096 then some none else none
      | .noRemote q x c d => if q == pkg && x / 4096 == off / 4096 then some (some (c, d)) else none
      | _ => none)
  match r with
  | some none => pure ()
  | some (some (c, d)) => if k != .a && c == 0x41 then pure () else raise c d p
  | none => throw (.stall (some (.remote w.id pkg off)))

/-- The home of an access in another package: a store or an atomic waits until its translation there is resolved (R38); a read is
answered, or faults, where it is sent. -/
def remoteOf (w : Who) (k : Acc) (p : Word) : M Place := do
  if k == .w || k == .a then remoteXl w k p else pure ()
  return .remote (ptrPkg p) (ptrOff p)

/-- Slice space and the parameter window (R26, R51, R157, R164). That a fetch through a pointer of another colour than 0 faults for want of X and
not for its colour is the model's choice (log 76). -/
def slicePlace (s : State) (w : Who) (k : Acc) (p : Word) (n : Nat) : Except FaultInfo Place :=
  let off := ptrOff p
  let bad (c : Nat) : Except FaultInfo Place := .error { code := c, detail := 0, val := p }
  match w.launch.bind s.launch, w.launch with
  | some l, some id =>
    if field off 32 12 = 0 ∧ field off 16 16 = 0xC000 then
      let o := field off 0 16
      if l.plen < o + n then bad 0x16
      else if k = .x then bad 0x13
      else if ptrColour p ≠ 0 then bad 0x15
      else if k ≠ .r then bad k.code
      else .ok (.phys (l.pblocks.getD (o / 4096) 0 + o % 4096))
    else
      let lc := field off 32 12
      let soff := field off 0 19
      if field off 19 13 ≠ 0 ∨ l.nlcore ≤ lc ∨ l.winBytes < soff + n then bad 0x16
      else if k = .x then bad 0x13
      else if ptrColour p ≠ 0 then bad 0x15
      else match (s.core (l.phys lc)).on id with
        | some o => .ok (.slice (l.phys lc) (o.wbase + soff))
        | none => bad 0x16
  | _, _ => bad 0x16

/-- Root-private SRAM, at root level only (R428, R432; log 14). -/
def rootPlace (p : Word) (n : Nat) : Except FaultInfo Place :=
  if ptrOff p + n ≤ 2 ^ 21 then .ok (.slice 4096 (ptrOff p)) else .error { code := 0x10, detail := 1, val := p }

/-- Raises a fault that a pure check found. -/
def ofExcept {α : Type} : Except FaultInfo α → M α
  | .ok a => pure a
  | .error f => throw (.fault f)

/-- The homes that a search of an owner's table has read, for a requester that searches at its access itself (R53). -/
def searchHomes (s : State) (w : Who) (p : Word) : List Place :=
  match (s.core w.core).part with
  | some q => if w.id < 4 then [] else (searchPath s.seen (s.part q) w.owner (ptrPkg p) (ptrOff p)).map .phys
  | none => []

/-- Rights over translated space (R51). -/
def checkRights (w : Who) (k : Acc) (p : Word) : M Unit := do
  match ← rightsOf w p with
  | none => throw (.met { code := k.code, detail := 0, val := p } (searchHomes (← get) w p) false none)
  | some e =>
    if e.q then raise 0x15 0 p
    else if e.colour != ptrColour p then raise 0x15 0 p
    else if e.rights &&& k.bit = 0 then raise k.code 0 p
    else pure ()

/-- Translated space of this package (R29 to R36, R73). -/
def checkXlate (w : Who) (k : Acc) (p : Word) : M Place := do
  let e ← xlateOf w p
  if !declaredRight e.home e.hcl e.target e.size && !e.host then modify (fun s => s.meterOf w.core 14 1) else pure ()
  let a := e.target + (ptrOff p - e.va)
  if e.host then hostOf w k p a else return .phys a

/-- The checks of an access of `n` bytes in one sector or aligned block, in the order of R39; `al` is the alignment that the
instruction requires. The answer is the home. -/
def check (w : Who) (k : Acc) (p : Word) (n al : Nat) : M Place := do
  let s ← get
  let sp := ptrSpace p
  if sp == 2 && !w.mon then raise 0x02 0 p
  else if p.toNat % al != 0 then raise 0x03 0 p
  else if w.core == 4096 then ofExcept (rootPlace p n)
  else
    match (s.core w.core).part with
    | none => raise 0x10 1 p
    | some pn =>
      let own := ptrPkg p == s.pkg
      if !own && !(s.part pn).member (ptrPkg p) then raise 0x10 2 p
      else if sp == 2 then
        if !own || field (ptrOff p) 42 2 != 0 then raise 0x10 1 p
        else if k == .x then raise 0x13 0 p
        else if inDeckle (s.part pn) (field (ptrOff p) 0 42) n then return .phys (field (ptrOff p) 0 42)
        else raise 0x10 5 p
      else if sp == 3 then
        if !own then raise 0x10 1 p else ofExcept (slicePlace s w k p n)
      else do
        checkRights w k p
        if own then checkXlate w k p else remoteOf w k p

/-! ## Homes -/

/-- First byte of the sector of a place, and the offset in it. -/
def sectorBase : Place → Place × Nat
  | .slice c o => (.slice c (o / 32 * 32), o % 32)
  | .phys a => (.phys (a / 32 * 32), a % 32)
  | .host f a b => (.host f (a / 32 * 32) (b / 32 * 32), b % 32)
  | .remote p o => (.remote p (o / 32 * 32), o % 32)
  | .notice f => (.notice f, 0)

/-- `n` bytes at a place in one sector, the bytes being numbers `i` and up of the access. -/
def evOf (p : Place) (n i : Nat) : SectorEv :=
  let (b, o) := sectorBase p
  { place := b, bytes := (upTo n).map (fun j => (o + j, i + j)) }

/-! ## What an access finds -/

/-- The monitor's diagnostic read: it holds D over the byte (R395). -/
def holdsD (s : State) (w : Who) (p : Word) : Bool :=
  w.mon && decide (ptrSpace p < 2) && (match (s.core w.core).part with
    | some pn => match search s.seen (s.part pn) w.owner (ptrPkg p) (ptrOff p) with
      | some e => bitAt e.rights 5
      | none => false
    | none => false)

/-- A sector of a host page or of another package, once its request has been answered (R37, R84, R115, R281, R414): `n` bytes from
`o` in it. -/
def outsideRead (w : Who) (pl : Place) (p : Word) (n : Nat) : M (List Byte) := do
  let s ← get
  let (base, o) := sectorBase pl
  let r : Option (Except (Nat × Nat) (BitVec 256)) := ((s.core w.core).hands w.id).findSome? (fun h => match h with
      | .sector q d => if q == base then some (.ok d) else none
      | .failed q c x => if q == base then some (.error (c, x)) else none
      | _ => none)
  match r with
  | some (.ok d) => return (upTo n).map (fun i => BitVec.extractLsb' (8 * (o + i)) 8 d)
  | some (.error (c, x)) => raise c x p
  | none => throw (.stall (some (.data w.id base)))

/-- The `n` bytes at a flat address as an access of a launch reaches it. -/
def bytesAt (s : State) (l : Option Nat) (a n : Nat) : List Byte := s.mem.bytes (s.version (s.shadowOf l) a) n

/-- The packet of an access in this package fails its tag check or is lost (R77). -/
def State.lost (s : State) (w : Who) (pl : Place) : Bool :=
  (placeFlat pl).isSome && crosses w.core pl && ((s.core w.core).hands w.id).contains .lost

/-- The requester takes `n` bytes of one checked sector: the fault of a bad sector of this package, which is then poisoned in place, or
the bytes (R84); a fence has it end with an error response (R397). -/
def takeSector (w : Who) (pl : Place) (p : Word) (n : Nat) : M (List Byte) := do
  let s ← get
  if s.refuses w.core pl then raise 0x21 0 p
  else if s.lost w pl then throw (.met { code := 0x21, detail := 0, val := p } [pl] true none)
  else match placeFlat pl with
  | none => outsideRead w pl p n
  | some a => match badAt s w.launch a p with
    | some f => throw (.met f [pl] true (some a))
    | none =>
      set (s.packets w.core w.unit pl)
      return bytesAt s w.launch a n

/-- Runs steps whose fault is an answer and not an end; the reader of a bad sector poisons it in place (R84). -/
def attempt {α : Type} (w : Who) (m : M α) : M (Except FaultInfo α) := fun s =>
  match m s with
  | .ok (a, s') => .ok (.ok a, s')
  | .error (.fault f) => .ok (.error f, s)
  | .error (.met f v b a) => .ok (.error f, s.metBad w.core w.unit w.launch f.val v b a)
  | .error (.stall x) => .error (.stall x)

/-- A sector of the instruction cache, by the flat address that it was read from (R16, R156). -/
def Core.cached (co : Core) (a : Nat) : Option (BitVec 256) := mfind co.icache (a / 32)

/-- The instruction cache of 64 KiB takes a sector in. -/
def Core.cache (co : Core) (a : Nat) (d : BitVec 256) : Core := { co with icache := ((a / 32, d) :: mdel co.icache (a / 32)).take 2048 }

/-- A fetch or a literal read takes `n` bytes of one checked sector through the instruction cache: a sector that it holds for user code of
a launch is served or read again, as a free value tells, so that after a store to code each sector is old or new (R156; log 55). -/
def fetchSector (w : Who) (pl : Place) (p : Word) (n : Nat) : M (List Byte) := do
  let s ← get
  match placeFlat pl, w.mon || w.launch.isNone with
  | none, _ => takeSector w pl p n
  | _, true => takeSector w pl p n
  | some a0, false =>
    let a := s.version (s.shadowOf w.launch) a0
    match (match (s.core w.core).cached a with | some d => if Config.refetch s.tick then none else some d | none => none) with
    | some d => return (upTo n).map (fun i => BitVec.extractLsb' (8 * (a % 32 + i)) 8 d)
    | none => do
      let b ← takeSector w pl p n
      modify (fun s => s.modCore w.core (fun co => co.cache a (BitVec.ofNat 256 (s.mem.num (a / 32 * 32) 32))))
      return b

/-- The sectors of an aligned block, in ascending order. -/
def fetchSectors (w : Who) (pl : Place) (p : Word) : Nat → M (List Byte)
  | 0 => return []
  | k + 1 => do
    let b ← fetchSector w pl p 32
    return b ++ (← fetchSectors w (placeAdd pl 32) (nextPtr p 32) k)

/-- An instruction fetch or a literal read of `n` aligned bytes (R39, R256, R273): the checks with X, then the data, sector by
sector. -/
def fetchBytes (p : Word) (n : Nat) : M (List Byte) := do
  let w := fetchWho (← get)
  let pl ← check w .x p n n
  if n ≤ 32 then fetchSector w pl p n else fetchSectors w pl p (n / 32)

end Sys2Proof.Machine
end

