-- ==== Sys2Proof/Machine/Fp.lean ====
section
/-! DEFINITION. Floating point (R190 to R209): formats, exact extended numbers, the one rounding, and what is built from
them. Results are encodings and flags as numbers; the flags are in the order of R196. -/

namespace Sys2Proof.Machine

/-- A binary format: width, exponent bits, fraction bits (R190). -/
structure Fmt where
  w : Nat
  eb : Nat
  mb : Nat
deriving DecidableEq, Repr

/-- FP64 (R190). -/
def fp64 : Fmt := ⟨64, 11, 52⟩
/-- FP32 (R190). -/
def fp32 : Fmt := ⟨32, 8, 23⟩
/-- BF16 (R190). -/
def bf16 : Fmt := ⟨16, 8, 7⟩
/-- Field widths of FP8 E4M3; its NaN, range and overflow are those of R191 and R204. -/
def fp8 : Fmt := ⟨8, 4, 3⟩

/-- Bias of a format. -/
def Fmt.bias (f : Fmt) : Nat := 2 ^ (f.eb - 1) - 1
/-- Exponent of the grid of subnormals. -/
def Fmt.emin (f : Fmt) : Int := 1 - (f.bias : Int) - f.mb
/-- The canonical NaN (R193). -/
def Fmt.nan (f : Fmt) : Nat :=
  if f.w = 8 then 0x7F else (2 ^ f.eb - 1) * 2 ^ f.mb + 2 ^ (f.mb - 1)
/-- Infinity of a sign. -/
def Fmt.inf (f : Fmt) (neg : Bool) : Nat := b2n neg * 2 ^ (f.w - 1) + (2 ^ f.eb - 1) * 2 ^ f.mb
/-- The largest finite magnitude's encoding (R190, R191). -/
def Fmt.maxMag (f : Fmt) : Nat := if f.w = 8 then 0x7E else (2 ^ f.eb - 1) * 2 ^ f.mb - 1
/-- Zero of a sign. -/
def Fmt.zero (f : Fmt) (neg : Bool) : Nat := b2n neg * 2 ^ (f.w - 1)
/-- 1.0. -/
def Fmt.one (f : Fmt) : Nat := f.bias * 2 ^ f.mb

/-- Flags of R196 as numbers. -/
def NV : Nat := 16
/-- See `NV`. -/
def DZ : Nat := 8
/-- See `NV`. -/
def OF : Nat := 4
/-- See `NV`. -/
def UF : Nat := 2
/-- See `NV`. -/
def NX : Nat := 1

/-- Rounding modes in the code of VRND (R194). -/
abbrev Mode := BitVec 2

/-- RDN. -/
def rdn : Mode := 2

/-- An exact extended number: NaN, an infinity, or a signed quotient, zeros having a sign. -/
inductive Ex where
  | nan
  | inf (neg : Bool)
  | rat (neg : Bool) (n d : Nat)
deriving DecidableEq, Repr

/-- True for a NaN encoding. -/
def Fmt.isNan (f : Fmt) (b : Nat) : Bool :=
  if f.w = 8 then field b 0 7 == 0x7F
  else field b f.mb f.eb == 2 ^ f.eb - 1 && field b 0 f.mb != 0
/-- True for a signalling NaN (R190, R191). -/
def Fmt.isSig (f : Fmt) (b : Nat) : Bool := f.w != 8 && f.isNan b && !bitAt b (f.mb - 1)
/-- The sign bit. -/
def Fmt.sign (f : Fmt) (b : Nat) : Bool := bitAt b (f.w - 1)

/-- The quotient m × 2^e. -/
def Ex.dyadic (neg : Bool) (m : Nat) (e : Int) : Ex :=
  if 0 ≤ e then .rat neg (m <<< e.toNat) 1 else .rat neg m (1 <<< (-e).toNat)

/-- The value of an encoding (R190, R191). -/
def Fmt.decode (f : Fmt) (b : Nat) : Ex :=
  let e := field b f.mb f.eb
  let m := field b 0 f.mb
  if f.isNan b then .nan
  else if f.w != 8 && e == 2 ^ f.eb - 1 then .inf (f.sign b)
  else if e = 0 then Ex.dyadic (f.sign b) m f.emin
  else Ex.dyadic (f.sign b) (2 ^ f.mb + m) (f.emin + (e - 1 : Nat))

/-- Sign of an extended number that is no NaN. -/
def Ex.isNeg : Ex → Bool
  | .nan => false
  | .inf s => s
  | .rat s _ _ => s
/-- True for a zero. -/
def Ex.isZero : Ex → Bool
  | .rat _ n _ => n == 0
  | _ => false
/-- Changes the sign. -/
def Ex.neg : Ex → Ex
  | .nan => .nan
  | .inf s => .inf (!s)
  | .rat s n d => .rat (!s) n d
/-- A natural number. -/
def Ex.ofNat (n : Nat) : Ex := .rat false n 1
/-- An integer. -/
def Ex.ofInt (i : Int) : Ex := .rat (decide (i < 0)) i.natAbs 1

/-- Product; 0 × ∞ is invalid. The second part is the flags. -/
def Ex.mul (a b : Ex) : Ex × Nat :=
  match a, b with
  | .nan, _ => (.nan, 0)
  | _, .nan => (.nan, 0)
  | .inf s, .inf t => (.inf (s != t), 0)
  | .inf s, .rat t n _ => if n = 0 then (.nan, NV) else (.inf (s != t), 0)
  | .rat s n _, .inf t => if n = 0 then (.nan, NV) else (.inf (s != t), 0)
  | .rat s n d, .rat t m e => (.rat (s != t) (n * m) (d * e), 0)

/-- Quotient of a coefficient of order 0 (R196): a finite nonzero number by zero is infinite and sets DZ. -/
def Ex.div (a b : Ex) : Ex × Nat :=
  match a, b with
  | .nan, _ => (.nan, 0)
  | _, .nan => (.nan, 0)
  | .inf _, .inf _ => (.nan, NV)
  | .inf s, .rat t _ _ => (.inf (s != t), 0)
  | .rat s _ _, .inf t => (.rat (s != t) 0 1, 0)
  | .rat s n d, .rat t m e =>
    if m = 0 then (if n = 0 then (.nan, NV) else (.inf (s != t), DZ)) else (.rat (s != t) (n * e) (d * m), 0)

/-- Quotient of a coefficient of higher order (R214): a nonzero value by zero is a NaN and sets DZ. -/
def Ex.divHigh (a b : Ex) : Ex × Nat :=
  match a.div b with
  | (r, f) => if b.isZero && r != .nan then (.nan, DZ) else (r, f)

/-- Signed sum of two quotients, as an integer over a denominator. -/
def ratAdd (a b : Int × Nat) : Int × Nat := (a.1 * b.2 + b.1 * a.2, a.2 * b.2)

/-- Signed quotient of a finite number. -/
def Ex.signed : Ex → Int × Nat
  | .rat s n d => (if s then -(n : Int) else (n : Int), d)
  | _ => (0, 1)

/-- Exact sum of terms with the sign rules for zero of R195 and R202, and NV for ∞ − ∞. -/
def Ex.sum (mode : Mode) (l : List Ex) : Ex × Nat :=
  if l.any (· == .nan) then (.nan, 0)
  else if l.any (· == .inf false) && l.any (· == .inf true) then (.nan, NV)
  else if l.any (· == .inf false) then (.inf false, 0)
  else if l.any (· == .inf true) then (.inf true, 0)
  else
    let q := (l.map Ex.signed).foldl ratAdd (0, 1)
    if q.1 = 0 then
      if l.all (fun x => x.isZero && x.isNeg) then (.rat (!l.isEmpty) 0 1, 0)
      else if l.all (fun x => x.isZero && !x.isNeg) then (.rat false 0 1, 0)
      else (.rat (mode == rdn) 0 1, 0)
    else (.rat (decide (q.1 < 0)) q.1.natAbs q.2, 0)

/-- ⌊log₂ (n / d)⌋ for positive n and d. -/
def ratLog (n d : Nat) : Int :=
  let l := (n.log2 : Int) - d.log2
  let le := if 0 ≤ l then decide (d <<< l.toNat ≤ n) else decide (d ≤ n <<< (-l).toNat)
  if le then l else l - 1

/-- Rounds n / d × 2^(−p), or a value just above it when `sticky`, to a multiple of 2^e: the multiple and whether it is
inexact. -/
def roundGrid (mode : Mode) (neg sticky : Bool) (n d : Nat) (p e : Int) : Nat × Bool :=
  let k := e + p
  let a := if 0 ≤ k then n else n <<< (-k).toNat
  let b := if 0 ≤ k then d <<< k.toNat else d
  let q := a / b
  let r := a % b
  let inexact := r != 0 || sticky
  let up := match mode.toNat with
    | 0 => decide (b < 2 * r) || (decide (2 * r = b) && (sticky || q % 2 == 1))
    | 1 => false
    | 2 => neg && inexact
    | _ => !neg && inexact
  (q + b2n up, inexact)

/-- Rounds a positive magnitude n / d × 2^(−p) to a format: its encoding without sign, and the flags (R195). FP8
saturates (R204). -/
def roundMag (f : Fmt) (mode : Mode) (neg sticky : Bool) (n d : Nat) (p : Int) : Nat × Nat :=
  let l := ratLog n d - p
  let full := l - f.mb
  let e := if full < f.emin then f.emin else full
  let (m, inexact) := roundGrid mode neg sticky n d p e
  let (m1, e1) := if 2 ^ (f.mb + 1) ≤ m then (m / 2, e + 1) else (m, e)
  let bits := if m1 < 2 ^ f.mb then m1 else (e1 - f.emin + 1).toNat * 2 ^ f.mb + (m1 - 2 ^ f.mb)
  let (mf, _) := roundGrid mode neg sticky n d p full
  let tiny := if 0 ≤ full - f.emin then false
    else decide (mf < 2 ^ (f.mb + (f.emin - full).toNat))
  if f.maxMag < bits then
    if f.w = 8 then (f.maxMag, OF + NX)
    else
      let toInf := match mode.toNat with
        | 0 => true
        | 1 => false
        | 2 => neg
        | _ => !neg
      (if toInf then f.inf false else f.maxMag, OF + NX)
  else (bits, if inexact then NX + (if tiny then UF else 0) else 0)

/-- Rounds an exact number to a format (R193, R195). FP8 has no infinity and saturates (R204). -/
def Ex.round (f : Fmt) (mode : Mode) : Ex → Nat × Nat
  | .nan => (f.nan, 0)
  | .inf s => if f.w = 8 then (f.zero s + f.maxMag, OF + NX) else (f.inf s, 0)
  | .rat s n d =>
    if n = 0 then (f.zero s, 0)
    else
      let (b, fl) := roundMag f mode s false n d 0
      (f.zero s + b, fl)

/-- NV for a signalling NaN among the operands (R193). -/
def sigFlag (f : Fmt) (l : List Nat) : Nat := if l.any f.isSig then NV else 0

/-- Rounds an exact result and its flags, with NV for signalling operands. -/
def finish (f : Fmt) (mode : Mode) (ops : List Nat) (r : Ex × Nat) : Nat × Nat :=
  let (b, fl) := r.1.round f mode
  (b, fl ||| r.2 ||| sigFlag f ops)

/-- a + b (R199). -/
def fpAdd (f : Fmt) (mode : Mode) (a b : Nat) : Nat × Nat :=
  finish f mode [a, b] (Ex.sum mode [f.decode a, f.decode b])
/-- a − b (R199). -/
def fpSub (f : Fmt) (mode : Mode) (a b : Nat) : Nat × Nat :=
  finish f mode [a, b] (Ex.sum mode [f.decode a, (f.decode b).neg])
/-- a × b (R199). -/
def fpMul (f : Fmt) (mode : Mode) (a b : Nat) : Nat × Nat := finish f mode [a, b] ((f.decode a).mul (f.decode b))
/-- a / b (R199). -/
def fpDiv (f : Fmt) (mode : Mode) (a b : Nat) : Nat × Nat := finish f mode [a, b] ((f.decode a).div (f.decode b))

/-- ±(a × b) ± c, rounded once (R199, R270, R295). -/
def fpFma (f : Fmt) (mode : Mode) (negP negC : Bool) (a b c : Nat) : Nat × Nat :=
  let (p, fl) := (f.decode a).mul (f.decode b)
  let p1 := if negP then p.neg else p
  let c1 := if negC then (f.decode c).neg else f.decode c
  let (r, fl2) := Ex.sum mode [p1, c1]
  finish f mode [a, b, c] (r, fl ||| fl2)

/-- ⌊√n⌋ by Newton steps. -/
def isqrtGo : Nat → Nat → Nat → Nat
  | 0, _, x => x
  | k + 1, n, x => let y := (x + n / x) / 2; if y < x then isqrtGo k n y else x
/-- ⌊√n⌋. -/
def isqrt (n : Nat) : Nat := if n = 0 then 0 else isqrtGo 64 n (2 ^ (n.log2 / 2 + 1))

/-- Rounds √(n / d), scaled so that one unit lies far below any grid (R199). -/
def roundSqrt (f : Fmt) (mode : Mode) (n d : Nat) : Nat × Nat :=
  let x := (n * d) <<< 2400
  let r := isqrt x
  roundMag f mode false (r * r != x) r d 1200

/-- √a (R195, R196, R199). -/
def fpSqrt (f : Fmt) (mode : Mode) (a : Nat) : Nat × Nat :=
  match f.decode a with
  | .nan => (f.nan, sigFlag f [a])
  | .inf s => if s then (f.nan, NV) else (f.inf false, 0)
  | .rat s n d => if n = 0 then (f.zero s, 0) else if s then (f.nan, NV) else roundSqrt f mode n d

/-- a^(−1/2) (R200). -/
def fpRsqrt (f : Fmt) (mode : Mode) (a : Nat) : Nat × Nat :=
  match f.decode a with
  | .nan => (f.nan, sigFlag f [a])
  | .inf s => if s then (f.nan, NV) else (f.zero false, 0)
  | .rat s n d => if n = 0 then (f.inf s, DZ) else if s then (f.nan, NV) else roundSqrt f mode d n

/-- a < b for values that are no NaN. -/
def Ex.lt (a b : Ex) : Bool :=
  match a, b with
  | .nan, _ => false
  | _, .nan => false
  | .inf s, .inf t => s && !t
  | .inf s, .rat _ _ _ => s
  | .rat _ _ _, .inf t => !t
  | x, y => decide (x.signed.1 * y.signed.2 < y.signed.1 * x.signed.2)
/-- a = b for values that are no NaN; −0 equals +0. -/
def Ex.eqv (a b : Ex) : Bool := a != .nan && b != .nan && !a.lt b && !b.lt a

/-- The operand that R201 selects as less, `true` for the first: −0 is less than +0, the first on a tie. -/
def Ex.firstLess (a b : Ex) : Bool :=
  a.lt b || (a.eqv b && (!(a.isZero && b.isZero) || a.isNeg || !b.isNeg))
/-- The operand that R201 selects as greater, `true` for the first. -/
def Ex.firstMore (a b : Ex) : Bool :=
  b.lt a || (a.eqv b && (!(a.isZero && b.isZero) || !a.isNeg || b.isNeg))

/-- Minimum (R201). -/
def fpMin (f : Fmt) (a b : Nat) : Nat × Nat :=
  if f.isNan a || f.isNan b then (f.nan, sigFlag f [a, b])
  else (if (f.decode a).firstLess (f.decode b) then a else b, 0)
/-- Maximum (R201). -/
def fpMax (f : Fmt) (a b : Nat) : Nat × Nat :=
  if f.isNan a || f.isNan b then (f.nan, sigFlag f [a, b])
  else (if (f.decode a).firstMore (f.decode b) then a else b, 0)

/-- A comparison (R193, R267, R293). -/
def fpCmp (f : Fmt) (c : Cond) (a b : Nat) : Bool × Nat :=
  let x := f.decode a
  let y := f.decode b
  (match c with
    | .eq => x.eqv y
    | .ne => !x.eqv y
    | .lt => x.lt y
    | .le => x.lt y || x.eqv y, sigFlag f [a, b])

/-- The class word of FCLASS (R268). -/
def fpClass (f : Fmt) (a : Nat) : Nat :=
  let s := b2n (f.sign a) * 128
  let e := field a f.mb f.eb
  match f.decode a with
  | .nan => s + (if f.isSig a then 5 else 4)
  | .inf _ => s + 3
  | .rat _ n d =>
    if n = 0 then s
    else (BitVec.ofInt 16 (ratLog n d)).toNat * 65536 + s + (if e = 0 then 1 else 2)

/-- Converts between formats, FP8 sources included (R199, R306). -/
def fpConv (src dst : Fmt) (mode : Mode) (a : Nat) : Nat × Nat :=
  let (b, fl) := (src.decode a).round dst mode
  (b, fl ||| sigFlag src [a])

/-- Converts an integer (R199). -/
def fpOfInt (f : Fmt) (mode : Mode) (i : Int) : Nat × Nat := (Ex.ofInt i).round f mode

/-- Rounds to an integer: its signed value and whether it is inexact. -/
def Ex.toInt (mode : Mode) : Ex → Int × Bool
  | .rat s n d =>
    let (m, ix) := roundGrid mode s false n d 0 0
    (if s then -(m : Int) else (m : Int), ix)
  | _ => (0, false)

/-- Converts to an integer of a range (R203). -/
def fpToInt (f : Fmt) (mode : Mode) (lo hi : Int) (a : Nat) : Int × Nat :=
  match f.decode a with
  | .nan => (0, NV)
  | .inf s => (if s then lo else hi, NV)
  | x =>
    let (i, ix) := x.toInt mode
    if i < lo then (lo, NV) else if hi < i then (hi, NV) else (i, if ix then NX else 0)

/-- Scaled conversion to FP8 (R204): `a` in format `f`, `s` an FP32 encoding. -/
def fpToFp8 (f : Fmt) (mode : Mode) (a s : Nat) : Nat × Nat :=
  let sig := sigFlag f [a] ||| sigFlag fp32 [s]
  if f.isNan a || fp32.isNan s then (0x7F, sig)
  else
    let (v, fl) := (f.decode a).mul (fp32.decode s)
    if fl ≠ 0 then (0x7F, NV) else v.round fp8 mode

/-- AMAX after an element `a` of format `f` (R205). -/
def amaxStep (f : Fmt) (amax : BitVec 33) (a : Nat) : BitVec 33 :=
  if f.isNan a then amax ||| (1#33 <<< 32)
  else
    let mag := a % 2 ^ (f.w - 1)
    let r := (f.decode mag).round fp32 3
    if (fp32.decode (amax.toNat % 2 ^ 32)).lt (f.decode mag) then
      (amax &&& (1#33 <<< 32)) ||| BitVec.ofNat 33 r.1
    else amax

/-- The exact sum of elements, rounded once (R202). -/
def fpSum (f : Fmt) (mode : Mode) (l : List Nat) : Nat × Nat :=
  let es := l.map f.decode
  let nv := if es.any (· == .inf false) && es.any (· == .inf true) then NV else 0
  if l.isEmpty then (f.zero false, 0) else finish f mode l ((Ex.sum mode es).1, (Ex.sum mode es).2 ||| nv)

/-- An FXADD accumulator A × 2^(W − 200) as FP64 (R320). -/
def fxToFp (mode : Mode) (a : Int) (w : Nat) : Nat × Nat :=
  (Ex.dyadic (decide (a < 0)) a.natAbs ((w : Int) - 200)).round fp64 mode

end Sys2Proof.Machine
end

