-- ==== Sys2Proof/Machine/FpTrans.lean ====
section
/-! DEFINITION. The special functions (R200), correctly rounded: each is enclosed between two fixed-point numbers of
growing precision until both ends round alike. -/

namespace Sys2Proof.Machine

/-- Terms t / (q² )^i / (2i + 1) of atanh(1 / q), from term `i` on, in fixed point. -/
def atanhGo : Nat → Nat → Nat → Nat → Nat → Nat
  | 0, _, _, _, acc => acc
  | k + 1, q2, t, i, acc => if t = 0 then acc else atanhGo k q2 (t / q2) (i + 1) (acc + t / (2 * i + 1))

/-- ln 2 = 2 atanh(1/3) in fixed point with `w` fraction bits. -/
def ln2Fix (w : Nat) : Nat := 2 * atanhGo (w + 2) 9 (2 ^ w / 3) 0 0

/-- Alternating terms of arctan(1 / q). -/
def atanGo : Nat → Nat → Nat → Nat → Int → Int
  | 0, _, _, _, acc => acc
  | k + 1, q2, t, i, acc =>
    if t = 0 then acc
    else atanGo k q2 (t / q2) (i + 1) (if i % 2 = 0 then acc + (t / (2 * i + 1) : Nat) else acc - (t / (2 * i + 1) : Nat))

/-- π by Machin's formula, in fixed point with `w` fraction bits. -/
def piFix (w : Nat) : Nat :=
  let g := w + 32
  ((16 * atanGo (g + 2) 25 (2 ^ g / 5) 0 0 - 4 * atanGo (g + 2) (239 * 239) (2 ^ g / 239) 0 0).toNat) / 2 ^ 32

/-- Terms of the exponential series of r, from term `i` on. -/
def expGo : Nat → Nat → Nat → Nat → Nat → Nat → Nat
  | 0, _, _, _, _, acc => acc
  | k + 1, w, r, t, i, acc =>
    if t = 0 then acc else expGo k w r ((t * r) >>> w / (i + 1)) (i + 1) (acc + t)

/-- Squares `k` times. -/
def sqTimes : Nat → Nat → Nat → Nat
  | 0, _, v => v
  | k + 1, w, v => sqTimes k w ((v * v) >>> w)

/-- A signed quotient in fixed point, rounded down. -/
def toFix (w : Nat) (neg : Bool) (n d : Nat) : Int :=
  let q := (n <<< w) / d
  if neg then -(q : Int) else q

/-- e^x for x in fixed point of `w` bits: a number of [1, 2) in fixed point and the power of two it is scaled by. -/
def expFix (w : Nat) (x : Int) : Nat × Int :=
  let l2 : Int := ln2Fix w
  let k := x / l2
  let r := (x - k * l2).toNat
  (sqTimes 8 w (expGo (w + 2) w (r >>> 8) (2 ^ w) 0 0), k)

/-- Terms of atanh z, from term `i` on, z² being in fixed point. -/
def atanhSer : Nat → Nat → Nat → Nat → Nat → Nat → Nat
  | 0, _, _, _, _, acc => acc
  | k + 1, w, z2, t, i, acc =>
    if t = 0 then acc else atanhSer k w z2 ((t * z2) >>> w) (i + 1) (acc + t / (2 * i + 1))

/-- ln (n / d) in fixed point. -/
def logFix (w n d : Nat) : Int :=
  let e := ratLog n d
  let (a, b) := if 0 ≤ e then (n, d <<< e.toNat) else (n <<< (-e).toNat, d)
  let z := ((a - b) <<< w) / (a + b)
  e * (ln2Fix w : Int) + 2 * (atanhSer (w + 2) w ((z * z) >>> w) z 0 0 : Nat)

/-- Alternating terms of sine (first term r) or cosine (first term 1): term `i` has divisor (i + 1)(i + 2). -/
def trigGo : Nat → Nat → Nat → Nat → Nat → Bool → Int → Int
  | 0, _, _, _, _, _, acc => acc
  | k + 1, w, r2, t, i, neg, acc =>
    if t = 0 then acc
    else trigGo k w r2 ((t * r2) >>> w / ((i + 1) * (i + 2))) (i + 2) (!neg) (if neg then acc - t else acc + t)

/-- Sine and cosine of |x| = n / d, in fixed point: the argument is reduced by as much of π as its size needs (R200). -/
def sinCosFix (w n d : Nat) : Int × Int :=
  let extra := (max 0 (ratLog n d + 1)).toNat
  let g := w + extra + 8
  let x := (n <<< g) / d
  let half := piFix (g + extra) / 2
  let x2 := x <<< extra
  let q := x2 / half
  let r := (x2 % half) >>> (2 * extra + 8)
  let r2 := (r * r) >>> w
  let sn := trigGo (w + 2) w r2 r 1 false 0
  let cs := trigGo (w + 2) w r2 (2 ^ w) 0 false 0
  match q % 4 with
  | 0 => (sn, cs)
  | 1 => (cs, -sn)
  | 2 => (-sn, -cs)
  | _ => (-cs, sn)

/-- Rounds a number that lies strictly between lo and hi, times 2^(−p), if both ends round alike. -/
def roundBetween (f : Fmt) (mode : Mode) (neg : Bool) (lo hi : Nat) (p : Int) : Option (Nat × Nat) :=
  if lo = 0 ∨ hi ≤ lo then none
  else
    let a := roundMag f mode neg true lo 1 p
    let b := roundMag f mode neg true (hi - 1) 1 p
    if a = b then some (f.zero neg + a.1, a.2) else none

/-- The function numbers of `Config.special`. -/
inductive Special where
  | exp | log | sin | cos | tanh
deriving DecidableEq, Repr

/-- Function numbers. -/
def Special.num : Special → Nat
  | .exp => 0
  | .log => 1
  | .sin => 2
  | .cos => 3
  | .tanh => 4

/-- Rounds a signed fixed-point value of `w + 64` bits whose error is below one unit of `w` bits. -/
def roundFix (f : Fmt) (mode : Mode) (w : Nat) (v : Int) (sh : Int) : Option (Nat × Nat) :=
  let m := v.natAbs / 2 ^ 64
  roundBetween f mode (decide (v < 0)) (m - 2) (m + 3) (w - sh)

/-- One attempt at a special function of a finite nonzero argument ±n / d with `w` bits of precision. -/
def trySpecial (fn : Special) (f : Fmt) (mode : Mode) (neg : Bool) (n d w : Nat) : Option (Nat × Nat) :=
  let g := w + 64
  match fn with
  | .exp =>
    let (v, k) := expFix g (toFix g neg n d)
    roundFix f mode w v k
  | .log => roundFix f mode w (logFix g n d) 0
  | .sin =>
    let v := (sinCosFix g n d).1
    roundFix f mode w (if neg then -v else v) 0
  | .cos => roundFix f mode w (sinCosFix g n d).2 0
  | .tanh =>
    let (e, k) := expFix g (toFix g false (2 * n) d)
    let ex := e <<< k.toNat
    let v : Int := (((ex - 2 ^ g) <<< g) / (ex + 2 ^ g) : Nat)
    roundFix f mode w (if neg then -v else v) 0

/-- Attempts of growing precision; past the last the value is free (log 11). -/
def climb (fn : Special) (f : Fmt) (mode : Mode) (neg : Bool) (n d : Nat) (a : Nat) : List Nat → Nat × Nat
  | [] =>
    let m := Config.special fn.num a % 2 ^ 64 + 2 ^ 64
    let r := roundMag f mode neg true m 1 64
    (f.zero neg + r.1, r.2)
  | w :: t => match trySpecial fn f mode neg n d w with
    | some r => r
    | none => climb fn f mode neg n d a t

/-- A magnitude just below n / d, or just above it, by less than 2^−100 of it: less than any format can tell apart. -/
def roundNear (f : Fmt) (mode : Mode) (neg below : Bool) (n d : Nat) : Nat × Nat :=
  let m := n <<< 100
  let r := roundMag f mode neg true (if below then m - 1 else m) d 100
  (f.zero neg + r.1, r.2)

/-- Clears the low zero bits that n / d have in common, so that n has the significand alone. -/
def trimTwos : Nat → Nat → Nat → Nat × Nat
  | 0, n, d => (n, d)
  | k + 1, n, d => if n % 2 = 0 && d % 2 = 0 then trimTwos k (n / 2) (d / 2) else (n, d)

/-- A special function of a finite nonzero argument (R200): arguments too small or too large to compute by series round
beside the limit, the others by enclosure. -/
def specialFinite (fn : Special) (f : Fmt) (mode : Mode) (neg : Bool) (n d a : Nat) : Nat × Nat :=
  let l := ratLog n d
  let steps := [160, 400, 1000, 2400]
  match fn with
  | .exp =>
    if l < -70 then roundNear f mode false neg (2 ^ 60) (2 ^ 60)
    else if 10 ≤ l then
      (if neg then roundMag f mode false true 1 1 4000 else roundMag f mode false true 1 1 (-4000))
    else climb fn f mode neg n d a steps
  | .log => if n = d then (f.zero false, 0) else climb fn f mode neg n d a steps
  | .sin =>
    if l < -40 then roundNear f mode neg true (trimTwos 1100 n d).1 (trimTwos 1100 n d).2
    else climb fn f mode neg n d a steps
  | .cos => if l < -40 then roundNear f mode false true (2 ^ 53) (2 ^ 53) else climb fn f mode neg n d a steps
  | .tanh =>
    if l < -40 then roundNear f mode neg true (trimTwos 1100 n d).1 (trimTwos 1100 n d).2
    else if 6 ≤ l then roundNear f mode neg true (2 ^ 60) (2 ^ 60)
    else climb fn f mode neg n d a steps

/-- A special function (R200). -/
def fpSpecial (fn : Special) (f : Fmt) (mode : Mode) (a : Nat) : Nat × Nat :=
  match f.decode a with
  | .nan => (f.nan, sigFlag f [a])
  | .inf s => match fn with
    | .exp => (if s then f.zero false else f.inf false, 0)
    | .log => if s then (f.nan, NV) else (f.inf false, 0)
    | .sin => (f.nan, NV)
    | .cos => (f.nan, NV)
    | .tanh => (f.zero s + f.one, 0)
  | .rat s n d =>
    if n = 0 then match fn with
      | .exp => (f.one, 0)
      | .log => (f.inf true, DZ)
      | .sin => (f.zero s, 0)
      | .cos => (f.one, 0)
      | .tanh => (f.zero s, 0)
    else if s && fn == .log then (f.nan, NV)
    else specialFinite fn f mode s n d a

end Sys2Proof.Machine
end

