-- ==== Sys2Proof/Machine/Flags.lean ====
section
/-! DEFINITION. Flags and rounding modes (R194 to R198), AMAX (R205). -/

namespace Sys2Proof.Machine

/-- The mode an instruction rounds in: its own, or that of VRND (R194, R267). -/
def Str.mode (t : Str) : Rm → Mode
  | .dyn => t.vrnd
  | .rne => 0
  | .rtz => 1
  | .rdn => 2
  | .rup => 3

/-- ORs flags into FFLG (R198). -/
def Str.orFlags (t : Str) (f : Nat) : Str := { t with fflg := t.fflg ||| BitVec.ofNat 5 f }

/-- ORs flags into FFLG and JFLG (R198, R212). -/
def Str.orJet (t : Str) (f : Nat × Nat) : Str :=
  { t with fflg := t.fflg ||| BitVec.ofNat 5 f.1, jflg := t.jflg ||| BitVec.ofNat 15 f.2 }

end Sys2Proof.Machine
end

