-- ==== Sys2Proof/Machine/Operands.lean ====
section
/-! DEFINITION. Vector operands: elements, masks, register groups, and bound streams as operands (R211, R233, R287 to R290,
R326 to R328). -/

namespace Sys2Proof.Machine

/-! ## Elements and masks -/

/-- The `n` elements of `w` bits of a number, lowest first. -/
def splitElems (w : Nat) : Nat → Nat → List Nat
  | 0, _ => []
  | n + 1, v => v % 2 ^ w :: splitElems w n (v / 2 ^ w)

/-- Elements joined, lowest first. -/
def joinElems (w : Nat) : List Nat → Nat
  | [] => 0
  | h :: t => h % 2 ^ w + 2 ^ w * joinElems w t

/-- Elements of a V register (R287). -/
def elems (w : Nat) (v : Vec) : List Nat := splitElems w (512 / w) v.toNat
/-- A V register from its elements; missing ones are zero. -/
def ofElems (w : Nat) (l : List Nat) : Vec := BitVec.ofNat 512 (joinElems w l)

/-- Element `i` is active (R288). -/
def active (mask : BitVec 64) (i : Nat) : Bool := mask.getLsbD i

/-- Width in bits of an element size (R6). -/
def szBits : Sz → Nat
  | .b => 8
  | .h => 16
  | .w => 32
  | .d => 64
/-- Bytes of an element size. -/
def szBytes : Sz → Nat
  | .b => 1
  | .h => 2
  | .w => 4
  | .d => 8
/-- Format of a vector type (R287). -/
def tyFmt : FTy → Fmt
  | .f64 => fp64
  | .f32 => fp32
  | .bf16 => bf16
/-- Format of a conversion type (R305). -/
def ty8Fmt : FTy8 → Fmt
  | .f64 => fp64
  | .f32 => fp32
  | .bf16 => bf16
  | .fp8 => fp8

/-- Writes `new i` to the active elements and keeps the others (R288). -/
def mergeElems (mask : BitVec 64) (old new : List Nat) : List Nat :=
  (upTo old.length).map (fun i => if active mask i then new.getD i 0 else old.getD i 0)

/-! ## Groups -/

/-- JORD as a number. -/
def Str.ord (t : Str) : Nat := t.jord.toNat

/-- The stream that a V field names (R233). -/
def Str.streamOf (t : Str) (r : VReg) : Option (Fin 4 × Stream) :=
  if h : 28 ≤ r.toNat then
    let i : Fin 4 := ⟨r.toNat - 28, by have := r.isLt; omega⟩
    (t.st[i.val]'(i.isLt)).map (fun s => (i, s))
  else none

/-- The base of a group is misaligned (R211). -/
def misaligned (t : Str) (r : VReg) : Bool :=
  if t.ord = 0 then false
  else if (t.streamOf r).isSome then false
  else if t.ord = 1 then r.toNat % 2 != 0 else r.toNat % 4 != 0

/-- JETGRP unless every group base is aligned (R211). -/
def checkGroups (rs : List VReg) : M Unit := do
  let t ← theStr
  if rs.any (misaligned t) then raise 0x50 else pure ()

/-- Replaces a stream. -/
def Str.setStream (t : Str) (i : Fin 4) (x : Option Stream) : Str := { t with st := t.st.set i.val x i.isLt }

/-! ## Streams -/

/-- Number of elements of a stream (R326). -/
def Stream.total (x : Stream) : Nat := x.extents.toList.foldl (fun a n => a * n.toNat) 1

/-- Offset of element `i`, given extents and strides from dimension 0 up (R326). -/
def elemOff : List (BitVec 16) → List (BitVec 32) → Nat → Int
  | n :: ns, t :: ts, i => (i % n.toNat : Nat) * t.toInt + elemOff ns ts (i / n.toNat)
  | _, _, _ => 0

/-- Pointer of element `i` (R326). -/
def Stream.ptr (x : Stream) (i : Nat) : Word := nextPtr x.base (elemOff x.extents.toList x.strides.toList i)

/-- Elements that fields of an instruction take of the stream that `r` names: each field with its number of elements. -/
def takes (t : Str) (r : VReg) (l : List (VReg × Nat)) : Nat :=
  (l.filter (fun p => p.1 == r && (t.streamOf p.1).isSome)).foldl (fun a p => a + p.2) 0

/-- Element `i` of source stream `n`, to be popped (R328); one that has not been read is asked for, since it may be none of the 8 that the buffer
holds unasked. -/
def wantElt (n : Nat) (x : Stream) (i : Nat) : M Vec := do
  let s ← get
  if x.total ≤ i then raise 0x32
  else match mfind x.fetched i with
    | some (.data v) => pure v
    | some (.bad f) => throw (.fault f)
    | none => throw (.stall (some (.elts s.cur.2 n i)))

/-- The elements that an instruction pops, in pop order: its source fields one after another, `before` being those that stand before. -/
def popOrder (t : Str) (before : List (VReg × Nat)) : List (VReg × Nat) → List (Nat × Stream × Nat)
  | [] => []
  | p :: ps => (match t.streamOf p.1 with
      | some (i, x) => (upTo p.2).map (fun k => (i.val, x, x.pos + takes t p.1 before + k))
      | none => []) ++ popOrder t (before ++ [p]) ps

/-- Waits for elements in pop order; the first that holds a fault or lies after the last raises its fault (R328). -/
def wantAll : List (Nat × Stream × Nat) → M Unit
  | [] => pure ()
  | (n, x, i) :: l => do
    let _ ← wantElt n x i
    wantAll l

/-- STREAM unless every source that names a stream names one bound for reading, and every destination one bound for
writing (R233) with as many elements left as the instruction pushes (R254). An instruction that would pop past the last element raises the
fault of the first element, in pop order, that holds one or lies past the last (R328). -/
def checkStreams (srcs dsts : List (VReg × Nat)) : M Unit := do
  let t ← theStr
  let wrong (dst : Bool) (l : List (VReg × Nat)) : Bool := l.any (fun p => match t.streamOf p.1 with
    | some (_, x) => x.dst != dst || (dst && decide (x.total < x.pos + takes t p.1 l))
    | none => false)
  if wrong false srcs || wrong true dsts then raise 0x32
  else if (popOrder t [] srcs).any (fun e => decide (e.2.1.total ≤ e.2.2)) then wantAll (popOrder t [] srcs)
  else pure ()

/-- Reads a source of `n` registers, popping a stream (R233, R289). -/
def popSrc (r : VReg) (n : Nat) : M (List Vec) := do
  let t ← theStr
  match t.streamOf r with
  | none => return (upTo n).map (fun k => t.rawV (regUp r k))
  | some (i, x) =>
    let vs ← (upTo n).mapM (fun k => wantElt i.val x (x.pos + k))
    modStr (fun t => t.setStream i (some { x with pos := x.pos + n,
                                                  fetched := x.fetched.filter (fun e => decide (x.pos + n ≤ e.1)) }))
    return vs

/-- The sector events of a 64-byte element, checked for writing (R328); it has none, and is reported, where another package has not translated
its offset (R390, R414). -/
def pushEvs (x : Stream) (i : Nat) : M (List SectorEv) := do
  if x.total ≤ i then raise 0x32
  else
    let s ← get
    let pl ← check { dataWho s with owner := x.owner.toNat } .w (x.ptr i) 64 64
    let evs := [evOf pl 32 0, evOf (placeAdd pl 32) 32 32]
    if evs.any s.curStr.refusedEv then
      modify (fun s => s.reportWrite s.cur.1 s.curStr.launch (x.ptr i) 0x21)
      return []
    else return evs

/-- The events of the pushes that a destination of `n` registers makes; none if it names no stream. -/
def pushPlan (r : VReg) (n : Nat) : M (Option (List (List SectorEv))) := do
  let t ← theStr
  match t.streamOf r with
  | none => return none
  | some (_, x) => return some (← (upTo n).mapM (fun k => pushEvs x (x.pos + k)))

/-- Puts elements to be written at the end of a stream; `seq` is the push's place in the string's order. -/
def Str.push (t : Str) (r : VReg) (vs : List Vec) (plan : List (List SectorEv)) (seq : Nat) : Str :=
  match t.streamOf r with
  | none => t
  | some (i, x) => t.setStream i (some { x with pos := x.pos + vs.length,
                                                 pushes := x.pushes ++ (((upTo vs.length).zip (vs.zip plan)).map
                                                   (fun p => { seq := seq, ptr := x.ptr (x.pos + p.1), data := p.2.1, evs := p.2.2 })).filter
                                                   (fun p => !p.evs.isEmpty) })

/-- Writes registers from `r` on. -/
def Str.setVs (t : Str) (r : VReg) : List Vec → Nat → Str
  | [], _ => t
  | v :: vs, k => (t.setV (regUp r k) v).setVs r vs (k + 1)

/-- Old values of a destination of `n` registers: those of the V registers that the field names while no stream is bound
(R289). That the planes above 0 of a jet pushed to a stream take those of the registers that follow, V0 after V31, is the model's choice
(log 83). -/
def Str.oldVs (t : Str) (r : VReg) (n : Nat) : List Vec := (upTo n).map (fun k => t.rawV (regUp r k))

/-- The home is the core's own slice (R166). -/
def ownSlice (c : Nat) : Place → Bool
  | .slice d _ => c == d
  | _ => false

/-- Early commit or journal for a store or an atomic of `n` bytes of a string to a home (R166). -/
def State.commitFor (s : State) (c k : Nat) (pl : Place) (n : Nat) : State :=
  match pl with
  | .slice d o =>
    if c == d then (upTo ((o + n - 1) / 64 - o / 64 + 1)).foldl (fun s i => s.journalLine c k (o / 64 + i)) s
    else s.commitEarly c k
  | _ => s.commitEarly c k

/-- The same for every event of a store or a push (R166). -/
def State.commitEvs (s : State) (c k : Nat) (l : List SectorEv) : State := l.foldl (fun s e => s.commitFor c k e.place 32) s

/-- The same, for the executing string. -/
def commitFor (pl : Place) (n : Nat) : M Unit := modify (fun s => s.commitFor s.cur.1 s.cur.2 pl n)
/-- See `commitFor`. -/
def commitEvs (l : List SectorEv) : M Unit := modify (fun s => s.commitEvs s.cur.1 s.cur.2 l)

/-- Writes a destination: registers, or pushes to a bound stream (R233, R289), which commit or journal as stores do (R166). -/
def putDst (r : VReg) (vs : List Vec) (plan : Option (List (List SectorEv))) : M Unit :=
  match plan with
  | none => modStr (fun t => t.setVs r vs 0)
  | some p => do
    commitEvs p.flatten
    modStr (fun t => { t.push r vs p t.seq with seq := t.seq + 1 })

/-- Numbers of V registers for the interlock: `n` of them from `r` on. -/
def vRegs (p : VReg × Nat) : List Nat := (upTo p.2).map (fun k => 32 + (p.1.toNat + k) % 32)

/-- The frame of a vector instruction with a V destination: the X registers that it names, groups, streams, sources popped in field
order, a destination of `nd` registers written from the sources and its old value, and a change of the string's other registers. -/
def vecOp (xs : List XReg) (groups : List VReg) (srcs : List (VReg × Nat)) (rd : VReg) (nd : Nat)
    (f : Str → List (List Vec) → List Vec → List Vec × (Str → Str)) : M Adv := do
  settle (xRegs xs ++ (srcs ++ [(rd, nd)]).flatMap vRegs)
  checkGroups groups
  checkStreams srcs [(rd, nd)]
  let t0 ← theStr
  let vs ← srcs.mapM (fun p => popSrc p.1 p.2)
  let plan ← pushPlan rd nd
  let r := f t0 vs (t0.oldVs rd nd)
  putDst rd r.1 plan
  modStr r.2
  return .step

/-- The same for an instruction whose result is not a vector. -/
def vecRead (xs : List XReg) (groups : List VReg) (srcs : List (VReg × Nat)) (g : Str → List (List Vec) → Str → Str) : M Adv := do
  settle (xRegs xs ++ srcs.flatMap vRegs)
  checkGroups groups
  checkStreams srcs []
  let t0 ← theStr
  let vs ← srcs.mapM (fun p => popSrc p.1 p.2)
  modStr (g t0 vs)
  return .step

/-- Registers that an operand of an instruction of class "whole jets" takes at the string's JORD (R211). -/
def Str.planes (t : Str) : Nat := t.ord + 1

end Sys2Proof.Machine
end

