-- ==== Sys2Proof/Machine/LoadStore.lean ====
section
/-! DEFINITION. Loads and stores of a string (R99 to R114, R273 to R276, R308 to R311): the table of outstanding loads, the
store buffer, and how their events perform. -/

namespace Sys2Proof.Machine

/-- Loads and atomics that have issued and not performed, the counter LD (R285). -/
def Str.ldCount (t : Str) : Nat := (t.lds.filter (fun l => !l.evs.isEmpty)).length

/-- A load may issue behind the outstanding entries, as far as registers go (R275, R285). -/
def Str.loadReady (t : Str) (regs : List Nat) : Bool := decide (t.ldCount < 16) && !regs.any t.pending

/-- An instruction that changes nothing but the pc retires behind loads that may yet fault: it is taken back with the last of them (R275,
R284). -/
def Str.passLoads (t : Str) : Str :=
  match t.lds.reverse with
  | [] => t
  | l :: r => { t with lds := ({ l with more := l.more + 1 } :: r).reverse }

/-- Some event of a push that has not performed passes the test. -/
def Str.pushAny (t : Str) (f : SectorEv → Bool) : Bool :=
  t.st.toList.any (fun x => match x with
    | some x => x.pushes.any (fun p => p.evs.any f)
    | none => false)

/-- Stores and atomics that have issued and not performed, the counter ST (R285). -/
def Str.stCount (t : Str) : Nat := t.sb.length + (t.lds.filter (fun l => l.isAtomic && !l.evs.isEmpty)).length

/-- No earlier outstanding load holds back the events of an access that issues (R102, R104, R106). -/
def ldsReady (c : Nat) (t : Str) (isLoad : Bool) (evs : List SectorEv) : Bool := !evs.any (fun e => t.lds.any (Load.holds c isLoad e))

/-- The sectors of a read that an instruction makes itself may be read now: no earlier load holds them back, and no earlier store to one of
them waits (R104). -/
def evsReady (c : Nat) (t : Str) (evs : List SectorEv) : Bool :=
  ldsReady c t true evs && !evs.any (fun e => t.sb.any (fun x => x.evs.any (evSame e)))

/-! ## Binding registers in program order -/

/-- Bytes by number as a number, `n` of them. -/
def gotNum (got : List (Nat × Byte)) (n : Nat) : Nat := leNat ((upTo n).map (fun i => mget 0 got i))

/-- The value that a scalar load of a kind writes (R274). -/
def loadValue (k : LdKind) (v : Nat) : Word :=
  match k with
  | .b => (BitVec.ofNat 8 v).signExtend 64
  | .h => (BitVec.ofNat 16 v).signExtend 64
  | .w => (BitVec.ofNat 32 v).signExtend 64
  | .d => BitVec.ofNat 64 v
  | .bu => BitVec.ofNat 64 (v % 2 ^ 8)
  | .hu => BitVec.ofNat 64 (v % 2 ^ 16)
  | .wu => BitVec.ofNat 64 (v % 2 ^ 32)

/-- Bytes of a load kind. -/
def ldBytes : LdKind → Nat
  | .b => 1
  | .h => 2
  | .w => 4
  | .d => 8
  | .bu => 1
  | .hu => 2
  | .wu => 4

/-- Bytes `64 k` to `64 k + 63` of a vector load over the old register (R309). -/
def mergeBytes (got : List (Nat × Byte)) (k : Nat) (old : Vec) : Vec :=
  ofElems 8 ((upTo 64).map (fun i => match mfind got (64 * k + i) with
    | some b => b.toNat
    | none => (elems 8 old).getD i 0))

/-- What an atomic leaves in its registers, `old` being the value at its home (R278 to R280). -/
def amoResult (rd : XReg) (f : AtomFn) (n : Nat) (old : Nat) (t : Str) : Str :=
  match f with
  | .fadd => t.setX rd (BitVec.ofNat 64 old)
  | .cas =>
    if n = 16 then (t.setX rd (BitVec.ofNat 64 old)).setX (regUp rd 1) (BitVec.ofNat 64 (old / 2 ^ 64))
    else if n = 4 then t.setX rd ((BitVec.ofNat 32 old).signExtend 64) else t.setX rd (BitVec.ofNat 64 old)
  | _ => if n = 4 then t.setX rd ((BitVec.ofNat 32 old).signExtend 64) else t.setX rd (BitVec.ofNat 64 old)

/-- Does something to the string as if it were in the mode of a bank of X registers (R343). -/
def Str.inBank (t : Str) (mon : Bool) (f : Str → Str) : Str :=
  if mon = (t.lvl != 0) then f t else { f { t with lvl := if mon then 1 else 0 } with lvl := t.lvl }

/-- Writes the registers of a load all of whose bytes have come, in the bank of the string's mode. -/
def Str.bindNow (t : Str) (l : Load) : Str :=
  match l.dst with
  | .x rd k => t.setX rd (loadValue k (gotNum l.got (ldBytes k)))
  | .v rd n => (upTo n).foldl (fun t k =>
      if l.got.any (fun g => g.1 / 64 == k) then t.setV (regUp rd k) (mergeBytes l.got k (t.rawV (regUp rd k))) else t) t
  | .p rd plan => t.push rd ((upTo plan.length).map (fun k => mergeBytes l.got k (t.rawV (regUp rd k)))) plan l.seq
  | .amo rd f n _ _ _ => (amoResult rd f n (gotNum l.got n) t).orFlags l.flags.toNat

/-- The same, in the bank of the mode in which the load issued. -/
def Str.bind (t : Str) (l : Load) : Str := t.inBank l.mon (·.bindNow l)

/-- Binds the completed entries up to the first that has not performed and may yet fault, in program order: the string, what is left,
and the entry at the head whose fault is raised; of a dead entry nothing comes. -/
def bindGo : List Load → Str → Str × List Load × Option Load
  | [], t => (t, [], none)
  | l :: ls, t =>
    if !l.evs.isEmpty then
      if l.dead || l.sure then ((bindGo ls t).1, l :: (bindGo ls t).2.1, none) else (t, l :: ls, none)
    else if l.dead then bindGo ls t
    else match l.bad with
      | some _ => (t, l :: ls, some l)
      | none => bindGo ls (t.bind l)

/-- Events of the pushes of the loads that have been bound (R166). -/
def boundPushes (old left : List Load) : List SectorEv :=
  (old.filter (fun l => !left.contains l)).flatMap (fun l => match l.dst with
    | .p _ plan => plan.flatten
    | _ => [])

/-- A load that faults gives back what it popped (R310): the stream as it was, with what the unit has read since. -/
def Str.unpop (t : Str) (u : Option (Nat × Stream)) : Str :=
  match u with
  | none => t
  | some (i, x) => { t with st := t.st.set (i % 4) ((t.st[i % 4]).map (fun y => { x with fetched := x.fetched ++ y.fetched })) }

/-- Binds what has come to string `k` of core `c`; a fault is raised at the load that met it, and that load and every
later one have no effect and do not count as retired (R84, R275). -/
def State.bindLoads (s : State) (c k : Nat) : State :=
  let t := s.str c k
  let (t1, ls, f) := bindGo t.lds t
  match f with
  | none => (s.setStr c k { t1 with lds := ls }).commitEvs c k (boundPushes t.lds ls)
  | some l => match l.bad with
    | some (_, fi) =>
      let s1 := (s.setStr c k { t1.unpop l.undo with lds := [], pc := l.pc }).commitEvs c k (boundPushes t.lds ls)
      let s2 := match t.launch with
        | some i => s1.modOn c i (fun o => { o with opcnt := o.opcnt - BitVec.ofNat 64 (ls.map (fun (x : Load) => 1 + x.more)).sum })
        | none => s1
      s2.takeFault c k l.pc fi
    | none => s

/-! ## Issuing loads -/

/-- Offset in an access of the lowest byte of an event, for the order of consumption (R84). -/
def evFirst (e : SectorEv) : Nat := e.bytes.foldl (fun a b => min a b.2) 4096

/-- Pointer of an event: the access's, or in a vector access that of the event's first element (R310). -/
def ptrOf (p : Word) (ps : List (Nat × Word)) (e : SectorEv) : Word := mget p ps (evFirst e)
/-- The pointer that a fault of a load's event names (R310, R341). -/
def Load.ptrAt (l : Load) (e : SectorEv) : Word := ptrOf l.ptr l.ptrs e
/-- The pointer that an error response to a store's event names (R390). -/
def Store.ptrAt (x : Store) (e : SectorEv) : Word := ptrOf x.ptr x.ptrs e

/-- Place of a load's event in the order of consumption: ascending address, and for a vector load the order of its elements,
planes ascending in each (R84, R310). -/
def Load.rank (l : Load) (e : SectorEv) : Nat :=
  if l.ptrs.isEmpty then evFirst e else (l.ptrs.findIdx? (fun x => x.1 == evFirst e)).getD 4096

/-- Keeps the fault that comes first in the order of consumption. -/
def worse (a : Option (Nat × FaultInfo)) (i : Nat) (f : FaultInfo) : Option (Nat × FaultInfo) :=
  match a with
  | some (j, g) => if j ≤ i then some (j, g) else some (i, f)
  | none => some (i, f)

/-- A monitor that holds D over every byte of a load reads zero from an event's bad sector (R395). -/
def Load.zeros (e : SectorEv) (l : Load) : Load :=
  { l with evs := l.evs.filter (fun x => x != e), got := l.got ++ e.bytes.map (fun b => (b.2, 0)) }

/-- The load event performs at a home of this package: its bytes, or the fault of its sector (R84, R99), with `diag` zeros instead (R395).
Only bytes that are read count in a meter (R436). -/
def State.readHome (s : State) (c : Nat) (la : Option Nat) (l : Load) (e : SectorEv) (diag : Bool) : State × Load :=
  match placeFlat e.place with
  | none => (s, l)
  | some a =>
    let s1 := s.packets c (coreUnit c) e.place
    let s2 := s1.meterOf c (byteMeter c e.place) e.bytes.length
    let evs := l.evs.filter (fun x => x != e)
    match badAt s1 la a (l.ptrAt e) with
    | some f =>
      if diag then ((s2.poisonFound la a).meterOf c 15 1, l.zeros e)
      else (s1.poisonFound la a, { l with evs := evs, bad := worse l.bad (l.rank e) f })
    | none => (s2, { l with evs := evs, got := l.got ++ s2.readEv la a e.bytes })

/-- Number of a request to the host. -/
def State.newReq (s : State) (r : HostReq) : State × Nat :=
  ({ s with hostReqs := mset s.hostReqs s.nextId r, nextId := s.nextId + 1 }, s.nextId)

/-- Asks the host for the read that shows the string's earlier stores to have arrived (R147). -/
def State.askFlush (s : State) (c k : Nat) : State :=
  let t := s.str c k
  if t.flush.isSome then s
  else
    let (s1, id) := s.newReq (.flush c k)
    (s1.setStr c k { t with flush := some id, hostDirty := false }).emit (.hostFlush (strFn s c t.launch) id)

/-! ## Atomics, answers and requests to the host -/

/-- f(old, s) on `n` bytes with operands `a` and `b`, and the flags of an FP addition (R278 to R280). -/
def atomNew (f : AtomFn) (n old a b : Nat) (mode : Mode) : Nat × Nat :=
  let w := 8 * n
  match f with
  | .add => ((old + a) % 2 ^ w, 0)
  | .and => (old &&& a, 0)
  | .or => (old ||| a, 0)
  | .xor => (old ^^^ a, 0)
  | .min => (if sfield a w < sfield old w then a else old, 0)
  | .max => (if sfield old w < sfield a w then a else old, 0)
  | .minu => (Nat.min old a, 0)
  | .maxu => (Nat.max old a, 0)
  | .swap => (a, 0)
  | .cas => (if old = a then b else old, 0)
  | .fadd => fpAdd (if n = 4 then fp32 else fp64) mode old a

/-- The flags that an answered atomic ORs into FFLG, from the old value that came. -/
def Load.amoFlags (l : Load) : Load :=
  match l.dst with
  | .amo _ f n a b mode => { l with flags := BitVec.ofNat 5 (atomNew f n (gotNum l.got n) a.toNat b.toNat mode).2 }
  | _ => l

/-- Changes load `seq` of a string and binds what has come. -/
def State.answerLoad (s : State) (c k seq : Nat) (f : Load → Load) : State :=
  (s.modStr c k (fun t => { t with lds := t.lds.map (fun l => if l.seq = seq then f l else l) })).bindLoads c k

/-- The answer is a fault. -/
def Load.failed (code detail : Nat) (e : SectorEv) (l : Load) : Load :=
  { l with evs := l.evs.erase e, bad := worse l.bad (l.rank e) { code := code, detail := detail, val := l.ptrAt e } }

/-- The answer is the bytes of the event's sector (bit 0 is the sector's first byte). -/
def Load.answered (d : BitVec 256) (e : SectorEv) (l : Load) : Load :=
  ({ l with evs := l.evs.erase e,
            got := l.got ++ e.bytes.map (fun b => (b.2, BitVec.extractLsb' (8 * b.1) 8 d)) } : Load).amoFlags

/-- The atomic has a PCI Express AtomicOp (R281). -/
def hasAtomicOp (f : AtomFn) (n : Nat) : Bool :=
  match f with
  | .add => true
  | .swap => true
  | .cas => n != 4
  | _ => false

/-- Kind code of an atomic (R239). -/
def atomKind (f : AtomFn) (n : Nat) : Nat :=
  match f with
  | .add => 0
  | .and => 1
  | .or => 2
  | .xor => 3
  | .min => 4
  | .max => 5
  | .minu => 6
  | .maxu => 7
  | .swap => 8
  | .cas => if n = 4 then 9 else if n = 8 then 10 else 11
  | .fadd => if n = 4 then 12 else 13

/-- log₂ of an atomic's size less 2 (R411). -/
def atomSize (n : Nat) : Nat := if n = 4 then 0 else if n = 8 then 1 else 2

/-- Bits of a type 3 entry (R411). -/
def agentBits (f : AtomFn) (n : Nat) (a b : BitVec 128) (mode : Mode) (pasid iova id src : Nat) : BitVec 512 :=
  let opnd := match f with
    | .cas => a.toNat + b.toNat * 2 ^ (8 * n)
    | _ => a.toNat
  let rnd := match f with
    | .fadd => mode.toNat
    | _ => 0
  BitVec.ofNat 512 (opnd * 2 ^ 256 + iova * 2 ^ 192 + pasid * 2 ^ 172 + rnd * 2 ^ 169 + atomSize n * 2 ^ 167
    + atomKind f n * 2 ^ 163 + id * 2 ^ 147 + src * 2 ^ 72 + 3 * 16)

/-- Appends an entry for a function's event ring (R406). -/
def State.putEntry (s : State) (f : Nat) (e : EventEntry) : State := s.modVf f (fun v => { v with entries := v.entries ++ [e] })

/-- LCORE of a string of launch `l` on a core. -/
def State.lcoreOf (s : State) (c : Nat) (l : Option Nat) : Nat :=
  match l.bind (s.core c).on with
  | some o => o.lcore
  | none => 0xFFFF

/-- An Unsupported Request, or an atomic that is not sent (R281, R411). -/
def State.hostRefused (s : State) (c k seq : Nat) (agent : Bool) : State :=
  let t := s.str c k
  match t.lds.find? (fun l => l.seq == seq) with
  | none => s
  | some l => match l.dst, l.evs with
    | .amo _ f n a b mode, e :: _ => match e.place with
      | .host fn base _ =>
        if agent then
          let v := s.vf fn
          let iova := base + (e.bytes.headD (0, 0)).1
          let bits := agentBits f n a b mode v.pasid.toNat iova v.nextAgent.toNat (s.lcoreOf c t.launch)
          (s.modVf fn (fun v => { v with nextAgent := v.nextAgent + 1,
                                         agents := v.agents ++ [{ id := v.nextAgent.toNat, core := c, str := k, seq := seq }] }))
            |>.putEntry fn { bits := bits, notify := true, msgOf := none }
        else s.answerLoad c k seq (Load.failed 0x40 0 e)
      | _ => s
    | _, _ => s

/-- Sends an atomic to the host or to another package. -/
def State.sendAtom (s : State) (c k : Nat) (l : Load) : State :=
  match l.dst, l.evs with
  | .amo _ f n a b mode, e :: _ => match e.place with
    | .host fn _ base =>
      let agent := ((s.core c).vfc fn).amofb
      if hasAtomicOp f n && (s.vf fn).atomicReq then
        let (s1, id) := (s.packets c (coreUnit c) e.place).newReq (.atomic c k l.seq agent)
        s1.emit (.hostAtomic fn (base + (e.bytes.headD (0, 0)).1) n f a b id (l.acq.isNone && l.rel.isNone))
      else s.hostRefused c k l.seq agent
    | .remote q o => (s.packets c (coreUnit c) e.place).emit (.novinoAtomic q (o + (e.bytes.headD (0, 0)).1) n f a b mode)
    | _ => s
  | _, _ => s

/-- Event `ev` of entry `ix` of the table must wait: near accesses perform in order (R102, R113), and other earlier accesses may hold it back. -/
def loadWaits (c : Nat) (t : Str) (ix ev : Nat) (l : Load) (e : SectorEv) : Bool :=
  (nearTo c e.place && ((l.evs.take ev).any (fun x => nearTo c x.place)
    || (t.lds.take ix).any (fun x => x.evs.any (fun y => nearTo c y.place)))) || blocked c t (t.lds.take ix) l e

/-- A load that has issued enters the table and retires; what has come to the string is bound. -/
def State.enterLoad (s : State) (l : Load) : State :=
  let t := s.curStr
  (s.setCurStr { t with lds := t.lds ++ [{ l with mon := t.lvl != 0 }], seq := t.seq + 1 }).retire.bindLoads s.cur.1 s.cur.2

/-- The request for an event of a load that leaves the package goes out (R37, R147). -/
def State.sendLoad (s : State) (c k : Nat) (l : Load) (e : SectorEv) : State :=
  match e.place with
  | .host f _ a =>
    let (s1, id) := (s.packets c (coreUnit c) e.place).newReq (.load c k l.seq e)
    s1.emit (.hostRead f a id l.acq.isNone)
  | .remote p o => (s.packets c (coreUnit c) e.place).emit (.novinoRead p o (e.bytes.map (·.1)))
  | _ => s

/-- An event of entry `seq` of the table that leaves the package is sent; a release at SYS scope first has the host show that the string's
earlier stores have arrived (R147). -/
def State.sendEv (s : State) (c k seq : Nat) (e : SectorEv) : State :=
  match (s.str c k).lds.find? (fun l => l.seq == seq) with
  | none => s
  | some l =>
    if flushFirst (s.str c k) l.rel (some e.place) then s.askFlush c k
    else
      let s1 := s.modStr c k (fun t => { t with lds := t.lds.map (fun x => if x.seq = seq then { x with unsent := x.unsent.erase e } else x) })
      if l.isAtomic then s1.sendAtom c k l else s1.sendLoad c k l e

/-- The events of the youngest entry of a string that leave the package and that nothing holds back are sent. -/
def State.sendDue (s : State) (c k : Nat) : State :=
  let t := s.str c k
  match t.lds.getLast? with
  | none => s
  | some l => (l.unsent.filter (fun e => !blocked c t (t.lds.take (t.lds.length - 1)) l e)).foldl (fun s e => s.sendEv c k l.seq e) s

/-- A load or an atomic enters the table of the executing string and retires; what it asks for outside the package is sent as far as nothing
holds it back, and those sectors of a vector load that another package has not translated have failed (R312, R414). -/
def State.issueEntry (s : State) (l : Load) : State :=
  let l1 := (if l.ptrs.isEmpty then [] else l.evs.filter s.curStr.refusedEv).foldl (fun l e => l.failed 0x41 0 e) l
  (s.enterLoad { l1 with unsent := l1.evs.filter (fun e => outside e.place) }).sendDue s.cur.1 s.cur.2

/-- A load issues with its events: it enters the table. `undo` is the index stream of a gather before its pop. -/
def issueLoad (dst : LoadDst) (evs : List SectorEv) (acq : Option Scope) (p : Word) (ps : List (Nat × Word))
    (undo : Option (Nat × Stream)) : M Adv := do
  let s ← get
  let t := s.curStr
  set (s.issueEntry { seq := t.seq, dst := dst, evs := evs, got := [], bad := none, flags := 0,
                      near := evs.all (fun e => nearTo s.cur.1 e.place), acq := acq, owner := t.owner, ptr := p,
                      ptrs := ps, pc := t.pc, undo := undo })
  return .placed

/-- The bytes of a load from the youngest store of the string that meets it, if that store holds them all; a load that it only partly covers
waits for the store to perform (R100, R104, R311). -/
def forward (t : Str) (e : SectorEv) : Option (List (Nat × Byte)) :=
  match t.sb.reverse.find? (fun x => x.evs.any (evMeets e)) with
  | none => none
  | some x =>
    let byte (o : Nat) : Option Byte :=
      (x.evs.reverse.find? (fun y => evSame e y && y.bytes.any (fun b => b.1 == o))).bind (fun y =>
        (y.bytes.reverse.find? (fun b => b.1 == o)).map (fun b => dataByte x.data b.2))
    let got := e.bytes.map (fun b => byte b.1)
    if got.all Option.isSome then some ((e.bytes.zip got).map (fun x => (x.1.2, x.2.getD 0))) else none

/-- A scalar load of `n` bytes at `p` (R274, R276). -/
def loadInstr (rd : XReg) (k : LdKind) (ra : XReg) (off : Int) (acq : Option Scope) : M Adv := do
  let s ← get
  let t := s.curStr
  await (t.loadReady [rd.toNat, ra.toNat])
  let p := t.getX ra + BitVec.ofInt 64 off
  let n := ldBytes k
  let pl ← check (dataWho s) .r p n n
  let e := evOf pl n 0
  match (if ldsReady s.cur.1 t true [e] then forward t e else none) with
  | some got =>
    modify (fun s => s.enterLoad { seq := t.seq, dst := .x rd k, evs := [], got := got, bad := none, flags := 0, near := true,
                                   acq := acq, owner := t.owner, ptr := p, pc := t.pc })
    return .placed
  | none => issueLoad (.x rd k) [e] acq p [] none

/-! ## Issuing stores -/

/-- A store enters the store buffer (R275), but for events whose offset another package has not translated, which are reported (R390, R414). -/
def bufferStore (evs : List SectorEv) (d : BitVec 4096) (rel : Option Scope) (p : Word) (ps : List (Nat × Word)) : M Unit :=
  modify (fun s =>
    let t := s.curStr
    let go := evs.filter (fun e => !t.refusedEv e)
    let x : Store := { seq := t.seq, evs := go, data := d, near := evs.all (fun e => nearTo s.cur.1 e.place), rel := rel, owner := t.owner,
                       ptr := p, ptrs := ps, launch := t.launch }
    let s1 := s.setCurStr { t with seq := t.seq + 1, sb := if go.isEmpty then t.sb else t.sb ++ [x] }
    (evs.filter t.refusedEv).foldl (fun s e => s.reportWrite s.cur.1 t.launch (x.ptrAt e) 0x21) s1)

/-- A scalar store (R274, R276). -/
def storeInstr (rd : XReg) (k : Sz) (ra : XReg) (off : Int) (rel : Option Scope) : M Adv := do
  settle (xRegs [rd, ra])
  let s ← get
  let t := s.curStr
  let p := t.getX ra + BitVec.ofInt 64 off
  let n := szBytes k
  let pl ← check (dataWho s) .w p n n
  await (decide (t.stCount < 32))
  commitFor pl n
  bufferStore [evOf pl n 0] ((t.getX rd).zeroExtend 4096) rel p []
  return .step

/-- LD.B (R274). -/
def execLdB (rd ra : XReg) (i : BitVec 16) : State → Out1 := runInstr (loadInstr rd .b ra i.toInt none)
/-- LD.H (R274). -/
def execLdH (rd ra : XReg) (i : BitVec 16) : State → Out1 := runInstr (loadInstr rd .h ra i.toInt none)
/-- LD.W (R274). -/
def execLdW (rd ra : XReg) (i : BitVec 16) : State → Out1 := runInstr (loadInstr rd .w ra i.toInt none)
/-- LD.D (R274). -/
def execLdD (rd ra : XReg) (i : BitVec 16) : State → Out1 := runInstr (loadInstr rd .d ra i.toInt none)
/-- LD.BU (R274). -/
def execLdBu (rd ra : XReg) (i : BitVec 16) : State → Out1 := runInstr (loadInstr rd .bu ra i.toInt none)
/-- LD.HU (R274). -/
def execLdHu (rd ra : XReg) (i : BitVec 16) : State → Out1 := runInstr (loadInstr rd .hu ra i.toInt none)
/-- LD.WU (R274). -/
def execLdWu (rd ra : XReg) (i : BitVec 16) : State → Out1 := runInstr (loadInstr rd .wu ra i.toInt none)
/-- ST.B (R274). -/
def execStB (rd ra : XReg) (i : BitVec 16) : State → Out1 := runInstr (storeInstr rd .b ra i.toInt none)
/-- ST.H (R274). -/
def execStH (rd ra : XReg) (i : BitVec 16) : State → Out1 := runInstr (storeInstr rd .h ra i.toInt none)
/-- ST.W (R274). -/
def execStW (rd ra : XReg) (i : BitVec 16) : State → Out1 := runInstr (storeInstr rd .w ra i.toInt none)
/-- ST.D (R274). -/
def execStD (rd ra : XReg) (i : BitVec 16) : State → Out1 := runInstr (storeInstr rd .d ra i.toInt none)
/-- LD.ACQ (R276). -/
def execLdAcq (rd ra : XReg) (k : LdKind) (sc : Scope) (i : BitVec 7) : State → Out1 :=
  runInstr (loadInstr rd k ra (i.toInt * ldBytes k) (some sc))
/-- ST.REL (R276). -/
def execStRel (rd ra : XReg) (k : Sz) (sc : Scope) (i : BitVec 7) : State → Out1 :=
  runInstr (storeInstr rd k ra (i.toInt * szBytes k) (some sc))

/-! ## Literal reads -/

/-- Address of a literal (R256, R273). -/
def litAddr (t : Str) (off : BitVec 19) : Word := nextPtr (t.pc &&& ~~~(7 : Word)) (off.toInt * 8)

/-- A literal read into an X register (R273). -/
def literal (rd : XReg) (n : Nat) (h : Nat → Word) (off : BitVec 19) : M Adv := do
  settle (xRegs [rd])
  let b ← fetchBytes (litAddr (← theStr) off) n
  modStr (fun t => t.setX rd (h (leNat b)))
  return .step

/-- LDL.W (R273). -/
def execLdlW (rd : XReg) (off : BitVec 19) : State → Out1 :=
  runInstr (literal rd 4 (fun v => (BitVec.ofNat 32 v).signExtend 64) off)
/-- LDL.D (R273). -/
def execLdlD (rd : XReg) (off : BitVec 19) : State → Out1 := runInstr (literal rd 8 (BitVec.ofNat 64) off)
/-- LDLV (R233, R273). -/
def execLdlv (rd : VReg) (off : BitVec 19) : State → Out1 := runInstr do
  settle (vRegs (rd, 1))
  checkStreams [] [(rd, 1)]
  let a := litAddr (← theStr) off
  if a.toNat % 64 ≠ 0 then raise 0x03 0 a
  else do
    let b ← fetchBytes a 64
    let plan ← pushPlan rd 1
    putDst rd [BitVec.ofNat 512 (leNat b)] plan
    return .step

/-! ## Events of the units that carry loads and stores -/

/-- A request of a requester, or of one of an engine's commands, to another package. -/
def Miss.outAt (k : Nat) (m : Miss) : Bool :=
  m.str % 1024 == k && (match m with
    | .remote _ _ _ => true
    | .data _ (.remote _ _) => true
    | .write _ _ _ => true
    | _ => false)

/-- An answer is an error: its code and its detail (R37, R84, R414). -/
def Resp.error : Option Resp → Option (Nat × Nat)
  | some (.xlate x) => some (0x10, x)
  | some (.bad x) => some (x, 0)
  | none => some (0x41, 0)
  | _ => none

/-- The command has ended in error. -/
def Cmd.err (c : Cmd) (f : FaultInfo) : Cmd := { c with fin := some (some f) }

/-- A write of the engine command that is requester `k` of a core ends with an error response, and the command with it, if no other error has
ended it (R136, R351). -/
def Core.failCmd (co : Core) (k : Nat) (f : FaultInfo) : Core :=
  let hit (e : Engine) (x : Cmd) : Cmd := if engId e x = k ∧ !(x.fin.any Option.isSome) then x.err f else x
  { co with bce := co.bce.map (hit .bce), mxu := { co.mxu with queue := co.mxu.queue.map (hit .mxu) } }

/-- What another package answers the oldest request that a requester has with it: the translation of a store or an atomic, or the
bytes of a sector, or that an engine's write has performed or failed (R37, R38, R84, R136, R414); `none` is a refusal or a timeout. With no
such request it is an answer that nothing waits for any more, which is discarded and counted (R396). -/
def answerRemote (c k : Nat) (r : Option Resp) (s : State) : State :=
  match (s.core c).misses.find? (Miss.outAt k) with
  | some (.remote i p o) => s.serve c i (.remote i p o) (match Resp.error r with
    | some (x, d) => .noRemote p o x d
    | none => .remoteOk p o)
  | some (.write i pl p) => s.modCore c (fun co =>
      let co1 := { co with misses := co.misses.filter (fun x => x != .write i pl p) }
      match Resp.error r with
      | some (x, d) => co1.failCmd i { code := x, detail := d, val := p }
      | none => co1)
  | some (.data i pl) => s.serve c i (.data i pl) (match r with
    | some (.remote d) => .sector pl d
    | some (.xlate x) => .failed pl 0x10 x
    | some (.bad x) => .failed pl x 0
    | _ => .failed pl 0x41 0)
  | _ => s.countAt (coreUnit c)

/-- The store's event may perform now (R100, R102, R104, R106, R107, R113, R114): no earlier load, and no earlier event of the store
buffer, holds it back. -/
def storeReady (c : Nat) (t : Str) (ix ev : Nat) : Bool :=
  match t.sb[ix]? with
  | none => false
  | some x => match x.evs[ev]? with
    | none => false
    | some e =>
      let before := t.sb.take ix
      let loads := t.lds.filter (fun l => decide (l.seq < x.seq))
      let near := nearTo c e.place
      !(before.any (fun y => y.evs.any (evSame e)))
        && !(loads.any (Load.holds c false e))
        && !((x.evs.take ev).any (evMeets e))
        && !(near && (before.any (fun y => y.evs.any (fun z => nearTo c z.place)) || (x.evs.take ev).any (fun z => nearTo c z.place)))
        && (match x.rel with
          | some sc => !(before.any (fun y => y.evs.any (fun z => inScope c sc z.place)))
              && !(loads.any (fun l => l.evs.any (fun z => inScope c sc z.place)))
          | none => true)

/-- A release at SYS scope to a home in the packages waits until earlier stores to the host are known to have arrived
(R147). -/
def needsFlush (t : Str) (x : Store) (e : SectorEv) : Bool :=
  x.rel == some .sys && (t.hostDirty || t.flush.isSome) && (match e.place with | .host _ _ _ => false | _ => true)

/-- Takes a performed event out of the store buffer. -/
def Str.dropEv (t : Str) (ix ev : Nat) : Str :=
  match t.sb[ix]? with
  | none => t
  | some x =>
    let evs := dropAt x.evs ev
    { t with sb := if evs.isEmpty then dropAt t.sb ix else setAt t.sb ix { x with evs := evs, past := x.past ++ (x.evs[ev]?).toList } }

/-- The bytes of an event with their values. -/
def evBytes (e : SectorEv) (d : BitVec 4096) : List (Nat × Byte) := e.bytes.map (fun b => (b.1, dataByte d b.2))

end Sys2Proof.Machine
end

