-- ==== Sys2Proof/Machine/Atomic.lean ====
section
/-! DEFINITION. Atomics (R108, R277 to R282, R411, R419), and the events at which loads, far atomics and stores perform or
end with an error response (R37, R77, R99, R102, R390). -/

namespace Sys2Proof.Machine

/-! ## What an atomic does at its home -/

/-- True when the atomic writes its home: a CAS that does not compare equal does not (R279). -/
def atomWrites (f : AtomFn) (old a : Nat) : Bool :=
  match f with
  | .cas => old == a
  | _ => true

/-- The atomic performs at its home in this package as one event (R99, R108); at a bad sector it writes nothing (R282). -/
def State.performAtom (s : State) (c : Nat) (la : Option Nat) (l : Load) (e : SectorEv) : State × Load :=
  match l.dst, placeFlat e.place with
  | .amo _ f n a b mode, some at_ =>
    let s1 := s.packets c (coreUnit c) e.place
    match badAt s1 la at_ l.ptr with
    | some fi => (s1.poisonFound la at_, { l with evs := [], bad := some (0, fi) })
    | none =>
      let s2 := if atomWrites f (gotNum (s1.readEv la at_ e.bytes) n) a.toNat then s1.meterWrite c la e.place n else s1.meterOf c (byteMeter c e.place) n
      let got := s2.readEv la at_ e.bytes
      let old := gotNum got n
      let r := atomNew f n old a.toNat b.toNat mode
      let s3 := if atomWrites f old a.toNat then s2.writeEv la at_ e.bytes (BitVec.ofNat 4096 r.1) else s2
      (s3, { l with evs := [], got := got, flags := BitVec.ofNat 5 r.2 })
  | _, _ => (s, l)

/-! ## The instructions -/

/-- The order code asks for a release. -/
def isRel : Ord → Bool
  | .rel => true
  | .ar => true
  | _ => false
/-- The order code asks for an acquire. -/
def isAcq : Ord → Bool
  | .acq => true
  | .ar => true
  | _ => false

/-- Registers that an atomic names. -/
def atomRegs (f : AtomFn) (n : Nat) (rd ra : XReg) : List Nat :=
  xRegs (match f with
    | .cas => if n = 16 then [ra, rd, regUp rd 1, regUp rd 2, regUp rd 3] else [ra, rd, regUp rd 1]
    | _ => [ra, rd])

/-- An atomic of `n` bytes (R108, R277 to R282); `opnds` reads the operands. It enters the table of outstanding accesses, as one of the
ST counter's 32 (R285). -/
def atomInstr (f : AtomFn) (n : Nat) (opnds : Str → Nat × Nat) (rd ra : XReg) (sc : Scope) (ord : Ord) (imm : BitVec 7) :
    M Adv := do
  settle (atomRegs f n rd ra)
  let s ← get
  let t := s.curStr
  let p := t.getX ra + BitVec.ofInt 64 (imm.toInt * n)
  let pl ← check (dataWho s) .a p n n
  await (decide (t.ldCount < 16) && decide (t.stCount < 32))
  commitFor pl n
  let (a, b) := opnds t
  modify (fun s => s.issueEntry { seq := t.seq, dst := .amo rd f n (BitVec.ofNat 128 a) (BitVec.ofNat 128 b) t.vrnd, evs := [evOf pl n 0],
                                  got := [], bad := none, flags := 0, near := nearTo s.cur.1 pl, acq := if isAcq ord then some sc else none,
                                  rel := if isRel ord then some sc else none, owner := t.owner, ptr := p, pc := t.pc })
  return .placed

/-- An AMO (R278). -/
def amo (f : AtomFn) (n : Nat) (rd ra : XReg) (sc : Scope) (ord : Ord) (imm : BitVec 7) : State → Out1 :=
  runInstr (atomInstr f n (fun t => ((t.getX rd).toNat % 2 ^ (8 * n), 0)) rd ra sc ord imm)

/-- AMO.ADD.D (R278). -/
def execAmoAddD (rd ra : XReg) (sc : Scope) (ord : Ord) (imm : BitVec 7) : State → Out1 := amo .add 8 rd ra sc ord imm
/-- AMO.AND.D (R278). -/
def execAmoAndD (rd ra : XReg) (sc : Scope) (ord : Ord) (imm : BitVec 7) : State → Out1 := amo .and 8 rd ra sc ord imm
/-- AMO.OR.D (R278). -/
def execAmoOrD (rd ra : XReg) (sc : Scope) (ord : Ord) (imm : BitVec 7) : State → Out1 := amo .or 8 rd ra sc ord imm
/-- AMO.XOR.D (R278). -/
def execAmoXorD (rd ra : XReg) (sc : Scope) (ord : Ord) (imm : BitVec 7) : State → Out1 := amo .xor 8 rd ra sc ord imm
/-- AMO.MIN.D (R278). -/
def execAmoMinD (rd ra : XReg) (sc : Scope) (ord : Ord) (imm : BitVec 7) : State → Out1 := amo .min 8 rd ra sc ord imm
/-- AMO.MAX.D (R278). -/
def execAmoMaxD (rd ra : XReg) (sc : Scope) (ord : Ord) (imm : BitVec 7) : State → Out1 := amo .max 8 rd ra sc ord imm
/-- AMO.MINU.D (R278). -/
def execAmoMinuD (rd ra : XReg) (sc : Scope) (ord : Ord) (imm : BitVec 7) : State → Out1 := amo .minu 8 rd ra sc ord imm
/-- AMO.MAXU.D (R278). -/
def execAmoMaxuD (rd ra : XReg) (sc : Scope) (ord : Ord) (imm : BitVec 7) : State → Out1 := amo .maxu 8 rd ra sc ord imm
/-- AMO.SWAP.D (R278). -/
def execAmoSwapD (rd ra : XReg) (sc : Scope) (ord : Ord) (imm : BitVec 7) : State → Out1 := amo .swap 8 rd ra sc ord imm
/-- AMO.ADD.W (R278). -/
def execAmoAddW (rd ra : XReg) (sc : Scope) (ord : Ord) (imm : BitVec 7) : State → Out1 := amo .add 4 rd ra sc ord imm
/-- AMO.AND.W (R278). -/
def execAmoAndW (rd ra : XReg) (sc : Scope) (ord : Ord) (imm : BitVec 7) : State → Out1 := amo .and 4 rd ra sc ord imm
/-- AMO.OR.W (R278). -/
def execAmoOrW (rd ra : XReg) (sc : Scope) (ord : Ord) (imm : BitVec 7) : State → Out1 := amo .or 4 rd ra sc ord imm
/-- AMO.XOR.W (R278). -/
def execAmoXorW (rd ra : XReg) (sc : Scope) (ord : Ord) (imm : BitVec 7) : State → Out1 := amo .xor 4 rd ra sc ord imm
/-- AMO.MIN.W (R278). -/
def execAmoMinW (rd ra : XReg) (sc : Scope) (ord : Ord) (imm : BitVec 7) : State → Out1 := amo .min 4 rd ra sc ord imm
/-- AMO.MAX.W (R278). -/
def execAmoMaxW (rd ra : XReg) (sc : Scope) (ord : Ord) (imm : BitVec 7) : State → Out1 := amo .max 4 rd ra sc ord imm
/-- AMO.MINU.W (R278). -/
def execAmoMinuW (rd ra : XReg) (sc : Scope) (ord : Ord) (imm : BitVec 7) : State → Out1 := amo .minu 4 rd ra sc ord imm
/-- AMO.MAXU.W (R278). -/
def execAmoMaxuW (rd ra : XReg) (sc : Scope) (ord : Ord) (imm : BitVec 7) : State → Out1 := amo .maxu 4 rd ra sc ord imm
/-- AMO.SWAP.W (R278). -/
def execAmoSwapW (rd ra : XReg) (sc : Scope) (ord : Ord) (imm : BitVec 7) : State → Out1 := amo .swap 4 rd ra sc ord imm

/-- A CAS on a register pair (R279). -/
def casPair (n : Nat) (rd ra : XReg) (sc : Scope) (ord : Ord) (imm : BitVec 7) : State → Out1 :=
  runInstr (atomInstr .cas n (fun t => ((t.getX rd).toNat % 2 ^ (8 * n), (t.getX (regUp rd 1)).toNat % 2 ^ (8 * n)))
    rd ra sc ord imm)
/-- CAS.W (R279). -/
def execCasW (rd ra : XReg) (sc : Scope) (ord : Ord) (imm : BitVec 7) : State → Out1 := casPair 4 rd ra sc ord imm
/-- CAS.D (R279). -/
def execCasD (rd ra : XReg) (sc : Scope) (ord : Ord) (imm : BitVec 7) : State → Out1 := casPair 8 rd ra sc ord imm
/-- CAS.Q (R279). -/
def execCasQ (rd ra : XReg) (sc : Scope) (ord : Ord) (imm : BitVec 7) : State → Out1 :=
  runInstr (atomInstr .cas 16 (fun t => ((t.getX rd).toNat + (t.getX (regUp rd 1)).toNat * 2 ^ 64,
    (t.getX (regUp rd 2)).toNat + (t.getX (regUp rd 3)).toNat * 2 ^ 64)) rd ra sc ord imm)
/-- FAMO.ADD.S (R280). -/
def execFamoAddS (rd ra : XReg) (sc : Scope) (ord : Ord) (imm : BitVec 7) : State → Out1 := amo .fadd 4 rd ra sc ord imm
/-- FAMO.ADD.D (R280). -/
def execFamoAddD (rd ra : XReg) (sc : Scope) (ord : Ord) (imm : BitVec 7) : State → Out1 := amo .fadd 8 rd ra sc ord imm

/-! ## LOAD_RESPONSE -/

/-- A load is a diagnostic read: the monitor that issued it holds D over every byte (R395). -/
def State.diagnostic (s : State) (c k : Nat) (l : Load) : Bool :=
  let t := s.str c k
  let who : Who := { core := c, id := k, owner := l.owner.toNat, mon := l.mon, launch := t.launch, fn := 0 }
  !l.isAtomic && (if l.ptrs.isEmpty then holdsD s who l.ptr else l.ptrs.all (fun x => holdsD s who x.2))

/-- An event of an outstanding entry performs at its home in this package (R99). -/
def State.performHome (s : State) (c k : Nat) (l : Load) (e : SectorEv) : State :=
  let la := (s.str c k).launch
  let r := if l.isAtomic then s.performAtom c la l e else s.readHome c la l e (s.diagnostic c k l)
  r.1.answerLoad c k l.seq (fun _ => r.2)

/-- Event `ev` of outstanding entry `ix` performs at its home, is sent out of the package, or has its answer from another package (R37, R99);
nothing happens while earlier accesses hold it back, and a fence has it end with an error response (R397). -/
def performLoad (c k ix ev : Nat) (r : Resp) (s : State) : State :=
  let t := s.str c k
  match t.lds[ix]? with
  | none => s
  | some l => match l.evs[ev]? with
    | none => s
    | some e =>
      if loadWaits c t ix ev l e then s
      else if ((placeFlat e.place).isSome || l.unsent.contains e) && s.refuses c e.place then
        s.answerLoad c k l.seq (Load.failed 0x21 0 e)
      else if l.unsent.contains e then (match r with
        | .home => s.sendEv c k l.seq e
        | _ => s)
      else
        match placeFlat e.place, e.place, r with
        | some _, _, .home => if flushFirst t l.rel (some e.place) then s.askFlush c k else s.performHome c k l e
        | none, .remote _ _, .remote d => (s.meterOf c 10 e.bytes.length).answerLoad c k l.seq (Load.answered d e)
        | none, .remote _ _, .xlate x => s.answerLoad c k l.seq (Load.failed 0x10 x e)
        | none, .remote _ _, .bad x =>
          if isPoisonCode x && s.diagnostic c k l then ((s.meterOf c 10 e.bytes.length).meterOf c 15 1).answerLoad c k l.seq (Load.zeros e)
          else s.answerLoad c k l.seq (Load.failed x 0 e)
        | _, _, _ => s

/-- LOAD_RESPONSE: entry `ix` of the string's outstanding loads; a number past the last entry is another package's answer to the oldest
request that requester `str` has with it beside its loads (R37, R38, R99). -/
def execLoadResponse (core str ix ev : Nat) (resp : Resp) (s : State) : Out1 :=
  .next (if str < 4 ∧ ix < (s.str core str).lds.length then performLoad core str ix ev resp s
    else answerRemote core str (some resp) s)

/-! ## STORE_ACKNOWLEDGEMENT -/

/-- A store that ended with an error response is reported with origin 3 (R390). -/
def State.reportStore (s : State) (c : Nat) (x : Store) (e : SectorEv) (code : Nat) : State :=
  s.reportWrite c x.launch (x.ptrAt e) code

/-- An outstanding store or push to the host falls in [lo, hi) of a function's addresses. -/
def hostPending (f lo hi : Nat) (t : Str) : Bool :=
  let hit (e : SectorEv) : Bool := match e.place with
    | .host g a _ => g == f && decide (a < hi) && decide (lo < a + 32)
    | _ => false
  t.sb.any (fun x => x.evs.any hit) || t.pushAny hit

/-- Invalidations of a function whose requests have all been sent are completed (R36). -/
def State.settleInval (s : State) (f : Nat) : State :=
  let busy (r : Nat × Nat) : Bool := s.cores.any (fun c => c.2.strs.any (fun k => hostPending f r.1 (r.1 + r.2) k.2))
  let s1 := ((s.vf f).inval.filter (fun r => !busy r)).foldl (fun s r => s.emit (.invalidateDone f (r.1 / 4096) r.2)) s
  if (s.vf f).inval.isEmpty then s else s1.modVf f (fun v => { v with inval := v.inval.filter busy })

/-- A write of a launch to a physical address lies in a listed span, in the copy that it is redirected to or in the original (R89, R170). -/
def State.spanned (s : State) (l : Option Nat) (a : Nat) : Bool :=
  let s1 := s.redirect l a
  s1.inSpan (s1.version (s1.shadowOf l) a)

/-- The bytes of a store's event are written at their home (R99); a write in a listed span is discarded, counted in no meter and
reported (R89, R436), and one that a fence has shut out performs nothing (R396, R397). -/
def State.performStore (s : State) (c k : Nat) (x : Store) (e : SectorEv) : State :=
  if s.refuses c e.place then s else
  let s0 := s.packets c (coreUnit c) e.place
  let s1 := s0.meterWrite c x.launch e.place e.bytes.length
  match e.place with
  | .slice d o => s1.writeEv x.launch (sliceFlat d o) e.bytes x.data
  | .phys a =>
    if s0.spanned x.launch a then (s0.redirect x.launch a).reportStore c x e 0x21 else s1.writeEv x.launch a e.bytes x.data
  | .host f _ a =>
    ((s1.emit (.hostWrite f a (evBytes e x.data) x.rel.isNone)).modStr c k (fun t => { t with hostDirty := true })).settleInval f
  | .remote q o => s1.emit (.novinoWrite q o (evBytes e x.data) false)
  | .notice _ => s

/-! ## Loads that will not fault (R275; log 13) -/

/-- Of the outstanding events of a string, those that pass the test, with the earlier near ones that a near one waits for (R102). -/
def dueFirst (c : Nat) (hit : SectorEv → Bool) : List (Nat × SectorEv) → List (Nat × SectorEv)
  | [] => []
  | x :: xs =>
    if hit x.2 || (nearTo c x.2.place && xs.any (fun y => nearTo c y.2.place && hit y.2)) then x :: dueFirst c hit xs
    else dueFirst c hit xs

/-- The stores of string `k` of core `c` below number `n` perform, in order. -/
def State.forceStores (s : State) (c k n : Nat) : State :=
  (s.str c k).sb.foldl (fun s x =>
    if x.seq < n then
      x.evs.foldl (fun s e => s.performStore c k x e) (s.modStr c k (fun t => { t with sb := t.sb.filter (fun y => y.seq != x.seq) }))
    else s) s

/-- The events of load `seq` of a string that it still reads in the package perform, in order. -/
def State.forceLoad (s : State) (c k seq : Nat) : State :=
  ((s.str c k).lds.find? (fun l => l.seq == seq)).elim s (fun l => l.evs.foldl (fun s e =>
    match (s.str c k).lds.find? (fun l => l.seq == seq) with
    | some l => if (placeFlat e.place).isSome && l.evs.contains e then s.performHome c k l e else s
    | none => s) s)

/-- What string `k` of core `c` has outstanding before number `n` performs, in program order. -/
def State.forceTo (s : State) (c k n : Nat) : State :=
  (((s.str c k).lds.filter (fun l => decide (l.seq < n))).foldl (fun s l => (s.forceStores c k l.seq).forceLoad c k l.seq) s).forceStores c k n

/-- Event `e` of load `seq` of a string performs at once, after what is earlier and holds it back. -/
def State.forceEv (s : State) (c k seq : Nat) (e : SectorEv) : State :=
  let find (s : State) : Option Load := (s.str c k).lds.find? (fun l => l.seq == seq)
  let s1 := match find s with
    | some l => if l.isHeld c (s.str c k) ((s.str c k).lds.filter (fun x => decide (x.seq < seq))) then s.forceTo c k seq else s
    | none => s
  match find s1 with
  | some l => if l.evs.contains e then s1.performHome c k l e else s1
  | none => s1

/-- The loads of string `k` of core `c` that are sure and still read one of the sectors perform. -/
def State.sureStr (s : State) (hit : Nat → Bool) (c k : Nat) : State :=
  let t := s.str c k
  let reads (e : SectorEv) : Bool := match placeFlat e.place with
    | some a => hit (s.version (s.shadowOf t.launch) a / 32)
    | none => false
  (dueFirst c reads ((t.lds.filter (·.sure)).flatMap (fun l => l.evs.map (fun e => (l.seq, e))))).foldl (fun s x => s.forceEv c k x.1 x.2) s

/-- Before sectors turn bad, whose numbers pass the test, the loads that are sure and still read them perform, so that none of them meets
the error (log 13). -/
def State.sureFirst (s : State) (hit : Nat → Bool) : State :=
  s.cores.foldl (fun s c => strNums.foldl (fun s k => s.sureStr hit c.1 k) s) s

/-! ## A store performs -/

/-- STORE_ACKNOWLEDGEMENT: event `ev` of store `ix` performs at its home and leaves the store buffer (R99, R102). Nothing
happens while the orderings of R102 to R107 hold the event back, or for a store to the notice window (see NOTICE_POST). -/
def execStoreAcknowledgement (core str ix ev : Nat) (s : State) : Out1 :=
  let t := s.str core str
  match t.sb[ix]?, t.sb[ix]?.bind (fun x => x.evs[ev]?) with
  | some x, some e =>
    if !storeReady core t ix ev || (match e.place with | .notice _ => true | _ => false) then .next s
    else if needsFlush t x e then .next (s.askFlush core str)
    else .next ((s.modStr core str (fun t => t.dropEv ix ev)).performStore core str x e)
  | _, _ => .next s

/-! ## ERROR_RESPONSE and RESPONSE_TIMEOUT -/

/-- Entry and event number of the `n`th outstanding event of a list of entries. -/
def nthEv : List Nat → Nat → Nat → Option (Nat × Nat)
  | [], _, _ => none
  | m :: ms, i, n => if n < m then some (i, n) else nthEv ms (i + 1) (n - m)

/-- A packet of a core's partition failed its tag check, which counts in TAGFAIL (R77, R436). -/
def State.tagMeter (s : State) (c : Nat) : State :=
  match s.partOf c with
  | some p => s.modPart p (fun q => q.meter 13 1)
  | none => s

/-- A packet of core `c` failed its tag check, unless the error response tells of a departed window or comes from another package (R77,
R95). -/
def State.tagFailed (s : State) (c : Nat) (window : Bool) (pl : Place) : State :=
  if window || (match pl with | .remote _ _ => true | _ => false) then s else s.tagMeter c

/-- Requests to the host that pass the test are forgotten; with `left` it is their response that was lost, and otherwise they have not left the
package (R77). -/
def State.dropReqs (s : State) (f : HostReq → Bool) (left : Bool) : State :=
  let ids := (s.hostReqs.filter (fun r => f r.2)).map (·.1)
  let stays (o : Out) : Bool := match o with
    | .hostRead _ _ id _ => !ids.contains id
    | .hostAtomic _ _ _ _ _ _ id _ => !ids.contains id
    | _ => true
  { s with hostReqs := s.hostReqs.filter (fun r => !ids.contains r.1), out := if left then s.out else s.out.filter stays }

/-- The request of a load's event is with the host. -/
def reqOf (c k seq : Nat) (e : SectorEv) : HostReq → Bool
  | .load d j n x => d == c && j == k && n == seq && x == e
  | .atomic d j n _ => d == c && j == k && n == seq
  | _ => false

/-- A load's event can end with an error response: it has left the core over the mesh (R77). -/
def State.mayFail (s : State) (c k : Nat) (l : Load) (e : SectorEv) : Bool :=
  !l.unsent.contains e && (match e.place with
    | .host _ _ _ => s.hostReqs.any (fun r => reqOf c k l.seq e r.2)
    | pl => crosses c pl)

/-- The `n`th outstanding load event ends with an error response: of another package HOST_ABORT, of the package UNCORR, or SLICE_UNMAPPED
where it names a departed window (R77, R95, R414). With `done` it is the response that is lost, so that an atomic has performed. -/
def loadErrors (c k n : Nat) (window done : Bool) (s : State) : State :=
  let t := s.str c k
  match nthEv (t.lds.map (fun l => l.evs.length)) 0 n with
  | none => s
  | some (i, j) => match t.lds[i]?, t.lds[i]?.bind (fun l => l.evs[j]?) with
    | some l, some e =>
      if !s.mayFail c k l e || loadWaits c t i j l e then s
      else
        let code := match e.place with | .remote _ _ => 0x41 | _ => if window then 0x16 else 0x21
        let s1 := if done && l.isAtomic then (s.performAtom c t.launch l e).1 else s
        ((s1.dropReqs (reqOf c k l.seq e) done).tagFailed c window e.place).answerLoad c k l.seq (Load.failed code 0 e)
    | _, _ => s

/-- Takes an event out of a list of pushes; a push with none left goes. -/
def dropPush (l : List Push) (i j : Nat) : List Push :=
  match l[i]? with
  | none => l
  | some p => if p.evs.length ≤ 1 then dropAt l i else setAt l i { p with evs := dropAt p.evs j, past := p.past ++ (p.evs[j]?).toList }

/-- The events of the pushes that have not performed: stream, push and event. -/
def Str.pushList (t : Str) : List (Nat × Nat × Nat) :=
  (upTo 4).flatMap (fun n => match t.st.toList[n]? with
    | some (some x) => (upTo x.pushes.length).flatMap (fun i =>
        (upTo ((x.pushes[i]?.map (fun p => p.evs.length)).getD 0)).map (fun j => (n, i, j)))
    | _ => [])

/-- An event of a push may perform now: near ones in order, and no earlier one of its sector waits (R104, R113, R140); what its SBIND stands
behind has performed, see `withPush`. -/
def pushReady (c : Nat) (x : Stream) (i j : Nat) (p : Push) (e : SectorEv) : Bool :=
  !((nearTo c e.place && ((p.evs.take j).any (fun y => nearTo c y.place)
      || (x.pushes.take i).any (fun q => q.evs.any (fun y => nearTo c y.place))))
    || (x.pushes.take i).any (fun q => q.evs.any (evSame e)))

/-- An event of a push leaves the stream `n` of string `k`, once it may perform; the store that it amounts to then goes on with it. The first
one waits for the accesses before the stream's SBIND, the host having to show that stores have arrived (R140, R147). -/
def withPush (c k n i j : Nat) (f : Store → SectorEv → State → State) (s : State) : State :=
  let t := s.str c k
  match t.st.toList[n]? with
  | some (some x) => match x.pushes[i]?, x.pushes[i]?.bind (fun p => p.evs[j]?) with
    | some p, some e =>
      if !pushReady c x i j p e then s
      else if !t.releases x.after then (if t.wantsFlush x.after then s.askFlush c k else s)
      else f { seq := 0, evs := [], data := p.data.zeroExtend 4096, near := false, rel := none, owner := x.owner, ptr := p.ptr,
               launch := t.launch } e
        (s.modStr c k (fun t => t.setStream ⟨n % 4, Nat.mod_lt _ (by decide)⟩ (some { x with pushes := dropPush x.pushes i j, after := none })))
    | _, _ => s
  | _ => s

/-- A write of a string ends with an error response and is reported; with `done` it is the acknowledgement that is lost, so that it has
performed (R77, R390). -/
def State.writeFailed (s : State) (c k : Nat) (x : Store) (e : SectorEv) (window done : Bool) : State :=
  let refused := match e.place with | .phys a => s.spanned x.launch a | _ => false
  let s1 := if done && !refused then s.performStore c k x e else s
  (s1.tagFailed c window e.place).reportStore c x e (if window then 0x16 else 0x21)

/-- The `n`th outstanding push event of a string ends with an error response and is reported with its element's pointer (R77, R390). -/
def pushErrors (c k n : Nat) (window done : Bool) (s : State) : State :=
  match (s.str c k).pushList[n]? with
  | some (st, i, j) =>
    withPush c k st i j (fun x e s1 => if crosses c e.place then s1.writeFailed c k x e window done else s) s
  | none => s

/-- The `n`th outstanding store event of a string, or after those push event, ends with an error response (R77, R89, R95, R390). -/
def storeErrors (c k n : Nat) (window done : Bool) (s : State) : State :=
  let t := s.str c k
  match nthEv (t.sb.map (fun x => x.evs.length)) 0 n with
  | some (i, j) => match t.sb[i]?, t.sb[i]?.bind (fun x => x.evs[j]?) with
    | some x, some e =>
      if !crosses c e.place || !storeReady c t i j then s
      else (s.modStr c k (fun t => t.dropEv i j)).writeFailed c k x e window done
    | _, _ => s
  | none => pushErrors c k (n - (t.sb.map (fun x => x.evs.length)).sum) window done s

/-- The oldest request that a requester has outside the package ends with an error; with none, its next access over the mesh, a read of a table
for it included (R77, R414). -/
def readErrors (c k : Nat) (window done : Bool) (s : State) : State :=
  match (s.core c).misses.find? (fun m => Miss.outAt k m || (m.str % 1024 == k && (match m with
      | .data _ _ => true
      | _ => false))) with
  | some (.data i (.host f a b)) =>
    ((s.tagMeter c).dropReqs (· == .read c i (.host f a b)) done).serve c i (.data i (.host f a b)) (.failed (.host f a b) 0x21 0)
  | some _ => answerRemote c k none s
  | none =>
    let s1 := s.tagFailed c window (.phys 0)
    if k < 4 then s1.modStr c k (fun t => { t with inHand := t.inHand ++ [.lost] })
    else s1.modCore c (fun co => { co with held := co.held ++ [(k, .lost)] })

/-- The access that the numbers of ERROR_RESPONSE and RESPONSE_TIMEOUT name ends with an error response. -/
def errorEnds (c k n : Nat) (isLoad window done : Bool) (s : State) : State :=
  if 4 ≤ k then readErrors c k window done s
  else if isLoad then
    if n < ((s.str c k).lds.map (fun l => l.evs.length)).sum then loadErrors c k n window done s else readErrors c k window done s
  else storeErrors c k n window done s

/-- ERROR_RESPONSE (R77, R95, R390): `ix` numbers the outstanding events of the string's loads, or of its stores and then its pushes; for a
requester that is no string, or past the loads, its oldest request to another package, or else its next access over the mesh. `window`
tells the error response of a departed window from that of a failed tag. -/
def execErrorResponse (core str ix : Nat) (isLoad window : Bool) (s : State) : Out1 := .next (errorEnds core str ix isLoad window false s)

end Sys2Proof.Machine
end

