-- ==== Sys2Proof/Machine/VectorMem.lean ====
section
/-! DEFINITION. Vector loads and stores (R27, R114, R216, R308 to R311), and WAIT and BAR (R110, R111, R159, R284 to R286). -/

namespace Sys2Proof.Machine

/-! ## Elements and their events -/

/-- Checks the accesses one after another; each is the number of its first byte and its pointer (R39, R310). Where the access has several,
a load's element in another package waits until its translation there is known, so that none performs before all have passed, and the
first that fails raises its fault (R38). -/
def checkEach (k : Acc) (e : Nat) (several : Bool) : List (Nat × Word) → M (List (Nat × Place))
  | [] => return []
  | (i, p) :: t => do
    let w := dataWho (← get)
    let pl ← check w k p e e
    match pl, k == .r && several with
    | .remote _ _, true => remoteXl w k p
    | _, _ => pure ()
    return (i, pl) :: (← checkEach k e several t)

/-- The elements of a vector access, checked in order (R310). -/
def checkElems (k : Acc) (e : Nat) (l : List (Nat × Word)) : M (List (Nat × Place)) := checkEach k e (decide (1 < l.length)) l

/-- One event per sector: joins neighbours that lie in one sector (R114). -/
def joinEvs : List SectorEv → List SectorEv
  | [] => []
  | a :: t => match joinEvs t with
    | b :: r => if evSame a b then { a with bytes := a.bytes ++ b.bytes } :: r else a :: b :: r
    | [] => [a]

/-- One event per element (R114). -/
def elemEvs (e : Nat) (l : List (Nat × Place)) : List SectorEv := l.map (fun x => evOf x.2 e x.1)

/-- Numbers of the active elements. -/
def activeIdx (t : Str) (mk : MReg) (e : Sz) : List Nat := (upTo (64 / szBytes e)).filter (active (t.getM mk))

/-- The elements of the contiguous forms with `n` planes, in the order of R310: element by element, planes ascending in
each (R309). -/
def unitPtrs (p : Word) (n e : Nat) (act : List Nat) : List (Nat × Word) :=
  act.flatMap (fun i => (upTo n).map (fun k => (64 * k + i * e, nextPtr p ((64 * k + i * e : Nat) : Int))))

/-- The events of the contiguous forms, plane by plane (R113, R114). -/
def unitEvs (n e : Nat) (l : List (Nat × Place)) : List SectorEv :=
  (upTo n).flatMap (fun k => joinEvs (elemEvs e (l.filter (fun x => x.1 / 64 == k))))

/-- The elements of the strided forms (R309). -/
def stridePtrs (p : Word) (st : Int) (e : Nat) (act : List Nat) : List (Nat × Word) :=
  act.map (fun i => (i * e, nextPtr p (i * st)))

/-- The elements of the indexed forms (R309). -/
def indexPtrs (p : Word) (idx : Vec) (w e : Nat) (act : List Nat) : List (Nat × Word) :=
  act.map (fun i => (i * e, nextPtr p (sfield ((elems w idx).getD i 0) w)))

/-- Checks and events of an access by its form. -/
def unitAccess (k : Acc) (p : Word) (n e : Nat) (act : List Nat) : M (List SectorEv) := do
  return unitEvs n e (← checkElems k e (unitPtrs p n e act))

/-- The same, for one event per element. -/
def elemAccess (k : Acc) (e : Nat) (l : List (Nat × Word)) : M (List SectorEv) := do
  return elemEvs e (← checkElems k e l)

/-! ## Loads -/

/-- A vector load of `n` registers (R309 to R311); `undo` is the index stream of a gather before its pop. One that pops or pushes runs
behind loads that will not fault only (R275). -/
def vecLoad (rd : VReg) (n : Nat) (ptr : Word) (ps : List (Nat × Word)) (evs : M (List SectorEv)) (undo : Option (Nat × Stream) := none) :
    M Adv := do
  let t ← theStr
  if (t.streamOf rd).isSome || undo.isSome then settle [] else pure ()
  checkStreams [] [(rd, n)]
  let es ← evs
  match ← pushPlan rd n with
  | none => issueLoad (.v rd n) es none ptr ps undo
  | some plan => issueLoad (.p rd plan) es none ptr ps undo

/-- Registers that a vector load reads or writes, for the interlock. -/
def loadRegs (rd : VReg) (n : Nat) (xs : List XReg) (vs : List VReg) : List Nat :=
  (upTo n).map (fun k => 32 + (rd.toNat + k) % 32) ++ xs.map (·.toNat) ++ vs.map (fun v => 32 + v.toNat)

/-- VLD (R309). -/
def execVld (rd : VReg) (ra : XReg) (mk : MReg) (e : Sz) : State → Out1 := runInstr do
  let t ← theStr
  await (t.loadReady (loadRegs rd 1 [ra] []))
  let act := activeIdx t mk e
  vecLoad rd 1 (t.getX ra) (unitPtrs (t.getX ra) 1 (szBytes e) act) (unitAccess .r (t.getX ra) 1 (szBytes e) act)

/-- VLDJ (R216, R309). -/
def execVldj (rd : VReg) (ra : XReg) (mk : MReg) (e : Sz) : State → Out1 := runInstr do
  let t ← theStr
  await (t.loadReady (loadRegs rd 4 [ra] []))
  checkGroups [rd]
  let act := activeIdx t mk e
  vecLoad rd t.planes (t.getX ra) (unitPtrs (t.getX ra) t.planes (szBytes e) act)
    (unitAccess .r (t.getX ra) t.planes (szBytes e) act)

/-- VLDS (R309). -/
def execVlds (rd : VReg) (ra rb : XReg) (mk : MReg) (e : Sz) : State → Out1 := runInstr do
  let t ← theStr
  await (t.loadReady (loadRegs rd 1 [ra, rb] []))
  let ps := stridePtrs (t.getX ra) (t.getX rb).toInt (szBytes e) (activeIdx t mk e)
  vecLoad rd 1 (t.getX ra) ps (elemAccess .r (szBytes e) ps)

/-- VGATH (R309). -/
def execVgath (rd : VReg) (ra : XReg) (rb : VReg) (mk : MReg) (e : Sz) : State → Out1 := runInstr do
  let t ← theStr
  await (t.loadReady (loadRegs rd 1 [ra] [rb]))
  checkStreams [(rb, 1)] [(rd, 1)]
  let idx ← popSrc rb 1
  let ps := indexPtrs (t.getX ra) (idx.getD 0 0) (szBits e) (szBytes e) (activeIdx t mk e)
  vecLoad rd 1 (t.getX ra) ps (elemAccess .r (szBytes e) ps) ((t.streamOf rb).map (fun x => (x.1.val, x.2)))

/-! ## Stores -/

/-- Data of a store: plane `k` at byte 64 k. -/
def planeData (vs : List Vec) : BitVec 4096 := BitVec.ofNat 4096 (joinElems 512 (vs.map (·.toNat)))

/-- A vector store of what `rd` holds or pops (R309 to R311); a store with no active element does nothing. -/
def vecStore (vs : List Vec) (ptr : Word) (ps : List (Nat × Word)) (evs : M (List SectorEv)) : M Adv := do
  let es ← evs
  if es.isEmpty then return .step
  else
    await (decide ((← theStr).stCount < 32))
    commitEvs es
    bufferStore es (planeData vs) none ptr ps
    return .step

/-- A 32-byte store to the notice window of a function bound to the issuing partition (R27). That it is a VST, or a VSTJ at JORD 0, whose
first 32 bytes of elements alone are active, and no store whose mask picks out 32 other bytes, is the model's choice (log 73). -/
def noticeStore (s : State) (p : Word) (e : Nat) (act : List Nat) : Option SectorEv :=
  let off := ptrOff p
  let f := field off 32 9
  if s.curStr.lvl ≠ 0 && ptrSpace p == 2 && field off 42 2 == 1 && !bitAt off 41 && field off 0 32 == 0
      && ptrPkg p == s.pkg && act == upTo (32 / e) && f != 0 && (s.vf f).part.isSome && (s.vf f).part == (s.core s.cur.1).part
  then some { place := .notice f, bytes := (upTo 32).map (fun i => (i, i)) }
  else none

/-- VST (R27, R309). -/
def execVst (rd : VReg) (ra : XReg) (mk : MReg) (e : Sz) : State → Out1 := runInstr do
  settle (xRegs [ra] ++ vRegs (rd, 1))
  let t ← theStr
  checkStreams [(rd, 1)] []
  let vs ← popSrc rd 1
  let act := activeIdx t mk e
  vecStore vs (t.getX ra) (unitPtrs (t.getX ra) 1 (szBytes e) act) (do
    match noticeStore (← get) (t.getX ra) (szBytes e) act with
    | some ev => return [ev]
    | none => unitAccess .w (t.getX ra) 1 (szBytes e) act)

/-- VSTJ (R216, R309); at JORD 0 it is VST, the notice window included. -/
def execVstj (rd : VReg) (ra : XReg) (mk : MReg) (e : Sz) : State → Out1 := runInstr do
  let t ← theStr
  settle (xRegs [ra] ++ vRegs (rd, t.planes))
  checkGroups [rd]
  checkStreams [(rd, t.planes)] []
  let vs ← popSrc rd t.planes
  let act := activeIdx t mk e
  vecStore vs (t.getX ra) (unitPtrs (t.getX ra) t.planes (szBytes e) act) (do
    let s ← get
    match (if t.ord = 0 then noticeStore s (t.getX ra) (szBytes e) act else none) with
    | some ev => return [ev]
    | none => unitAccess .w (t.getX ra) t.planes (szBytes e) act)

/-- VSTS (R309). -/
def execVsts (rd : VReg) (ra rb : XReg) (mk : MReg) (e : Sz) : State → Out1 := runInstr do
  settle (xRegs [ra, rb] ++ vRegs (rd, 1))
  let t ← theStr
  checkStreams [(rd, 1)] []
  let vs ← popSrc rd 1
  let ps := stridePtrs (t.getX ra) (t.getX rb).toInt (szBytes e) (activeIdx t mk e)
  vecStore vs (t.getX ra) ps (elemAccess .w (szBytes e) ps)

/-- VSCAT (R309). -/
def execVscat (rd : VReg) (ra : XReg) (rb : VReg) (mk : MReg) (e : Sz) : State → Out1 := runInstr do
  settle (xRegs [ra] ++ vRegs (rd, 1) ++ vRegs (rb, 1))
  let t ← theStr
  checkStreams [(rd, 1), (rb, 1)] []
  let vs ← popSrc rd 1
  let idx ← popSrc rb 1
  let ps := indexPtrs (t.getX ra) (idx.getD 0 0) (szBits e) (szBytes e) (activeIdx t mk e)
  vecStore vs (t.getX ra) ps (elemAccess .w (szBytes e) ps)

/-! ## NOTICE_POST -/

/-- The event ring has no free slot beyond those that waiting entries will take (R405, R406). -/
def Vf.ringFull (v : Vf) : Bool := decide (2 ^ field v.ercfg.toNat 0 4 ≤ (v.ed - v.ep).toNat + v.entries.length)

/-- Steps 1 and 2 of the check of a ring of `2^k` slots of `sz` bytes: the error code, 0 if there is none. -/
def ringCode (v : Vf) (cfg base : Word) (sz : Nat) : Nat :=
  let c := cfg.toNat
  let k := field c 0 4
  if !bitAt c 5 || k == 0 || field c 4 1 != 0 || field c 6 58 != 0 then 1
  else if base.toNat < v.hwlo.toNat || v.hwhi.toNat < base.toNat + sz * 2 ^ k then 2
  else 0

/-- The event ring is in error, and vector 0 is raised (R405, R406). -/
def State.eventRingError (s : State) (f code : Nat) : State :=
  (s.modVf f (fun v => { v with ee := true, ecode := BitVec.ofNat 4 code, erchk := false })).emit (.msix f 0 false)

/-- A type 4 entry is discarded (R27, R402). -/
def Vf.discardNotice (v : Vf) : Vf := { v with stale := if v.stale = BitVec.allOnes 32 then v.stale else v.stale + 1 }

/-- NOTICE_POST: the host-link unit accepts the notice store at `ix` as a type 4 entry, or discards it where the event ring
is not enabled, is in error or fails the check before its first entry; while the ring is full the store waits (R27, R402, R405,
R406). -/
def execNoticePost (core str ix : Nat) (s : State) : Out1 :=
  let t := s.str core str
  match t.sb[ix]?, t.sb[ix]?.bind (fun x => x.evs[0]?) with
  | some x, some e => match e.place with
    | .notice f =>
      if !storeReady core t ix 0 then .next s
      else
        let v := s.vf f
        let s1 := s.modStr core str (fun t => t.dropEv ix 0)
        let c := if v.erchk then ringCode v v.ercfg v.erbase 64 else 0
        if !bitAt v.ercfg.toNat 5 || v.ee then .next (s1.modVf f Vf.discardNotice)
        else if c ≠ 0 then .next ((s1.eventRingError f c).modVf f Vf.discardNotice)
        else if v.ringFull then .next s
        else .next (s1.putEntry f { bits := BitVec.ofNat 512 ((x.data.toNat % 2 ^ 256) * 2 ^ 256 + 4 * 16), notify := true,
                                    msgOf := none })
    | _ => .next s
  | _, _ => .next s

/-! ## WAIT and BAR -/

/-- Commands of the string's current activation that have not completed (R285). -/
def counted (q : List Cmd) (k : Nat) (t : Str) : Nat :=
  (q.filter (fun c => c.str == k && (match t.act with | some a => c.actId == a.id && c.launch == some a.launch | none => false))).length

/-- The counters LD, ST, CP and MX of a string (R285). -/
def counters (co : Core) (k : Nat) : Nat × Nat × Nat × Nat :=
  let t := co.str k
  (t.ldCount, t.stCount, counted co.bce k t, counted co.mxu.queue k t)

/-- A field of WAIT bounds its counter; 63 places no bound (R284). -/
def bounds (n : Nat) (f : BitVec 6) : Bool := f == 63 || decide (n ≤ f.toNat)

/-- WAIT (R110, R137, R284). It may retire behind loads that have not performed. -/
def execWait (ld st cp mx : BitVec 6) : State → Out1 := runInstr do
  let s ← get
  let (l, a, c, m) := counters s.curCore s.cur.2
  await (bounds l ld && bounds a st && bounds c cp && bounds m mx)
  modStr Str.passLoads
  return .step

/-- The launch of the executing string, or NOLAUNCH (R453). -/
def needLaunch : M (Activation × Launch) := do
  let s ← get
  match s.curStr.act with
  | none => raise 0x35
  | some a => match s.launch a.launch with
    | none => raise 0x35
    | some l => return (a, l)

/-- Commits the executing string's activation early (R166). -/
def commitCur : M Unit := modify (fun s => s.commitEarly s.cur.1 s.cur.2)

/-- A core of a quire arrives at its barrier: the barrier, advanced when the last core of `n` arrives (R159). -/
def Barrier.arrive (b : Barrier) (c n : Nat) : Barrier :=
  let l := if b.arrived.contains c then b.arrived else b.arrived ++ [c]
  if n ≤ l.length then { gen := b.gen + 1, arrived := [] } else { b with arrived := l }

/-- BAR (R111, R159, R286). That the near pushes of its streams are among the string's accesses that it waits for is the model's choice
(log 74). -/
def execBar : State → Out1 := runInstr do
  settle []
  let s ← get
  let (c, k) := s.cur
  let (a, l) ← needLaunch
  let n := l.f 320 8 * 16
  let q := s.lcoreOf c (some a.launch) / n
  let b := mget { gen := 0, arrived := [] } l.barriers q
  match s.curStr.wait with
  | .bar g => if b.gen ≠ g then return .step else stall
  | _ =>
    if !a.ec then
      commitCur
      return .again
    else
      let near (e : SectorEv) : Bool := nearTo c e.place
      await (!s.curStr.sb.any (fun x => x.evs.any near) && !s.curStr.lds.any (fun x => x.evs.any near) && !s.curStr.pushAny near)
      let b1 := b.arrive c n
      modify (fun s => s.modLaunch a.launch (fun l => { l with barriers := mset l.barriers q b1 }))
      if b1.gen ≠ b.gen then return .step
      else
        modify (fun s => s.modStr c k (fun t => { t with wait := .bar b.gen }))
        return .again

end Sys2Proof.Machine
end

