-- ==== Sys2Proof/Machine/Records.lean ====
section
/-! DEFINITION. The combining queue of a core (R165, R173 to R189): records, operators, counting, the spill table, arrivals of
messages and ARMs, tag failures, and selection with the entry state of an activation (R163). -/

namespace Sys2Proof.Machine

/-! ## Operators (R175 to R179) -/

/-- The identity value of an operator in one lane (R175). -/
def opIdentity (op : Nat) : Nat :=
  match op with
  | 3 => 0x7FFFFFFFFFFFFFFF
  | 4 => 0x8000000000000000
  | 5 => 0xFFFFFFFFFFFFFFFF
  | 7 => 0x7FF0000000000000
  | 8 => 0xFFF0000000000000
  | 10 => 0xFFFFFFFFFFFFFFFF
  | _ => 0

/-- Lane `i` of a payload. -/
def lane (p : BitVec 256) (i : Nat) : Nat := field p.toNat (64 * i) 64

/-- A payload from its lanes. -/
def ofLanes (l : List Nat) : BitVec 256 := BitVec.ofNat 256 (joinElems 64 l)

/-- OVF0 to OVF3, INX, NAN, CNTOVF and MIXED in the flags (R180). -/
def flagInx : Nat := 16
/-- See `flagInx`. -/
def flagNan : Nat := 32
/-- See `flagInx`. -/
def flagCnt : Nat := 64
/-- See `flagInx`. -/
def flagMixed : Nat := 128

/-- What folding one lane gives: the new lane and the flags (R177). -/
def foldLane (op p m : Nat) : Nat × Nat :=
  match op with
  | 1 => ((p + m) % 2 ^ 64, 0)
  | 3 => (if sfield m 64 < sfield p 64 then m else p, 0)
  | 4 => (if sfield p 64 < sfield m 64 then m else p, 0)
  | 5 => (Nat.min p m, 0)
  | 6 => (Nat.max p m, 0)
  | 7 => if fp64.isNan p || fp64.isNan m then (fp64.nan, flagNan) else ((fpMin fp64 p m).1, 0)
  | 8 => if fp64.isNan p || fp64.isNan m then (fp64.nan, flagNan) else ((fpMax fp64 p m).1, 0)
  | 9 => (p ||| m, 0)
  | 10 => (p &&& m, 0)
  | 11 => (p ^^^ m, 0)
  | _ => (m, 0)

/-- The wrap of one IADD lane: +1, −1 or 0, as a byte (R179). -/
def iaddWrap (p m : Nat) : Nat :=
  let s := sfield p 64 + sfield m 64
  if 2 ^ 63 - 1 < s then 1 else if s < -(2 ^ 63) then 255 else 0

/-- An FXADD accumulator with its wrap count and flags (R178). -/
structure Fx where
  acc : Int
  wrap : Nat
  flags : Nat
deriving DecidableEq, Repr

/-- Folds one FP64 contribution into an FXADD accumulator whose unit is 2^(w − 200) (R178). -/
def Fx.add (x : Fx) (w m : Nat) : Fx :=
  match fp64.decode m with
  | .rat neg n d =>
    let num := n * 2 ^ 200
    let den := d * 2 ^ w
    let t : Int := if neg then -((num / den : Nat) : Int) else (num / den : Nat)
    let f := if num % den = 0 then x.flags else x.flags ||| flagInx
    if 2 ^ 255 ≤ num / den then { x with flags := f ||| 1 }
    else
      let s := x.acc + t
      let wr := if 2 ^ 255 ≤ s then x.wrap + 1 else if s < -(2 ^ 255) then x.wrap + 255 else x.wrap
      { acc := (BitVec.ofInt 256 s).toInt, wrap := wr % 256, flags := f }
  | _ => { x with flags := x.flags ||| 1 }

/-- Folds a payload into a record's payload, wrap counts and flags (R177 to R179). -/
def foldPayload (r : Rec) (w : Nat) (m : BitVec 256) : Rec :=
  if r.op = 2 then
    let x := (upTo 4).foldl (fun (x : Fx) i => x.add w (lane m i))
      { acc := r.payload.toInt, wrap := r.wrap.toNat % 256, flags := r.flags.toNat }
    { r with payload := BitVec.ofInt 256 x.acc, wrap := BitVec.ofNat 32 (r.wrap.toNat / 256 * 256 + x.wrap),
             flags := BitVec.ofNat 8 x.flags }
  else
    let rs := (upTo 4).map (fun i => foldLane r.op (lane r.payload i) (lane m i))
    let wr := (upTo 4).map (fun i => (field r.wrap.toNat (8 * i) 8
      + (if r.op = 1 then iaddWrap (lane r.payload i) (lane m i) else 0)) % 256)
    { r with payload := ofLanes (rs.map (·.1)), flags := rs.foldl (fun f x => f ||| BitVec.ofNat 8 x.2) r.flags,
             wrap := BitVec.ofNat 32 (joinElems 8 wr) }

/-! ## Counting (R181 to R183) -/

/-- Adds to the count of a record and sets C; CNTOVF when the exact count leaves 32 bits (R181, R182). `fresh` marks a record
that the arrival has just created; on another, C = 0 tells that it holds an uncounted contribution (R180). -/
def Rec.countBy (r : Rec) (fresh : Bool) (d : Int) : Rec :=
  let n := r.count.toInt + d
  let f1 := if 2 ^ 31 - 1 < n ∨ n < -(2 ^ 31) then r.flags ||| BitVec.ofNat 8 flagCnt else r.flags
  let f2 := if !fresh && !r.c then f1 ||| BitVec.ofNat 8 flagMixed else f1
  { r with count := BitVec.ofInt 32 n, c := true, flags := f2 }

/-- Applies a message or an ARM to a record (R177, R181). -/
def Rec.apply (r : Rec) (fresh : Bool) (w : Nat) (m : Msg) : Rec :=
  match m.arm with
  | some a => { r.countBy fresh a.toInt with armed := true }
  | none =>
    let r1 := foldPayload r w m.payload
    if m.cnt then r1.countBy fresh (-1)
    else if !fresh && r.c then { r1 with flags := r1.flags ||| BitVec.ofNat 8 flagMixed } else r1

/-- A record that an arrival creates, before it is folded in (R175). -/
def Rec.fresh (m : Msg) : Rec :=
  { launch := m.launch, hid := m.hid, key := m.key, op := m.op, src := m.src,
    payload := ofLanes ((upTo 4).map (fun _ => opIdentity m.op)), count := 0, armed := false, c := false, flags := 0, wrap := 0,
    nc := false, redo := 0, since := 0, ord := 0, spill := none }

/-- Stamps a record that has become runnable (R165, R183). -/
def Rec.stampIf (r : Rec) (was : Bool) (cycle : Word) (ord : Nat) : Rec :=
  if r.runnable && !was then { r with since := cycle, ord := ord } else r

/-! ## The spill table (R186, R187) -/

/-- What a spilled record holds, read back; none if its entry has a bad sector or fails its check (R80, R187). -/
def State.recNow (s : State) (c : Nat) (r : Rec) : Option Rec :=
  match r.spill, s.launch r.launch, (s.core c).on r.launch with
  | some i, some l, some o =>
    let a := spillFlat c o l i
    if (s.markAt a).isSome || (s.markAt (a + 32)).isSome then none else spillRead r (s.mem.num a 64)
  | _, _, _ => some r

/-- A spill entry fails its check: its contributions are lost and CQ_SPILL is forwarded (R187). What its word X7 holds, where no message is the
cause, is the model's choice: the record's handler, operator, key and C, from the data beside the entry (log 85). -/
def State.spillLost (s : State) (c : Nat) (r : Rec) : State :=
  (s.dropRec c r).forwardRec c r.launch (recWord 0 0 2 0 0 0x33) 0 0
    (r.hid + r.op * 2 ^ 6 + b2n r.c * 2 ^ 10 + r.key.toNat * 2 ^ 11)

/-! ## Arrivals (R174 to R176, R188, R392) -/

/-- The message header as a fault record carries it (R389). -/
def msgInfo (m : Msg) : Nat := m.hid + m.op * 2 ^ 6 + b2n m.cnt * 2 ^ 10 + m.key.toNat * 2 ^ 11

/-- The launch is scheduled on a core, so that its messages are delivered there (R95, R380, R381). -/
def State.delivers (s : State) (c : Nat) (l : Launch) : Bool :=
  let co := s.core c
  co.vf == some l.vf && co.sw == .none && (match l.phase with | .running => true | _ => false)

/-- What becomes of a fault record that reaches the FAULT handler's core (R169, R391, R392): a replay, the end of the launch, nothing, or
delivery. -/
inductive RecFate where
  | replay | ends (code : Nat) | drop | deliver
deriving DecidableEq, Repr

/-- See `RecFate`. A SHADOW launch replays whatever the record's origin, also where its FAULT entry has V = 0 and where an activation of
handler 63 raised it (log 17). A trap, or a refused MCALL, of handler 63 is no fault, and is delivered (R341, R388, R417). The record of a drained core never ends a launch: where its FAULT entry has V = 0 the launch runs on (R391,
R444; log 75). -/
def recFate (l : Launch) (m : Msg) : RecFate :=
  let x := lane m.payload 0
  let code := field x 0 8
  let kind := field x 16 4
  if l.isShadow && kind == 0 && (code == 0x20 || code == 0x21 || code == 0x22) then .replay
  else if !l.handlerV 63 then (if field x 20 4 == 4 then .drop else .ends code)
  else if field x 20 4 == 0 && kind == 0 && field m.key.toNat 10 6 == 63 then .ends code
  else .deliver

/-- A third error in a shadow launch ends it with REPLAY_EXHAUSTED; an earlier one asks for a replay (R169). -/
def State.askReplay (s : State) (i : Nat) : State :=
  match s.launch i with
  | some l => if l.replays < 2 then s.modLaunch i (fun l => { l with replayDue := true }) else s.endLaunch i 4 0
  | none => s

/-- A message or an ARM reaches a core of its launch: it folds into the record of its identity, or creates one; none if there
is no room (R174 to R176). -/
def State.deliver (s : State) (c : Nat) (l : Launch) (m : Msg) : Option State :=
  if !l.handlerV m.hid then some (s.forwardRec c m.launch (recWord 0 0 2 0 0 0x34) 0 0 (msgInfo m))
  else
    let co := s.core c
    let w := field (l.handler m.hid) 40 8
    let isIt (r : Rec) : Bool := m.op != 0 && !r.nc && r.launch == m.launch && r.hid == m.hid && r.key == m.key && r.op == m.op
    match co.records.find? isIt with
    | some r => match s.recNow c r with
      | none =>
        let s1 := s.spillLost c r
        s1.placeRec c (((Rec.fresh m).apply true w m).stampIf false co.cycle co.stamp)
      | some r1 =>
        some (s.foldRec c r ((r1.apply false w m).stampIf r1.runnable co.cycle co.stamp))
    | none => s.placeRec c (((Rec.fresh m).apply true w m).stampIf false co.cycle co.stamp)

/-- A message to HOST becomes a type 2 entry of the event ring (R161, R406). -/
def hostEntry (f : Flight) : EventEntry :=
  { bits := BitVec.ofNat 512 (f.msg.payload.toNat * 2 ^ 256 + f.msg.key.toNat * 2 ^ 88 + f.msg.src * 2 ^ 72
      + f.msg.hid * 2 ^ 66 + 2 * 16), notify := true, msgOf := some (f.fromCore, f.actId) }

/-- The accesses that a message is released by have performed: its string's stores, loads and pushes before it (R141). -/
def State.released (s : State) (f : Flight) : Bool :=
  let t := s.str f.fromCore f.fromStr
  !t.sb.any (fun x => decide (x.seq < f.after)) && !t.lds.any (fun x => decide (x.seq < f.after))
    && t.st.toList.all (fun x => match x with
      | some x => x.pushes.all (fun p => decide (f.after ≤ p.seq))
      | none => true)

/-- The event ring takes an entry now: it is enabled, not in error and has room. -/
def Vf.ringOpen (v : Vf) : Bool := bitAt v.ercfg.toNat 5 && !v.ee && !v.ringFull

/-- Flight `ix` can make its next move: it has been released and its destination accepts it (R95, R141, R188). -/
def State.arrives (s : State) (f : Flight) : Bool :=
  !f.nacked && s.released f && (match s.launch f.msg.launch, f.msg.dest with
    | _, .host => (s.vf f.vf).ringOpen
    | none, _ => true
    | some l, .core n => match l.phase with
      | .ending _ _ _ => true
      | _ => s.delivers (l.phys n) l && !(s.core (l.phys n)).niStop.contains f.msg.launch)

/-- The NI at which a packet has arrived sends one back: an acknowledgement or a NACK. One that a unit sends itself crosses no mesh (R76). -/
def State.answers (s : State) (f : Flight) : State :=
  match (s.vf f.vf).part with
  | some p => if f.unit = f.sender then s else s.packet f.unit p
  | none => s

/-- The flight arrives (R174). A message to a launch that has ended is discarded and counted at the receiving NI (R95, R171); one for which
there is no room waits, and the NI accepts no more for its launch (R188). -/
def State.arrive (s : State) (ix : Nat) (f : Flight) : State :=
  let s0 : State := ({ s with net := dropAt s.net ix } : State).answers f
  match s.launch f.msg.launch, f.msg.dest with
  | _, .host => s0.putEntry f.vf (hostEntry f)
  | none, _ => s0.countAt f.unit
  | some l, .core n => match l.phase with
    | .ending _ _ _ => s0.countAt f.unit
    | _ =>
      let c := l.phys n
      let put : State := (s0.deliver c l f.msg).getD (s.modCore c (fun co => { co with niStop := f.msg.launch :: co.niStop }))
      if f.msg.mon && f.msg.hid == 63 then match recFate l f.msg with
        | .replay => s0.askReplay f.msg.launch
        | .ends code => s0.endLaunch f.msg.launch 3 code
        | .drop => s0
        | .deliver => put
      else put

/-- A packet fails its tag check: it is discarded, TAGFAIL of its partition counts it, and a NACK goes back (R77). -/
def State.tagFails (s : State) (ix : Nat) (f : Flight) : State :=
  let s1 := ({ s with net := setAt s.net ix { f with nacked := true } } : State).answers f
  match (s.vf f.vf).part with
  | some p => s1.modPart p (fun q => q.meter 13 1)
  | none => s1

/-- An arrival event at flight `ix`, of a message or of an ARM. -/
def arrival (isArm : Bool) (ix : Nat) (tagOk : Bool) (s : State) : State :=
  match s.net[ix]? with
  | none => s
  | some f =>
    if f.msg.arm.isSome != isArm || !s.arrives f then s
    else if !tagOk && f.unit != f.sender then s.tagFails ix f else s.arrive ix f

/-- MESSAGE_ARRIVAL (R174). -/
def execMessageArrival (ix : Nat) (tagOk : Bool) (s : State) : Out1 := .next (arrival false ix tagOk s)
/-- ARM_ARRIVAL (R181). -/
def execArmArrival (ix : Nat) (tagOk : Bool) (s : State) : Out1 := .next (arrival true ix tagOk s)

/-- UNCORR of a message that ended with an error response is reported to its launch, at the sending core, or where a unit sent it at the core
that it was for (R77; log 17). -/
def State.reportLost (s : State) (f : Flight) : State :=
  s.forwardRec f.fromCore f.msg.launch (recWord 0 0 2 0 0 0x21) 0 0 (msgInfo f.msg)

/-- The sender of a flight gives it up: it leaves, and its loss is reported. -/
def State.giveUp (s : State) (ix : Nat) (f : Flight) : State := ({ s with net := dropAt s.net ix } : State).reportLost f

/-- NACK: the sending NI sends the message again under a new sequence number, and reports UNCORR at the fourth failure (R77; log 17). -/
def execNack (ix : Nat) (s : State) : Out1 :=
  match s.net[ix]? with
  | none => .next s
  | some f =>
    if !f.nacked then .next s
    else if f.nacks < 3 then
      let f1 := { f with nacked := false, nacks := f.nacks + 1 }
      match (s.vf f.vf).part with
      | some p => .next (({ s with net := setAt s.net ix { f1 with seq := (s.seqOf f.sender p).toNat } } : State).packet f.sender p)
      | none => .next { s with net := setAt s.net ix f1 }
    else .next (s.giveUp ix f)

/-- The `n`th message that a string of a core, a launch unit (see `Miss`), or with 4,097 the host-link unit, has sent and that has not been
acknowledged. -/
def State.sentBy (s : State) (c k n : Nat) : Option (Nat × Flight) :=
  let u := if c = 4097 then hostUnit else coreUnit c
  (((upTo s.net.length).filterMap (fun i => (s.net[i]?).map (fun f => (i, f)))).filter (fun x =>
    x.2.sender == u && x.2.unit != u && (decide (4097 ≤ c) || x.2.fromStr == k)))[n]?

/-- The acknowledgement or the NACK of a message fails its tag check at its sender, which counts it in TAGFAIL and treats the message as one that
an error response ends. Whether it was the
acknowledgement, so that the message has been taken, is a free value (R77; log 61). -/
def State.messageTimeout (s : State) (c k n : Nat) : State :=
  match s.sentBy c k n with
  | none => s
  | some (i, f) =>
    let u := if !f.nacked && s.arrives f && Config.performed s.tick && (s.arrive i f).net[i]? != some f then (s.arrive i f).reportLost f
      else s.giveUp i f
    match (s.vf f.vf).part with
    | some p => u.modPart p (fun q => q.meter 13 1)
    | none => u

/-- A translation that a requester, or one of an engine's commands, has asked the host for. -/
def Miss.xlates (k : Nat) : Miss → Bool
  | .host j _ _ _ st => j % 1024 == k && st != 1
  | _ => false

/-- RESPONSE_TIMEOUT: the requester has waited 2^20 cycles and treats its packet as one that an error response ends (R77, R414). Past the
stores and the pushes of a string, the number is that of one of its messages, whose acknowledgement or NACK is lost. Whether the
lost answer had been sent, so that a write or an atomic has performed at its home, is a free value (log 61). Past the loads of a string whose
access waits for a translation by the host, it is that request which reaches its completion timeout (R396; log 67). -/
def execResponseTimeout (core str ix : Nat) (isLoad : Bool) (s : State) : Out1 :=
  let t := s.str core str
  let n := (t.sb.map (fun x => x.evs.length)).sum + t.pushList.length
  if !isLoad && decide (str < 4) && decide (n ≤ ix) then .next (s.messageTimeout core str (ix - n))
  else if isLoad && decide ((t.lds.map (fun l => l.evs.length)).sum ≤ ix) then
    match (s.core core).misses.find? (Miss.xlates str) with
    | some (.host k f page wr st) => .next (s.serve core k (.host k f page wr st) (.hostAbort f page))
    | _ => .next (errorEnds core str ix isLoad false (Config.performed s.tick) s)
  else .next (errorEnds core str ix isLoad false (Config.performed s.tick) s)

/-! ## Selection (R163, R165, R168, R185) -/

/-- Priority levels gained by a record that became runnable at `since` (R165). -/
def aged (r : Rec) (cycle : Word) : Nat := (cycle - r.since).toNat / 2 ^ 16

/-- The effective priority of a record (R165). -/
def epri (l : Launch) (r : Rec) (cycle : Word) : Nat := Nat.min 3 (l.handlerPri r.hid + aged r cycle)

/-- `a` is selected before `b`: higher effective priority, then returned records, then the one runnable first (R165, R169). -/
def recBefore (l : Launch) (cycle : Word) (a b : Rec) : Bool :=
  if epri l a cycle != epri l b cycle then decide (epri l b cycle < epri l a cycle)
  else if a.nc != b.nc then a.nc
  else decide (a.ord < b.ord)

/-- The record to select among those of a launch on a core whose handler is unmasked. -/
def pickRec (l : Launch) (o : OnCore) (cycle : Word) (rs : List Rec) : Option Rec :=
  (rs.filter (fun r => r.runnable && !o.mask.getLsbD r.hid)).foldl (fun b r => match b with
    | none => some r
    | some x => if recBefore l cycle r x then some r else some x) none

/-- The launch of the scheduled VF that a string of a core serves (R165, R371, R381). -/
def State.launchAt (s : State) (c k : Nat) : Option (Nat × OnCore) :=
  (s.core c).res.find? (fun r => r.2.strs.contains k && (s.launch r.1).map (·.vf) == (s.core c).vf)

/-- The flags with which a record is delivered (R179). -/
def entryFlags (r : Rec) : BitVec 8 :=
  if r.op = 1 ∨ r.op = 2 then
    (upTo 4).foldl (fun f i => if field r.wrap.toNat (8 * i) 8 = 0 then f else f ||| BitVec.ofNat 8 (2 ^ i)) r.flags
  else r.flags

/-- X3 at activation entry (R163, R185). -/
def entryX3 (r : Rec) : Word :=
  let f := entryFlags r
  let hi := f.toNat * 2 ^ 32 + b2n r.armed * 2 ^ 40
  if hi = 0 then r.count.signExtend 64 else BitVec.ofNat 64 (hi + r.count.toNat)

/-- A slice-space pointer of this package to a logical core's window (R26). -/
def slicePtr (pkg lc off : Nat) : Word := BitVec.ofNat 64 (3 * 2 ^ 44 + pkg * 2 ^ 46 + lc * 2 ^ 32 + off)

/-- The string of an activation at its entry (R163, R168). -/
def entryStr (t : Str) (pkg id : Nat) (l : Launch) (o : OnCore) (r : Rec) (ep : Nat) : Str :=
  let regs : List (XReg × Word) := [(1, r.key.zeroExtend 64), (2, BitVec.ofNat 64 r.src), (3, entryX3 r),
    (4, BitVec.ofNat 64 (lane r.payload 0)), (5, BitVec.ofNat 64 (lane r.payload 1)), (6, BitVec.ofNat 64 (lane r.payload 2)),
    (7, BitVec.ofNat 64 (lane r.payload 3)), (8, slicePtr pkg 0 0xC0000000), (9, BitVec.ofNat 64 o.lcore)]
  let t0 := { t.freed with run := .running, owner := BitVec.ofNat 14 l.owner,
                           pc := nextPtr (BitVec.ofNat 64 (l.f 64 64)) ((field (l.handler r.hid) 0 32 : Nat) : Int),
                           act := some { id := id, launch := r.launch, trig := r, epri := ep, ec := false,
                                         rst := bitAt (l.handler r.hid) 37, outbox := [], journal := [], jmarks := [], mask0 := none } }
  regs.foldl (fun t p => t.setX p.1 p.2) t0

/-- RECORD_SELECTION: a free string takes the best record of the launch it serves and starts its activation (R163, R165); a
spilled record whose entry fails its check is lost instead (R187). -/
def execRecordSelection (core str : Nat) (s : State) : Out1 :=
  let co := s.core core
  match s.launchAt core str with
  | none => .next s
  | some (i, o) => match s.launch i with
    | none => .next s
    | some l =>
      if !s.delivers core l || (co.str str).run != .free then .next s
      else match pickRec l o co.cycle (co.records.filter (fun r => r.launch == i)) with
        | none => .next s
        | some r => match s.recNow core r with
          | none => .next (s.spillLost core r)
          | some r1 =>
            let s1 := s.dropRec core r
            .next ({ s1 with nextId := s1.nextId + 1 }.setStr core str
              (entryStr (s1.str core str) s1.pkg s1.nextId l o { r1 with spill := none } (epri l r1 co.cycle)))

/-- RECORD_AGEING: time passes on the core until record `ix`, runnable and unselected, has waited another 2^16 cycles
(R165). -/
def execRecordAgeing (core ix : Nat) (s : State) : Out1 :=
  match (s.core core).records[ix]? with
  | none => .next s
  | some r => if r.runnable then .next (s.elapse core false none (2 ^ 16 - ((s.core core).cycle - r.since).toNat % 2 ^ 16)) else .next s

end Sys2Proof.Machine
end

