-- ==== Sys2Proof/Machine/Sha.lean ====
section
/-! DEFINITION. SHA-384 by FIPS 180-4 (R364, R438). -/

namespace Sys2Proof.Machine

/-- Constants of rounds 0 to 39. -/
def shaKLo : List Word :=
  [0x428A2F98D728AE22, 0x7137449123EF65CD, 0xB5C0FBCFEC4D3B2F, 0xE9B5DBA58189DBBC,
   0x3956C25BF348B538, 0x59F111F1B605D019, 0x923F82A4AF194F9B, 0xAB1C5ED5DA6D8118,
   0xD807AA98A3030242, 0x12835B0145706FBE, 0x243185BE4EE4B28C, 0x550C7DC3D5FFB4E2,
   0x72BE5D74F27B896F, 0x80DEB1FE3B1696B1, 0x9BDC06A725C71235, 0xC19BF174CF692694,
   0xE49B69C19EF14AD2, 0xEFBE4786384F25E3, 0x0FC19DC68B8CD5B5, 0x240CA1CC77AC9C65,
   0x2DE92C6F592B0275, 0x4A7484AA6EA6E483, 0x5CB0A9DCBD41FBD4, 0x76F988DA831153B5,
   0x983E5152EE66DFAB, 0xA831C66D2DB43210, 0xB00327C898FB213F, 0xBF597FC7BEEF0EE4,
   0xC6E00BF33DA88FC2, 0xD5A79147930AA725, 0x06CA6351E003826F, 0x142929670A0E6E70,
   0x27B70A8546D22FFC, 0x2E1B21385C26C926, 0x4D2C6DFC5AC42AED, 0x53380D139D95B3DF,
   0x650A73548BAF63DE, 0x766A0ABB3C77B2A8, 0x81C2C92E47EDAEE6, 0x92722C851482353B]
/-- Constants of rounds 40 to 79. -/
def shaKHi : List Word :=
  [0xA2BFE8A14CF10364, 0xA81A664BBC423001, 0xC24B8B70D0F89791, 0xC76C51A30654BE30,
   0xD192E819D6EF5218, 0xD69906245565A910, 0xF40E35855771202A, 0x106AA07032BBD1B8,
   0x19A4C116B8D2D0C8, 0x1E376C085141AB53, 0x2748774CDF8EEB99, 0x34B0BCB5E19B48A8,
   0x391C0CB3C5C95A63, 0x4ED8AA4AE3418ACB, 0x5B9CCA4F7763E373, 0x682E6FF3D6B2B8A3,
   0x748F82EE5DEFB2FC, 0x78A5636F43172F60, 0x84C87814A1F0AB72, 0x8CC702081A6439EC,
   0x90BEFFFA23631E28, 0xA4506CEBDE82BDE9, 0xBEF9A3F7B2C67915, 0xC67178F2E372532B,
   0xCA273ECEEA26619C, 0xD186B8C721C0C207, 0xEADA7DD6CDE0EB1E, 0xF57D4F7FEE6ED178,
   0x06F067AA72176FBA, 0x0A637DC5A2C898A6, 0x113F9804BEF90DAE, 0x1B710B35131C471B,
   0x28DB77F523047D84, 0x32CAAB7B40C72493, 0x3C9EBE0A15C9BEBC, 0x431D67C49C100D4C,
   0x4CC5D4BECB3E42B6, 0x597F299CFC657E2A, 0x5FCB6FAB3AD6FAEC, 0x6C44198C4A475817]
/-- The initial value of SHA-384. -/
def shaInit : List Word :=
  [0xCBBB9D5DC1059ED8, 0x629A292A367CD507, 0x9159015A3070DD17, 0x152FECD8F70E5939,
   0x67332667FFC00B31, 0x8EB44A8768581511, 0xDB0C2E0D64F98FA7, 0x47B5481DBEFA4FA4]

/-- The functions of FIPS 180-4 over 64-bit words. -/
def shaS (a b c : Nat) (x : Word) : Word := x.rotateRight a ^^^ x.rotateRight b ^^^ x.rotateRight c
/-- See `shaS`. -/
def shaG (a b c : Nat) (x : Word) : Word := x.rotateRight a ^^^ x.rotateRight b ^^^ (x >>> c)

/-- The next word of the message schedule from the last sixteen, oldest first. -/
def shaNext (w : List Word) : Word :=
  shaG 19 61 6 (w.getD 14 0) + w.getD 9 0 + shaG 1 8 7 (w.getD 1 0) + w.getD 0 0

/-- One round on the eight working variables. -/
def shaRound (v : List Word) (k w : Word) : List Word :=
  let e := v.getD 4 0
  let a := v.getD 0 0
  let t1 := v.getD 7 0 + shaS 14 18 41 e + ((e &&& v.getD 5 0) ^^^ (~~~e &&& v.getD 6 0)) + k + w
  let t2 := shaS 28 34 39 a + ((a &&& v.getD 1 0) ^^^ (a &&& v.getD 2 0) ^^^ (v.getD 1 0 &&& v.getD 2 0))
  [t1 + t2, a, v.getD 1 0, v.getD 2 0, v.getD 3 0 + t1, e, v.getD 5 0, v.getD 6 0]

/-- The rounds, over the constants left and the last sixteen words of the schedule. -/
def shaGo : List Word → List Word → List Word → List Word
  | [], _, v => v
  | k :: ks, w, v => shaGo ks (w.drop 1 ++ [shaNext w]) (shaRound v k (w.getD 0 0))

/-- Splits a list into `n` groups of `m`. -/
def groups {α : Type} (m : Nat) : Nat → List α → List (List α)
  | 0, _ => []
  | n + 1, l => l.take m :: groups m n (l.drop m)

/-- Absorbs one block of 128 bytes. -/
def shaBlock (h : List Word) (b : List Byte) : List Word :=
  let w := (groups 8 16 b).map (fun g => BitVec.ofNat 64 (beNat g))
  (h.zip (shaGo (shaKLo ++ shaKHi) w h)).map (fun p => p.1 + p.2)

/-- A fresh context (R364). -/
def ShaCtx.init : ShaCtx := { h := shaInit, buf := [], len := 0 }

/-- Absorbs bytes. -/
def ShaCtx.update (c : ShaCtx) (d : List Byte) : ShaCtx :=
  let all := c.buf ++ d
  let n := all.length / 128
  { h := (groups 128 n all).foldl shaBlock c.h, buf := all.drop (128 * n), len := c.len + d.length }

/-- The digest as its standard byte string. -/
def ShaCtx.final (c : ShaCtx) : List Byte :=
  let pad := (0x80 : Byte) :: List.replicate ((239 - c.buf.length) % 128) 0
  let c1 := c.update (pad ++ (leBytes 16 (8 * c.len)).reverse)
  (c1.h.take 6).flatMap (fun w => (leBytes 8 w.toNat).reverse)

/-- SHA-384 of a byte string. -/
def sha384 (d : List Byte) : List Byte := (ShaCtx.init.update d).final

/-- A byte string of 48 bytes as a number whose low byte is the first. -/
def digestNum (d : List Byte) : BitVec 384 := BitVec.ofNat 384 (leNat d)

end Sys2Proof.Machine
end

