-- ==== Sys2Proof/Machine/Meter.lean ====
section
/-! DEFINITION. Snapshots of the meters and the watermark (R436 to R439). -/

namespace Sys2Proof.Machine

/-- A snapshot record as bytes (R438). -/
def snapBytes (q : Partition) (p cause fn status : Nat) (serial : Word) : List Byte :=
  leBytes 48 q.whead.toNat ++ leBytes 8 q.wseq.toNat ++ leBytes 1 cause ++ leBytes 1 p ++ leBytes 2 fn ++ leBytes 1 status
    ++ leBytes 3 0 ++ leBytes 8 serial.toNat ++ leBytes 56 0 ++ q.meters.toList.flatMap (fun m => leBytes 8 m.toNat)

/-- Appends a snapshot to a partition's watermark and writes it to the log, a ring of 2^k records at WLBASE in the host's memory (R437 to
R439). -/
def State.snapshot (s : State) (p cause fn status : Nat) (serial : Word) : State :=
  let q := s.part p
  let b := snapBytes q p cause fn status serial
  let s1 := s.modPart p (fun q => { q with whead := digestNum (sha384 b), wseq := q.wseq + 1 })
  let k := field q.wlcfg.toNat 0 4
  if bitAt q.wlcfg.toNat 5 then s1.emit (.watermark p (field q.wlpasid.toNat 0 20) (q.wlbase.toNat + q.wseq.toNat % 2 ^ k * 256) (BitVec.ofNat 2048 (leNat b))) else s1

end Sys2Proof.Machine
end

