-- ==== Sys2Proof/Machine/LaunchUnit.lean ====
section
/-! DEFINITION. The launch unit (R154 to R164, R169, R170, R371 to R378): deciding launches, placement, admission, the quantum
walk, START, the end of a launch with the departure of its state, its completion record, and replay. -/

namespace Sys2Proof.Machine

/-! ## The quantum walk (R377, R378) -/

/-- Entry `i` of a partition's quantum table. -/
def Partition.qent (p : Partition) (i : Nat) : Nat := (p.qt.toList.getD i 0).toNat

/-- The VF has a launch that has been admitted and whose completion record is not written. -/
def State.hasAdmitted (s : State) (f : Nat) : Bool :=
  s.launches.any (fun l => l.2.vf == f && (match l.2.phase with
    | .queued => false
    | _ => !l.2.place.isEmpty))

/-- Entry `i` qualifies (R378). -/
def State.qualifies (s : State) (p i : Nat) : Bool :=
  let e := (s.part p).qent i
  bitAt e 48 && (s.vf (field e 32 9)).part == some p && s.hasAdmitted (field e 32 9)

/-- The first entry that qualifies, walking from `qpos` (R378). -/
def State.walkTable (s : State) (p : Nat) : Option Nat :=
  ((upTo 32).map (fun j => ((s.part p).qpos + j) % 32)).find? (s.qualifies p)

/-- Cores of a partition, in ascending number. -/
def Partition.cores (p : Partition) : List Nat := p.clusters.flatMap (fun c => (upTo 16).map (fun k => c * 16 + k))

/-- Those that have not been retired (R443). -/
def State.liveCores (s : State) (p : Nat) : List Nat := (s.part p).cores.filter (fun c => (s.core c).wear.state != .retired)

/-- Sends SWITCH or GO to every core of a partition (R380, R381, R443). -/
def State.tellCores (s : State) (p : Nat) (w : Core → CoreSw) : State :=
  (s.liveCores p).foldl (fun s c => s.modCore c (fun co => { co with sw := w co })) s

/-- A step of the walk (R378): the entry found is scheduled, the VF that stands stays, or none is scheduled. -/
def State.schedStep (s : State) (p : Nat) : State :=
  let q := s.part p
  match s.walkTable p with
  | none => s.modPart p (fun q => { q with rot := if q.sched.isSome then .steady false else .none })
  | some i =>
    let f := field (q.qent i) 32 9
    let s1 := s.modPart p (fun q => { q with qpos := (i + 1) % 32 })
    match q.sched with
    | none => (s1.modPart p (fun q => { q with sched := some f, rot := .restoring f })).tellCores p (fun _ => .go f)
    | some o =>
      if o = f then s1.modPart p (fun q => { q with rot := .steady true })
      else (s1.modPart p (fun q => { q with rot := .saving o f })).tellCores p (fun co => .told o f co.cycle)

/-- When every core has reported its save, GO is sent (R381). -/
def State.goIfSaved (s : State) (p : Nat) : State :=
  match (s.part p).rot with
  | .saving _ f =>
    if (s.liveCores p).all (fun c => (s.core c).sw == .saved) then
      (s.modPart p (fun q => { q with rot := .restoring f })).tellCores p (fun _ => .go f)
    else s
  | _ => s

/-- The step made again at an admission or a write to the table, while no quantum runs (R378). -/
def State.schedAgain (s : State) (p : Nat) : State :=
  if (s.part p).pstate != .running then s
  else match (s.part p).rot with
    | .none => s.schedStep p
    | .steady false => s.schedStep p
    | _ => s

/-! ## Deciding a launch: fields, rights and tables (R155) -/

/-- Every field of a record is within its range (R154, step 1 of R155). -/
def fieldsOk (l : Launch) : Bool :=
  let f := l.f
  f 0 8 == 1 && f 736 288 == 0 && f 723 13 == 0 && f 672 32 == 0 && f 338 6 == 0 && f 30 2 == 0 && f 10 6 == 0
    && (l.isShadow == (f 640 32 != 0)) && (upTo 8).all (fun i => l.rsz i % 64 == 0)
    && decide (f 368 16 ≤ 127) && f 352 16 != 0 && decide (1 ≤ f 344 8 ∧ f 344 8 ≤ 128)
    && decide (1 ≤ f 320 8 ∧ f 320 8 ≤ 64) && f 256 64 % 32 == 0 && f 192 64 % 512 == 0 && decide (l.plen ≤ 65536)
    && decide (4 ≤ f 128 32 ∧ f 128 32 ≤ 2 ^ 24) && f 128 32 % 4 == 0 && f 64 64 % 4096 == 0

/-- The code of the first byte of a range that an owner may not reach, `lo` being its offset; `fuel` bounds the entries met
(R51). -/
def rangeCode (t : List RightsEntry) (p : Word) (k : Acc) : Nat → Nat → Nat → Option Nat
  | 0, _, _ => none
  | fuel + 1, lo, n =>
    if n = 0 then none
    else match t.find? (fun e => e.covers (ptrPkg p) lo) with
      | none => some k.code
      | some e =>
        if e.q || e.colour != ptrColour p then some 0x15
        else if e.rights &&& k.bit = 0 then some k.code
        else rangeCode t p k fuel (e.base + e.len) (n - (e.base + e.len - lo))

/-- A range in slice space has a byte in the parameter window (R26, R157). -/
def meetsParams (p : Word) (n : Nat) : Bool := field (ptrOff p) 32 12 == 0 && overlaps 0xC0000000 0x10000 (field (ptrOff p) 0 32) n

/-- The rights of an owner over [ptr, ptr + n), in slice space those that every owner has (R51, R155). -/
def ownerCode (s : State) (q : Partition) (o : Nat) (p : Word) (n : Nat) (k : Acc) : Option Nat :=
  if ptrSpace p = 3 then (if ptrColour p ≠ 0 then some 0x15 else if k ≠ .r ∧ meetsParams p n then some k.code else none)
  else
    let t := table s.seen q o
    rangeCode t p k (t.length + 1) (ptrOff p) n

/-- The launch unit of partition `p` as it reads for function `f`; see `Miss`. -/
def unitWho (p f : Nat) : Who := { core := 4100 + p, id := 8 + f, owner := 0, mon := false, launch := none, fn := f }

/-- The home of a sector that the launch unit reads (R155): step 5 of R39, by which slice space has no translation either (log 76). -/
def unitPlace (q : Partition) (w : Who) (p : Word) : M Place := do
  let s ← get
  if 2 ^ 45 ≤ ptrOff p then raise 0x10 1 p
  else if ptrPkg p ≠ s.pkg then (if q.member (ptrPkg p) then return .remote (ptrPkg p) (ptrOff p) else raise 0x10 2 p)
  else do
    let pn := w.core - 4100
    tableLost w (s.walkOf pn (ptrOff p)) p
    match walk s.seen q (ptrOff p) with
    | .error c => throw (.met { code := 0x10, detail := c, val := p } ((s.walkOf pn (ptrOff p)).map .phys) false none)
    | .ok e =>
      let s1 := s.walked w.core pn (ptrOff p)
      set (if declaredRight e.home e.hcl e.target e.size || e.host then s1 else s1.modPart pn (fun q => q.meter 14 1))
      let a := e.target + (ptrOff p - e.va)
      if e.host then hostOf w .r p a else return .phys a

/-- One sector that it reads: its place, then its bytes, a failure being an answer, so that what was done before it stands (R73, R76). -/
def unitSector (q : Partition) (w : Who) (p : Word) (n : Nat) : M (Except FaultInfo (List Byte)) := do
  match ← attempt w (unitPlace q w p) with
  | .error f => return .error f
  | .ok pl => attempt w (takeSector w pl p n)

/-- Bytes that it reads from a pointer on, sector by sector, by steps 5 to 7 of R39, or the first failure. -/
def unitGo (q : Partition) (w : Who) (p : Word) (n : Nat) : Nat → M (Except FaultInfo (List Byte))
  | 0 => return .ok []
  | k + 1 => do
    match ← unitGo q w p n k with
    | .error f => return .error f
    | .ok b =>
      let x := nextPtr p ((32 * k : Nat) : Int)
      return (← unitSector q w x (Nat.min 32 (n - 32 * k))).map (fun y => b ++ y)

/-- The bytes, or the code of the failure. -/
def unitRead (q : Partition) (w : Who) (p : Word) (n : Nat) : M (Except FaultInfo (List Byte)) := unitGo q w p n ((n + 31) / 32)

/-- The handler table is well formed (R160). -/
def handlersOk (l : Launch) : Bool :=
  (upTo 64).all (fun i =>
    let h := l.handler i
    !bitAt h 32 || (field h 48 16 == 0 && field h 38 2 == 0 && !bitAt h 33 && field h 0 32 % 4 == 0
      && decide (field h 0 32 < l.f 128 32))) && l.handlerV 0

/-! ## Placement (R371, R375) -/

/-- Launches of a VF resident on a core. -/
def State.residents (s : State) (c f : Nat) : List OnCore :=
  ((s.core c).res.filter (fun r => (s.launch r.1).map (·.vf) == some f)).map (·.2)

/-- Bytes of the window of each resident are needed to find a gap: base and size of the windows of a VF on a core. -/
def State.windows (s : State) (c f : Nat) : List (Nat × Nat) :=
  ((s.core c).res.filterMap (fun r => match s.launch r.1 with
    | some l => if l.vf = f then some (r.2.wbase, l.winBytes) else none
    | none => none))

/-- The lowest window base of `n` bytes that is free, in units of 4 KiB (R371). -/
def freeWindow (ws : List (Nat × Nat)) (n : Nat) : Option Nat :=
  ((upTo 128).map (· * 4096)).find? (fun b => decide (b + n ≤ 524288) && !ws.any (fun w => overlaps w.1 w.2 b n))

/-- The strings that a launch of `n` strings takes: the lowest-numbered free ones (R371). -/
def freeStrs (rs : List OnCore) (n : Nat) : List Nat := (strNums.filter (fun k => !rs.any (fun r => r.strs.contains k))).take n

/-- A core has room for a launch, its VF's residents counted or not (R373, R375). -/
def coreFits (s : State) (l : Launch) (count : Bool) (c : Nat) : Bool :=
  let w := (s.core c).wear.state
  (w == .service || w == .derated) && (!count || (decide ((freeStrs (s.residents c l.vf) l.nstr).length = l.nstr)
    && (freeWindow (s.windows c l.vf) l.winBytes).isSome))

/-- The cores of a cluster. -/
def clusterCores (cl : Nat) : List Nat := (upTo 16).map (fun k => cl * 16 + k)

/-- Lifetime wear of a cluster, in units of 2^-16 (R375, R446). -/
def clusterWear (s : State) (cl : Nat) : Nat :=
  (clusterCores cl).foldl (fun a c => a + Nat.min (2 ^ 64 - 1) ((s.core c).wear.wear / 2 ^ 24)) 0

/-- Inserts a cluster by wear, ties in order of number. -/
def insWear (s : State) (c : Nat) : List Nat → List Nat
  | [] => [c]
  | h :: t => if clusterWear s c < clusterWear s h then c :: h :: t else h :: insWear s c t

/-- Inserts a number in order. -/
def insNat (c : Nat) : List Nat → List Nat
  | [] => [c]
  | h :: t => if c < h then c :: h :: t else h :: insNat c t

/-- The `cq` least worn of the eligible clusters of a die, in ascending number (R375). -/
def dieChoice (s : State) (elig : List Nat) (cq d : Nat) : Option (List Nat) :=
  let r := ((elig.filter (fun c => c / 64 == d)).foldl (fun acc c => insWear s c acc) []).take cq
  if r.length = cq then some (r.foldl (fun acc c => insNat c acc) []) else none

/-- Total wear of clusters. -/
def totalWear (s : State) (l : List Nat) : Nat := l.foldl (fun a c => a + clusterWear s c) 0

/-- Places one quire: the die whose chosen clusters have the least wear (R375). -/
def placeQuire (s : State) (elig : List Nat) (cq : Nat) : Option (List Nat) :=
  ((upTo 4).filterMap (dieChoice s elig cq)).foldl (fun b l => match b with
    | none => some l
    | some x => if totalWear s l < totalWear s x then some l else some x) none

/-- Places `n` quires. -/
def placeGo (s : State) (cq : Nat) : Nat → List Nat → Option (List Nat)
  | 0, _ => some []
  | n + 1, elig => match placeQuire s elig cq with
    | none => none
    | some q => (placeGo s cq n (elig.filter (fun c => !q.contains c))).map (fun r => q ++ r)

/-- The clusters of a launch in the order of its quires (R158, R375). -/
def placeLaunch (s : State) (l : Launch) (count : Bool) : Option (List Nat) :=
  placeGo s (l.f 320 8) (l.f 328 8 + 1)
    (((s.part l.part).clusters.foldl (fun acc c => insNat c acc) []).filter (fun cl => (clusterCores cl).all (coreFits s l count)))

/-! ## Resources (R373, R374) -/

/-- 2 MiB units of the shadow pool. -/
def Partition.poolUnits (p : Partition) : Nat := 32 * p.pool.length

/-- Launches of a partition that hold a shadow number. -/
def State.shadows (s : State) (p : Nat) : List Launch :=
  (s.launches.filter (fun l => l.2.part == p && l.2.shadow != 0)).map (·.2)

/-- Blocks of the parameter area that a launch takes (R157). -/
def Launch.pneed (l : Launch) : Nat := (l.plen + 4095) / 4096

/-- The capacity test: the resource code of a shortfall (R373, R374). -/
def capacityCode (s : State) (l : Launch) : Option Nat :=
  if l.winBytes < l.spillOff + l.f 368 16 * 4096 ∨ l.winBytes < l.regionOff 8 then some 4
  else if (placeLaunch s l false).isNone then some 5
  else if (s.part l.part).poolUnits < l.f 640 32 then some 6
  else if (s.vf l.vf).pareaLen < l.plen then some 9
  else none

/-- The lowest shadow number that is free. -/
def freeShadow (s : State) (l : Launch) : Nat :=
  if l.isShadow then (((upTo 255).map (· + 1)).find? (fun k => !(s.shadows l.part).any (fun x => x.shadow == k))).getD 0 else 0

/-- The test for now, placement apart (R157, R170, R373). -/
def roomNow (s : State) (l : Launch) : Bool :=
  let sh := s.shadows l.part
  decide ((sh.foldl (fun a x => a + x.f 640 32) 0) + l.f 640 32 ≤ (s.part l.part).poolUnits)
    && (!l.isShadow || freeShadow s l != 0) && decide (l.pneed ≤ (s.vf l.vf).pfree.length)

/-! ## Shadow versions (R170) -/

/-- The copy block of a key is free again. -/
def State.dropCopy (s : State) (key b : Nat) : State := { s with copyAt := mdel s.copyAt (copyKey key b) }

/-- Loads that are sure and still read the block that accesses of no shadow launch reach for `b` perform before it is another one (log 13). -/
def State.beforeSwitch (s : State) (b : Nat) : State := s.sureFirst (fun i => i / 128 == s.version 0 (b * 4096) / 4096)

/-- Commit of one block: every access reaches the copy from now on; a copy of it that an earlier commit has not yet copied back is
superseded. -/
def State.switchBlock (s : State) (key b : Nat) : State :=
  let s0 := s.beforeSwitch b
  let old := s0.switched.filter (fun r => r.2 == b)
  let s1 := old.foldl (fun s r => s.dropCopy r.1 b) s0
  { s1 with redirects := s1.redirects.filter (fun r => r != (key, b)), switched := (key, b) :: s1.switched.filter (fun r => r.2 != b) }

/-- The block is copied back into its original frame with its marks, and the switch is removed. -/
def State.copyBack (s : State) (key b : Nat) : State :=
  let s1 := (s.beforeSwitch b).copyBlock (s.copyPa key (b * 4096)) (b * 4096)
  { s1.dropCopy key b with switched := s1.switched.filter (fun r => r != (key, b)) }

/-- Every block that a commit has switched is copied back: what follows reaches the originals (R170). -/
def State.backAll (s : State) : State := s.switched.foldl (fun s r => s.copyBack r.1 r.2) s

/-- The blocks of one key that a commit has switched are copied back. -/
def State.keyBack (s : State) (key : Nat) : State :=
  (s.switched.filter (fun r => r.1 == key)).foldl (fun s r => s.copyBack r.1 r.2) s

/-- Discard: every redirect of a key goes. -/
def State.discardShadow (s : State) (key : Nat) : State :=
  let mine := (s.redirects.filter (fun r => r.1 == key)).map (·.2)
  let s1 := mine.foldl (fun s b => s.dropCopy key b) s
  { s1 with redirects := s1.redirects.filter (fun r => r.1 != key) }

/-! ## Admission -/

/-- What a launch holds on one core (R371, R383). -/
def takeCore (s : State) (l : Launch) (c lc : Nat) : OnCore :=
  { lcore := lc, wbase := (freeWindow (s.windows c l.vf) l.winBytes).getD 0, strs := freeStrs (s.residents c l.vf) l.nstr,
    mask := 0, mxcorr := 0, opcnt := 0, wearu := 0 }

/-- Copies a parameter block into blocks of the parameter area of a partition (R157); the launch unit's packets count (R76). -/
def State.putParams (s0 : State) (p : Nat) (blocks : List Nat) (b : List Byte) : State :=
  let s := blocks.foldl (fun s a => s.trafficTo (launchUnit p) a 4096 p) s0.backAll
  (upTo blocks.length).foldl (fun s j =>
    let d := (b.drop (4096 * j)).take 4096
    { s.putBytes (blocks.getD j 0) d with bad := clearMarks s.bad (blocks.getD j 0) (d.length / 32 * 32) }) s

/-- Places a launch on its cores, copies its parameter block and admits it (R155 step 5, R157). -/
def State.letIn (s : State) (i : Nat) (l : Launch) (cls : List Nat) (b : List Byte) : State :=
  let cores := cls.flatMap clusterCores
  let blocks := (s.vf l.vf).pfree.take l.pneed
  let s1 := (s.putParams l.part blocks b).modVf l.vf (fun v => { v with pfree := v.pfree.drop l.pneed })
  let s2 := (upTo cores.length).foldl (fun s lc =>
    let c := cores.getD lc 0
    s.modCore c (fun co => { co with res := mset co.res i (takeCore s l c lc), vfs := mmod VfCore.init co.vfs l.vf id })) s1
  (s2.modLaunch i (fun l => { l with phase := .admitted, place := cores, pblocks := blocks, shadow := freeShadow s l })).schedAgain
    l.part

/-- What deciding a launch gives. -/
inductive Verdict where
  | reject (status value : Nat)
  | wait
  | letIn (handlers : BitVec 4096) (clusters : List Nat) (params : List Byte)
deriving DecidableEq, Repr

/-- Decides a launch for which a place is sought: its parameter block is read once it may be admitted (R155 step 5, R373). -/
def decidePlace (l : Launch) : M Verdict := do
  let s ← get
  match capacityCode s l, placeLaunch s l true with
  | some code, _ => return .reject 1 code
  | none, none => return .wait
  | none, some cls =>
    if !roomNow s l then return .wait
    else match ← unitRead (s.part l.part) (unitWho l.part l.vf) (BitVec.ofNat 64 (l.f 256 64)) l.plen with
      | .error f => return .reject 3 f.code
      | .ok b => return .letIn l.handlers cls b

/-- The launch unit searches the table of an owner for the pointers of a record that lie in translated space (R53, R76, R155). -/
def State.unitSearches (s : State) (p o : Nat) (l : List Word) : State :=
  (l.filter (fun x => ptrSpace x != 3)).foldl (fun s x => s.searched (4100 + p) p o (ptrPkg x) (ptrOff x)) s

/-- Decides the launch at the head of its VF's queue (R155, R373, R374). -/
def decideLaunch (l : Launch) : M Verdict := do
  let s ← get
  let q := s.part l.part
  let ptr (lo : Nat) : Word := BitVec.ofNat 64 (l.f lo 64)
  if !fieldsOk l then return .reject 1 1
  else if (match l.issuer with | some o => o.toNat != l.owner | none => false) then return .reject 3 2
  else
    modify (fun s => s.unitSearches l.part l.owner [ptr 64, ptr 192, ptr 256])
    let codes := [ownerCode s q l.owner (ptr 64) (l.f 128 32) .x, ownerCode s q l.owner (ptr 192) 512 .r,
      ownerCode s q l.owner (ptr 256) l.plen .r]
    match codes.findSome? id with
    | some code => return .reject 3 code
    | none => match ← unitRead q (unitWho l.part l.vf) (ptr 192) 512 with
      | .error f => return .reject 3 f.code
      | .ok b =>
        let l1 := { l with handlers := BitVec.ofNat 4096 (leNat b) }
        if !handlersOk l1 then return .reject 1 2 else decidePlace l1

/-- The head of a VF's queue: the first launch of the VF in order of arrival that has not been decided (R373). -/
def State.headOf (s : State) (f : Nat) : Option (Nat × Launch) := s.launches.find? (fun l => l.2.vf == f && l.2.phase == .queued)

/-- Decides launches of a VF's queue until one waits; nothing is admitted unless the partition is running and no STOP is
pending (R373, R404). -/
def State.decideGo (s : State) (f : Nat) : Nat → State
  | 0 => s
  | fuel + 1 => match s.headOf f with
    | none => s
    | some (i, l) =>
      if (s.part l.part).pstate != .running || (s.part l.part).stopping then s
      else match (decideLaunch l).run s with
        | .error (.stall m) => (s.modLaunch i (fun l => { l with reading := true })).queueMiss (4100 + l.part) m
        | .error _ => s
        | .ok (v, s0) =>
          let s1 := (s0.modLaunch i (fun l => { l with reading := false })).modCore (4100 + l.part) (fun co => co.dropHeld (8 + f))
          match v with
          | .wait => s1
          | .reject st v => (s1.modLaunch i (fun l => { l with phase := .ending st v false })).decideGo f fuel
          | .letIn h cls b =>
            ((s1.modLaunch i (fun l => { l with handlers := h })).letIn i { l with handlers := h } cls b).decideGo f fuel

/-- See `State.decideGo`. -/
def State.decideQueue (s : State) (f : Nat) : State := s.decideGo f (s.launches.length + 1)

/-- A launch enters its VF's queue (R373, R407). -/
def State.enterQueue (s : State) (l : Launch) : State :=
  ({ s with launches := mset s.launches s.nextId l, nextId := s.nextId + 1 }).decideQueue l.vf

/-- LAUNCH_RECORD_READ: the launch unit reads the next record of a VF's launch ring; `none` is a read that the host does not
complete (R150, R155, R405, R407). That the completion of such a launch has tag 0 and does not raise vector 1, its record being unknown, is the
model's choice (log 86). -/
def execLaunchRecordRead (vf : Nat) (record : Option (BitVec 1024)) (s : State) : Out1 :=
  let v := s.vf vf
  match v.part with
  | none => .next s
  | some p =>
    let q := s.part p
    if q.pstate != .running || q.stopping || v.le || !bitAt v.lrcfg.toNat 5 || v.lh == v.lp then .next s
    else
      let serial := BitVec.ofNat 64 (2 ^ 63 + vf * 2 ^ 48 + v.lcount.toNat)
      let s1 := s.modVf vf (fun v => { v with lh := v.lh + 1, lcount := v.lcount + 1 })
      let l := { Launch.init with serial := serial, vf := vf, part := p }
      match record with
      | some r => .next (s1.enterQueue { l with record := r })
      | none => .next ((s1.modVf vf (fun v => { v with lcode := 4 })).enterQueue { l with phase := .ending 2 0 false })

/-! ## START (R161) -/

/-- A message that the launch unit sends (R161). -/
def unitFlight (i : Nat) (l : Launch) (lc hid : Nat) (pay : BitVec 256) : Flight :=
  { msg := { launch := i, dest := .core lc, hid := hid, key := 0, op := 0, cnt := false, src := 0xFFFF, payload := pay, arm := none,
             mon := false }, fromCore := l.phys lc, fromStr := 0, after := 0, slot := false, actId := 0, nacks := 0, nacked := false }

/-- The handler mask that the IM bits give (R160, R317). -/
def startMask (l : Launch) : BitVec 64 := BitVec.ofNat 64 (joinElems 1 ((upTo 64).map (fun i => b2n (bitAt (l.handler i) 36))))

/-- Sends START to every core of a launch, whose instruction caches hold nothing of an earlier launch (R156). -/
def State.sendStart (s : State) (i : Nat) (l : Launch) : State :=
  let s1 := l.place.foldl (fun s c => (s.modOn c i (fun o => { o with mask := startMask l })).modCore c
    (fun co => { co with icache := [] })) s
  (upTo l.place.length).foldl (fun s lc => s.post (launchUnit l.part) (unitFlight i l lc 0 0)) s1

/-- START_MESSAGE: every quire of an admitted launch is resident, its VF being scheduled on every core (R161, R373). -/
def execStartMessage (launch : Nat) (s : State) : Out1 :=
  match s.launch launch with
  | none => .next s
  | some l =>
    if l.phase != .admitted || !l.place.all (fun c => (s.core c).vf == some l.vf && (s.core c).sw == .none) then .next s
    else .next ((s.modLaunch launch (fun l => { l with phase := .running })).sendStart launch l)

/-! ## The end of a launch (R91, R95, R162) -/

/-- A string of a launch stops; its outbox is dropped. -/
def Str.halt (t : Str) : Str :=
  { t with run := if t.run = .free then .free else .stopped, wait := .none, inHand := [],
           act := t.act.map (fun a => { a with outbox := [] }) }

/-- Strings of a launch on a core, while its VF is scheduled there. -/
def State.stringsOf (s : State) (i : Nat) (l : Launch) (c : Nat) : List Nat :=
  match (s.core c).on i with
  | some o => if (s.core c).vf == some l.vf then o.strs else []
  | none => []

/-- Rings of the strings of a launch: group g goes with string g (R321, R371). -/
def ringsOf (strs : List Nat) : List Nat := strs.flatMap (fun k => (upTo 16).map (fun j => 16 * k + j))

/-- Every string of a launch stops, and its queued records are discarded (R162). What a core has saved of it is discarded when the core
restores its VF (R382). That the slots which it frees do not end the stop of another launch's NI, of which R188 names a selection as the end, is
the model's choice (log 81). -/
def State.haltLaunch (s : State) (i : Nat) (l : Launch) : State :=
  l.place.foldl (fun s c =>
    ((s.stringsOf i l c).foldl (fun s k => s.modStr c k Str.halt) s).modCore c (fun co =>
      { co with records := co.records.filter (fun r => r.launch != i), niStop := co.niStop.filter (· != i) })) s

/-- Nothing that the string issued is outstanding: stores, loads, pushes, reads of its own and of its streams outside the package, a read that
shows stores to have arrived, or a request of the rights unit. -/
def State.strIdle (s : State) (c k : Nat) : Bool :=
  let t := s.str c k
  t.sb.isEmpty && t.lds.isEmpty && t.st.toList.all (fun x => match x with | some x => x.pushes.isEmpty | none => true)
    && t.flush.isNone && !(s.core c).awaits (ofString k)
    && !s.parts.any (fun p => p.2.rights.queue.any (fun r => r.core == c && r.str == k))

/-- Every access that the strings and the commands of a launch issued has performed, and every read that the launch unit makes for it (R95 step 2,
R398). -/
def State.launchIdle (s : State) (i : Nat) (l : Launch) : Bool :=
  l.place.all (fun c => (s.stringsOf i l c).all (fun k => s.strIdle c k)
    && !(s.core c).awaits ((s.core c).askers (fun x => x.launch == some i)).contains)
  && !(l.reading && (s.core (4100 + l.part)).awaits (· == 8 + l.vf))

/-- Clears the state of a launch on a core whose VF is scheduled there (R91, R95 step 3). -/
def Core.clearLaunch (co : Core) (i : Nat) (o : OnCore) : Core :=
  let asks := co.askers (fun x => x.launch == some i)
  { co.dropFor (fun k => asks.contains k || o.strs.any (fun j => ofString j k)) with
    strs := o.strs.foldl (fun m k => mset m k (mget Str.init m k).freed) co.strs,
    records := co.records.filter (fun r => r.launch != i),
    rings := co.rings.filter (fun r => !(ringsOf o.strs).contains r.1),
    bce := co.bce.filter (fun c => c.launch != some i),
    mxu := if co.mxu.holder = some i then Mxu.init else co.mxu, niStop := co.niStop.filter (· != i) }

/-- Clears the state of a launch on a core whose VF is scheduled there, with its window (R91). -/
def State.clearOn (s : State) (i : Nat) (l : Launch) (c : Nat) : State :=
  let co := s.core c
  match co.on i with
  | none => s
  | some o =>
    if co.vf == some l.vf then (s.setCore c (co.clearLaunch i o)).clearRange (sliceFlat c o.wbase) l.winBytes else s

/-- A DRAINED core with no resident launch becomes RETIRED, in the core map too, and is cleared (R91, R443, R444, R447). -/
def State.retireCore (s : State) (c : Nat) : State :=
  let co := s.core c
  if co.wear.state == .drained && co.res.isEmpty then
    let s1 := s.setCore c { Core.init with part := co.part, cycle := co.cycle, mentry := co.mentry,
                                           wear := { co.wear with state := .retired } }
    { s1.clearRange (sliceFlat c 0) 524288 with dev := { s.dev with coreMap := mset s.dev.coreMap c .retired } }
  else s

/-- The launch leaves every core; a launch boundary follows there (R95 step 4, R444). -/
def State.departLaunch (s : State) (i : Nat) (l : Launch) : State :=
  let s1 := l.place.foldl (fun s c => (s.clearOn i l c).modCore c (fun co => { co with res := mdel co.res i })) s
  (l.place.foldl (fun s c => s.retireCore c) s1).goIfSaved l.part

/-- The running launches of a partition that have sent a status; a launch whose run an error has ended is replayed instead, and the statuses
of that run count for nothing (R169). -/
def State.endings (s : State) (p : Nat) : List (Nat × Launch) :=
  s.launches.filter (fun l => l.2.part == p && !l.2.ends.isEmpty && l.2.phase == .running && !l.2.replayDue)

/-- The `ix`th of them. -/
def State.ended (s : State) (p ix : Nat) : Option (Nat × Launch) := (s.endings p)[ix]?

/-- LAUNCH_END: the first status that reaches the launch unit decides; dispatch stops (R162, R382, R399). -/
def execLaunchEnd (part ix : Nat) (s : State) : Out1 :=
  if (s.part part).pstate == .fenced then .next s
  else match s.ended part ix with
    | none => .next s
    | some (i, l) => match l.ends with
      | [] => .next s
      | (st, v, keep) :: _ => .next ((s.modLaunch i (fun l => { l with phase := .ending st v keep, ends := [] })).haltLaunch i l)

/-! ## The command mailbox (R404) -/

/-- The op, the partition and the function of the command that the mailbox has started. -/
def Mailbox.op (m : Mailbox) : Nat := field m.run.toNat 0 8
/-- See `Mailbox.op`. -/
def Mailbox.p (m : Mailbox) : Nat := field m.run.toNat 8 4
/-- See `Mailbox.op`. -/
def Mailbox.f (m : Mailbox) : Nat := field m.run.toNat 16 9
/-- GO. -/
def Mailbox.go (m : Mailbox) : Bool := bitAt m.cmd.toNat 63

/-- The command completes with a status and a result; vector 0 of the physical function is raised. -/
def State.finishCmd (s : State) (st : Nat) (res : Word) : State :=
  let m := s.root.mbox
  let m1 := { m with begun := false, cmd := m.cmd &&& 0x7FFFFFFFFFFFFFFF, stat := BitVec.ofNat 64 (m.op * 256 + st), res := res }
  { s with root := { s.root with mbox := m1 } }.emit (.msix 0 0 false)

/-- Some launch of the partition has been admitted and has not completed. -/
def State.anyAdmitted (s : State) (p : Nat) : Bool := s.launches.any (fun l => l.2.part == p && !l.2.place.isEmpty)

/-- The launch ends with RESET. -/
def Launch.resetting (l : Launch) : Bool :=
  match l.phase with
  | .ending 5 _ _ => true
  | _ => false

/-- The partition has stopped: no VF is scheduled. -/
def State.stopPart (s : State) (p : Nat) : State :=
  let s1 := s.modPart p (fun q => { q with pstate := .stopped, stopping := false, sched := none, rot := .none })
  (s.part p).cores.foldl (fun s c => s.modCore c (fun co => { co with vf := none, sw := .none })) s1

/-- A STOP, or a RESETVF, that waited for launches completes once they have gone (R398, R404). -/
def State.settleCmd (s : State) : State :=
  let m := s.root.mbox
  if !(m.go && m.begun) then s
  else if m.op = 8 ∧ !s.anyAdmitted m.p then
    if (s.part m.p).pstate = .running then (s.stopPart m.p).finishCmd 0 0 else s.finishCmd 3 0
  else if m.op = 11 ∧ !s.launches.any (fun l => l.2.vf == m.f && l.2.resetting) then s.finishCmd 0 0
  else s

/-! ## Completion (R146, R162, R406, R437) -/

/-- The type 1 event entry of a launch with P = 0 (R406). -/
def completionBits (l : Launch) (status value : Nat) : BitVec 512 :=
  BitVec.ofNat 512 (l.serial.toNat * 2 ^ 192 + value % 2 ^ 32 * 2 ^ 160 + l.f 32 32 * 2 ^ 128 + status * 2 ^ 40 + 16)

/-- The message of a completion to the parent (R162); one to a launch that has ended is discarded and counted at the NI of the core that it
is for (R171). Where plcore names no core of the parent, `pcore` is none and no message is sent, which is the model's choice (log 29). -/
def State.tellParent (s : State) (l : Launch) (bits : BitVec 512) : State :=
  match l.pcore, l.parent.bind (fun i => (s.launch i).map (fun x => (i, x))) with
  | none, _ => s
  | some c, none => (s.packet (launchUnit l.part) l.part).countAt (coreUnit c)
  | some _, some (i, x) => s.post (launchUnit l.part) (unitFlight i x (l.f 704 12) (l.f 716 6) (BitVec.extractLsb' 0 256 bits))

/-- The key of the copies that a launch commits, 0 if there are none (R169, R170). -/
def Launch.commitKey (l : Launch) : Nat :=
  match l.phase with
  | .ending _ _ true => if l.shadow = 0 then 0 else shadowKey l.part l.shadow
  | _ => 0

/-- Writes the completion of a launch whose state has departed: the END snapshot, then the record and the message, then the
release of what it held, for which what has been switched of its copies is copied back at the latest now (R146, R157, R162, R170, R437; logs 29,
71). -/
def State.complete (s0 : State) (i : Nat) (l : Launch) (status value : Nat) : State :=
  let s := if l.reading then s0.modCore (4100 + l.part) (fun co => co.dropFor (· == 8 + l.vf)) else s0
  let s1 := if l.shadow = 0 then s else (s.keyBack (shadowKey l.part l.shadow)).discardShadow (shadowKey l.part l.shadow)
  let s2 := (s1.snapshot l.part 1 l.vf status l.serial).modVf l.vf (fun v => { v with pfree := v.pfree ++ l.pblocks })
  let bits := completionBits l status value
  let s3 := s2.putEntry l.vf { bits := bits, notify := bitAt l.record.toNat 9, msgOf := none }
  let s4 := if bitAt l.record.toNat 722 then s3.tellParent l bits else s3
  ({ s4 with launches := mdel s4.launches i } : State).settleCmd

/-- Every access of the launch has performed, and its partition is not fenced (R146, R396). -/
def State.mayComplete (s : State) (i : Nat) (l : Launch) : Bool := s.launchIdle i l && (s.part l.part).pstate != .fenced

/-- The queues of the other VFs of the partition are decided again when a launch has given back its shadow number and its budget, for which their
heads may wait; R373 names the launch's own VF alone (log 87). -/
def State.decideShadows (s : State) (l : Launch) : State :=
  if l.shadow = 0 then s
  else (s.vfs.filter (fun v => v.2.part == some l.part && v.1 != l.vf)).foldl (fun s v => s.decideQueue v.1) s

/-- COMPLETION_RECORD_WRITE (R146): waits until every access of the launch has performed and every block of a commit has been switched;
for a fenced partition the record comes with its reset (R396). -/
def execCompletionRecordWrite (launch : Nat) (s : State) : Out1 :=
  match s.launch launch with
  | none => .next s
  | some l => match l.phase with
    | .ending st v _ =>
      if !s.mayComplete launch l || (l.commitKey != 0 && s.redirects.any (fun r => r.1 == l.commitKey)) then .next s
      else .next ((((s.departLaunch launch l).complete launch l st v).decideQueue l.vf).decideShadows l)
    | _ => .next s

/-- One block of a launch that has ended by ENDL is switched, once every access of the launch has performed (R170). -/
def State.commitBlock (s : State) (key b : Nat) : State :=
  if s.redirects.contains (key, b) && s.launches.any (fun l => l.2.commitKey == key && s.mayComplete l.1 l.2) then s.switchBlock key b
  else s

/-! ## Replay (R169) -/

/-- REPLAY: the launch stops; when every access has performed its cores are cleared and its versions discarded, and it starts
again (R91, R169); it has not ended, and keeps the MXU that it holds (R372). -/
def execReplay (launch : Nat) (s : State) : Out1 :=
  match s.launch launch with
  | none => .next s
  | some l =>
    if l.phase != .running || !l.replayDue || !l.place.all (fun c => (s.core c).vf == some l.vf && (s.core c).sw == .none) then
      .next s
    else if l.place.any (fun c => (s.stringsOf launch l c).any (fun k => (s.str c k).run == .running)) then
      .next (s.haltLaunch launch l)
    else if !s.launchIdle launch l then .next s
    else
      let keep (s : State) (c : Nat) : State :=
        if (s.core c).mxu.holder == some launch then
          (s.clearOn launch l c).modCore c (fun co => { co with mxu := { co.mxu with holder := some launch } })
        else s.clearOn launch l c
      let s1 := l.place.foldl keep s
      let s2 := if l.shadow = 0 then s1 else s1.discardShadow (shadowKey l.part l.shadow)
      let s3 := { s2 with net := s2.net.filter (fun f => f.msg.launch != launch || f.msg.dest == MsgDest.host) }
      let s4 := s3.modLaunch launch (fun l => { l with replays := l.replays + 1, replayDue := false, barriers := [], ends := [] })
      .next (s4.sendStart launch l)

end Sys2Proof.Machine
end

