-- ==== Sys2Proof/Machine/Message.lean ====
section
/-! DEFINITION. SEND, SENDV, ARM, DONE, ENDL, MSK and LNCH (R313 to R319, R453). -/

namespace Sys2Proof.Machine

/-! ## SEND, SENDV and ARM -/

/-- The checks of R314; the answer is true when the message faults with SEND_BAD. -/
def sendBad (s : State) (isArm c : Bool) (opc : BitVec 4) (dest key : Word) : Bool :=
  let nl := match s.curStr.launch.bind s.launch with
    | some l => l.nlcore
    | none => 0
  let d := field dest.toNat 0 16
  decide (12 ≤ opc.toNat) || (opc == 0 && (isArm || c)) || field dest.toNat 16 48 != 0
    || (d != 0xFFFF && decide (nl ≤ d)) || field key.toNat 40 24 != 0
    || (d == 0xFFFF && (isArm || c || opc != 0)) || s.curStr.act.isNone

/-- Makes room for one message: false when an early commit for want of room had to be made first (R166, R167, R315). -/
def roomToSend : M Bool := do
  let s ← get
  let (c, k) := s.cur
  match s.curStr.act with
  | none => return true
  | some a =>
    if a.ec then
      if s.slotsUsed c < 32 then return true
      else
        await (strNums.any (fun j => match (s.str c j).act with | some b => !b.ec && !b.outbox.isEmpty | none => false))
        set (s.commitForSlot c k)
        return false
    else if decide (a.outbox.length < 32) && decide (s.slotsUsed c < 32) then return true
    else
      set (s.commitForSlot c k)
      return false

/-- Queues a message in the outbox, or sends it at once after early commit (R141, R315). -/
def State.queueMsg (s : State) (m : Msg) : State :=
  let t := s.curStr
  match t.act with
  | none => s
  | some a =>
    if a.ec then s.sendAll s.cur.1 s.cur.2 a.id t.seq [m]
    else s.setCurStr { t with act := some { a with outbox := a.outbox ++ [m] } }

/-- A message of the executing string (R315). -/
def buildMsg (s : State) (dest key : Word) (hid : BitVec 6) (op : BitVec 4) (c : Bool) (pay : BitVec 256)
    (arm : Option (BitVec 32)) : Msg :=
  let t := s.curStr
  { launch := t.launch.getD 0, dest := if field dest.toNat 0 16 = 0xFFFF then .host else .core (field dest.toNat 0 16),
    hid := hid.toNat, key := BitVec.extractLsb' 0 40 key, op := op.toNat, cnt := c, src := s.lcoreOf s.cur.1 t.launch,
    payload := pay, arm := arm, mon := t.lvl != 0 }

/-- The shared course of SEND, SENDV and ARM; `pay` gives the payload and may pop a stream, before an early commit for want of room is
made (R166). -/
def sendInstr (regs : List Nat) (isArm : Bool) (ra rb : XReg) (c : Bool) (op : BitVec 4) (hid : BitVec 6) (pay : M (BitVec 256))
    (arm : Str → Option (BitVec 32)) : M Adv := do
  settle (xRegs [ra, rb] ++ regs)
  let s ← get
  let t := s.curStr
  if sendBad s isArm c op (t.getX ra) (t.getX rb) then raise 0x34
  else
    let p ← pay
    let s1 ← get
    set s
    if ← roomToSend then
      set (s1.queueMsg (buildMsg s1 (t.getX ra) (t.getX rb) hid op c p (arm t)))
      return .step
    else return .again

/-- SEND (R315). -/
def execSend (rd ra rb : XReg) (c : Bool) (op : BitVec 4) (hid : BitVec 6) : State → Out1 :=
  runInstr (sendInstr (xRegs ((upTo 4).map (regUp rd))) false ra rb c op hid
    (do
      let t ← theStr
      return ofLanes ((upTo 4).map (fun i => (t.getX (regUp rd i)).toNat)))
    (fun _ => none))

/-- SENDV (R233, R315). That a source stream with no element left raises STREAM before the checks of R314 is the model's choice (log 77). -/
def execSendv (rd : VReg) (ra rb : XReg) (c : Bool) (op : BitVec 4) (hid : BitVec 6) : State → Out1 := runInstr do
  checkStreams [(rd, 1)] []
  sendInstr (vRegs (rd, 1)) false ra rb c op hid (do return BitVec.extractLsb' 0 256 ((← popSrc rd 1).getD 0 0)) (fun _ => none)

/-- ARM (R181, R315). -/
def execArm (rd ra rb : XReg) (op : BitVec 4) (hid : BitVec 6) : State → Out1 :=
  runInstr (sendInstr (xRegs [rd]) true ra rb false op hid (pure 0) (fun t => some (BitVec.extractLsb' 0 32 (t.getX rd))))

/-! ## DONE -/

/-- Every access of the string has performed: stores and pushes (R141, R316). -/
def Str.drained (t : Str) : Bool :=
  t.sb.isEmpty && t.st.toList.all (fun x => match x with | some x => x.pushes.isEmpty | none => true)

/-- DONE (R141, R316, R453). -/
def execDone : State → Out1 := runInstr do
  quiet
  let s ← get
  let (c, k) := s.cur
  let t := s.curStr
  await t.drained
  let s1 := s.retire
  let s2 := match t.act with
    | some a => s1.sendAll c k a.id 0 a.outbox
    | none => s1
  set ((s2.setStr c k t.freed).modCore c (fun co => t.st.toList.foldl (fun co x => match x with
    | some x => co.dropHeld (x.asks k)
    | none => co) co))
  return .placed

/-! ## ENDL -/

/-- The launch status that ENDL sends (R162). -/
def endCode : EndStatus → Nat
  | .ok => 0
  | .fault => 3
  | .user => 6

/-- The value that ENDL sends (R318). -/
def endValue : EndStatus → Word → Nat
  | .ok, _ => 0
  | .fault, v => field v.toNat 0 8
  | .user, v => field v.toNat 0 32

/-- Messages that an activation sent and that have neither arrived nor been written (R318). -/
def State.sentOpen (s : State) (c id : Nat) : Bool :=
  s.net.any (fun f => f.slot && f.fromCore == c && f.actId == id)
    || s.vfs.any (fun v => v.2.entries.any (fun e => e.msgOf == some (c, id)))

/-- ENDL (R318). -/
def execEndl (ra : XReg) (status : EndStatus) : State → Out1 := runInstr do
  quiet
  let s ← get
  let (c, k) := s.cur
  let t := s.curStr
  let (a, _) ← needLaunch
  if !a.ec then
    commitCur
    return .again
  else
    await (t.drained && !s.sentOpen c a.id)
    let s1 := s.retire.endWith a.launch (endCode status) (endValue status (t.getX ra)) true
    set (s1.modStr c k (fun t => { t with run := .stopped }))
    return .placed

/-! ## MSK and LNCH -/

/-- MSK (R317). -/
def execMsk (rd ra rb : XReg) : State → Out1 := runInstr do
  settle (xRegs [rd, ra, rb])
  let s ← get
  let t := s.curStr
  let (a, _) ← needLaunch
  let old := match s.curCore.on a.launch with
    | some o => o.mask
    | none => 0
  let new := (old &&& ~~~(t.getX ra)) ||| t.getX rb
  let a1 := if a.rst && a.mask0.isNone then { a with mask0 := some old } else a
  set ((s.modOn s.cur.1 a.launch (fun o => { o with mask := new })).setCurStr ({ t with act := some a1 }.setX rd old))
  return .step

/-- Waits until every earlier access of the string has performed, at SYS scope (R107, R147); false when the read that shows its
stores to the host to have arrived had to be asked for; where that read has failed, so does the instruction (R412). -/
def releaseSys : M Bool := do
  let s ← get
  let t := s.curStr
  await (t.drained && t.lds.isEmpty)
  if t.inHand.contains .noFlush then raise 0x41
  else if flushFirst t (some .sys) none then
    set (s.askFlush s.cur.1 s.cur.2)
    return false
  else return true

/-- Reads one checked sector of 32 bytes for an instruction that copies it (R84). -/
def readSector (pl : Place) (p : Word) : M (List Byte) := do
  let w := dataWho (← get)
  let b ← takeSector w pl p 32
  modify (fun s => s.meterOf w.core (byteMeter w.core pl) 32)
  return b

/-- Checks `n` sectors from `p` on, in ascending order. -/
def checkSectors (p : Word) : Nat → M (List (Word × Place))
  | 0 => return []
  | n + 1 => do
    let pl ← check (dataWho (← get)) .r p 32 32
    return (p, pl) :: (← checkSectors (nextPtr p 32) n)

/-- Reads checked sectors. -/
def readSectors : List (Word × Place) → M (List Byte)
  | [] => return []
  | (p, pl) :: t => do
    let b ← readSector pl p
    return b ++ (← readSectors t)

/-- Device-submitted records that the launch unit of a partition holds (R319). -/
def State.lnchHeld (s : State) (p : Nat) : Nat :=
  (s.launches.filter (fun l => l.2.part == p && l.2.issuer.isSome && l.2.phase == .queued)).length

/-- The launch unit takes a record that LNCH has copied, while it has room; the string waits with the copy otherwise (R319 steps 5 and
6). -/
def submit (rd : XReg) (a : Activation) (l : Launch) (rec : BitVec 1024) : M Adv := do
  let s ← get
  if 64 ≤ s.lnchHeld l.part then
    modStr (fun t => { t with wait := .lnch rec })
    return .again
  else
    let serial := (s.part l.part).serial
    let t := s.curStr
    modStr (fun t => t.setX rd serial)
    modify (fun s => (s.modPart l.part (fun p => { p with serial := (p.serial + 1) &&& 0x7FFFFFFFFFFFFFFF })).retire.enterQueue
      { Launch.init with serial := serial, vf := l.vf, part := l.part, record := rec, issuer := some t.owner, parent := some a.launch,
                           pcore := l.place[field rec.toNat 704 12]? })
    return .placed

/-- LNCH (R155, R319, R407). -/
def execLnch (rd ra : XReg) : State → Out1 := runInstr do
  quiet
  let t ← theStr
  let (a, l) ← needLaunch
  match t.wait with
  | .lnch rec => submit rd a l rec
  | _ =>
    let s0 ← get
    let secs ← checkSectors (t.getX ra) 4
    let s1 ← get
    set s0
    if !a.ec then
      commitCur
      return .again
    else if ← releaseSys then
      set s1
      submit rd a l (BitVec.ofNat 1024 (leNat (← readSectors secs)))
    else return .again

end Sys2Proof.Machine
end

