-- ==== Sys2Proof/Machine/Ring.lean ====
section
/-! DEFINITION. Rings (R138, R321 to R323, R352). -/

namespace Sys2Proof.Machine

/-- Slot of an index (R321). -/
def Ring.slot (g : Ring) (j : BitVec 32) : Nat := j.toNat % 2 ^ g.s
/-- The index is in the window (R321). -/
def Ring.inWindow (g : Ring) (j : BitVec 32) : Bool := decide ((j - g.l).toNat < 2 ^ g.s)
/-- Consecutive filled slots from the release index, `n` at most. -/
def Ring.run (g : Ring) : Nat → BitVec 32 → Nat
  | 0, _ => 0
  | n + 1, j => if g.filled.contains (g.slot j) then 1 + g.run n (j + 1) else 0
/-- Write index less release index (R321). -/
def Ring.ready (g : Ring) : Nat := g.run (2 ^ g.s) g.l

/-- Ring `g` of a core. -/
def Core.ring (co : Core) (g : Nat) : Ring := mget Ring.init co.rings g
/-- Replaces a ring. -/
def State.setRing (s : State) (c g : Nat) (r : Ring) : State := s.modCore c (fun co => { co with rings := mset co.rings g r })

/-- A ring number is in the set of a launch on a core (R321). -/
def ringOwned (co : Core) (l g : Nat) : Bool :=
  decide (g < 64) && (match co.on l with | some o => o.strs.contains (g / 16) | none => false)

/-- The ring that an instruction names; `regs` are the X registers that the instruction names (R322, R453). -/
def theRing (ra : XReg) (regs : List XReg) : M (Nat × Activation) := do
  settle (xRegs regs)
  let s ← get
  let (a, _) ← needLaunch
  let g := (s.curStr.getX ra).toNat
  if ringOwned s.curCore a.launch g then return (g, a) else raise 0x31

/-- The RWAITs of strings of the launch, other than the executing one, that are stalled on a ring lose it: each ends with RING_RANGE when it
is issued again, as precisely as any other fault (R322). -/
def State.wakeRing (s : State) (l g : Nat) : State :=
  strNums.foldl (fun s k => s.modStr s.cur.1 k (fun t => match t.wait with
    | .ring h _ => if h = g ∧ k ≠ s.cur.2 ∧ t.launch = some l then { t with wait := .ringLost } else t
    | _ => t)) s

/-- The wait of a command on a ring has ended (R352). -/
def waitOver (co : Core) (cmd : Cmd) : Bool :=
  cmd.waited || (match cmd.waitOn with
    | none => true
    | some (g, j) =>
      let r := co.ring g
      (r.inWindow j && r.filled.contains (r.slot j)) || (r.l != j && decide ((r.l - j).toNat < 2 ^ 31)))

/-- The MXU command at the head that waits on a ring of its launch loses its wait; one whose wait had ended goes on (R352). -/
def Core.loseWait (co : Core) (l g : Nat) : Core :=
  match co.mxu.queue with
  | [] => co
  | h :: t => match h.waitOn with
    | some (r, _) =>
      if r = g ∧ h.launch = some l ∧ h.fin.isNone then
        let h1 := if waitOver co h then { h with waited := true } else h.err { code := 0x51, detail := 10, val := 0 }
        { co with mxu := { co.mxu with queue := h1 :: t } }
      else co
    | none => co

/-- A ring is initialised or freed: who waits on it loses the wait (R322, R352). -/
def State.changeRing (s : State) (l g : Nat) (r : Ring) : State :=
  ((s.modCore s.cur.1 (fun co => co.loseWait l g)).setRing s.cur.1 g r).wakeRing l g

/-- RINIT (R322). -/
def execRinit (ra rb : XReg) : State → Out1 := runInstr do
  let (g, a) ← theRing ra [ra, rb]
  let s ← get
  let c := (s.curStr.getX rb).toNat
  let r := s.curCore.ring g
  if field c 5 27 ≠ 0 ∨ 12 < field c 0 5 then raise 0x31
  else if 0 < r.pend then raise 0x30
  else
    let l := BitVec.ofNat 32 (field c 32 32)
    set (s.changeRing a.launch g { r with v := true, s := field c 0 5, l := l, a := l, filled := [] })
    return .step

/-- RFREE (R322). -/
def execRfree (ra : XReg) : State → Out1 := runInstr do
  let (g, a) ← theRing ra [ra]
  let s ← get
  let r := s.curCore.ring g
  if 0 < r.pend then raise 0x30
  else
    set (s.changeRing a.launch g { r with v := false })
    return .step

/-- The slot of an index is filled, or it was: the release index has passed it since the wait began (R322, R352). -/
def Ring.came (g : Ring) (j : BitVec 32) : Bool :=
  (decide ((j - g.l).toNat < (g.a - g.l).toNat) && g.filled.contains (g.slot j)) || (g.l != j && decide ((g.l - j).toNat < 2 ^ 31))

/-- RWAIT (R137, R322). Its window check is made once: a stalled one goes on when its slot has been filled. -/
def execRwait (ra rb : XReg) : State → Out1 := runInstr do
  let (g, _) ← theRing ra [ra, rb]
  let s ← get
  let r := s.curCore.ring g
  let x := s.curStr.getX rb
  let j : BitVec 32 := BitVec.extractLsb' 0 32 x
  match s.curStr.wait with
  | .ringLost => raise 0x31
  | .ring _ _ => if r.came j then return .step else stall
  | _ =>
    if !r.v then raise 0x31
    else if field x.toNat 32 32 ≠ 0 then raise 0x31
    else if !r.inWindow j then raise 0x31
    else if r.came j then return .step
    else
      modStr (fun t => { t with wait := .ring g j.toNat })
      return .again

/-- Clears the filled bits of `n` indices and moves the release index past them (R322). -/
def Ring.release (g : Ring) (n : Nat) : Ring :=
  let slots := (upTo n).map (fun i => g.slot (g.l + BitVec.ofNat 32 i))
  { g with filled := g.filled.filter (fun x => !slots.contains x), l := g.l + BitVec.ofNat 32 n }

/-- RREL (R138, R166, R322). -/
def execRrel (ra rb : XReg) : State → Out1 := runInstr do
  let (g, a) ← theRing ra [ra, rb]
  let s ← get
  let r := s.curCore.ring g
  let n := (s.curStr.getX rb).toNat
  if !r.v then raise 0x31
  else if r.ready < n then raise 0x31
  else if !a.ec then
    commitCur
    return .again
  else if ← releaseSys then
    modify (fun s => s.setRing s.cur.1 g (r.release n))
    return .step
  else return .again

/-- The value of RSTAT (R323). -/
def Ring.stat (g : Ring) : Word :=
  if g.v then BitVec.ofNat 64 (g.l.toNat * 2 ^ 32 + 2 ^ 31 + g.s * 2 ^ 27 + g.pend * 2 ^ 13 + (g.a - g.l).toNat) else 0

/-- RSTAT (R322, R323). -/
def execRstat (rd ra : XReg) : State → Out1 := runInstr do
  let (g, _) ← theRing ra [rd, ra]
  let s ← get
  modStr (fun t => t.setX rd (s.curCore.ring g).stat)
  return .step

end Sys2Proof.Machine
end

