-- ==== Sys2Proof/Machine/Stream.lean ====
section
/-! DEFINITION. Streams (R140, R325 to R330) and the steps of the stream unit. -/

namespace Sys2Proof.Machine

/-! ## SBIND, SUNB and SSTAT -/

/-- The stream of a descriptor of 512 bits under an owner; none if it breaks R326. -/
def Stream.ofBits (v : Nat) (o : BitVec 14) : Option Stream :=
  if field v 305 207 ≠ 0 ∨ (upTo 5).any (fun d => field v (224 + 16 * d) 16 == 0) then none
  else some { dst := bitAt v 304, base := BitVec.ofNat 64 (field v 0 64),
              strides := Vector.ofFn (fun i : Fin 5 => BitVec.ofNat 32 (field v (64 + 32 * i.val) 32)),
              extents := Vector.ofFn (fun i : Fin 5 => BitVec.ofNat 16 (field v (224 + 16 * i.val) 16)),
              owner := o, pos := 0, fetched := [], pushes := [] }

/-- Stream register `n`. -/
def Str.sreg (t : Str) (n : SReg) : Option Stream := t.st[n.toNat]'(n.isLt)

/-- Replaces stream register `n`. -/
def Str.setSreg (t : Str) (n : SReg) (x : Option Stream) : Str := { t with st := t.st.set n.toNat x n.isLt }

/-- SBIND (R140, R327). It waits for the accesses before it only as its own read of the descriptor must; the accesses of the stream wait for
them all. -/
def execSbind (rd : SReg) (ra : XReg) : State → Out1 := runInstr do
  settle ((60 + rd.toNat) :: xRegs [ra])
  let t ← theStr
  if (t.sreg rd).isSome then raise 0x32
  else
    let p := t.getX ra
    let pl ← check (dataWho (← get)) .r p 64 64
    await (evsReady (← get).cur.1 t [evOf pl 32 0, evOf (placeAdd pl 32) 32 32])
    let b1 ← readSector pl p
    let b2 ← readSector (placeAdd pl 32) p
    match Stream.ofBits (leNat (b1 ++ b2)) t.owner with
    | none => raise 0x32
    | some x =>
      commitCur
      modify (fun s => { s.setCurStr (s.curStr.setSreg rd (some { x with num := s.nextId + 1, after := some t.seq })) with
        nextId := s.nextId + 1 })
      return .step

/-- SUNB (R140, R329). -/
def execSunb (rd : SReg) : State → Out1 := runInstr do
  settle [(60 + rd.toNat : Nat)]
  let t ← theStr
  match t.sreg rd with
  | none => return .step
  | some x =>
    await x.pushes.isEmpty
    modStr (fun t => t.setSreg rd none)
    modify (fun s => s.modCore s.cur.1 (fun co => co.dropHeld (x.asks s.cur.2)))
    return .step

/-- The value of SSTAT (R330). -/
def Stream.stat (x : Stream) : Word :=
  let flt := x.fetched.any (fun e => match e.2 with | .bad _ => true | .data _ => false)
  BitVec.ofNat 64 (2 ^ 63 + b2n x.dst * 2 ^ 62 + b2n flt * 2 ^ 61 + Nat.min 8 x.fetched.length * 2 ^ 57
    + Nat.min (2 ^ 48 - 1) (x.total - x.pos))

/-- SSTAT (R330). -/
def execSstat (rd : XReg) (ra : SReg) : State → Out1 :=
  strOp ((60 + ra.toNat) :: xRegs [rd]) (fun t => t.setX rd (match t.sreg ra with | some x => x.stat | none => 0))

/-! ## The stream unit -/

/-- Who makes the element accesses of a stream of string `k` (R327). That step 1 of R39 goes by the mode of the string when an element is
read, and not by its mode at SBIND, is the model's choice (log 78). -/
def streamWho (s : State) (c k : Nat) (x : Stream) : Who :=
  let t := s.str c k
  { core := c, id := x.asks k, owner := x.owner.toNat, mon := t.lvl != 0, launch := t.launch, fn := strFn s c t.launch }

/-- Where element `i` of a stream lies, its access being checked (R328). -/
def eltPlace (w : Who) (x : Stream) (i : Nat) : M Place := check w .r (x.ptr i) 64 64

/-- A lower element that is near has not been read (R140). -/
def nearBefore (s : State) (w : Who) (x : Stream) (i : Nat) : Bool :=
  (upTo (i - x.pos)).any (fun j => (mfind x.fetched (x.pos + j)).isNone && (match (eltPlace w x (x.pos + j)).run s with
    | .ok (pl, _) => nearTo w.core pl
    | .error _ => false))

/-- The two places lie in one sector. -/
def samePlace (p q : Place) : Bool := sectorOf p == sectorOf q

/-- A write of some string has performed in one sector of the 64 bytes at a place, and has still to perform in the other. -/
def State.halfWritten (s : State) (pl : Place) : Bool :=
  let meets (evs : List SectorEv) : Bool := evs.any (fun e => samePlace e.place pl || samePlace e.place (placeAdd pl 32))
  s.cores.any (fun c => c.2.strs.any (fun t => t.2.sb.any (fun x => meets x.past && meets x.evs)
    || t.2.st.toList.any (fun x => match x with
      | some x => x.pushes.any (fun p => meets p.past && meets p.evs)
      | none => false)))

/-- Reads an element at its home, wholly old or wholly new: the data of its two sectors (R84, R140, R328), which are asked for together where
they lie outside the package. -/
def readElt (w : Who) (x : Stream) (i : Nat) : M Vec := do
  let s ← get
  let pl ← eltPlace w x i
  let asked (q : Place) : Bool := (s.core w.core).misses.contains (.data w.id (sectorBase q).1)
    || ((s.core w.core).hands w.id).any (fun h => match h with
      | .sector b _ => b == (sectorBase q).1
      | .failed b _ _ => b == (sectorBase q).1
      | _ => false)
  if (nearTo w.core pl && nearBefore s w x i) || (s.halfWritten pl && !(asked pl && asked (placeAdd pl 32))) then stall
  else
    let b1 ← takeSector w pl (x.ptr i) 32
    let b2 ← takeSector w (placeAdd pl 32) (x.ptr i) 32
    modify (fun s => s.meterOf w.core (byteMeter w.core pl) 64)
    return BitVec.ofNat 512 (leNat (b1 ++ b2))

/-- An access of requester `k` is over: what its misses found is forgotten, the sectors of others than its own apart. -/
def Core.dropUsed (co : Core) (k : Nat) (mine : Place → Bool) : Core :=
  { co with held := co.held.filter (fun h => !heldFor k h.1 || (match h.2 with
      | .sector q _ => !mine q
      | .failed q _ _ => !mine q
      | _ => false)) }

/-- The stream unit may read element `i`: it lies within the 8 vectors of its buffer, or an instruction that pops it waits for it
(R328), and the accesses before its SBIND have performed, so that at most the host is still to be asked (R140, R147); once SWITCH has been
told, it reads for monitor code only (R380), and for a string that has been stopped it reads nothing (R162, R396). -/
def eltWanted (co : Core) (str st : Nat) (x : Stream) (i : Nat) : Bool :=
  !x.dst && (co.str str).run == .running && ((co.str str).releases x.after || (co.str str).wantsFlush x.after)
    && (co.sw == .none || (co.str str).lvl != 0) && decide (x.pos ≤ i) && decide (i < x.total) && (mfind x.fetched i).isNone
    && (decide (i < x.pos + 8) || co.misses.any (fun m => match m with
      | .elts k n l => k == str && n == st && decide (i ≤ l)
      | _ => false))

/-- STREAM_ELEMENT_READ: the stream unit reads the element `ix` past the next one to pop (R140, R328). A near element waits for every lower
near one. -/
def execStreamElementRead (core str st ix : Nat) (s : State) : Out1 :=
  match (s.str core str).st.toList[st]? with
  | some (some x) =>
    let i := x.pos + ix
    if !eltWanted (s.core core) str st x i then .next s
    else if !(s.str core str).releases x.after then .next (s.askFlush core str)
    else
      let w := streamWho s core str x
      let pl := match (eltPlace w x i).run s with | .ok (pl, _) => pl | .error _ => .notice 0
      let put (s : State) (e : Elt) : State := (s.modCore core (fun co => co.dropUsed w.id (fun q => samePlace q pl || samePlace q (placeAdd pl 32)))).modStr core str
        (fun t => t.setStream ⟨st % 4, Nat.mod_lt _ (by decide)⟩ (some { x with fetched := mset x.fetched i e, after := none }))
      let two (m : Option Miss) : List (Option Miss) := match m with
        | some (.data k _) => [some (.data k (sectorBase pl).1), some (.data k (sectorBase (placeAdd pl 32)).1)]
        | m => [m]
      match (attempt w (readElt w x i)).run s with
      | .ok (.ok v, s1) => .next (put s1 (.data v))
      | .ok (.error f, s1) => .next (put s1 (.bad f))
      | .error (.stall m) => .next ((two m).foldl (fun s m => s.queueMiss core m) s)
      | .error _ => .next s
  | _ => .next s

/-- STREAM_PUSH_PERFORM: outstanding event `ix` of the pushes of a destination stream performs; near ones in order (R113,
R140). -/
def execStreamPushPerform (core str st ix : Nat) (s : State) : Out1 :=
  match ((s.str core str).pushList.filter (fun p => p.1 == st))[ix]? with
  | some (_, i, j) => .next (withPush core str st i j (fun x e s1 => s1.performStore core str x e) s)
  | none => .next s

end Sys2Proof.Machine
end

