-- ==== Sys2Proof/Machine/System.lean ====
section
/-! DEFINITION. Control registers (R336 to R342), MXST, RQRY, GRANT and REVOKE as a string issues them, and TRAP, MCALL, ERET and
IDLE (R332 to R347). -/

namespace Sys2Proof.Machine

/-! ## Reading a control register (R337) -/

/-- Faults with PRIV in user mode (R242). -/
def monitorOnly : M Unit := do
  let t ← theStr
  if t.lvl = 0 then raise 0x02 else pure ()

/-- ACT (R168). -/
def Activation.word (a : Activation) : Word :=
  BitVec.ofNat 64 (a.epri * 2 ^ 16 + a.trig.hid * 2 ^ 10 + a.trig.redo * 2 ^ 8 + b2n a.ec * 2 + b2n a.rst)

/-- WSTATE. -/
def WState.code : WState → Nat
  | .service => 0
  | .derated => 1
  | .drained => 2
  | .retired => 3

/-- NETCAP (R342). -/
def netcap : Word := 0x402020

/-- A launch's registers on a core: the launch with its holding there, if the string belongs to one. -/
def State.held (s : State) : Option (Launch × OnCore) :=
  match s.curStr.launch with
  | none => none
  | some i => match s.launch i, s.curCore.on i with
    | some l, some o => some (l, o)
    | _, _ => none

/-- A register that a launch holds; it reads 0 in a string that belongs to no launch (log 19). -/
def State.launchReg (s : State) (f : Launch → OnCore → Word) : Word :=
  match s.held with
  | some (l, o) => f l o
  | none => 0

/-- NRBi (R164). -/
def regionPtr (pkg : Nat) (i : Nat) (l : Launch) (o : OnCore) : Word :=
  if l.rsz i = 0 then 0 else slicePtr pkg o.lcore (l.regionOff i)

/-- The registers of the string itself. -/
def Str.csr (t : Str) (k n : Nat) : Option Word :=
  match n with
  | 0x000 => some (t.owner.zeroExtend 64)
  | 0x001 => some (BitVec.ofNat 64 (t.pp.toNat * 256 + t.lvl.toNat))
  | 0x007 => some (BitVec.ofNat 64 k)
  | 0x010 => some (t.jord.zeroExtend 64)
  | 0x011 => some (t.fflg.zeroExtend 64)
  | 0x012 => some (t.jflg.zeroExtend 64)
  | 0x013 => some (t.vrnd.zeroExtend 64)
  | 0x014 => some (t.amax.zeroExtend 64)
  | 0x020 => some (BitVec.ofNat 64 (b2n t.mfmt))
  | 0x021 => some t.mscla
  | 0x023 => some t.mxinj
  | 0x049 => some (match t.act with | some a => a.word | none => 0)
  | 0x050 => some (t.trapc.zeroExtend 64)
  | 0x051 => some t.trapv
  | 0x052 => some t.trappc
  | _ => none

/-- Function of the VF scheduled on a core, 0 when none is. -/
def Core.fn (co : Core) : Nat := co.vf.getD 0

/-- The registers of the core and of the VF that it runs. -/
def Core.csr (co : Core) (n : Nat) : Option Word :=
  match n with
  | 0x002 => some (BitVec.ofNat 64 (co.part.getD 0))
  | 0x003 => some (BitVec.ofNat 64 co.fn)
  | 0x040 => some co.cycle
  | 0x041 => some (co.vfc co.fn).vtime
  | 0x042 => some (co.vfc co.fn).stolen
  | 0x053 => some co.mentry
  | 0x060 => some (BitVec.ofNat 64 (b2n (co.vfc co.fn).amofb))
  | 0x061 => some netcap
  | 0x071 => some (BitVec.ofNat 64 co.wear.state.code)
  | _ => none

/-- The registers of a launch. -/
def launchCsr (pkg n : Nat) (l : Launch) (o : OnCore) : Word :=
  match n with
  | 0x004 => BitVec.ofNat 64 o.lcore
  | 0x005 => BitVec.ofNat 64 l.nlcore
  | 0x006 => BitVec.ofNat 64 (o.lcore / (l.f 320 8 * 16))
  | 0x022 => o.mxcorr.zeroExtend 64
  | 0x030 => regionPtr pkg 0 l o
  | 0x031 => regionPtr pkg 1 l o
  | 0x032 => regionPtr pkg 2 l o
  | 0x033 => regionPtr pkg 3 l o
  | 0x034 => regionPtr pkg 4 l o
  | 0x035 => regionPtr pkg 5 l o
  | 0x036 => regionPtr pkg 6 l o
  | 0x037 => regionPtr pkg 7 l o
  | 0x038 => slicePtr pkg o.lcore l.spillOff
  | 0x039 => BitVec.ofNat 64 l.qspn
  | 0x048 => o.opcnt
  | 0x070 => BitVec.ofNat 64 (Nat.min (o.wearu / 2 ^ 24) (2 ^ 64 - 1))
  | _ => 0

/-- The value of control register `n` as the executing string reads it (R337). -/
def State.csr (s : State) (n : Nat) : Word :=
  match s.curStr.csr s.cur.2 n with
  | some v => v
  | none => match s.curCore.csr n with
    | some v => v
    | none => s.launchReg (launchCsr s.pkg n)

/-! ## Writing a control register -/

/-- Registers that user mode may not touch (R337). -/
def csrHidden (n : Nat) : Bool := decide (0x050 ≤ n) && decide (n ≤ 0x053)

/-- Registers that user mode may write. -/
def csrUserWrites (n : Nat) : Bool := [0x010, 0x011, 0x012, 0x013, 0x014, 0x020, 0x021, 0x023].contains n

/-- Registers that monitor mode may write. -/
def csrMonitorWrites (n : Nat) : Bool :=
  csrUserWrites n || [0x000, 0x001, 0x022, 0x048, 0x050, 0x051, 0x052, 0x053, 0x060].contains n

/-- A write of PRIV.pp; level 2 exists on the root core only (R338; log 20). -/
def Str.setPp (t : Str) (root : Bool) (v : Word) : Str :=
  if v.extractLsb' 8 2 = 3 ∨ (v.extractLsb' 8 2 = 2 ∧ !root) then t else { t with pp := v.extractLsb' 8 2 }

/-- Writes a register of the string; reserved fields ignore writes (R7). -/
def Str.setCsr (t : Str) (root : Bool) (n : Nat) (v : Word) : Str :=
  match n with
  | 0x000 => { t with owner := v.extractLsb' 0 14 }
  | 0x001 => t.setPp root v
  | 0x010 => { t with jord := v.extractLsb' 0 2 }
  | 0x011 => { t with fflg := v.extractLsb' 0 5 }
  | 0x012 => { t with jflg := v.extractLsb' 0 15 }
  | 0x013 => { t with vrnd := v.extractLsb' 0 2 }
  | 0x014 => { t with amax := v.extractLsb' 0 33 }
  | 0x020 => { t with mfmt := v.getLsbD 0 }
  | 0x021 => { t with mscla := v }
  | 0x023 => { t with mxinj := v &&& 0xBF7FFFFFFFFFFFFF }
  | 0x050 => { t with trapc := v.extractLsb' 0 18 }
  | 0x051 => { t with trapv := v }
  | 0x052 => { t with trappc := v }
  | _ => t

/-- Writes a control register that is not the string's own. -/
def State.setSharedCsr (s : State) (n : Nat) (v : Word) : State :=
  let c := s.cur.1
  let onLaunch (f : OnCore → OnCore) : State := match s.curStr.launch with
    | some i => s.modOn c i f
    | none => s
  match n with
  | 0x022 => onLaunch (fun o => { o with mxcorr := v.extractLsb' 0 32 })
  | 0x048 => onLaunch (fun o => { o with opcnt := v })
  | 0x053 => s.modCore c (fun co => { co with mentry := v &&& 0xFFFFFFFFFFFFFFC0 })
  | 0x060 => s.modCore c (fun co => { co with vfs := mset co.vfs co.fn { co.vfc co.fn with amofb := v.getLsbD 0 } })
  | _ => s

/-- OWNLIM of the partition of a core; the root core has no owners (R42). -/
def State.ownLimit (s : State) (c : Nat) : Nat :=
  match (s.core c).part with
  | some p => (s.part p).lim
  | none => 2 ^ 14

/-- A control register access: privilege, then the value, then the write; `new` gives the value to write from the old one, if
the form writes (R336). FFLG waits for every atomic that may still set it. -/
def csrInstr (rd ra : XReg) (n : BitVec 12) (new : Option (Str → Word → Word)) : M Adv := do
  settle (if n = 0x011 then flagReg :: xRegs [rd, ra] else xRegs [rd, ra])
  let s ← get
  let t := s.curStr
  let k := n.toNat
  if !csrDefined n then raise 0x01
  else if t.lvl = 0 && (csrHidden k || (new.isSome && !csrUserWrites k)) then raise 0x02
  else
    let old := s.csr k
    match new with
    | none =>
      modStr (fun t => t.setX rd old)
      return .step
    | some f =>
      let v := f t old
      if k = 0x000 ∧ s.ownLimit s.cur.1 ≤ v.toNat then raise 0x01
      else
        if csrMonitorWrites k then modify (fun s => (s.setCurStr (t.setCsr (s.cur.1 == 4096) k v)).setSharedCsr k v) else pure ()
        modStr (fun t => t.setX rd old)
        return .step

/-- CSRR (R336). -/
def execCsrr (rd : XReg) (n : BitVec 12) : State → Out1 := runInstr (csrInstr rd 0 n none)
/-- CSRW (R336). -/
def execCsrw (rd ra : XReg) (n : BitVec 12) : State → Out1 := runInstr (csrInstr rd ra n (some (fun t _ => t.getX ra)))
/-- CSRS (R336); with X0 it is a read. -/
def execCsrs (rd ra : XReg) (n : BitVec 12) : State → Out1 :=
  runInstr (csrInstr rd ra n (if ra = 0 then none else some (fun t old => old ||| t.getX ra)))
/-- CSRC (R336); with X0 it is a read. -/
def execCsrc (rd ra : XReg) (n : BitVec 12) : State → Out1 :=
  runInstr (csrInstr rd ra n (if ra = 0 then none else some (fun t old => old &&& ~~~(t.getX ra))))

/-! ## MXST (R332) -/

/-- What MXST reads for a string of a launch; the command at the head is executing if it waits for no ring. -/
def mxstWord (co : Core) (k l : Nat) : Word :=
  let mine := co.mxu.queue.filter (fun c => c.launch == some l)
  let busy := match co.mxu.queue with
    | c :: _ => c.launch == some l && waitOver co c
    | [] => false
  let err := if co.mxu.holder = some l then co.mxu.err.toNat else 0
  BitVec.ofNat 64 (err * 2 ^ 24 + b2n busy * 2 ^ 16 + Nat.min 31 (counters co k).2.2.2 * 2 ^ 8 + mine.length)

/-- MXST (R332, R453). -/
def execMxst (rd : XReg) : State → Out1 := runInstr do
  settle (xRegs [rd])
  let s ← get
  match s.curStr.launch with
  | none =>
    modStr (fun t => t.setX rd 0)
    return .step
  | some l =>
    let w := mxstWord s.curCore s.cur.2 l
    modStr (fun t => t.setX rd w)
    modify (fun s => s.modCore s.cur.1 (fun co =>
      if co.mxu.holder = some l then { co with mxu := { co.mxu with err := 0 } } else co))
    return .step

/-! ## RQRY (R67, R334) -/

/-- What RQRY reports in translated space: what owner `t` holds, which an issuer that is not `t` reads only where it holds D. -/
def rqryTable (s : State) (q : Partition) (owner t pkg off : Nat) : Word :=
  let d := match search s.seen q owner pkg off with
    | some e => bitAt e.rights 5
    | none => false
  if t ≠ owner && !d then 0
  else match search s.seen q t pkg off with
    | some e => rqryWord e
    | none => 0

/-- What RQRY writes for a pointer and an owner; on the root core, which has no partition, it writes 0 (log 65). -/
def rqryValue (s : State) (p : Word) (t : Nat) : Word :=
  let owner := s.curStr.owner.toNat
  if ptrSpace p < 2 then
    match s.curCore.part with
    | some n => rqryTable s (s.part n) owner t (ptrPkg p) (ptrOff p)
    | none => 0
  else if ptrSpace p = 3 ∧ ptrPkg p = s.pkg ∧ t = owner then
    match slicePlace s (dataWho s) .r (p &&& 0x00FFFFFFFFFFFFFF) 1 with
    | .ok (.slice _ _) => BitVec.ofNat 64 (2 ^ 15 + 11 * 256)
    | .ok _ => BitVec.ofNat 64 (2 ^ 15 + 256)
    | .error _ => 0
  else 0

/-- RQRY (R67, R334); it waits while a HOLD names an owner whose table it reads (R60). -/
def execRqry (rd ra rb : XReg) : State → Out1 := runInstr do
  settle (xRegs [rd, ra, rb])
  let s ← get
  let t := s.curStr
  let o := field (t.getX rb).toNat 0 14
  await (match s.curCore.hold with
    | some h => !h.names o && !h.names t.owner.toNat
    | none => true)
  let v := rqryValue s (t.getX ra) o
  modStr (fun t => t.setX rd v)
  return .step

/-! ## GRANT and REVOKE as a string issues them (R57 to R66, R333) -/

/-- Puts a request of the executing string in the rights unit of its partition, which writes the status when it has come (R60). `isGrant`
tells GRANT from REVOKE. On the root core, which has no partition and no rights unit, the status is 1 (log 65). -/
def rightsInstr (isGrant : Bool) (rd ra rb rc : XReg) : M Adv := do
  settle (xRegs [rd, ra, rb, rc])
  let s ← get
  let t := s.curStr
  if bitAt (t.getX rc).toNat 25 && !(t.lvl != 0 && t.owner == 0) then raise 0x02
  else match t.wait, s.curCore.part with
    | .rights _, _ => stall
    | _, some p =>
      let r : RightsReq := { core := s.cur.1, str := s.cur.2, isGrant := isGrant, xa := t.getX ra, xb := t.getX rb,
                             xc := t.getX rc, owner := t.owner }
      set ((s.modPart p (fun q => { q with rights := { q.rights with queue := q.rights.queue ++ [r] } })).setCurStr
        { t with wait := .rights rd })
      return .again
    | _, none =>
      modStr (fun t => t.setX rd 1)
      return .step

/-- GRANT (R59, R333). -/
def execGrant (rd ra rb rc : XReg) : State → Out1 := runInstr (rightsInstr true rd ra rb rc)
/-- REVOKE (R63 to R65, R333). -/
def execRevoke (rd ra rb rc : XReg) : State → Out1 := runInstr (rightsInstr false rd ra rb rc)

/-! ## What PLBINV, TLBINV and HOLD remove (R54, R60, R335) -/

/-- Changes every core of the partition of the executing string's core. -/
def State.modPeers (s : State) (f : Core → Core) : State :=
  match s.curCore.part with
  | some p => (s.part p).cores.foldl (fun s c => s.modCore c f) s
  | none => s.modCore s.cur.1 f

/-- Removes PLB entries, and the ranges that waiting accesses hold, that pass a test, and what they hold of the absence of a range for the
owners that pass another, so that these search again (R60). -/
def Core.dropRights (co : Core) (named : Nat → Bool) (f : Nat → RightsEntry → Bool) : Core :=
  { co with plb := co.plb.filter (fun e => !f e.owner e.entry),
            strs := co.strs.map (fun p => (p.1, { p.2 with inHand := p.2.inHand.filter (fun h => match h with
              | .range o _ _ e => !f o e
              | .noRange o _ _ => !named o
              | _ => true) })) }

/-- Removes TLB entries, and the pages that waiting accesses hold, that overlap [lo, lo + n). -/
def Core.dropPages (co : Core) (lo n : Nat) : Core :=
  { co with tlb := co.tlb.filter (fun e => !overlaps e.va e.size lo n),
            strs := co.strs.map (fun p => (p.1, { p.2 with inHand := p.2.inHand.filter (fun h => match h with
              | .page _ e => !overlaps e.va e.size lo n
              | .noPage va _ => !overlaps va 1 lo n
              | _ => true) })) }

/-! ## TRAP, MCALL, ERET and IDLE -/

/-- Drops what the outbox still holds (R387 step 3). -/
def Str.dropOutbox (t : Str) : Str := { t with act := t.act.map (fun a => { a with outbox := [] }) }

/-- TRAP (R345, R387). -/
def execTrap (ra : XReg) : State → Out1 := runInstr do
  settle (xRegs [ra])
  let s ← get
  let t := s.curStr
  let s1 := s.retire
  let t1 := if t.lvl = 0 then s1.curStr.dropOutbox else s1.curStr
  set (s1.setCurStr (t1.trap s1.curCore.mentry 1 0 0 (t.getX ra) (nextPtr t.pc 4)))
  return .placed

/-- MCALL (R345). -/
def execMcall (ra : XReg) : State → Out1 := runInstr do
  settle (xRegs [ra])
  let s ← get
  let t := s.curStr
  let s1 := s.retire
  set (s1.setCurStr (s1.curStr.trap s1.curCore.mentry 2 0 0 (t.getX ra) (nextPtr t.pc 4)))
  return .placed

/-- ERET (R346); a string that becomes free waits for its stores first. -/
def execEret : State → Out1 := runInstr do
  monitorOnly
  settle []
  let s ← get
  let t := s.curStr
  if field t.trappc.toNat 0 2 ≠ 0 then raise 0x03
  else
    let free := t.pp = 0 && t.act.isNone
    await (!free || (t.drained && t.lds.isEmpty))
    let s1 := s.retireTo t.trappc
    let t1 := { s1.curStr with lvl := t.pp, pp := 0 }
    set (s1.setCurStr (if free then t1.freed else t1))
    return .placed

/-- The core has received an event addressed to its monitor: its strings in IDLE go on (R347). -/
def State.wakeIdle (s : State) (c : Nat) : State :=
  strNums.foldl (fun s k => match (s.str c k).wait with
    | .idle => { ({ s with cur := (c, k) } : State).retire with cur := s.cur }
    | _ => s) s

/-- IDLE goes on (R347): a record of some launch on the core is runnable. -/
def Core.wakes (co : Core) : Bool := co.records.any (·.runnable)

/-- IDLE (R347); see `State.wakeIdle` for an event addressed to the monitor. -/
def execIdle : State → Out1 := runInstr do
  monitorOnly
  settle []
  let s ← get
  match s.curStr.wait with
  | .idle =>
    await s.curCore.wakes
    return .step
  | _ =>
    modStr (fun t => { t with wait := .idle })
    return .again

end Sys2Proof.Machine
end

