-- ==== Sys2Proof/Machine/RightsUnit.lean ====
section
/-! DEFINITION. The walker and the searcher of a core (R33, R34, R53), and the rights unit of a partition with HOLD and RELEASE
(R60, R61, R66). -/

namespace Sys2Proof.Machine

/-! ## TLB_WALK and PLB_SEARCH -/

/-- TLB_WALK: the walker serves the core's oldest TLB miss (R33, R34). -/
def execTlbWalk (core : Nat) (s : State) : Out1 :=
  let co := s.core core
  match co.misses.find? (fun m => match m with | .tlb _ _ => true | _ => false), co.part with
  | some (.tlb k va), some p =>
    let s1 := s.walked core p va
    match walk s.seen (s.part p) va with
    | .ok e => .next ((s1.modCore core (fun co => { co with tlb := tlbInstall co.tlb e })).serve core k (.tlb k va) (.page va e))
    | .error c => .next (s1.serve core k (.tlb k va) (.noPage va c))
  | _, _ => .next s

/-- The miss may search its owner's table: no HOLD in force names the owner (R60). -/
def Core.mayRead (co : Core) : Miss → Bool
  | .plb _ o _ _ => match co.hold with
    | some h => !h.names o
    | none => true
  | _ => false

/-- PLB_SEARCH: the oldest PLB miss that no HOLD stops searches its owner's table (R53). -/
def execPlbSearch (core : Nat) (s : State) : Out1 :=
  let co := s.core core
  match co.misses.find? co.mayRead, co.part with
  | some (.plb k o pkg off), some p =>
    let s1 := s.searched core p o pkg off
    match search s.seen (s.part p) o pkg off with
    | some e => .next ((s1.modCore core (fun co => { co with plb := plbInstall co.plb { owner := o, entry := e } })).serve core k
        (.plb k o pkg off) (.range o pkg off e))
    | none => .next (s1.serve core k (.plb k o pkg off) (.noRange o pkg off))
  | _, _ => .next s

/-! ## The rights unit -/

/-- The first request of the rights unit is finished: its instruction writes the status and retires (R60 steps 1 and 8). -/
def State.finishRights (s : State) (p : Nat) (r : RightsReq) (st : Nat) : State :=
  let s1 := s.modPart p (fun q => { q with rights := { queue := q.rights.queue.drop 1, validated := false, written := false } })
  match (s1.str r.core r.str).wait with
  | .rights rd =>
    let s2 : State := { s1.modStr r.core r.str (fun t => t.setX rd (BitVec.ofNat 64 st)) with cur := (r.core, r.str) }
    { s2.retire with cur := s.cur }
  | _ => s1

/-- The HOLD of a request (R60 step 2). -/
def RightsReq.holdReq (r : RightsReq) : HoldReq :=
  { owners := holdOwners r.args, pkg := r.args.pkg, lo := r.args.lo, hi := r.args.hi, drain := !r.isGrant, removed := false,
    acked := false }

/-- RIGHTS_REQUEST: the rights unit validates its first request; on status 0 the activation commits early and HOLD goes to every
core of the partition (R60 steps 1 and 2, R66). -/
def execRightsRequest (part : Nat) (s : State) : Out1 :=
  let q := s.part part
  match q.rights.queue with
  | [] => .next s
  | r :: _ =>
    if q.rights.validated then .next s
    else
      let st := rightsStatus s.seen q r
      let s0 := s.traffic (rightsNi part) (homeUnit (.phys (dirAddr q r.args.g))) part
      if st ≠ 0 then .next (s0.finishRights part r st)
      else
        let s1 := (s0.commitEarly r.core r.str).modPart part (fun q => { q with rights := { q.rights with validated := true } })
        .next ((s1.liveCores part).foldl (fun s c => s.modCore c (fun co => { co with hold := some r.holdReq })) s1)

/-- The HOLD names an owner. -/
def HoldReq.owned (h : HoldReq) (o : Nat) : Bool := match h.owners with | none => true | some l => l.contains o

/-- The HOLD's owners and range take in an entry of an owner. -/
def HoldReq.takes (h : HoldReq) (o : Nat) (e : RightsEntry) : Bool := h.owned o && touches h.pkg h.lo h.hi e

/-- HOLD: a core removes the PLB entries of the named owners that overlap the range (R60 step 3). -/
def execHold (core : Nat) (s : State) : Out1 :=
  match (s.core core).hold with
  | some h =>
    if h.removed then .next s
    else .next (s.modCore core (fun co => { co.dropRights h.owned h.takes with hold := some { h with removed := true } }))
  | none => .next s

/-- An access under an owner at a pointer may have been checked against an entry that the HOLD removed. -/
def HoldReq.drains (h : HoldReq) (o : Nat) (p : Word) : Bool := h.names o && ptrPkg p == h.pkg

/-- No push to a stream, made or still to be made by an outstanding load, has to be drained. -/
def Str.pushesDrained (t : Str) (h : HoldReq) : Bool :=
  t.st.toList.all (fun x => match x with
    | some x => x.pushes.isEmpty || !h.drains x.owner.toNat x.base
    | none => true)
  && t.lds.all (fun l => match l.dst with
    | .p rd _ => match t.streamOf rd with
      | some (_, x) => !h.drains x.owner.toNat x.base
      | none => true
    | _ => true)

/-- No access of a core that a HOLD may have to drain is outstanding: stores, loads and atomics, pushes, and reads of streams and engines
that have been sent out of the package (R60 step 4). -/
def Core.drainedFor (co : Core) (h : HoldReq) : Bool :=
  co.strs.all (fun p => p.2.sb.all (fun x => !h.drains x.owner.toNat x.ptr)
    && p.2.lds.all (fun l => l.evs.isEmpty || !h.drains l.owner.toNat l.ptr) && p.2.pushesDrained h)
  && !co.misses.any (fun m => match m with | .data _ _ => true | _ => false)

/-- HOLD_ACKNOWLEDGE: a core acknowledges, for REVOKE once the accesses have drained (R60 steps 4 and 5). -/
def execHoldAcknowledge (core : Nat) (s : State) : Out1 :=
  let co := s.core core
  match co.hold with
  | some h =>
    if !h.removed || h.acked || (h.drain && !co.drainedFor h) then .next s
    else .next (s.modCore core (fun co => { co with hold := some { h with acked := true } }))
  | none => .next s

/-- The core has acknowledged its HOLD. -/
def Core.hasAcked (co : Core) : Bool :=
  match co.hold with
  | some h => h.acked
  | none => false

/-- The table of an owner of partition `p` is written, with its directory entry, by the unit or the root core whose NI is `unit` (R60, R76); what
falls in a listed span is discarded (R89). -/
def State.writeTable (s : State) (unit p o : Nat) (l : List RightsEntry) : State :=
  let q := s.part p
  let tb := field (dirEntry s.mem q o) 0 42
  let n := 32 * l.length
  (({ s with mem := s.outsideSpans (dirAddr q o) 16 (s.outsideSpans tb n (putTable s.mem q o l)), bad := clearMarks s.bad tb n } : State).touchRange tb n |>.touchRange (dirAddr q o) 16)
    |>.traffic unit (homeUnit (.phys tb)) p |>.traffic unit (homeUnit (.phys (dirAddr q o))) p

/-- The tables that a request changes are written, with their directory entries (R60 step 6). -/
def State.writeTables (s : State) (p : Nat) (a : RightsArgs) : State :=
  (newTables s.seen (s.part p) a).foldl (fun s x => s.writeTable (rightsNi p) p x.1 x.2) s.backAll

/-- RIGHTS_TABLE_WRITE: every core has acknowledged, and the unit writes the tables (R60 step 6). -/
def execRightsTableWrite (part : Nat) (s : State) : Out1 :=
  let q := s.part part
  match q.rights.queue with
  | [] => .next s
  | r :: _ =>
    if !q.rights.validated || q.rights.written || !(s.liveCores part).all (fun c => (s.core c).hasAcked) then .next s
    else .next ((s.writeTables part r.args).modPart part
      (fun q => { q with rights := { q.rights with written := true } }))

/-- RELEASE: stalled accesses search the new tables, and the instruction retires with status 0 (R60 steps 7 and 8). -/
def execRelease (part : Nat) (s : State) : Out1 :=
  let q := s.part part
  match q.rights.queue with
  | [] => .next s
  | r :: _ =>
    if !q.rights.written then .next s
    else .next ((q.cores.foldl (fun s c => s.modCore c (fun co => { co with hold := none })) s).finishRights part r 0)

end Sys2Proof.Machine
end

