-- ==== Sys2Proof/Machine/Engine.lean ====
section
/-! DEFINITION. Engine commands: ENQ with its checks, ENQ_APPEND, the accesses of an engine, and ENGINE_COMPLETION (R133 to R139,
R250 to R252, R324, R348 to R352). -/

namespace Sys2Proof.Machine

/-! ## The command word -/

/-- Opcodes of an engine (R251). -/
def engOps : Engine → List Nat
  | .mxu => [0x01, 0x02, 0x03, 0x04, 0x05]
  | .bce => [0x11, 0x12]
  | .crypto => [0x21, 0x22, 0x23]

/-- Number of an engine (R331). -/
def engNum : Engine → Nat
  | .mxu => 0
  | .bce => 1
  | .crypto => 2

/-- Commands that a queue holds (R331). -/
def engCap : Engine → Nat
  | .mxu => 16
  | .bce => 8
  | .crypto => 16

/-- Opcode of a command word. -/
def cmdOp (w : Nat) : Nat := field w 248 8

/-- Flag bits that a command defines (R348, R357). -/
def flagsOf (op : Nat) : Nat := if op = 0x03 then 0xF8 else if op < 0x10 then 0xC0 else 0x80

/-- The template names a command of the engine and sets no undefined flag (R252). -/
def opcodeOk (e : Engine) (w : Nat) : Bool :=
  (engOps e).contains (cmdOp w) && field w 240 8 &&& (255 ^^^ flagsOf (cmdOp w)) == 0

/-- The ring fields are zero where their flags are (R348). -/
def ringFieldsOk (w : Nat) : Bool := (bitAt w 247 || field w 234 6 == 0) && (bitAt w 246 || field w 212 22 == 0)

/-- Bytes of an output row of MX.DRAIN (R357). -/
def rowBytes (w : Nat) : Nat :=
  match field w 197 2 with
  | 0 => 512
  | 1 => 256
  | _ => 128

/-- Reserved bits are zero and fields are in range (checks 2 and 3 of R349). -/
def cmdFieldsOk (w : Nat) : Bool :=
  let q0 := field w 0 64
  let q1 := field w 64 64
  let m := field w 205 7
  ringFieldsOk w && (match cmdOp w with
    | 0x01 => field w 128 50 == 0
    | 0x02 => field w 128 34 == 0 && q1 == 0 && decide (1 ≤ m) && decide (1 ≤ field w 202 3 ∧ field w 202 3 ≤ 4)
        && decide (field w 200 2 + field w 202 3 ≤ 4) && decide (field w 194 6 + m ≤ 64)
    | 0x03 => field w 128 7 == 0 && decide (1 ≤ m) && decide (field w 199 6 + m ≤ 64) && decide (field w 197 2 ≤ 2)
        && decide (rowBytes w ≤ field w 177 20) && (bitAt w 245 || (!bitAt w 244 && field w 167 10 == 0 && q1 == 0))
        && decide (field w 167 4 ≤ 11) && !(field w 167 4 == 0 && bitAt w 244) && (field w 197 2 == 2 || field w 135 32 == 0)
        && field q1 40 24 == 0
    | 0x04 => field w 128 71 == 0 && q0 == 0 && q1 == 0 && decide (1 ≤ m) && decide (field w 199 6 + m ≤ 64)
    | 0x05 => field w 128 82 == 0 && q1 == 0
    | 0x11 => field w 212 22 == 0 && field w 128 65 == 0 && decide (field w 209 3 ≤ 4) && field w 193 16 != 0
    | 0x12 => field w 212 22 == 0 && field w 128 65 == 0 && decide (field w 209 3 ≤ 4) && field w 193 16 != 0
    | 0x21 => field w 212 22 == 0 && field w 128 56 == 0 && decide (field w 210 2 ≤ 2)
        && (field w 210 2 == 1 || field w 184 24 == 0) && q1 == 0 && (field w 210 2 != 0 || q0 == 0)
    | 0x22 => field w 128 106 == 0
    | _ => field w 212 22 == 0 && field w 128 77 == 0 && decide (1 ≤ m ∧ m ≤ 64) && q1 == 0)

/-- Element size of a copy in bytes (R360). -/
def elemSize (w : Nat) : Nat :=
  match field w 209 3 with
  | 0 => 1
  | 1 => 2
  | 2 => 4
  | 3 => 8
  | _ => 32

/-- Pointers, strides and MSCLA are aligned (check 4 of R349). -/
def cmdAligned (w : Nat) (mscla : Word) : Bool :=
  let q0 := field w 0 64
  let q1 := field w 64 64
  match cmdOp w with
  | 0x01 => q0 % 32 == 0 && q1 % 4 == 0 && field w 178 32 % 32 == 0
  | 0x02 => q0 % 32 == 0 && field w 162 32 % 32 == 0 && mscla.toNat % 16 == 0
  | 0x03 => q0 % 32 == 0 && field w 177 20 % 32 == 0
  | 0x04 => true
  | 0x05 => q0 % 32 == 0
  | 0x11 => q0 % elemSize w == 0 && q1 % elemSize w == 0
  | 0x12 => q0 % elemSize w == 0
  | 0x21 => field w 210 2 != 2 || q0 % 16 == 0
  | 0x22 => q0 % 32 == 0 && q1 % 8 == 0
  | _ => q0 % 32 == 0

/-- Not device space. -/
def notDevice (p : Nat) : Bool := field p 44 2 != 2
/-- Root-private SRAM (R432; log 14). -/
def inRootSram (p : Nat) : Bool := decide (field p 0 46 < 2 ^ 21)

/-- The pointers lie in spaces that the command may use (check 5 of R349, R432). That an MXU pointer may name another package, as R360 says of
the copy engine alone, is the model's choice (log 79). -/
def cmdSpaceOk (w : Nat) (mscla : Word) : Bool :=
  let q0 := field w 0 64
  let q1 := field w 64 64
  match cmdOp w with
  | 0x01 => notDevice q0 && notDevice q1
  | 0x02 => notDevice q0 && notDevice mscla.toNat
  | 0x03 => field q0 44 2 == 3
  | 0x04 => true
  | 0x05 => notDevice q0
  | 0x11 => notDevice q0 && notDevice q1
  | 0x12 => notDevice q0
  | 0x21 => field w 210 2 == 0 || inRootSram q0
  | 0x22 => inRootSram q0 && inRootSram q1
  | _ => inRootSram q0

/-- The shape block is valid (R361). -/
def shapeOk (copy : Bool) (v : Nat) : Bool :=
  field v 400 112 == 0 && (upTo 5).all (fun x => field v (16 * x) 16 != 0) && (copy || field v 80 160 == 0)
    && decide ((upTo 5).foldl (fun a x => a * field v (16 * x) 16) 1 ≤ 2 ^ 40)

/-- Every stride of the shape is a multiple of the element size (check 8). -/
def shapeAligned (e v : Nat) : Bool := (upTo 10).all (fun x => field v (80 + 32 * x) 32 % e == 0)

/-! ## ENQ (R252, R324, R349) -/

/-- The template with its patch slots filled. -/
def patch (t : Str) (ra rb : XReg) (w : Nat) : Nat :=
  let q0 := if ra = 0 then field w 0 64 else (t.getX ra).toNat
  let q1 := if rb = 0 then field w 64 64 else (t.getX rb).toNat
  q0 + q1 * 2 ^ 64 + field w 128 128 * 2 ^ 128

/-- The shape block of a copy, fetched and checked (checks 6 to 8). -/
def fetchShape (tp : Word) (w : Nat) : M (BitVec 512) := do
  if cmdOp w = 0x11 ∨ cmdOp w = 0x12 then
    let a := nextPtr tp ((32 * field w 193 16 : Nat) : Int)
    let b1 ← fetchBytes a 32
    let b2 ← fetchBytes (nextPtr a 32) 32
    let v := leNat (b1 ++ b2)
    if !shapeOk (cmdOp w == 0x11) v then raise 0x51 6
    else if !shapeAligned (elemSize w) v then raise 0x51 3
    else return BitVec.ofNat 512 v
  else return 0

/-- The index that a command waits on (check 9 of R349, R352). -/
def waitIndex (co : Core) (l w : Nat) : M (Option (Nat × BitVec 32)) := do
  if !bitAt w 246 then return none
  else
    let g := field w 228 6
    let r := co.ring g
    let d := (BitVec.ofNat 16 (field w 212 16) - r.l.setWidth 16).toNat
    if !ringOwned co l g || !r.v || decide (2 ^ r.s ≤ d) then raise 0x31
    else return some (g, r.l + BitVec.ofNat 32 d)

/-- The completion ring of a command (R324 step 1). -/
def completionRing (co : Core) (l w : Nat) : M (Option Nat) := do
  if !bitAt w 247 then return none
  else
    let g := field w 234 6
    if !ringOwned co l g || !(co.ring g).v then raise 0x31 else return some g

/-- The queue of an engine that serves core `c`. -/
def State.engQueue (s : State) (c : Nat) : Engine → List Cmd
  | .mxu => (s.core c).mxu.queue
  | .bce => (s.core c).bce
  | .crypto => s.root.crypto

/-- Replaces it. -/
def State.setEngQueue (s : State) (c : Nat) (e : Engine) (q : List Cmd) : State :=
  match e with
  | .mxu => s.modCore c (fun co => { co with mxu := { co.mxu with queue := q } })
  | .bce => s.modCore c (fun co => { co with bce := q })
  | .crypto => { s with root := { s.root with crypto := q } }

/-- Appends a command to its queue; an MX.ROWS clears ARM (R340). -/
def State.pushCmd (s : State) (c k : Nat) (e : Engine) (cmd : Cmd) : State :=
  let s1 := s.setEngQueue c e (s.engQueue c e ++ [cmd])
  if cmdOp cmd.word.toNat = 0x02 then s1.modStr c k (fun t => { t with mxinj := t.mxinj &&& 0x7FFFFFFFFFFFFFFF }) else s1

/-- Appends a command when the queue has space and a ring slot is free (R324 steps 2 and 3); none while it must wait. -/
def State.appendCmd (s : State) (c k : Nat) (e : Engine) (cmd : Cmd) (ring : Option Nat) : Option State :=
  if engCap e ≤ (s.engQueue c e).length then none
  else match ring with
    | none => some (s.pushCmd c k e cmd)
    | some g =>
      let r := (s.core c).ring g
      if (r.a - r.l).toNat < 2 ^ r.s then
        some ((s.setRing c g { r with a := r.a + 1, pend := r.pend + 1 }).pushCmd c k e { cmd with ring := some (g, r.a) })
      else none

/-- A launch takes the MXU of the core (R372). -/
def State.takeMxu (s : State) (c : Nat) (e : Engine) (l : Option Nat) : State :=
  match e with
  | .mxu => s.modCore c (fun co => { co with mxu := { co.mxu with holder := l } })
  | _ => s

/-- The MXU may be used by a launch (check 1 of R349, R372). -/
def mxuFree (co : Core) (e : Engine) (l : Option Nat) : Bool :=
  match e with
  | .mxu => co.mxu.holder.isNone || co.mxu.holder == l
  | _ => true

/-- A command as ENQ samples it, under its number; its accesses wait for those of its string before it (R134). That MXINJ is held as 0 for any
command but MX.ROWS, which alone samples it (R340), is the model's choice (log 84). -/
def buildCmd (t : Str) (k w num : Nat) (shape : BitVec 512) (tp : Word) (wait : Option (Nat × BitVec 32)) : Cmd :=
  { word := BitVec.ofNat 256 w, shape := shape, owner := t.owner, ity := t.mfmt, mscla := t.mscla,
    mxinj := if cmdOp w = 0x02 then t.mxinj else 0, launch := t.launch, str := k,
    actId := match t.act with | some a => a.id | none => 0, tmpl := tp, ring := none, waitOn := wait, waited := false, done := 0,
    fin := none, num := num, after := some t.seq }

/-- The activation of ENQ commits early (R166); true when it had to. -/
def commitNow : M Bool := do
  match (← theStr).act with
  | some a =>
    if a.ec then return false
    else
      commitCur
      return true
  | none => return false

/-- Address of a template (R256). -/
def tmplAddr (t : Str) (off : BitVec 13) : Word := nextPtr (t.pc &&& ~~~(31 : Word)) (off.toInt * 32)

/-- ENQ is issued by a string of a launch, or for the crypto engine by the root core (R15, R453). -/
def enqAllowed (e : Engine) : M Unit := do
  let s ← get
  if s.cur.1 = 4096 then
    if e = .crypto then pure () else raise 0x35
  else
    let _ ← needLaunch
    pure ()

/-- ENQ (R252, R324, R349). -/
def execEnq (e : Engine) (ra rb : XReg) (off : BitVec 13) : State → Out1 := runInstr do
  settle (xRegs [ra, rb])
  enqAllowed e
  let s ← get
  let (c, k) := s.cur
  let t := s.curStr
  await (match t.wait with | .enq _ _ _ => false | _ => true)
  let tp := tmplAddr t off
  let w0 := leNat (← fetchBytes tp 32)
  if (e == .crypto && c != 4096) || !opcodeOk e w0 then raise 0x51 1
  else
    let w := patch t ra rb w0
    let l := t.launch.getD 0
    if !mxuFree s.curCore e t.launch then raise 0x51 5
    else if !cmdFieldsOk w then raise 0x51 2
    else if !cmdAligned w t.mscla then raise 0x51 3
    else if !cmdSpaceOk w t.mscla then raise 0x51 4
    else
      let shape ← fetchShape tp w
      let wait ← waitIndex s.curCore l w
      let ring ← completionRing s.curCore l w
      let s1 ← get
      set s
      if ← commitNow then return .again
      else
        set s1
        let cmd := buildCmd t k w (s.nextId + 1) shape tp wait
        modify (fun s => { s.takeMxu c e t.launch with nextId := s.nextId + 1 })
        match (← get).appendCmd c k e cmd ring with
        | some s1 =>
          set s1
          return .step
        | none =>
          modify (fun s => s.modStr c k (fun t => { t with wait := .enq e cmd ring }))
          return .again

/-- ENQ_APPEND: a stalled ENQ appends its command and retires (R252, R324); in user code not once SWITCH has been told (R380). -/
def execEnqAppend (core str : Nat) (s : State) : Out1 :=
  match (s.str core str).wait with
  | .enq e cmd ring => if (s.core core).sw != .none && (s.str core str).lvl == 0 then .next s else match s.appendCmd core str e cmd ring with
    | some s1 => .next { ({ s1 with cur := (core, str) } : State).retire with cur := s.cur }
    | none => .next s
  | _ => .next s

/-! ## Accesses of an engine (R350) -/

/-- Who makes the accesses of a command. -/
def engWho (s : State) (c : Nat) (e : Engine) (cmd : Cmd) : Who :=
  { core := c, id := engId e cmd, owner := cmd.owner.toNat, mon := c == 4096, launch := cmd.launch, fn := strFn s c cmd.launch }

/-- An engine reads the sector that holds the `n` bytes at `p`, in one access: its place and its 32 bytes, with POISON if it is bad (R84, R85,
R133, R350; log 22). -/
def engRead (w : Who) (p : Word) (n : Nat) : M SectorRead := do
  let pl ← check w .r p n 1
  let s ← get
  let base := (sectorBase pl).1
  let bad : FaultInfo := { code := 0x20, detail := 0, val := p }
  match placeFlat base with
  | some a =>
    if s.lost w pl then throw (.met { code := 0x21, detail := 0, val := p } [pl] true none)
    else
      modify (fun s => (s.packets w.core w.unit pl).poisonFound w.launch a)
      return { sec := p.toNat / 32, place := base, bytes := bytesAt s w.launch a 32, bad := if (s.mark w.launch a).isSome then some bad else none }
  | none => match ← attempt w (outsideRead w base p 32) with
    | .ok b => return { sec := p.toNat / 32, place := base, bytes := b, bad := none }
    | .error f =>
      if isPoisonCode f.code then return { sec := p.toNat / 32, place := base, bytes := (upTo 32).map (fun _ => 0), bad := some bad }
      else throw (.fault f)

/-! ## The pieces that a command reads (R133, R135) -/

/-- The command has read the sector of a pointer. -/
def Cmd.has (cmd : Cmd) (p : Word) : Bool := cmd.got.any (fun x => x.sec == p.toNat / 32)

/-- Those of some pieces that a command has still to read. -/
def Cmd.unread (cmd : Cmd) (ps : List (Word × Nat)) : List (Word × Nat) := ps.filter (fun x => !cmd.has x.1)

/-- What element `i` of a command uses of a sector that it has read: as it was read, or as the command itself has written it since, which a free
value picks (R362). -/
def Cmd.version (cmd : Cmd) (tick i : Nat) (p : Word) : Option SectorRead :=
  match cmd.got.filter (fun x => x.sec == p.toNat / 32) with
  | [x] => some x
  | vs => vs[Config.pick (tick * 2 ^ 41 + i) % vs.length]?

/-- Piece `i` of `n` bytes of a command is taken from what it has read: the bytes, with POISON from a bad sector; the fault of its access, or of a
piece that ends behind the parameter block, ends the command (R26, R84, R85, R351). -/
def Cmd.take (cmd : Cmd) (w : Who) (i : Nat) (p : Word) (n : Nat) : M (List Byte × Option FaultInfo) := do
  let s ← get
  match (if ptrSpace p = 3 ∧ w.core ≠ 4096 then slicePlace s w .r p n else .ok (.notice 0)), cmd.version s.tick i p with
  | .error f, _ => throw (.fault f)
  | .ok _, none => return ((upTo n).map (fun _ => 0), none)
  | .ok _, some x => match x.bytes, x.bad with
    | [], some f => throw (.fault { f with val := p })
    | b, f => return ((b.drop (p.toNat % 32)).take n, f.map (fun f => { f with val := p }))

/-- The bytes of pieces, a bad sector being an error (R85); the first fault in their order ends the command. That this holds for the crypto
engine too, of which R85 and R351 do not speak, is the model's choice (log 22). -/
def Cmd.bytes (cmd : Cmd) (w : Who) : List (Word × Nat) → M (List Byte)
  | [] => return []
  | (p, n) :: ps => do
    match ← cmd.take w 0 p n with
    | (_, some f) => throw (.fault f)
    | (b, none) => return b ++ (← cmd.bytes w ps)

/-- Command `j` of a queue reads the sector of a piece of `n` bytes at `p`: one access (R133), whose 32 bytes count in the meter of their home,
whether the command uses them or not, unless their poison ends it (R436; log 54). -/
def State.readPiece (s : State) (c : Nat) (e : Engine) (j : Nat) (p : Word) (n : Nat) : State :=
  match (s.engQueue c e)[j]? with
  | none => s
  | some cmd =>
    let w := engWho s c e cmd
    let put (s : State) (x : SectorRead) : State :=
      (s.modCore c (fun co => co.dropUsed w.id (samePlace x.place))).setEngQueue c e
        (setAt (s.engQueue c e) j { cmd with waited := true, got := cmd.got ++ [x], after := none })
    match (attempt w (engRead w p n)).run s with
    | .ok (.ok x, s1) => put (if x.bad.isSome && e != .bce then s1 else s1.meterOf c (byteMeter c x.place) 32) x
    | .ok (.error f, s1) =>
      let base := match (check w .r p n 1).run s with | .ok (pl, _) => (sectorBase pl).1 | .error _ => .notice 0
      put s1 { sec := p.toNat / 32, place := base, bytes := [], bad := some f }
    | .error (.stall m) => s.queueMiss c m
    | .error _ => s

/-- Bytes of a sector by offset, as data and as the list of an event. -/
def sectorData (bs : List (Nat × Byte)) : BitVec 4096 := BitVec.ofNat 4096 (bs.foldl (fun a b => a + b.2.toNat * 256 ^ b.1) 0)

/-- An engine writes bytes, by offset in the sector of `p`, checked over `n` bytes at `p`; `bad` poisons the sector (R85,
R362). A write in a poisoned span does not perform (R89), nor does one of a shadow launch that has no budget left (R169); one to another
package has its answer later (R136). -/
def engWrite (w : Who) (p : Word) (n : Nat) (bs : List (Nat × Byte)) (bad : Bool) : M Unit := do
  let pl ← check w .w p n 1
  let s ← get
  if (s.lost w pl || ((s.core w.core).hands w.id).contains .lost) then throw (.met { code := 0x21, detail := 0, val := p } [pl] true none)
  else
    let s1 := (s.meterWrite w.core w.launch pl bs.length).packets w.core w.unit pl
    let bits := bs.map (fun b => (b.1, b.1))
    let write (la : Option Nat) (a : Nat) : State :=
      if bad then
        let s2 := s1.redirect la a
        let v := s2.version (s2.shadowOf la) a
        let s3 := (s2.sureFirst (· == v / 32)).writeEv la a bits (sectorData bs)
        { s3 with bad := mset s3.bad (v / 32) .poisoned }
      else s1.writeEv la a bits (sectorData bs)
    match (sectorBase pl).1 with
    | .slice c o => set (write none (sliceFlat c o))
    | .phys a => if s.spanned w.launch a then throw (.met { code := 0x21, detail := 0, val := p } [pl] true none) else set (write w.launch a)
    | .host f _ a => if bad then raise 0x20 0 p else set (s1.emit (.hostWrite f a bs true))
    | .remote q o =>
      set ((s1.emit (.novinoWrite q o bs bad)).modCore w.core (fun co => { co with misses := co.misses ++ [.write w.id (.remote q o) p] }))
    | .notice _ => pure ()

/-! ## Running the head of a queue -/

/-- A command of the MXU at the head of its queue has begun work that it finishes before it stops: the reads of a tile, or of the `need` of a
K-step, or a row of output; MX.ZERO and MX.CHKRD run to their end (R367). A copy stops between gathered writes (R369). -/
def Cmd.mustFinish (cmd : Cmd) (need : List (Word × Nat)) : Bool :=
  match cmdOp cmd.word.toNat with
  | 0x01 => !cmd.got.isEmpty
  | 0x02 => need.any (fun x => cmd.has x.1)
  | 0x03 => cmd.done % (rowBytes cmd.word.toNat / 32) != 0
  | 0x04 => true
  | 0x05 => true
  | _ => false

/-- The engine works on a command now: its launch runs, and its VF is on the core; once SWITCH is told, it only finishes what it must, as
`finish` tells (R162, R367, R369, R396). -/
def State.engineLive (s : State) (c : Nat) (cmd : Cmd) (finish : Bool) : Bool :=
  match cmd.launch with
  | none => c == 4096
  | some l => match s.launch l with
    | none => false
    | some v => v.phase == .running && (s.core c).vf == some v.vf && (s.part v.part).pstate != .fenced
        && (match (s.core c).sw with | .none => true | .told _ _ _ => finish | _ => false)

/-- The accesses of a command's string before its ENQ have performed, or it has begun (R134). -/
def State.cmdReleased (s : State) (c : Nat) (cmd : Cmd) : Bool := (s.str c cmd.str).releases cmd.after

/-- The command at the head of a queue takes its step, once the pieces that the step needs have been read; an error ends it (R351). -/
def State.headStep (s : State) (c : Nat) (e : Engine) (need : List (Word × Nat)) (f : Cmd → M Cmd) : State :=
  match s.engQueue c e with
  | [] => s
  | cmd :: rest =>
    let put (s : State) (x : Cmd) : State :=
      (s.modCore c (fun co => if x.fin.isSome then co.dropHeld (engId e cmd) else co.dropUsed (engId e cmd) (fun _ => false))).setEngQueue c e
        ({ x with waited := true, after := none } :: rest)
    if cmd.fin.isSome || !(cmd.unread need).isEmpty then s
    else
      let w := engWho s c e cmd
      match (f cmd).run s with
      | .ok (cmd1, s1) => put s1 cmd1
      | .error (.fault x) => put s (cmd.err x)
      | .error (.met x v b a) => put (s.metBad c w.unit cmd.launch x.val v b a) (cmd.err x)
      | .error (.stall m) => s.queueMiss c m

/-- The command at the head of a queue, if its opcode passes the test, reads what its next step still needs and takes that step: the
accesses that a queue makes one by one (see `Turn.mxu`), together (R133, R351). -/
def engineStep (c : Nat) (e : Engine) (op : Nat → Bool) (pieces : Cmd → List (Word × Nat)) (f : Cmd → M Cmd) (s : State) : Out1 :=
  match s.engQueue c e with
  | [] => .next s
  | cmd :: _ =>
    let ps := pieces cmd
    if cmd.fin.isSome || !op (cmdOp cmd.word.toNat) || !s.engineLive c cmd (cmd.mustFinish ps) || !waitOver (s.core c) cmd
        || !s.cmdReleased c cmd || (s.core c).awaitsWrite (engId e cmd) then .next s
    else
      let s1 := ps.foldl (fun s x => match s.engQueue c e with
        | h :: _ => if h.has x.1 then s else s.readPiece c e 0 x.1 x.2
        | [] => s) s
      .next (s1.headStep c e ps f)

/-- The command has ended well. -/
def Cmd.ok (c : Cmd) : Cmd := { c with fin := some none }

/-! ## ENGINE_COMPLETION (R136, R324, R351) -/

/-- The wake-up message of an MX.DRAIN (R357). -/
def wakeFlight (s : State) (c l : Nat) (cmd : Cmd) : Flight :=
  let w := cmd.word.toNat
  let lc := field w 32 12
  { msg := { launch := l, dest := .core lc, hid := field w 171 6, key := BitVec.ofNat 40 (field w 64 40), op := field w 167 4,
             cnt := bitAt w 244, src := s.lcoreOf c (some l),
             payload := BitVec.ofNat 256 (field w 0 64 + (field w 205 7 + field w 199 6 * 2 ^ 8 + field w 197 2 * 2 ^ 16) * 2 ^ 64),
             arm := none, mon := false },
    fromCore := c, fromStr := cmd.str, after := 0, slot := false, actId := 0, nacks := 0, nacked := false }

/-- A completion fills its ring slot (R324 step 4). -/
def State.fillSlot (s : State) (c : Nat) (r : Option (Nat × BitVec 32)) : State :=
  match r with
  | none => s
  | some (g, j) =>
    let x := (s.core c).ring g
    s.setRing c g { x with filled := if x.filled.contains (x.slot j) then x.filled else x.filled ++ [x.slot j],
                           pend := x.pend - 1 }

/-- The report of a command that ended in error (R351 steps 4 and 5). -/
def State.reportCmd (s : State) (c : Nat) (e : Engine) (cmd : Cmd) (f : FaultInfo) : State :=
  let s1 := match e with
    | .mxu => s.modCore c (fun co => { co with mxu := { co.mxu with err := BitVec.ofNat 8 f.code } })
    | _ => s
  match cmd.launch with
  | some l => s1.forwardRec c l (recWord (engNum e) 0 1 0 f.detail f.code) f.val.toNat cmd.tmpl.toNat (cmdOp cmd.word.toNat)
  | none => s1

/-- After a first failed health test the root firmware reinstantiates the random generator (R432). -/
def State.reseed (s : State) : State :=
  if s.root.drbgFailed && decide (s.root.drbgFailures < 2) then { s with root := { s.root with drbgFailed := false } } else s

/-- The command has ended, and every access that it made has performed or ended with an error response (R136). -/
def Core.settledCmd (co : Core) (e : Engine) (cmd : Cmd) : Bool := cmd.fin.isSome && !co.awaits (· == engId e cmd)

/-- ENGINE_COMPLETION: the command at the head of a queue that has ended leaves it, and its completion takes effect (R136, R285,
R351). -/
def execEngineCompletion (core : Nat) (eng : Engine) (s : State) : Out1 :=
  match s.engQueue core eng with
  | [] => .next s
  | cmd :: rest => match cmd.fin with
    | none => .next s
    | some r =>
      if !(s.core core).settledCmd eng cmd then .next s else
      let s1 := s.setEngQueue core eng rest
      let s2 := match r, cmd.launch with
        | none, some l => if cmdOp cmd.word.toNat = 0x03 ∧ bitAt cmd.word.toNat 245 then
            s1.post (coreUnit core) (wakeFlight s1 core l cmd) else s1
        | _, _ => s1
      let s3 := s2.fillSlot core cmd.ring
      let s4 := match r with
        | some f => s3.reportCmd core eng cmd f
        | none => s3
      let s5 := s4.modCore core (fun co => co.dropFor (· == engId eng cmd))
      .next (match eng with | .crypto => s5.reseed | _ => s5)

end Sys2Proof.Machine
end

