-- ==== Sys2Proof/Machine/Bce.lean ====
section
/-! DEFINITION. The bulk copy engine (R85, R360 to R363, R369): one gathered write at a time. -/

namespace Sys2Proof.Machine

/-- Extents of a shape block, dimension 0 first (R361). -/
def shapeExtents (v : Nat) : List (BitVec 16) := (upTo 5).map (fun x => BitVec.ofNat 16 (field v (16 * x) 16))
/-- Source strides. -/
def shapeSrc (v : Nat) : List (BitVec 32) := (upTo 5).map (fun x => BitVec.ofNat 32 (field v (80 + 32 * x) 32))
/-- Destination strides. -/
def shapeDst (v : Nat) : List (BitVec 32) := (upTo 5).map (fun x => BitVec.ofNat 32 (field v (240 + 32 * x) 32))
/-- Number of elements. -/
def shapeTotal (v : Nat) : Nat := (upTo 5).foldl (fun a x => a * field v (16 * x) 16) 1

/-- The command copies; else it fills. -/
def Cmd.copies (c : Cmd) : Bool := cmdOp c.word.toNat == 0x11

/-- Source pointer of element `i` (R362). -/
def Cmd.src (c : Cmd) (i : Nat) : Word :=
  nextPtr (BitVec.ofNat 64 (field c.word.toNat 0 64)) (elemOff (shapeExtents c.shape.toNat) (shapeSrc c.shape.toNat) i)

/-- Destination pointer of element `i` (R362). -/
def Cmd.dst (c : Cmd) (i : Nat) : Word :=
  nextPtr (BitVec.ofNat 64 (field c.word.toNat (if c.copies then 64 else 0) 64))
    (elemOff (shapeExtents c.shape.toNat) (shapeDst c.shape.toNat) i)

/-- The elements from `i` on, `n` at most, whose destination lies in the sector of `p`: one gathered write (R362). -/
def Cmd.runLen (c : Cmd) (p : Word) : Nat → Nat → Nat
  | 0, _ => 0
  | n + 1, i => if (c.dst i).toNat / 32 = p.toNat / 32 then 1 + c.runLen p n (i + 1) else 0

/-- The pattern of a BC.FILL (R362). -/
def fillBytes (w e : Nat) : List Byte := (upTo e).map (fun i => BitVec.ofNat 8 (field w (64 + 8 * (i % 8)) 8))

/-- Puts the bytes of an element in a sector. -/
def putElem (m : Map Byte) (p : Word) (b : List Byte) : Map Byte :=
  ((upTo b.length).zip b).foldl (fun m x => mset m (p.toNat % 32 + x.1) x.2) m

/-- The elements of the next gathered write. -/
def Cmd.nextRun (c : Cmd) : List Nat :=
  (upTo (c.runLen (c.dst c.done) (shapeTotal c.shape.toNat - c.done) c.done)).map (fun j => c.done + j)

/-- The read of an element of a copy (R362). -/
def Cmd.element (c : Cmd) (i : Nat) : Word × Nat := (c.src i, elemSize c.word.toNat)

/-- The reads that the next gathered write needs: those of its elements (R362). -/
def bcPieces (c : Cmd) : List (Word × Nat) := if c.copies then c.nextRun.map c.element else []

/-- Gathers the bytes of the elements in their sector, with whether a poisoned sector feeds them. -/
def gather (w : Who) (cmd : Cmd) : List Nat → Map Byte × Bool → M (Map Byte × Bool)
  | [], x => return x
  | i :: t, x => do
    let e := elemSize cmd.word.toNat
    if cmd.copies then
      let (b, f) ← cmd.take w i (cmd.src i) e
      gather w cmd t (putElem x.1 (cmd.dst i) b, x.2 || f.isSome)
    else gather w cmd t (putElem x.1 (cmd.dst i) (fillBytes cmd.word.toNat e), x.2)

/-- The command has written bytes of a sector that it has read already: the sector stands once more in what it has read, so that each element
still to be written is taken as it was or as it is now (R362). -/
def Cmd.wrote (cmd : Cmd) (base : Place) (bs : List (Nat × Byte)) (bad : Bool) : Cmd :=
  let old := (cmd.got.filter (fun x => samePlace x.place base && !x.bytes.isEmpty)).foldl (fun l x => l.filter (fun y => y.sec != x.sec) ++ [x]) []
  { cmd with got := cmd.got ++ old.map (fun x =>
    { x with bytes := (upTo 32).map (fun i => (mfind bs i).getD (x.bytes.getD i 0)),
             bad := if bad then some { code := 0x20, detail := 0, val := 0 } else if 32 ≤ bs.length then none else x.bad }) }

/-- One gathered write of a command. -/
def bcStep (c : Nat) (cmd : Cmd) : M Cmd := do
  let w := engWho (← get) c .bce cmd
  let run := cmd.nextRun
  let p := cmd.dst cmd.done
  let (bs, bad) ← gather w cmd run ([], false)
  engWrite w p (elemSize cmd.word.toNat) bs bad
  let base := match (check w .w p 1 1).run (← get) with | .ok (pl, _) => (sectorBase pl).1 | .error _ => .notice 0
  let cmd1 := { cmd.wrote base bs bad with done := cmd.done + run.length }
  return if shapeTotal cmd.shape.toNat ≤ cmd1.done then cmd1.ok else cmd1

/-- BC_COPY: one gathered write (R362). -/
def execBcCopy (core : Nat) : State → Out1 := engineStep core .bce (· == 0x11) bcPieces (bcStep core)

/-- BC_FILL: one gathered write (R362). -/
def execBcFill (core : Nat) : State → Out1 := engineStep core .bce (· == 0x12) bcPieces (bcStep core)

end Sys2Proof.Machine
end

