-- ==== Sys2Proof/Machine/Crypto.lean ====
section
/-! DEFINITION. The crypto engine of the root core (R364 to R366, R432): SHA-384, ECDSA P-384 verification, and the random
generator. -/

namespace Sys2Proof.Machine

/-! ## P-384 (FIPS 186-5) -/

/-- The field prime. -/
def ecP : Nat := 2 ^ 384 - 2 ^ 128 - 2 ^ 96 + 2 ^ 32 - 1
/-- The order of the base point. -/
def ecN : Nat := 0xFFFFFFFFFFFFFFFFFFFFFFFFFFFFFFFFFFFFFFFFFFFFFFFFC7634D81F4372DDF581A0DB248B0A77AECEC196ACCC52973
/-- The constant of the curve. -/
def ecB : Nat := 0xB3312FA7E23EE7E4988E056BE3F82D19181D9C6EFE8141120314088F5013875AC656398D8A2ED19D2A85C8EDD3EC2AEF
/-- The base point. -/
def ecG : Nat × Nat :=
  (0xAA87CA22BE8B05378EB1C71EF320AD746E1D3B628BA79B9859F741E082542A385502F25DBF55296C3A545E3872760AB7,
   0x3617DE4A96262C6F5D9E98BF9292DC29F8F41DBD289A147CE9DA3113B5F0B8C00A60B1CE1D7E819D7A431D7C90EA0E5F)

/-- The power `b` to the low `n` bits of `e`, times `acc`, modulo `m`. -/
def powGo (m : Nat) : Nat → Nat → Nat → Nat → Nat
  | 0, _, _, acc => acc
  | n + 1, b, e, acc => powGo m n (b * b % m) (e / 2) (if e % 2 = 1 then acc * b % m else acc)

/-- The inverse modulo a prime of 384 bits. -/
def invMod (m a : Nat) : Nat := powGo m 384 (a % m) (m - 2) 1

/-- a − b modulo the field prime. -/
def subP (a b : Nat) : Nat := (a + ecP - b % ecP) % ecP

/-- A point as X, Y, Z with x = X / Z² and y = Y / Z³; Z = 0 is the point at infinity. -/
abbrev EcPoint := Nat × Nat × Nat

/-- Twice a point. -/
def ecDouble (a : EcPoint) : EcPoint :=
  let (x, y, z) := a
  let d := z * z % ecP
  let g := y * y % ecP
  let b := x * g % ecP
  let l := 3 * subP x d * (x + d) % ecP
  let x3 := subP (l * l) (8 * b)
  (x3, subP (l * subP (4 * b) x3) (8 * g * g), 2 * y * z % ecP)

/-- Sum of two points. -/
def ecAdd (a b : EcPoint) : EcPoint :=
  let (x1, y1, z1) := a
  let (x2, y2, z2) := b
  if z1 = 0 then b
  else if z2 = 0 then a
  else
    let w1 := z1 * z1 % ecP
    let w2 := z2 * z2 % ecP
    let u := x1 * w2 % ecP
    let v := y1 * z2 * w2 % ecP
    let h := subP (x2 * w1) u
    let r := subP (y2 * z1 * w1) v
    if h = 0 then (if r = 0 then ecDouble a else (1, 1, 0))
    else
      let h2 := h * h % ecP
      let h3 := h2 * h % ecP
      let x3 := subP (r * r) (h3 + 2 * u * h2)
      (x3, subP (r * subP (u * h2) x3) (v * h3), h * z1 * z2 % ecP)

/-- `k` times a point, over `n` bits of `k`. -/
def ecMulGo : Nat → Nat → EcPoint → EcPoint → EcPoint
  | 0, _, _, acc => acc
  | n + 1, k, q, acc => ecMulGo n (k / 2) (ecDouble q) (if k % 2 = 1 then ecAdd acc q else acc)

/-- The multiple of an affine point. -/
def ecMul (k : Nat) (q : Nat × Nat) : EcPoint := ecMulGo 384 k (q.1, q.2, 1) (1, 1, 0)

/-- Result of a verification (R365): the checks KEY, RANGE and the equation. -/
def ecVerify (e qx qy r s : Nat) : Nat :=
  if ecP ≤ qx || ecP ≤ qy || (qy * qy) % ecP != subP (qx * qx * qx + ecB) (3 * qx) then 3
  else if r = 0 || ecN ≤ r || s = 0 || ecN ≤ s then 2
  else
    let w := invMod ecN s
    let (x, _, z) := ecAdd (ecMul (e * w % ecN) ecG) (ecMul (r * w % ecN) (qx, qy))
    let i := invMod ecP z
    if z = 0 then 1 else if x * i * i % ecP % ecN = r then 0 else 1

/-! ## Accesses -/

/-- Pieces of [p, p + n) by 32-byte sector, `fuel` of them at most. -/
def pieces : Nat → Word → Nat → List (Word × Nat)
  | 0, _, _ => []
  | fuel + 1, p, n =>
    if n = 0 then []
    else
      let k := Nat.min n (32 - p.toNat % 32)
      (p, k) :: pieces fuel (nextPtr p ((k : Nat) : Int)) (n - k)

/-- Writes the next sector of what a command puts at a pointer; true when it was the last (R351). -/
def crWrite (cmd : Cmd) (ps : List (Word × Nat)) (b : List Byte) : M Bool := do
  match ps[cmd.done]? with
  | none => return true
  | some (p, n) =>
    let d := (b.drop ((ps.take cmd.done).foldl (fun a x => a + x.2) 0)).take n
    let s ← get
    engWrite (engWho s 4096 .crypto cmd) p n ((upTo n).zip d |>.map (fun x => (p.toNat % 32 + x.1, x.2))) false
    return decide (ps.length ≤ cmd.done + 1)

/-- Quad 0 as a pointer. -/
def Cmd.q0 (c : Cmd) : Word := BitVec.ofNat 64 (field c.word.toNat 0 64)
/-- Quad 1 as a pointer. -/
def Cmd.q1 (c : Cmd) : Word := BitVec.ofNat 64 (field c.word.toNat 64 64)

/-! ## CR.SHA (R364) -/

/-- Number of the SHA-384 context of a command. -/
def shaIx (c : Cmd) : Nat := field c.word.toNat 208 2

/-- A SHA-384 context. -/
def State.shaCtx (s : State) (i : Nat) : Option ShaCtx := s.root.sha.toList.getD i none

/-- Replaces a SHA-384 context. -/
def State.setSha (s : State) (i : Nat) (x : Option ShaCtx) : State :=
  if h : i < 4 then { s with root := { s.root with sha := s.root.sha.set i x h } } else s

/-- The mode of the CR.SHA at the head of the crypto queue. -/
def State.shaMode (s : State) : Nat :=
  match s.root.crypto with
  | cmd :: _ => field cmd.word.toNat 210 2
  | [] => 3

/-- CR.SHA INIT. -/
def crShaInit (cmd : Cmd) : M Cmd := do
  modify (fun s => s.setSha (shaIx cmd) (some ShaCtx.init))
  return cmd.ok

/-- What a CR.SHA UPDATE reads. -/
def updatePieces (cmd : Cmd) : List (Word × Nat) :=
  pieces (field cmd.word.toNat 184 24 / 32 + 2) cmd.q0 (field cmd.word.toNat 184 24)

/-- CR.SHA UPDATE. -/
def crShaUpdate (cmd : Cmd) : M Cmd := do
  match (← get).shaCtx (shaIx cmd) with
  | none => raise 0x51 8
  | some x =>
    let b ← cmd.bytes (engWho (← get) 4096 .crypto cmd) (updatePieces cmd)
    modify (fun s => s.setSha (shaIx cmd) (some (x.update b)))
    return cmd.ok

/-- One sector of a CR.SHA FINAL. -/
def crShaFinal (cmd : Cmd) : M Cmd := do
  match (← get).shaCtx (shaIx cmd) with
  | none => raise 0x51 8
  | some x =>
    if ← crWrite cmd (pieces 3 cmd.q0 48) x.final then
      modify (fun s => s.setSha (shaIx cmd) none)
      return cmd.ok
    else return { cmd with done := cmd.done + 1 }

/-- CR_SHA_INIT. -/
def execCrShaInit (s : State) : Out1 :=
  if s.shaMode = 0 then engineStep 4096 .crypto (· == 0x21) (fun _ => []) crShaInit s else .next s

/-- CR_SHA_UPDATE; an uninitialised context ends it with CTX. -/
def execCrShaUpdate (s : State) : Out1 :=
  if s.shaMode = 1 then engineStep 4096 .crypto (· == 0x21) updatePieces crShaUpdate s else .next s

/-- CR_SHA_FINAL: one sector; an uninitialised context ends it with CTX. -/
def execCrShaFinal (s : State) : Out1 :=
  if s.shaMode = 2 then engineStep 4096 .crypto (· == 0x21) (fun _ => []) crShaFinal s else .next s

/-! ## CR.ECV and CR.RNG -/

/-- What a CR.ECV reads. -/
def ecvPieces (cmd : Cmd) : List (Word × Nat) := pieces 9 cmd.q0 240

/-- CR.ECV: the result is written in one access. -/
def ecvStep (cmd : Cmd) : M Cmd := do
  let b ← cmd.bytes (engWho (← get) 4096 .crypto cmd) (ecvPieces cmd)
  let v (i : Nat) : Nat := beNat ((b.drop (48 * i)).take 48)
  let _ ← crWrite cmd (pieces 2 cmd.q1 8) (leBytes 8 (ecVerify (v 0) (v 1) (v 2) (v 3) (v 4)))
  return cmd.ok

/-- CR_ECV (R365). -/
def execCrEcv : State → Out1 := engineStep 4096 .crypto (· == 0x22) ecvPieces ecvStep

/-- One sector of a CR.RNG; a failed health test, or one not yet answered by a reinstantiation, ends it with HEALTH before it writes
(R366, R432). -/
def rngStep (healthy : Bool) (cmd : Cmd) : M Cmd := do
  let s ← get
  let n := field cmd.word.toNat 205 7
  let broken : FaultInfo := { code := 0x51, detail := 9, val := 0 }
  if cmd.done = 0 ∧ s.root.drbgFailed then return cmd.err broken
  else if cmd.done = 0 ∧ !healthy then
    set { s with root := { s.root with drbgFailed := true, drbgFailures := s.root.drbgFailures + 1 } }
    return cmd.err broken
  else
    set { s with root := { s.root with drawn := s.root.drawn + 32 } }
    let b := (upTo 32).map (fun i => Config.random (s.root.drawn + i))
    if ← crWrite cmd (pieces n cmd.q0 (32 * n)) ((upTo (32 * cmd.done)).map (fun _ => 0) ++ b) then return cmd.ok
    else return { cmd with done := cmd.done + 1 }

/-- CR_RNG: one sector (R366). -/
def execCrRng (healthy : Bool) : State → Out1 := engineStep 4096 .crypto (· == 0x23) (fun _ => []) (rngStep healthy)

end Sys2Proof.Machine
end

