-- ==== Sys2Proof/Machine/Mxu.lean ====
section
/-! DEFINITION. The matrix unit (R207 to R209, R353 to R359): its commands, one K-step or one output sector at a time. -/

namespace Sys2Proof.Machine

/-! ## Exact sums (R207, R208) -/

/-- Value of an FP8 element in units of 2^-9; none for a NaN (R192). -/
def fp8Int (b : Nat) : Option Int :=
  let e := field b 3 4
  let m := field b 0 3
  if field b 0 7 = 0x7F then none
  else
    let v : Nat := if e = 0 then m else (8 + m) * 2 ^ (e - 1)
    some (if bitAt b 7 then -(v : Int) else v)

/-- Value of an operand element; `ity` tells INT8 from FP8. -/
def elemVal (ity : Bool) (b : Byte) : Option Int := if ity then some b.toInt else fp8Int b.toNat

/-- The same, a NaN counting as 0 (R353). -/
def elemNum (ity : Bool) (b : Byte) : Int := (elemVal ity b).getD 0

/-- Sum of integers. -/
def sumInt (l : List Int) : Int := l.foldl (· + ·) 0

/-- Row sum of a tile: Σ_j b(i, j). -/
def tileRow (ity : Bool) (t : Memory) (i : Nat) : Int :=
  t.foldl (fun a c => if c.1 / 128 = i then a + elemNum ity c.2 else a) 0

/-- The checksum column of a tile; rows that are not listed have 0 (R353). -/
def tileSums (ity : Bool) (t : Memory) : List (Nat × Int) :=
  ((upTo 128).map (fun i => (i, tileRow ity t i))).filter (fun x => x.2 != 0)

/-- Σ_i a_i × b(i, j). -/
def dot (ity : Bool) (t : Memory) (a : List Int) (j : Nat) : Int :=
  t.foldl (fun s c => if c.1 % 128 = j then s + a.getD (c.1 / 128) 0 * elemNum ity c.2 else s) 0

/-- Column `j` of a tile holds a NaN. -/
def nanCol (ity : Bool) (t : Memory) (j : Nat) : Bool := t.any (fun c => c.1 % 128 == j && (elemVal ity c.2).isNone)

/-! ## Promotion (R209) -/

/-- The value that a group promotes into its accumulator element; `g` is the group sum, and `nan` tells that the group held a
NaN operand. A sum of 0 has no sign; that it counts as +0, so that the term has the sign of the product of the scales, is the model's
choice (log 80). -/
def promote (ity : Bool) (sa sb acc : Nat) (nan : Bool) (g : Int) : Nat :=
  if fp32.isNan sa || fp32.isNan sb || nan then fp32.nan
  else if fp32.isNan acc then acc
  else
    let (p, _) := (fp32.decode sa).mul (fp32.decode sb)
    if (fp32.decode sa).isZero || (fp32.decode sb).isZero then acc
    else match p with
      | .inf s => if g = 0 then fp32.nan else ((Ex.sum 0 [fp32.decode acc, .inf (s != decide (g < 0))]).1.round fp32 0).1
      | _ =>
        let (t, _) := p.mul (Ex.dyadic (decide (g < 0)) g.natAbs (if ity then 0 else -18))
        ((Ex.sum 0 [fp32.decode acc, t]).1.round fp32 0).1

/-! ## A K-step (R356) -/

/-- Group sums of a K-step by row. -/
abbrev Groups := List (List Int)

/-- Adds to element (r, j). -/
def addAt (g : Groups) (r j : Nat) (d : Int) : Groups :=
  setAt g r (setAt (g.getD r []) j ((g.getD r []).getD j 0 + d))

/-- What the checks of a K-step give: sums to promote and whether one was corrected, or none for MXUNCORR. -/
def checkStep (g : Groups) (re ce : List Int) : Option (Groups × Bool) :=
  let rs := g.map sumInt
  let cs := (upTo 128).map (fun j => sumInt (g.map (fun r => r.getD j 0)))
  let parked := (upTo g.length).filter (fun r => rs.getD r 0 != re.getD r 0)
  let bad := (upTo 128).filter (fun j => cs.getD j 0 != ce.getD j 0)
  match parked, bad with
  | [], [] => some (g, false)
  | [r], [j] =>
    let d := rs.getD r 0 - re.getD r 0
    if d = cs.getD j 0 - ce.getD j 0 then
      let g1 := addAt g r j (-d)
      if sumInt (g1.getD r []) = re.getD r 0 ∧ sumInt (g1.map (fun x => x.getD j 0)) = ce.getD j 0 then some (g1, true) else none
    else none
  | _, _ => none

/-- The injection of R340 into the first K-step. -/
def inject (x : Word) (s : Nat) (g : Groups) : Groups :=
  let r := field x.toNat 56 6
  if s = 0 ∧ bitAt x.toNat 63 ∧ r < g.length then addAt g r (field x.toNat 48 7) (sfield x.toNat 48) else g

/-- Elements of an A row. -/
def rowVals (ity : Bool) (a : List Byte) : List Int := a.map (elemNum ity)

/-- A K-step on rows of A. -/
def kStep (m : Macro) (ity : Bool) (inj : Word) (s : Nat) (rows : List (List Byte)) : Option (Groups × Bool) :=
  let as := rows.map (rowVals ity)
  let g := inject inj s (as.map (fun a => (upTo 128).map (dot ity m.tile a)))
  let re := as.map (fun a => sumInt ((upTo 128).map (fun i => a.getD i 0 * mget 0 m.csum i)))
  let sumA := (upTo 128).map (fun i => sumInt (as.map (fun a => a.getD i 0)))
  checkStep g re ((upTo 128).map (dot ity m.tile sumA))

/-- The accumulator after rows promote: group sums, rows of A and their scales (R209). -/
def promoteRows (m : Macro) (ity : Bool) (ab : Nat) (rows : List (List Byte)) (sas : List Nat) (g : Groups)
    (acc : Map (BitVec 32)) : Map (BitVec 32) :=
  (upTo rows.length).foldl (fun acc r =>
    let anan := (rows.getD r []).any (fun b => (elemVal ity b).isNone)
    (upTo 128).foldl (fun acc j =>
      let i := (ab + r) * 128 + j
      mset acc i (BitVec.ofNat 32 (promote ity (sas.getD r 0) m.sb.toNat (mget 0 acc i).toNat (anan || nanCol ity m.tile j)
        ((g.getD r []).getD j 0)))) acc) acc

/-! ## The parts of the MXU -/

/-- A macro of a core's MXU. -/
def Core.mac (co : Core) (i : Nat) : Macro := co.mxu.macros.toList.getD i Macro.init

/-- Replaces a macro. -/
def State.setMacro (s : State) (c i : Nat) (m : Macro) : State :=
  if h : i < 4 then s.modCore c (fun co => { co with mxu := { co.mxu with macros := co.mxu.macros.set i m h } }) else s

/-- Poisons accumulator rows, every sector of each (R85, R353). -/
def State.poisonRows (s : State) (c ab m : Nat) : State :=
  s.modCore c (fun co => { co with mxu := { co.mxu with
    accBad := co.mxu.accBad ++ ((upTo (16 * m)).map (fun r => 16 * ab + r)).filter (fun r => !co.mxu.accBad.contains r) } })

/-- An accumulator row has a poisoned sector. -/
def Mxu.rowBad (x : Mxu) (r : Nat) : Bool := x.accBad.any (fun i => i / 16 == r)

/-- Sets accumulator rows to +0 and clears their poison (R358). -/
def State.zeroRows (s : State) (c ab m : Nat) : State :=
  s.modCore c (fun co => { co with mxu := { co.mxu with
    acc := co.mxu.acc.filter (fun x => !(decide (ab * 128 ≤ x.1) && decide (x.1 < (ab + m) * 128))),
    accBad := co.mxu.accBad.filter (fun r => !(decide (ab ≤ r / 16) && decide (r / 16 < ab + m))) } })

/-! ## MX.LOADB (R354) -/

/-- A tile from the bytes of its rows; zero bytes are not listed. -/
def tileOf (b : List Byte) : Memory := ((upTo b.length).zip b).filter (fun x => x.2 != 0)

/-- The sectors of the four 32-byte parts of a row of 128 bytes. -/
def rowPieces (p : Word) : List (Word × Nat) := (upTo 4).map (fun h => (nextPtr p ((32 * h : Nat) : Int), 32))

/-- The reads of an MX.LOADB: 128 rows, then the scale. -/
def loadbPieces (w : Nat) : List (Word × Nat) :=
  (upTo 128).flatMap (fun (i : Nat) => rowPieces (nextPtr (BitVec.ofNat 64 (field w 0 64)) ((i : Int) * sfield (field w 178 32) 32)))
    ++ [(BitVec.ofNat 64 (field w 64 64), 4)]

/-- MX.LOADB. -/
def loadbStep (c : Nat) (cmd : Cmd) : M Cmd := do
  let w := cmd.word.toNat
  let mac := field w 210 2
  let who := engWho (← get) c .mxu cmd
  match ← attempt who (cmd.bytes who (loadbPieces w)) with
  | .error f =>
    modify (fun s => s.setMacro c mac { Macro.init with ity := cmd.ity, poison := true, cleared := false })
    return cmd.err f
  | .ok b =>
    let t := tileOf (b.take 16384)
    modify (fun s => s.setMacro c mac { tile := t, sb := BitVec.ofNat 32 (leNat (b.drop 16384)), ity := cmd.ity,
                                        csum := tileSums cmd.ity t, poison := false, cleared := false })
    return cmd.ok

/-- MX_LOADB (R354). -/
def execMxLoadb (core : Nat) : State → Out1 := engineStep core .mxu (· == 0x01) (fun cmd => loadbPieces cmd.word.toNat) (loadbStep core)

/-! ## MX.ROWS (R355, R356) -/

/-- The reads of K-step `s` of an MX.ROWS: the segments of the rows of A, then their scales. -/
def rowsPieces (w : Nat) (mscla : Word) (s : Nat) : List (Word × Nat) :=
  let m := field w 205 7
  (upTo m).flatMap (fun (r : Nat) => rowPieces (nextPtr (BitVec.ofNat 64 (field w 0 64))
      ((r : Int) * sfield (field w 162 32) 32 + (128 * s : Nat))))
    ++ (upTo m).map (fun r => (nextPtr mscla ((16 * r + 4 * s : Nat) : Int), 4))

/-- One K-step of an MX.ROWS. -/
def rowsStep (c : Nat) (cmd : Cmd) : M Cmd := do
  let w := cmd.word.toNat
  let m := field w 205 7
  let k := field w 202 3
  let mb := field w 200 2
  let ab := field w 194 6
  let st := cmd.done
  let s ← get
  if st = 0 && (upTo k).any (fun i => !((s.core c).mac (mb + i)).cleared && ((s.core c).mac (mb + i)).ity != cmd.ity) then
    raise 0x51 7
  else
    let mac := (s.core c).mac (mb + st)
    let who := engWho s c .mxu cmd
    let fail (f : FaultInfo) : M Cmd := do
      modify (fun s => s.poisonRows c ab m)
      return cmd.err f
    if mac.poison then fail { code := 0x20, detail := 0, val := 0 }
    else match ← attempt who (cmd.bytes who (rowsPieces w cmd.mscla st)) with
      | .error f => fail f
      | .ok b =>
        let rows := (upTo m).map (fun r => (b.drop (128 * r)).take 128)
        let sas := (upTo m).map (fun r => leNat ((b.drop (128 * m + 4 * r)).take 4))
        match kStep mac cmd.ity cmd.mxinj st rows with
        | none => fail { code := 0x22, detail := 0, val := 0 }
        | some (g, fixed) =>
          modify (fun s =>
            let s1 := (s.modCore c (fun co => { co with mxu := { co.mxu with
              acc := promoteRows mac cmd.ity ab rows sas g co.mxu.acc } })).meterOf c (b2n cmd.ity) (m * 16384)
            match cmd.launch with
            | some l => if fixed then s1.modOn c l (fun o =>
                { o with mxcorr := if o.mxcorr = BitVec.allOnes 32 then o.mxcorr else o.mxcorr + 1 }) else s1
            | none => s1)
          let cmd1 := { cmd with done := st + 1 }
          return if st + 1 = k then cmd1.ok else cmd1

/-- MX_ROWS: one K-step (R355, R356). -/
def execMxRows (core : Nat) : State → Out1 := engineStep core .mxu (· == 0x02)
  (fun cmd => rowsPieces cmd.word.toNat cmd.mscla cmd.done) (rowsStep core)

/-! ## MX.DRAIN (R357) -/

/-- An accumulator element in an output format, as bytes (R199, R204). -/
def drainElem (fmt scale acc : Nat) : List Byte :=
  match fmt with
  | 0 => leBytes 4 acc
  | 1 => leBytes 2 (fpConv fp32 bf16 0 acc).1
  | _ => leBytes 1 (fpToFp8 fp32 0 acc scale).1

/-- AMAX of the enqueuing string after a row converts, while it runs the activation that enqueued the command (R206). -/
def State.drainAmax (s : State) (c : Nat) (cmd : Cmd) (row : List Nat) : State :=
  let t := s.str c cmd.str
  match t.act with
  | some a => if a.id = cmd.actId ∧ cmd.launch = some a.launch then
      s.setStr c cmd.str { t with amax := row.foldl (amaxStep fp32) t.amax } else s
  | none => s

/-- One output sector of an MX.DRAIN. With ZR the row is zeroed once read: here when its last sector, or one that fails, is
written; nothing reads the row between. -/
def drainStep (c : Nat) (cmd : Cmd) : M Cmd := do
  let w := cmd.word.toNat
  let m := field w 205 7
  let ab := field w 199 6
  let fmt := field w 197 2
  let per := rowBytes w / 32
  let r := cmd.done / per
  let h := cmd.done % per
  let s ← get
  let row := (upTo 128).map (fun j => (mget 0 (s.core c).mxu.acc ((ab + r) * 128 + j)).toNat)
  let bad := (s.core c).mxu.rowBad (ab + r)
  if h = 0 ∧ fmt = 2 ∧ !bad then modify (fun s => s.drainAmax c cmd row) else pure ()
  let out := ((row.flatMap (drainElem fmt (field w 135 32))).drop (32 * h)).take 32
  let p := nextPtr (BitVec.ofNat 64 (field w 0 64)) ((r * field w 177 20 + 32 * h : Nat) : Int)
  match ← attempt (engWho s c .mxu cmd) (engWrite (engWho s c .mxu cmd) p 32 ((upTo 32).zip out) bad) with
  | .error f =>
    if bitAt w 243 then modify (fun s => s.zeroRows c (ab + r) 1) else pure ()
    return cmd.err f
  | .ok _ =>
    if h + 1 = per ∧ bitAt w 243 then modify (fun s => s.zeroRows c (ab + r) 1) else pure ()
    let cmd1 := { cmd with done := cmd.done + 1 }
    return if cmd1.done = per * m then cmd1.ok else cmd1

/-- MX_DRAIN: one output sector (R357). -/
def execMxDrain (core : Nat) : State → Out1 := engineStep core .mxu (· == 0x03) (fun _ => []) (drainStep core)

/-! ## MX.ZERO and MX.CHKRD -/

/-- MX.ZERO. -/
def zeroStep (c : Nat) (cmd : Cmd) : M Cmd := do
  let w := cmd.word.toNat
  modify (fun s => s.zeroRows c (field w 199 6) (field w 205 7))
  return cmd.ok

/-- MX_ZERO (R358). -/
def execMxZero (core : Nat) : State → Out1 := engineStep core .mxu (· == 0x04) (fun _ => []) (zeroStep core)

/-- The report of an MX.CHKRD (R359). -/
def chkReport (mac : Nat) (m : Macro) : Nat :=
  let bad := (upTo 128).filter (fun i => tileRow m.ity m.tile i != mget 0 m.csum i)
  let w64 (i : Int) : Nat := (BitVec.ofInt 64 i).toNat
  let first := match bad with
    | i :: _ => w64 (mget 0 m.csum i) * 2 ^ 128 + w64 (tileRow m.ity m.tile i) * 2 ^ 192 + i * 2 ^ 16
    | [] => 0xFF * 2 ^ 16
  mac + bad.length * 2 ^ 8 + first + m.sb.toNat * 2 ^ 32 + (if m.cleared then 0 else b2n m.ity * 2 ^ 64) + b2n m.poison * 2 ^ 65

/-- MX.CHKRD. -/
def chkrdStep (c : Nat) (cmd : Cmd) : M Cmd := do
  let w := cmd.word.toNat
  let s ← get
  let mac := field w 210 2
  engWrite (engWho s c .mxu cmd) (BitVec.ofNat 64 (field w 0 64)) 32
    ((upTo 32).zip (leBytes 32 (chkReport mac ((s.core c).mac mac)))) false
  return cmd.ok

/-- MX_CHKRD (R359). -/
def execMxChkrd (core : Nat) : State → Out1 := engineStep core .mxu (· == 0x05) (fun _ => []) (chkrdStep core)

end Sys2Proof.Machine
end

