-- ==== Sys2Proof/Machine/Queue.lean ====
section
/-! DEFINITION. What the queues of the engines do one access at a time (R133, R135, R350, R352), and the instructions that wait for the
accesses of commands: FENCE (R109, R134, R283), PLBINV and TLBINV (R54, R335). -/

namespace Sys2Proof.Machine

/-! ## The moves of a queue -/

/-- The pieces that the next step of a command reads. -/
def cmdPieces (cmd : Cmd) : List (Word × Nat) :=
  match cmdOp cmd.word.toNat with
  | 0x01 => loadbPieces cmd.word.toNat
  | 0x02 => rowsPieces cmd.word.toNat cmd.mscla cmd.done
  | 0x11 => bcPieces cmd
  | 0x21 => if field cmd.word.toNat 210 2 = 1 then updatePieces cmd else []
  | 0x22 => ecvPieces cmd
  | _ => []

/-- The step of a command. -/
def cmdStep (c : Nat) (cmd : Cmd) : M Cmd :=
  match cmdOp cmd.word.toNat with
  | 0x01 => loadbStep c cmd
  | 0x02 => rowsStep c cmd
  | 0x03 => drainStep c cmd
  | 0x04 => zeroStep c cmd
  | 0x05 => chkrdStep c cmd
  | 0x11 => bcStep c cmd
  | 0x12 => bcStep c cmd
  | 0x21 => if field cmd.word.toNat 210 2 = 0 then crShaInit cmd else if field cmd.word.toNat 210 2 = 1 then crShaUpdate cmd
      else crShaFinal cmd
  | 0x22 => ecvStep cmd
  | _ => rngStep true cmd

/-- Piece `i` of all that a command reads, from its present step on. -/
def cmdPiece (cmd : Cmd) (i : Nat) : Option (Word × Nat) :=
  let w := cmd.word.toNat
  match cmdOp w with
  | 0x02 => if cmd.done + i / (5 * field w 205 7) < field w 202 3 then
      (rowsPieces w cmd.mscla (cmd.done + i / (5 * field w 205 7)))[i % (5 * field w 205 7)]? else none
  | 0x11 => if cmd.done + i < shapeTotal cmd.shape.toNat then some (cmd.element (cmd.done + i)) else none
  | _ => (cmdPieces cmd)[i]?

/-- The commands of a queue that may read now: the head, unless it waits for a ring or for earlier accesses of its string, and those behind it up
to one that has such a wait before it (R133, R134, R352). -/
def readers (s : State) (c : Nat) : List Cmd → List Cmd
  | [] => []
  | cmd :: rest =>
    if !s.engineLive c cmd (cmd.mustFinish (cmdPieces cmd)) || !waitOver (s.core c) cmd || !s.cmdReleased c cmd then []
    else cmd :: rest.takeWhile (fun x => s.engineLive c x false && (x.waitOn.isNone || x.waited) && s.cmdReleased c x)

/-- The reads that the commands of a queue need for their next steps, by the number of the command. -/
def readChoices (s : State) (c : Nat) (q : List Cmd) : List (Nat × Word × Nat) :=
  let rs := readers s c q
  (upTo rs.length).flatMap (fun j => match rs[j]? with
    | some cmd => if cmd.fin.isSome then [] else (cmd.unread (cmdPieces cmd)).map (fun x => (j, x))
    | none => [])

/-- A sector that is read ahead of its need, in any order: a free value says whether, and which (R133, R135; log 54). -/
def readAhead (s : State) (c : Nat) (q : List Cmd) : Option (Nat × Word × Nat) :=
  let n := Config.ahead s.tick
  let rs := readers s c q
  let j := (n - 1) % rs.length
  if n = 0 then none else match rs[j]? with
    | some cmd => if cmd.fin.isSome then none else match cmdPiece cmd ((n - 1) / rs.length) with
      | some x => if cmd.has x.1 then none else some (j, x)
      | none => none
    | none => none

/-- The command at the head can take its step: it has read what the step needs, and its earlier writes have performed. -/
def stepReady (s : State) (c : Nat) (e : Engine) : List Cmd → Bool
  | [] => false
  | cmd :: _ => cmd.fin.isNone && s.cmdReleased c cmd && !(s.core c).awaitsWrite (engId e cmd) && s.engineLive c cmd (cmd.mustFinish (cmdPieces cmd)) && waitOver (s.core c) cmd
      && (cmd.unread (cmdPieces cmd)).isEmpty

/-- The command at the head waits only for the host to show that its string's earlier stores have arrived, which is to be asked (R134, R147). -/
def headFlush (s : State) (c : Nat) : List Cmd → Bool
  | [] => false
  | cmd :: _ => cmd.fin.isNone && s.engineLive c cmd false && (s.str c cmd.str).wantsFlush cmd.after

/-- An engine has something to do. -/
def engineDue (s : State) (c : Nat) (e : Engine) : Bool :=
  headFlush s c (s.engQueue c e) || stepReady s c e (s.engQueue c e) || !(readChoices s c (s.engQueue c e)).isEmpty

/-- One access of an engine, or the step of the command at its head, or the read from the host that it waits for: free values pick among those that may come now (R133, R135;
log 54). -/
def engineMove (c : Nat) (e : Engine) (s : State) : State :=
  let q := s.engQueue c e
  let reads := readChoices s c q
  let n := reads.length + b2n (stepReady s c e q)
  if headFlush s c q then (match q with | cmd :: _ => s.askFlush c cmd.str | [] => s)
  else match (match readAhead s c q with | some x => some x | none => reads[Config.pick s.tick % n]?) with
  | some (j, p, k) => s.readPiece c e j p k
  | none => if stepReady s c e q then s.headStep c e (match q with | cmd :: _ => cmdPieces cmd | [] => []) (cmdStep c) else s

/-- The oldest write of an engine of a core to another package has performed (R136). -/
def State.writeAnswered (s : State) (c : Nat) : State :=
  match (s.core c).misses.find? Miss.isWrite with
  | some m => s.modCore c (fun co => { co with misses := co.misses.erase m })
  | none => s

/-! ## What commands have still to access (R109, R134) -/

/-- Some number below `n`, from `i` on, passes the test. -/
def anyFrom (f : Nat → Bool) : Nat → Nat → Bool
  | 0, _ => false
  | n + 1, i => f i || anyFrom f n (i + 1)

/-- The home of an access of a command through a pointer, its rights aside; none if it has none. -/
def peekHome (s : State) (w : Who) (p : Word) : Option Place :=
  if w.core == 4096 then (match rootPlace p 1 with | .ok pl => some pl | .error _ => none)
  else if ptrSpace p = 3 then (match slicePlace s w .r p 1 with | .ok pl => some pl | .error _ => none)
  else if ptrPkg p ≠ s.pkg then some (.remote (ptrPkg p) (ptrOff p))
  else match (s.core w.core).part with
    | none => none
    | some n => match walk s.seen (s.part n) (ptrOff p) with
      | .ok e => if e.host then some (.host w.fn (e.target + (ptrOff p - e.va)) 0) else some (.phys (e.target + (ptrOff p - e.va)))
      | .error _ => none

/-- Some read that a command has still to make passes a test on its pointer. -/
def Cmd.anyRead (cmd : Cmd) (g : Word → Bool) : Bool :=
  let w := cmd.word.toNat
  let f (p : Word) : Bool := !cmd.has p && g p
  match cmdOp w with
  | 0x02 => anyFrom (fun st => (rowsPieces w cmd.mscla st).any (fun x => f x.1)) (field w 202 3 - cmd.done) cmd.done
  | 0x11 => anyFrom (fun i => f (cmd.src i)) (shapeTotal cmd.shape.toNat - cmd.done) cmd.done
  | _ => (cmdPieces cmd).any (fun x => f x.1)

/-- Some write that a command has still to make passes a test on its pointer. -/
def Cmd.anyWrite (cmd : Cmd) (f : Word → Bool) : Bool :=
  let w := cmd.word.toNat
  match cmdOp w with
  | 0x03 =>
    let per := rowBytes w / 32
    anyFrom (fun i => f (nextPtr cmd.q0 ((i / per * field w 177 20 + 32 * (i % per) : Nat) : Int))) (per * field w 205 7 - cmd.done) cmd.done
  | 0x05 => f cmd.q0
  | 0x11 => anyFrom (fun i => f (cmd.dst i)) (shapeTotal cmd.shape.toNat - cmd.done) cmd.done
  | 0x12 => anyFrom (fun i => f (cmd.dst i)) (shapeTotal cmd.shape.toNat - cmd.done) cmd.done
  | 0x21 => field w 210 2 == 2 && ((pieces 3 cmd.q0 48).drop cmd.done).any (fun x => f x.1)
  | 0x22 => f cmd.q1
  | 0x23 => ((pieces (field w 205 7) cmd.q0 (32 * field w 205 7)).drop cmd.done).any (fun x => f x.1)
  | _ => false

/-- A command of a string has still to read, or to write, at a home within a scope (R109, R134, R283). -/
def cmdsOpen (s : State) (c k : Nat) (sc : Scope) (reads writes : Bool) : Bool :=
  [Engine.mxu, Engine.bce, Engine.crypto].any (fun e =>
    (if e = .crypto ∧ c ≠ 4096 then [] else s.engQueue c e).any (fun cmd =>
      let hit (p : Word) : Bool := match peekHome s (engWho s c e cmd) p with
        | some pl => inScope c sc pl
        | none => false
      cmd.str == k && ((s.core c).misses.any (fun m => match m with
          | .data i pl => reads && i == engId e cmd && inScope c sc pl
          | .write i pl _ => writes && i == engId e cmd && inScope c sc pl
          | _ => false)
        || (cmd.fin.isNone && ((reads && cmd.anyRead hit) || (writes && cmd.anyWrite hit))))))

/-- Earlier accesses of the executing string within a scope have performed: loads, with atomics, where `loads`; stores, with atomics and
pushes, where `stores`; and those of the commands that it enqueued (R109, R134; log 16). That pushed elements count among the stores is the model's choice (log 74). -/
def fenceDone (s : State) (sc : Scope) (loads stores : Bool) : Bool :=
  let t := s.curStr
  let hit (e : SectorEv) : Bool := inScope s.cur.1 sc e.place
  !t.lds.any (fun l => (loads || l.isAtomic) && l.evs.any hit)
    && (!stores || (!t.sb.any (fun x => x.evs.any hit) && !t.pushAny hit))
    && !cmdsOpen s s.cur.1 s.cur.2 sc loads stores

/-- FENCE (R109, R134, R283). The kind has LL at bit 0, LS, SL and SS at bit 3. It may retire behind loads that it does not order. -/
def execFence (kind : BitVec 4) (sc : Scope) : State → Out1 := runInstr do
  let s ← get
  await (fenceDone s sc (kind.getLsbD 0 || kind.getLsbD 1) (kind.getLsbD 2 || kind.getLsbD 3))
  modStr Str.passLoads
  return .step

/-- Waits as a FENCE with SL and SS at SYS scope does (R335). -/
def storesDone : M Unit := do await (fenceDone (← get) .sys false true)

/-! ## PLBINV and TLBINV (R54, R335) -/

/-- PLBINV for one owner (R54, R335). -/
def execPlbinv (ra : XReg) : State → Out1 := runInstr do
  monitorOnly
  settle (xRegs [ra])
  storesDone
  let t ← theStr
  modify (fun s => s.modPeers (fun co => co.dropRights (· == field (t.getX ra).toNat 0 14) (fun o _ => o == field (t.getX ra).toNat 0 14)))
  return .step

/-- PLBINV ALL (R54, R335). -/
def execPlbinvAll : State → Out1 := runInstr do
  monitorOnly
  settle []
  storesDone
  modify (fun s => s.modPeers (fun co => co.dropRights (fun _ => true) (fun _ _ => true)))
  return .step

/-- The place was reached through a translation. -/
def translated : Place → Bool
  | .phys _ => true
  | .host _ _ _ => true
  | _ => false

/-- No access that used a translation is outstanding on a core. -/
def Core.noneTranslated (co : Core) : Bool :=
  co.strs.all (fun p => p.2.sb.all (fun x => x.evs.all (fun e => !translated e.place))
    && p.2.lds.all (fun l => l.evs.all (fun e => !translated e.place))
    && p.2.st.toList.all (fun x => match x with
      | some x => x.pushes.all (fun u => u.evs.all (fun e => !translated e.place))
      | none => true))
  && co.misses.all (fun m => match m with | .data _ p => !translated p | _ => true)

/-- No access that used a translation is outstanding on a core of the executing string's partition. -/
def State.peersQuiet (s : State) : Bool :=
  match s.curCore.part with
  | some p => (s.part p).cores.all (fun c => (s.core c).noneTranslated)
  | none => s.curCore.noneTranslated

/-- TLBINV (R35, R335). The model removes the entries once no access that used a translation is outstanding in the partition,
which is an order that the rule allows (log 21). -/
def execTlbinv (ra rb : XReg) : State → Out1 := runInstr do
  monitorOnly
  settle (xRegs [ra, rb])
  storesDone
  let s ← get
  let t := s.curStr
  await s.peersQuiet
  let p := t.getX ra
  let n := (t.getX rb).toNat
  if n = 0 then modify (fun s => s.modPeers (fun co => co.dropPages 0 (2 ^ 46)))
  else if ptrPkg p = s.pkg ∧ ptrSpace p < 2 then modify (fun s => s.modPeers (fun co => co.dropPages (ptrOff p) n))
  else pure ()
  return .step

end Sys2Proof.Machine
end

