-- ==== Sys2Proof/Machine/SaveArea.lean ====
section
/-! DEFINITION. The save area of a VF (R368 to R370, R383, R189): what a core writes there as bytes when it saves the VF, and what it
reads back. -/

namespace Sys2Proof.Machine

/-! ## What is saved -/

/-- Launches of a VF resident on a core, with what they hold. -/
def State.vfRes (s : State) (c f : Nat) : List (Nat × OnCore) :=
  (s.core c).res.filter (fun r => (s.launch r.1).map (·.vf) == some f)

/-- Those that have not ended (R382). -/
def State.vfLive (s : State) (c f : Nat) : List (Nat × OnCore) :=
  (s.vfRes c f).filter (fun r => match s.launch r.1 with
    | some l => (match l.phase with | .ending _ _ _ => false | _ => true)
    | none => false)

/-- Strings that the launches of a VF hold on a core. -/
def State.vfStrs (s : State) (c f : Nat) : List Nat := (s.vfRes c f).flatMap (fun r => r.2.strs)

/-- A stopped instruction is abandoned, to be issued again; a stalled RWAIT goes on with its wait, or without the ring that it has lost, and an
arrival at a barrier stays (R286, R322, R380 step 4). -/
def Str.abandon (t : Str) : Str :=
  { t with inHand := [], routed := false, wait := match t.wait with
      | .bar g => .bar g
      | .ring g j => .ring g j
      | .ringLost => .ringLost
      | _ => .none }

/-- A command as it is saved: what it has read for work not yet begun is discarded, and its head's progress stays (R367, R369). -/
def Cmd.stopped (cmd : Cmd) : Cmd := { cmd with got := [] }

/-- The head of the MXU's queue as it is saved, with whether its wait for a ring has ended (R352, R368). -/
def headStopped (co : Core) : List Cmd → List Cmd
  | [] => []
  | h :: t => { h with waited := waitOver co h } :: t

/-- The cycle at which SWITCH came to a core, from which the VF counts as descheduled (R189, R337). -/
def Core.switchedAt (co : Core) : Word := match co.sw with | .told _ _ since => since | _ => co.cycle

/-- What a core saves of a VF; a launch that has ended is not saved (R382). -/
def State.saveBlock (s : State) (c f : Nat) : SaveBlock :=
  let co := s.core c
  let live := s.vfLive c f
  let ks := live.flatMap (fun r => r.2.strs)
  let ls := live.map (·.1)
  let mine (x : Option Nat) : Bool := match x with | some l => ls.contains l | none => false
  { live := ls, strs := ks.map (fun k => (k, (co.str k).abandon)), records := co.records.filter (fun r => ls.contains r.launch),
    rings := co.rings.filter (fun r => (ringsOf ks).contains r.1),
    bce := (co.bce.filter (fun x => mine x.launch)).map Cmd.stopped,
    mxu := if mine co.mxu.holder then { co.mxu with queue := (headStopped co co.mxu.queue).map Cmd.stopped } else Mxu.init,
    cycle := co.switchedAt }

/-! ## Bytes -/

/-- A number of `n` bytes at an offset. -/
abbrev Piece := Nat × Nat × Nat

/-- The bytes of pieces. -/
def pieceBytes (l : List Piece) : Memory := l.foldl (fun m x => m.putNum x.1 x.2.1 x.2.2) []

/-- Pieces moved by an offset. -/
def movePieces (d : Nat) (l : List Piece) : List Piece := l.map (fun x => (x.1 + d, x.2))

/-- A number with the bits of a list set. -/
def bitSet (l : List Nat) : Nat := l.foldl (fun a i => a ||| 2 ^ i) 0

/-- The launch record of the header; its inner offsets are the model's own (log 18). -/
def launchPieces (pkg i : Nat) (l : Launch) (o : OnCore) (holds : Bool) : List Piece :=
  movePieces (0x100 + 0x100 * i) ([(0, 8, l.serial.toNat), (8, 4, bitSet o.strs), (12, 4, o.wbase), (16, 4, l.winBytes), (20, 4, bitSet o.strs),
    (24, 4, b2n holds), (32, 8, o.mask.toNat), (40, 8, o.mxcorr.toNat), (48, 8, o.opcnt.toNat), (56, 8, Nat.min (o.wearu / 2 ^ 24) (2 ^ 64 - 1)),
    (128, 8, (slicePtr pkg o.lcore l.spillOff).toNat), (136, 8, l.qspn)] ++ (upTo 8).map (fun j => (64 + 8 * j, 8, (regionPtr pkg j l o).toNat)))

/-- A stream: its descriptor, position and unpopped elements (R326). -/
def streamPieces (i : Nat) (x : Stream) : List Piece :=
  movePieces (0xA80 + 128 * i) ([(0, 8, x.base.toNat), (64, 8, x.pos), (72, 2, x.owner.toNat), (38, 1, b2n x.dst)]
    ++ (upTo 5).map (fun d => (8 + 4 * d, 4, (x.strides.toList.getD d 0).toNat)) ++ (upTo 5).map (fun d => (28 + 2 * d, 2, (x.extents.toList.getD d 0).toNat)))
    ++ (upTo 8).filterMap (fun j => match mfind x.fetched (x.pos + j) with
      | some (.data v) => some (0x1000 + 512 * i + 64 * j, 64, v.toNat)
      | _ => none)

/-- A message of the outbox: its payload, handler, operator, count flag and key; its destination; and the argument of an ARM. -/
def msgNum (m : Msg) : Nat :=
  m.payload.toNat + (m.hid + m.op * 2 ^ 6 + b2n m.cnt * 2 ^ 10 + m.key.toNat * 2 ^ 11) * 2 ^ 256
    + (match m.dest with | .host => 0xFFFF | .core n => n) * 2 ^ 320
    + (match m.arm with | some a => a.toNat * 2 ^ 352 + 2 ^ 384 | none => 0)

/-- A string; its inner offsets are the model's own (log 18). -/
def strPieces (t : Str) : List Piece :=
  [(0, 8, t.pc.toNat)] ++ (upTo 31).map (fun i => (8 * (i + 1), 8, (t.x.toList.getD (i + 1) 0).toNat))
    ++ (upTo 32).map (fun i => (0x200 + 64 * i, 64, (t.v.toList.getD i 0).toNat))
    ++ (upTo 7).map (fun i => (0xA00 + 8 * (i + 1), 8, (t.m.toList.getD (i + 1) 0).toNat))
    ++ (upTo 4).flatMap (fun i => match t.st.toList.getD i none with | some x => streamPieces i x | none => [])
    ++ movePieces 0xC80 [(0, 1, t.jord.toNat), (1, 1, t.fflg.toNat), (2, 2, t.jflg.toNat), (4, 1, t.vrnd.toNat), (8, 8, t.amax.toNat),
        (16, 1, b2n t.mfmt), (24, 8, t.mscla.toNat), (32, 8, t.mxinj.toNat), (40, 2, t.owner.toNat),
        (48, 8, match t.act with | some a => a.word.toNat | none => 0)]
    ++ (match t.act with
      | some a => (upTo a.outbox.length).filterMap (fun j => (a.outbox[j]?).map (fun m => (0x1800 + 64 * j, 64, msgNum m)))
      | none => [])

/-- The records of the slots, in the format of R187. -/
def recPieces (l : List Rec) : List Piece :=
  let q := l.filter (fun r => r.spill.isNone)
  (upTo q.length).filterMap (fun i => (q[i]?).map (fun r => (0x9000 + 64 * i, 64, spillBits r)))

/-- A ring; of the filled bits, those that 32 bytes hold (log 18). -/
def ringPieces (g : Nat) (r : Ring) : List Piece :=
  movePieces (0xD000 + 32 * g) [(0, 1, b2n r.v), (1, 1, r.s), (2, 2, r.pend), (4, 4, r.l.toNat), (8, 4, r.a.toNat),
    (16, 16, bitSet (r.filled.filter (fun i => decide (i < 128))))]

/-- The BCE record (R369). -/
def bcePieces (q : List Cmd) : List Piece :=
  movePieces 0xD800 ([(0, 2, 1 + q.length * 2 ^ 8)] ++ (upTo q.length).flatMap (fun i => match q[i]? with
    | some c => movePieces (0x40 + 128 * i) [(0, 32, c.word.toNat), (32, 64, c.shape.toNat), (96, 8, c.done),
        (104, 8, c.owner.toNat + (match c.ring with | some (_, j) => j.toNat | none => 0) * 2 ^ 32)]
    | none => []))

/-- Next K-step of an MX.ROWS or next row of an MX.DRAIN (R368). -/
def Cmd.stepNo (c : Cmd) : Nat := if cmdOp c.word.toNat = 0x03 then c.done / (rowBytes c.word.toNat / 32) else c.done

/-- The header of the MXU stop record (R368). -/
def mxuHeader (x : Mxu) : Nat :=
  let (st, ws) := match x.queue with
    | c :: _ => (c.stepNo, b2n (c.waited && c.waitOn.isSome))
    | [] => (0, 0)
  1 + ws * 2 ^ 40 + st * 2 ^ 41 + x.queue.length * 2 ^ 48 + x.err.toNat * 2 ^ 56

/-- The MXU stop record, tiles and accumulators apart (R368). -/
def mxuPieces (x : Mxu) : List Piece :=
  movePieces 0xE000 ([(0, 8, mxuHeader x)]
    ++ (upTo 4).map (fun i =>
      let m := x.macros.toList.getD i Macro.init
      (0x40 + 64 * i, 8, m.sb.toNat + b2n m.ity * 2 ^ 32 + b2n m.poison * 2 ^ 33 + b2n m.cleared * 2 ^ 34))
    ++ (upTo x.queue.length).flatMap (fun i => match x.queue[i]? with
      | some c => movePieces (0x140 + 64 * i) [(0, 32, c.word.toNat), (32, 8, c.owner.toNat),
          (40, 8, b2n c.ity + (match c.waitOn with | some (_, j) => j.toNat | none => 0) * 2 ^ 32), (48, 8, c.mscla.toNat), (56, 8, c.mxinj.toNat)]
      | none => []))

/-- Accumulator elements as bytes, by offset. -/
def accBytes (x : Mxu) : Memory :=
  x.acc.flatMap (fun e => ((upTo 4).zip (leBytes 4 e.2.toNat)).map (fun b => (4 * e.1 + b.1, b.2)))

/-- The block of a core (R383), its slice apart. -/
def blockBytes (s : State) (c f : Nat) (b : SaveBlock) : Memory :=
  let co := s.core c
  let live := s.vfLive c f
  let v := co.vfc f
  let ps := [(0, 1, 1)]
    ++ (upTo live.length).flatMap (fun i => match live[i]? with
      | some (j, o) => (match s.launch j with | some l => launchPieces s.pkg i l o (b.mxu.holder == some j) | none => [])
      | none => [])
    ++ b.strs.flatMap (fun p => movePieces (0x1000 + 0x2000 * p.1) (strPieces p.2)) ++ recPieces b.records
    ++ b.rings.flatMap (fun g => ringPieces g.1 g.2) ++ bcePieces b.bce ++ mxuPieces b.mxu
    ++ [(0x27000, 1, b2n v.amofb), (0x27008, 8, v.vtime.toNat), (0x27010, 8, v.stolen.toNat)]
  let m := (pieceBytes ps).splice 0xF000 0x8000 ((accBytes b.mxu).shift 0xF000)
  (upTo 4).foldl (fun m i => m.splice (0x17000 + 0x4000 * i) 0x4000
    ((b.mxu.macros.toList.getD i Macro.init).tile.shift (0x17000 + 0x4000 * i))) m

/-! ## The block in memory -/

/-- Address of the block of a core in the save area of a VF (R383). -/
def State.blockBase (s : State) (c f : Nat) : Nat :=
  let rank := match (s.core c).part with
    | some p => ((s.part p).cores.filter (fun d => decide (d < c))).length
    | none => 0
  (s.vf f).save + rank * 0xA8000

/-- The sequencers of a core move the block of a VF over the mesh, and no copy of it stands elsewhere (R76, R170). -/
def State.blockTraffic (s : State) (c f : Nat) : State :=
  match (s.core c).part with
  | some p => s.backAll.trafficTo (coreUnit c) (s.blockBase c f) 0xA8000 p
  | none => s.backAll

/-- Marks of the sectors of a range, as another place takes them over (R84): its first sector is that of `dst`. -/
def moveMarks (b : List (Nat × Poison)) (a n dst : Nat) : List (Nat × Poison) :=
  (b.filter (fun x => overlaps a n (32 * x.1) 32)).map (fun x => (x.1 - a / 32 + dst / 32, .poisoned))

/-- Adds marks. -/
def addMarks (b l : List (Nat × Poison)) : List (Nat × Poison) := l.foldl (fun m x => mset m x.1 x.2) b

/-- A byte of the slice of a core lies in the window of one of some launches. -/
def State.inWindows (s : State) (l : List (Nat × OnCore)) (o : Nat) : Bool :=
  l.any (fun r => match s.launch r.1 with
    | some v => overlaps r.2.wbase v.winBytes o 1
    | none => false)

/-- The save sequencer writes a block: its bytes, with the slice in physical order, but for the windows of launches that have ended; bad sectors
of the slice and of the accumulators are saved as poisoned ones, and what falls in a listed span is discarded (R84, R89, R368, R382, R383). -/
def State.writeBlock (s0 : State) (c f : Nat) (b : SaveBlock) : State :=
  let s := s0.blockTraffic c f
  let a := s.blockBase c f
  let mine := s.inWindows (s.vfLive c f)
  let slice : Memory := (s.mem.part (sliceFlat c 0) 0x80000).filter (fun y => mine y.1)
  let x := (blockBytes s c f b).splice 0x28000 0x80000 (slice.shift 0x28000)
  let marks := moveMarks (s.bad.filter (fun y => mine (32 * y.1 - sliceFlat c 0))) (sliceFlat c 0) 0x80000 (a + 0x28000)
    ++ b.mxu.accBad.map (fun i => ((a + 0xF000) / 32 + i, .poisoned))
  ({ s with mem := s.outsideSpans a 0xA8000 (s.mem.splice a 0xA8000 (x.shift a)), bad := addMarks (clearMarks s.bad a 0xA8000) marks } : State).touchRange
    a 0xA8000

/-! ## Reading it back (R370, R189) -/

/-- A message of the outbox as its entry gives it. -/
def readMsg (v : Nat) (m : Msg) : Msg :=
  { m with payload := BitVec.ofNat 256 v, hid := field v 256 6, op := field v 262 4, cnt := bitAt v 266, key := BitVec.ofNat 40 (field v 267 40),
           dest := if field v 320 16 = 0xFFFF then .host else .core (field v 320 16),
           arm := if bitAt v 384 then some (BitVec.ofNat 32 (field v 352 32)) else none }

/-- A stream as its descriptor in a string at `a` gives it, with the elements that the string holds. -/
def readStream (m : Memory) (a i : Nat) (x : Stream) : Stream :=
  let d := a + 0xA80 + 128 * i
  { x with base := BitVec.ofNat 64 (m.num d 8), pos := m.num (d + 64) 8, owner := BitVec.ofNat 14 (m.num (d + 72) 2), dst := bitAt (m.num (d + 38) 1) 0,
           strides := Vector.ofFn (fun k : Fin 5 => BitVec.ofNat 32 (m.num (d + 8 + 4 * k.val) 4)),
           extents := Vector.ofFn (fun k : Fin 5 => BitVec.ofNat 16 (m.num (d + 28 + 2 * k.val) 2)),
           fetched := x.fetched.map (fun e => match e.2 with
             | .data _ => if e.1 - x.pos < 8 then (e.1, .data (BitVec.ofNat 512 (m.num (a + 0x1000 + 512 * i + 64 * (e.1 - x.pos)) 64))) else e
             | .bad _ => e) }

/-- A string as its bytes at `a` give it. -/
def readStr (m : Memory) (a : Nat) (t : Str) : Str :=
  let n (o k : Nat) : Nat := m.num (a + o) k
  { t with pc := BitVec.ofNat 64 (n 0 8), x := Vector.ofFn (fun i : Fin 32 => if i.val = 0 then t.x[0] else BitVec.ofNat 64 (n (8 * i.val) 8)),
           v := Vector.ofFn (fun i : Fin 32 => BitVec.ofNat 512 (n (0x200 + 64 * i.val) 64)),
           m := Vector.ofFn (fun i : Fin 8 => if i.val = 0 then t.m[0] else BitVec.ofNat 64 (n (0xA00 + 8 * i.val) 8)),
           st := Vector.ofFn (fun i : Fin 4 => t.st[i].map (readStream m a i.val)),
           jord := BitVec.ofNat 2 (n 0xC80 1), fflg := BitVec.ofNat 5 (n 0xC81 1), jflg := BitVec.ofNat 15 (n 0xC82 2),
           vrnd := BitVec.ofNat 2 (n 0xC84 1), amax := BitVec.ofNat 33 (n 0xC88 8), mfmt := bitAt (n 0xC90 1) 0,
           mscla := BitVec.ofNat 64 (n 0xC98 8), mxinj := BitVec.ofNat 64 (n 0xCA0 8), owner := BitVec.ofNat 14 (n 0xCA8 2),
           act := t.act.map (fun x => { x with outbox := (upTo x.outbox.length).filterMap (fun j => (x.outbox[j]?).map (readMsg (n (0x1800 + 64 * j) 64))) }) }

/-- A ring as its entry at `a` gives it; of the filled bits, those that its bytes hold (log 18). -/
def readRing (m : Memory) (a : Nat) (r : Ring) : Ring :=
  { v := bitAt (m.num a 1) 0, s := m.num (a + 1) 1, pend := m.num (a + 2) 2, l := BitVec.ofNat 32 (m.num (a + 4) 4), a := BitVec.ofNat 32 (m.num (a + 8) 4),
    filled := r.filled.filter (fun i => decide (128 ≤ i) || bitAt (m.num (a + 16) 16) i) }

/-- A saved string takes its place again; the monitor bank and the trap registers are the core's own (R343). -/
def Str.resume (t saved : Str) : Str :=
  { saved with xm := t.xm, trapc := t.trapc, trapv := t.trapv, trappc := t.trappc, seq := Nat.max t.seq saved.seq }

/-- A saved record keeps its age: its since value moves by the cycles it was descheduled, from `saved` on or, where it became runnable
after that, from then on (R189). -/
def Rec.resume (r : Rec) (saved now : Word) : Rec :=
  if !r.runnable then r
  else if (r.since - saved).toNat < 2 ^ 63 then { r with since := now } else { r with since := r.since + (now - saved) }

/-- A command of the BCE as its entry gives it. -/
def readBce (m : Memory) (a : Nat) (c : Cmd) : Cmd :=
  { c with word := BitVec.ofNat 256 (m.num a 32), shape := BitVec.ofNat 512 (m.num (a + 32) 64), done := m.num (a + 96) 8,
           owner := BitVec.ofNat 14 (m.num (a + 104) 2), ring := c.ring.map (fun g => (g.1, BitVec.ofNat 32 (m.num (a + 108) 4))) }

/-- A command of the MXU as its entry gives it. -/
def readMx (m : Memory) (a : Nat) (c : Cmd) : Cmd :=
  { c with word := BitVec.ofNat 256 (m.num a 32), owner := BitVec.ofNat 14 (m.num (a + 32) 2), ity := bitAt (m.num (a + 40) 1) 0,
           waitOn := c.waitOn.map (fun g => (g.1, BitVec.ofNat 32 (m.num (a + 44) 4))), mscla := BitVec.ofNat 64 (m.num (a + 48) 8),
           mxinj := BitVec.ofNat 64 (m.num (a + 56) 8) }

/-- The commands of a queue, each from its entry of `n` bytes. -/
def readQueue (f : Nat → Cmd → Cmd) (a n : Nat) (q : List Cmd) : List Cmd := (upTo q.length).filterMap (fun i => (q[i]?).map (f (a + n * i)))

/-- A macro as its record gives it; its checksum column is formed anew from the tile. -/
def readMacro (m : Memory) (a i : Nat) : Macro :=
  let h := m.num (a + 0x40 + 64 * i) 8
  let tile := m.part (a + 0x9000 + 0x4000 * i) 0x4000
  { tile := tile, sb := BitVec.ofNat 32 h, ity := bitAt h 32, csum := tileSums (bitAt h 32) tile, poison := bitAt h 33, cleared := bitAt h 34 }

/-- The head of the queue goes on at its step; it waits again unless its wait had ended. -/
def resumeHead (h : Nat) : List Cmd → List Cmd
  | [] => []
  | c :: t =>
    let st := field h 41 7
    { c with done := if cmdOp c.word.toNat = 0x03 then st * (rowBytes c.word.toNat / 32) else st, waited := bitAt h 40 || c.waitOn.isNone } :: t

/-- The MXU as its stop record at `a` gives it. -/
def readMxu (m : Memory) (bad : List (Nat × Poison)) (a : Nat) (x : Mxu) : Mxu :=
  let h := m.num a 8
  { holder := x.holder, macros := Vector.ofFn (fun i : Fin 4 => readMacro m a i.val),
    acc := (m.part (a + 0x1000) 0x8000).foldl (fun l b => mmod 0 l (b.1 / 4) (fun v => v + BitVec.ofNat 32 (b.2.toNat * 256 ^ (b.1 % 4)))) [],
    accBad := (bad.filter (fun y => overlaps (a + 0x1000) 0x8000 (32 * y.1) 32)).map (fun y => y.1 - (a + 0x1000) / 32),
    queue := resumeHead h (readQueue (readMx m) (a + 0x140) 64 x.queue), err := BitVec.ofNat 8 (field h 56 8) }

/-- The records of the slots from their entries, with the age that they had. The marks of the entries' sectors are not looked at, and a record
whose entry fails its check is taken from the data beside the bytes: both are the model's choice (log 18). -/
def readRecs (m : Memory) (a : Nat) (saved now : Word) (l : List Rec) : List Rec :=
  let q := l.filter (fun r => r.spill.isNone)
  ((upTo q.length).filterMap (fun i => (q[i]?).map (fun r => ((spillRead r (m.num (a + 0x9000 + 64 * i) 64)).getD r).resume saved now)))
    ++ l.filter (fun r => r.spill.isSome)

/-- Numbers without a repetition of the one before. -/
def dropRepeats : List Nat → List Nat
  | [] => []
  | a :: t => match t with
    | [] => [a]
    | b :: _ => if a = b then dropRepeats t else a :: dropRepeats t

/-- Launches whose state a block holds and that have not ended since (R382). -/
def State.kept (s : State) (c f : Nat) (b : SaveBlock) : List (Nat × OnCore) := (s.vfLive c f).filter (fun r => b.live.contains r.1)

/-- The slice windows of the launches whose state a block at `a` holds; rows that read zero stay cleared (R382, R383; log 18). -/
def State.restoreSlice (s : State) (c f a : Nat) (b : SaveBlock) : State :=
  let mine := s.inWindows (s.kept c f b)
  let x : Memory := (s.mem.part (a + 0x28000) 0x80000).filter (fun b => mine b.1)
  let s1 := s.clearRange (sliceFlat c 0) 0x80000
  let marks := (moveMarks s1.bad (a + 0x28000) 0x80000 (sliceFlat c 0)).filter (fun y => mine (32 * y.1 - sliceFlat c 0))
  { s1 with mem := s1.mem.splice (sliceFlat c 0) 0x80000 (x.shift (sliceFlat c 0)), bad := addMarks s1.bad marks,
            rows := dropRepeats ((x.map (fun b => rowOf (sliceFlat c b.1))) ++ marks.map (fun y => rowOf (32 * y.1))) ++ s1.rows }

/-- Uncorrectable sectors of a range of DRAM are poisoned in place by the unit that reads it (R84). -/
def State.poisonBlock (s : State) (a n : Nat) : State :=
  { s with bad := s.bad.map (fun x => if overlaps a n (32 * x.1) 32 then (x.1, .poisoned) else x) }

/-- A core restores what it saved of a VF, but for launches that have ended since, its engines first (R370, R381, R382); records in the spill
table keep their age too (R189). -/
def State.restoreVf (s0 : State) (c f : Nat) (b : SaveBlock) : State :=
  let s := (s0.blockTraffic c f).poisonBlock (s0.blockBase c f) 0xA8000
  let a := s.blockBase c f
  let kept := s.kept c f b
  let ls := kept.map (·.1)
  let ks := kept.flatMap (·.2.strs)
  let mine (x : Option Nat) : Bool := match x with | some l => ls.contains l | none => false
  let str (p : Nat × Str) : Str := readStr s.mem (a + 0x1000 + 0x2000 * p.1) p.2
  let s1 := (s.restoreSlice c f a b).modCore c (fun co =>
    { co with strs := (b.strs.filter (fun p => ks.contains p.1)).foldl (fun m p => mset m p.1 ((mget Str.init m p.1).resume (str p))) co.strs,
              records := co.records ++ (readRecs s.mem a b.cycle co.cycle b.records).filter (fun r => ls.contains r.launch),
              rings := (b.rings.filter (fun r => (ringsOf ks).contains r.1)).foldl (fun m r => mset m r.1 (readRing s.mem (a + 0xD000 + 32 * r.1) r.2)) co.rings,
              bce := co.bce ++ (readQueue (readBce s.mem) (a + 0xD840) 128 b.bce).filter (fun x => mine x.launch),
              mxu := if mine b.mxu.holder then readMxu s.mem s.bad (a + 0xE000) b.mxu else Mxu.init, vfs := mset co.vfs f { co.vfc f with saved := none } })
  (b.records.filter (fun r => r.spill.isSome && ls.contains r.launch)).foldl (fun s r => match s.recNow c r with
    | some r1 => s.foldRec c r (r1.resume b.cycle (s.core c).cycle)
    | none => s) s1

end Sys2Proof.Machine
end

