-- ==== Sys2Proof/Machine/Sched.lean ====
section
/-! DEFINITION. The rotation of VFs through the cores of a partition (R377 to R385): expiry of a quantum, SWITCH with the save, GO
with the restore, and the start of a quantum. -/

namespace Sys2Proof.Machine

/-- Cycles pass on a core without an instruction: a free number of them (R384; log 8). -/
def State.wait (s : State) (c : Nat) : State := s.elapse c false none (Config.cycles (s.tick + c))

/-- QUANTUM_EXPIRY: the quantum that runs is over, cycles having passed on every core, and the walk makes its next step (R378, R380, R384). -/
def execQuantumExpiry (part : Nat) (s : State) : Out1 :=
  match (s.part part).rot with
  | .steady true =>
    if (s.part part).pstate == .running then .next (((s.liveCores part).foldl State.wait s).schedStep part) else .next s
  | _ => .next s

/-! ## SWITCH (R380) -/

/-- A string keeps its core from saving: it runs monitor code, be it for no launch, or the rights unit has its request (R66, R380 steps 2 and 3). -/
def Str.holdsSwitch (t : Str) : Bool :=
  (t.run == .running && t.lvl != 0) || (match t.wait with | .rights _ => true | _ => false)

/-- The head of the MXU's queue is at a stopping point (R367). -/
def mxuStopped (co : Core) : Bool :=
  match co.mxu.queue with
  | [] => true
  | cmd :: _ => cmd.fin.isNone && !(cmd.mustFinish (cmdPieces cmd) && waitOver co cmd)

/-- The head of the BCE's queue is at a stopping point (R369). -/
def bceStopped (co : Core) : Bool :=
  match co.bce with
  | [] => true
  | cmd :: _ => cmd.fin.isNone

/-- An activation is rolled back for a SWITCH, with its redo unchanged: nothing comes any more of its loads, of which those in the package perform
first, and those outside it stay outstanding (R380 steps 3 and 5). -/
def State.rollBackNow (s : State) (c k redo : Nat) : State :=
  let s1 := s.modStr c k (fun t => { t with lds := t.lds.map (fun l => { l with dead := true }) })
  (s1.forceTo c k (s.str c k).seq).rollBack c k redo

/-- Restartable activations of a VF are rolled back (R380 step 3). -/
def State.rollBackAll (s : State) (c : Nat) (ks : List Nat) : State :=
  ks.foldl (fun s k => match (s.str c k).act with
    | some a => if a.rst && (s.str c k).run == .running then s.rollBackNow c k a.trig.redo else s
    | none => s) s

/-- A core has gone through steps 1 to 6 of R380 for a VF. -/
def State.coreQuiet (s : State) (c f : Nat) : Bool :=
  match (s.core c).sw with
  | .told g _ _ => g == f && (s.vfStrs c f).all (fun k => s.strIdle c k && !(s.str c k).holdsSwitch) && mxuStopped (s.core c)
      && bceStopped (s.core c) && !(s.core c).awaits ((s.core c).askers (fun _ => true)).contains
  | .saved => true
  | _ => false

/-- The VF's state on a core is cleared after the save (R91). That an NI which has stopped accepting messages for want of room accepts them
again after the VF's return is the model's choice (log 81). -/
def State.clearVf (s : State) (c f : Nat) : State :=
  let ks := s.vfStrs c f
  let ls := (s.vfRes c f).map (·.1)
  let gone (x : Cmd) : Bool := match x.launch with | some l => ls.contains l | none => false
  (s.modCore c (fun co =>
    { co.dropFor (fun k => (co.askers gone).contains k || ks.any (fun j => ofString j k)) with
              strs := ks.foldl (fun m k => mset m k (mget Str.init m k).freed) co.strs,
              records := co.records.filter (fun r => !ls.contains r.launch),
              rings := co.rings.filter (fun r => !(ringsOf ks).contains r.1),
              bce := co.bce.filter (fun x => !gone x), mxu := Mxu.init,
              niStop := co.niStop.filter (fun l => !ls.contains l) })).clearRange (sliceFlat c 0) 524288

/-- A core saves and clears a VF and reports (R380 steps 7 and 8). -/
def State.saveVf (s : State) (c f : Nat) : State :=
  let b := s.saveBlock c f
  ((s.writeBlock c f b).clearVf c f).modCore c (fun co =>
    { co with vf := none, sw := .saved, vfs := mset co.vfs f { co.vfc f with saved := some b } })

/-- SWITCH: once no string of the outgoing VF runs monitor code or waits for the rights unit, restartable activations are
rolled back. The core saves the VF, clears it and reports once every access of the VF, on every core of the partition, has performed and
the engines have stopped, so that nothing reaches a slice that has been saved (R95, R96, R380; log 23). -/
def execSwitch (core : Nat) (s : State) : Out1 :=
  let co := s.core core
  match co.sw, co.part with
  | .told f _ _, some p =>
    let ks := s.vfStrs core f
    if ks.any (fun k => (co.str k).holdsSwitch) then .next s
    else
      let s1 := s.rollBackAll core ks
      if (s1.liveCores p).all (fun c => s1.coreQuiet c f) then .next (((s1.wait core).saveVf core f).goIfSaved p)
      else .next s1
  | _, _ => .next s

/-! ## GO (R381, R370, R189) -/

/-- GO: the core restores the incoming VF and reports; a string in which the monitor runs for no launch must first be free,
whatever was saved of it (R381; log 23). -/
def execGo (core : Nat) (s : State) : Out1 :=
  let co := s.core core
  match co.sw with
  | .go f =>
    let s1 := s.wait core
    let here (s : State) : State := s.modCore core (fun co => { co with vf := some f, sw := .restored })
    match (co.vfc f).saved with
    | none => .next (here s1)
    | some b => if b.strs.any (fun p => (co.str p.1).run != .free) then .next s
      else .next (here (s1.restoreVf core f b))
  | _ => .next s

/-- QUANTUM_START: every core has reported its restore (R379, R381). -/
def execQuantumStart (part : Nat) (s : State) : Out1 :=
  match (s.part part).rot with
  | .restoring f =>
    if (s.liveCores part).all (fun c => (s.core c).sw == .restored) then
      .next ((((s.liveCores part).foldl State.wait s).tellCores part (fun _ => .none)).modPart part
        (fun q => { q with sched := some f, rot := .steady true }))
    else .next s
  | _ => .next s

end Sys2Proof.Machine
end

