-- ==== Sys2Proof/Machine/Reset.lean ====
section
/-! DEFINITION. What ends and what begins a partition: the fence, the reset of a VF, the clearing of granules and cores, the
descriptor and the tables of the home granule, and the start of the monitor (R42 to R44, R91, R94, R344, R396 to R399, R430,
R431). -/

namespace Sys2Proof.Machine

/-! ## Ending launches and strings (R396 step 1, R398, R399) -/

/-- The launch has a status. -/
def Launch.decided (l : Launch) : Bool :=
  match l.phase with
  | .ending _ _ _ => true
  | _ => false

/-- The chosen launches that no status has reached end with RESET. -/
def State.endReset (s : State) (sel : Launch → Bool) : State :=
  (s.launches.filter (fun l => sel l.2 && !l.2.decided)).foldl (fun s l =>
    (s.modLaunch l.1 (fun l => { l with phase := .ending 5 0 false, ends := [] })).haltLaunch l.1 l.2) s

/-- The reset of one VF (R398): its launches end with RESET, its save blocks and its registers on the cores go, and its
incarnation number goes up. -/
def State.resetVf (s : State) (f : Nat) : State :=
  let s1 := s.endReset (fun l => l.vf == f)
  let cores := match (s.vf f).part with
    | some p => (s.part p).cores
    | none => []
  let s2 := cores.foldl (fun s c => s.modCore c (fun co => { co with vfs := mdel co.vfs f })) s1
  s2.modVf f (fun v => { v with incarn := v.incarn + 1, lcount := 0 })

/-- The miss awaits an answer from outside the cores: a sector, another package, or a translation of the host. A page request is a message
that the host completes in no time of its own, and is not waited for: the model's reading (log 67). -/
def Miss.asked : Miss → Bool
  | .data _ _ => true
  | .remote _ _ _ => true
  | .write _ _ _ => true
  | .host _ _ _ _ st => st != 1
  | _ => false

/-- A core of a fenced partition (R396 step 1): its strings stop, and what they waited for is abandoned. What has been asked of another
package or of the host is outstanding until it is answered (R396 step 3). -/
def Core.fence (co : Core) : Core :=
  { co with strs := co.strs.map (fun k => (k.1, k.2.halt)), hold := none, misses := co.misses.filter (·.asked), sw := .none,
            monFault := none }

/-- The host's request that the next event is has come when the fence falls, and is outstanding: it ends with Completer Abort (R397;
log 67). -/
def State.abortOutstanding (s : State) (p : Nat) : State :=
  let go (f : Nat) (rest : List Instr) : State :=
    if f != 0 && (s.vf f).part == some p then ({ s with inputs := rest } : State).emit (.completerAbort f) else s
  match s.inputs with
  | .registerWrite f _ .read :: rest => go f rest
  | .registerWrite f _ (.atomic _ _ _ _) :: rest => go f rest
  | _ => s

/-- The fence of a partition that is to be reset, or torn down (R396 steps 1 and 2). -/
def State.fence (s : State) (p : Nat) (teardown : Bool) : State :=
  let s1 := (s.abortOutstanding p).endReset (fun l => l.part == p)
  let s2 := (s.part p).cores.foldl (fun s c => s.modCore c Core.fence) s1
  s2.modPart p (fun q => { q with pstate := .fenced, resetKind := some (teardown || q.resetKind == some true),
                                  rights := RightsUnit.init, stopping := false, rot := .none })

/-! ## Granules and cores (R91, R94) -/

/-- A granule is initialised: it reads zero, no row of it is valid, its counters are 0, no sector of it is bad, and its spans are gone
(R94). -/
def State.initGranule (s : State) (g : Nat) : State :=
  let a := granuleBase g
  { s.clearRange a 0x4000000 with
    parts := s.parts.map (fun p => (p.1, { p.2 with spans := p.2.spans.filter (fun x => !overlaps a 0x4000000 x.pa x.len) })) }

/-- A core is cleared as for a change of partition (R91). -/
def State.clearCore (s : State) (c : Nat) : State :=
  let co := s.core c
  (s.setCore c { Core.init with part := co.part, cycle := co.cycle, mentry := co.mentry, wear := co.wear }).clearRange (sliceFlat c 0) 524288

/-! ## The home granule (R42 to R44) -/

/-- Packages of a partition's domain set with the partition number on each: this package and the active members (R37, R404). -/
def Partition.domain (q : Partition) (pkg p : Nat) : List (Nat × Nat) :=
  (pkg, p) :: (q.members.filter (fun m => m.weAdded && m.peerAdded)).map (fun m => (m.pkg, m.part))

/-- Fields of the partition descriptor but for the notice indices: offset, bytes and value (R43). -/
def descriptor (pkg p : Nat) (q : Partition) : List (Nat × Nat × Nat) :=
  let d := q.domain pkg p
  [(0x000, 8, 1 + p * 2 ^ 8 + q.ownlim * 2 ^ 16 + q.cores.length * 2 ^ 32), (0x008, 8, q.home), (0x010, 8, q.root),
   (0x018, 8, q.home + 0x41000), (0x028, 8, q.pool.length), (0x030, 8, b2n q.fwd), (0x040, 32, bitSet q.clusters),
   (0x100, 128, bitSet (d.map (·.1))), (0x180, 512, d.foldl (fun a x => a ||| x.2 * 2 ^ (4 * x.1)) 0),
   (0x400, 2352, bitSet q.granules)]

/-- Writes the descriptor of a partition. -/
def State.describe (s : State) (p : Nat) : State :=
  let q := s.part p
  (descriptor s.pkg p q).foldl (fun s x => s.putNum (q.home + x.1) x.2.1 x.2.2) s

/-- The leaf that maps the home granule, with its homing declared as it is (R32, R43, R73). -/
def homeLeaf (home : Nat) : Nat :=
  let o := home % 0x8000000000
  if 0x2400000000 ≤ o then home + 1 + 2 ^ 5 + (o - 0x2400000000) / 0x90000000 * 2 ^ 58 else home + 1

/-- Tables of the home window: the root, and below it one table of each level down to a leaf of 64 MiB (R30, R43; log 24). -/
def homeTables (home : Nat) : List (Nat × Nat) :=
  [(home + 0x100000 + 8 * 63, home + 0x1F0000 + 3), (home + 0x1F0000 + 8 * 511, home + 0x1F1000 + 7),
   (home + 0x1F1000 + 8 * 15, homeLeaf home)]

/-- Entry of owner 0 for a package (R44). -/
def ownerZero (pkg : Nat) : RightsEntry :=
  { base := 0, len := 2 ^ 45, pkg := pkg, colour := 1, rights := 63, q := false, grantor := 0 }

/-- Owner 0's directory entry, before its table is filled (R44; log 24). -/
def ownerZeroDir (home : Nat) : Nat := home + 0x1F8000 + 1024 * 2 ^ 64 + 2 ^ 96

/-- Writes the tables of the home window, and owner 0 with an entry for each package of the domain set (R43, R44). -/
def State.buildHome (s : State) (p : Nat) : State :=
  let q := s.part p
  let s1 := (homeTables q.home).foldl (fun s x => s.putNum x.1 8 x.2) s
  let s2 := s1.putNum (dirAddr q 0) 16 (ownerZeroDir q.home)
  (s2.writeTable 0x1360 p 0 (tidy ((q.domain s.pkg p).map (fun (d : Nat × Nat) => ownerZero d.1)))).describe p

/-! ## The monitor (R344, R430) -/

/-- The image as far as the body that its header declares, and the configuration block after it (R344, R428). -/
def splitImage (b : List Byte) : List Byte × List Byte :=
  let n := 512 + leNat ((b.drop 8).take 8)
  (b.take n, b.drop n)

/-- The monitor measurement (R430). -/
def monitorMeasure (b : List Byte) : BitVec 384 :=
  digestNum (sha384 (sha384 (splitImage b).1 ++ sha384 (splitImage b).2))

/-- A device-space pointer to a physical address (R25, R27). -/
def devicePtr (pkg pa : Nat) : Word := BitVec.ofNat 64 (pkg * 2 ^ 46 + 2 ^ 45 + pa)

/-- MENTRY as the root core sets it (R344). -/
def firstEntry (pkg : Nat) : Word := BitVec.ofNat 64 (2 ^ 56 + pkg * 2 ^ 46 + 0x1FFFFC000000 + 0x1000200)

/-- The string that the root core starts in monitor mode (R344). -/
def monitorStr (pkg home : Nat) : Str :=
  { Str.init with run := .running, lvl := 1, pc := firstEntry pkg, trapc := 0x30000, trapv := devicePtr pkg home }

/-- Sets MENTRY of every core of a partition and starts string 0 of the lowest, if the compute dies have power (R344, R452). -/
def State.startMonitor (s : State) (p : Nat) : State :=
  let q := s.part p
  let s1 := q.cores.foldl (fun s c => s.modCore c (fun co => { co with part := some p, mentry := firstEntry s.pkg })) s
  match s1.liveCores p, s.dev.powered with
  | c :: _, true => s1.setStr c 0 (monitorStr s.pkg q.home)
  | _, _ => s1

/-! ## Measurements and creation (R404, R431, R436, R437) -/

/-- Extends measurement register `i` (R431). -/
def State.extend (s : State) (i : Nat) (d : List Byte) : State :=
  if h : i < 16 then
    let v := digestNum (sha384 (leBytes 48 (s.root.meas[i]'h).toNat ++ d))
    { s with root := { s.root with meas := s.root.meas.set i v h } }
  else s

/-- The partition map: number, clusters and granules of each partition that is not FREE. -/
def State.partMap (s : State) : List (Nat × List Nat × List Nat) :=
  (s.parts.filter (fun p => p.2.pstate != .free)).map (fun p => (p.1, p.2.clusters, p.2.granules))

/-- Extends MEAS2 with the digest of the partition map, whose form the specification does not give (R431; log 9). -/
def State.extendMap (s : State) : State := s.extend 2 (leBytes 48 (Config.mapDigest s.partMap).toNat)

/-- What a partition that is created afresh starts from, its holdings kept (R396 step 7, R404, R407, R436, R438). -/
def Partition.afresh (q : Partition) (img : List Byte) : Partition :=
  { q with pstate := .stopped, root := q.home + 0x100000, fwd := Config.forwards (splitImage img).2, keyGen := q.keyGen + 1,
           monMeas := monitorMeasure img, rights := RightsUnit.init, qpos := 0, sched := none, rot := .none, serial := 0,
           meters := Vector.replicate 16 0, wearSub := 0, wseq := 0, whead := 0, spans := [], notices := [], noticeDue := [],
           stopping := false, resetKind := none }

/-- Creates a partition whose holdings are in place, from the bytes of its monitor image and configuration block: the home
granule is built, the keys are drawn and installed (R75, R76), the CREATE snapshot is appended, the map is measured (R431), and the monitor
starts (R404). -/
def State.createPart (s : State) (p : Nat) (img : List Byte) : State :=
  let s1 := s.modPart p (fun q => q.afresh img)
  let home := (s1.part p).home
  let s2 := { s1.installKey p with root := { s1.root with drawn := s1.root.drawn + 128 } }.putBytes (home + 0x1000000) img
  (((s2.buildHome p).snapshot p 0 0 0 0).extendMap).startMonitor p

end Sys2Proof.Machine
end

