-- ==== Sys2Proof/Machine/Faults.lean ====
section
/-! DEFINITION. Errors that the controllers find, poison notices and notice traps, faults in monitor mode, and the end of a partition's
reset (R81 to R90, R393 to R397). -/

namespace Sys2Proof.Machine

/-! ## PATROL_SCRUB (R81 to R84, R89) -/

/-- The partition that holds an address. -/
def State.holderOf (s : State) (pa : Nat) : Option Nat :=
  (s.parts.find? (fun p => match granuleOf pa with
    | some g => p.2.granules.contains g
    | none => false)).map (·.1)

/-- Bytes under a node of the integrity tree; level 7 is the whole granule (R89). -/
def spanLen (lvl : Nat) : Nat := if 7 ≤ lvl then 0x4000000 else 512 * 8 ^ (lvl - 1)

/-- The span of a failed node, or its granule where the poison list of its die is full (R89). That the granule is then a further entry of the list
and replaces none is the model's choice (log 88). -/
def Partition.newSpan (q : Partition) (pa lvl : Nat) : Span :=
  let lv := if 32 ≤ (q.spans.filter (fun x => x.die == paDie pa)).length then 7 else Nat.min 7 (Nat.max 1 lvl)
  { die := paDie pa, pa := pa / spanLen lv * spanLen lv, len := spanLen lv, lvl := lv }

/-- A node has failed: its span enters the poison list of its die, and a notice is due (R89, R90). -/
def State.addSpan (s : State) (pa lvl : Nat) : State :=
  match s.holderOf pa with
  | none => s
  | some p =>
    let x := (s.part p).newSpan pa lvl
    if (s.part p).spans.contains x then s
    else (s.sureFirst (fun i => overlaps x.pa x.len (32 * i) 32)).modPart p (fun q =>
      { q with spans := q.spans ++ [x], notices := q.notices ++ [x] })

/-- Marks both sectors of a line that holds what has been written to it (R87, R92). -/
def State.markLine (s : State) (m : Poison) (a : Nat) : State :=
  let s1 := s.sureFirst (fun i => i / 2 == a / 64)
  if s.written a then { s1 with bad := mset (mset s1.bad (a / 64 * 2) m) (a / 64 * 2 + 1) m } else s

/-- A node of the integrity tree is read: the counter that its parent holds for it is not 0 (R87). -/
def State.nodeRead (s : State) (a lvl : Nat) : Bool := mget 0 s.ctrs (ctrKey (Nat.min 6 (Nat.max 1 lvl)) a) != 0

/-- A bank of an SRAM share fails and is reported to the root core (R81). -/
def State.bankFails (s : State) (share b : Nat) : State :=
  let s1 := s.sureFirst (fun i => isSram (32 * i) && shareOf (32 * i) == share)
  { s1 with badBanks := s1.badBanks ++ [(share, b)], root := { s1.root with bankReports := s1.root.bankReports ++ [(share, b)] } }

/-- PATROL_SCRUB: what a controller finds in a line of DRAM or of an SRAM die, which never raises a fault, or errors that arise in a line
and that its next reader finds (R81, R82, R83, R89); a line of a shadow pool may belong to a copy (R17). In a core's slice, which no scrubber
reads, every error is one that the next reader finds (R80; log 25). -/
def execPatrolScrub (home : Place) (result : Scrub) (s : State) : Out1 :=
  match home, result with
  | .phys a, .bank b => .next (if isSram a && decide (b < 18) && !s.badBanks.contains (shareOf a, b) then s.bankFails (shareOf a) b else s)
  | .phys a, .sector => .next (s.markLine .poisoned a)
  | .phys a, .line => .next (s.markLine .uncorrectable a)
  | .phys a, .node lvl => .next (if isDram a && s.nodeRead a lvl then s.addSpan a lvl else s)
  | .slice c o, .sector =>
    if o < 524288 && s.written (sliceFlat c o) then
      let s1 := s.sureFirst (· == sliceFlat c o / 32)
      .next { s1 with bad := mset s1.bad (sliceFlat c o / 32) .uncorrectable }
    else .next s
  | .slice c o, .line => if o < 524288 then .next (s.markLine .uncorrectable (sliceFlat c o)) else .next s
  | _, _ => .next s

/-! ## Notices (R90, R394) -/

/-- The notice record of a span (R90). -/
def noticeBits (x : Span) : Nat := 0x20 * 2 ^ 96 + x.pa * 2 ^ 48 + x.lvl * 2 ^ 40 + x.len

/-- POISON_NOTICE: the root core writes the next record to the notice area and a notice trap is due; when that fills the ring, the
partition is reset (R90, R394). -/
def execPoisonNotice (part : Nat) (s : State) : Out1 :=
  let q := s.part part
  match q.notices with
  | [] => .next s
  | x :: rest =>
    if q.pstate = .free || q.pstate = .fenced then .next s
    else
      let s0 := s.backAll
      let w := s0.mem.num (q.home + 0x20) 4
      let r := s0.mem.num (q.home + 0x24) 4
      let a := q.home + 0x41000 + 32 * (w % 64)
      let w1 := (w + 1) % 2 ^ 32
      let s1 := (s0.putNum a 32 (noticeBits x)).putNum (q.home + 0x20) 4 w1
      let s2 := s1.modPart part (fun q => { q with notices := rest, noticeDue := q.noticeDue ++ [devicePtr s.pkg a] })
      .next (if 64 ≤ (w1 + 2 ^ 32 - r) % 2 ^ 32 then s2.fence part false else s2)

/-- A user-mode string at an instruction boundary, with nothing of an instruction under way (R394). -/
def Str.atBoundary (t : Str) : Bool := t.run == .running && t.lvl == 0 && t.lds.isEmpty && t.wait == .none && t.inHand.isEmpty

/-- The string of a core that takes a notice trap, with the address that would have run next: one in IDLE, else a user-mode string at
a boundary, else string 0 if every string is free (R394). -/
def Core.noticeStr (co : Core) : Option (Nat × Word) :=
  match strNums.find? (fun k => (co.str k).wait == .idle && (co.str k).run == .running) with
  | some k => if (co.str k).lds.isEmpty then some (k, nextPtr (co.str k).pc 4) else none
  | none => match strNums.find? (fun k => (co.str k).atBoundary) with
    | some k => some (k, (co.str k).pc)
    | none => if strNums.all (fun k => (co.str k).run == .free) then some (0, 0) else none

/-- NOTICE_TRAP (R394): the trap is taken on the core of lowest number; the core's other strings in IDLE go on (R347). A core without power
takes none (R452). -/
def execNoticeTrap (part : Nat) (s : State) : Out1 :=
  let q := s.part part
  match q.noticeDue, s.liveCores part with
  | v :: rest, c :: _ =>
    if q.pstate = .free || q.pstate = .fenced || !s.dev.powered then .next s
    else match (s.core c).noticeStr with
      | some (k, pc) =>
        let t := { s.str c k with run := .running }
        let s1 := s.setStr c k (t.trap (s.core c).mentry 0 1 0x20 v pc)
        .next ((s1.wakeIdle c).modPart part (fun q => { q with noticeDue := rest }))
      | none => .next s
  | _, _ => .next s

/-! ## MONITOR_FAULT_REPORT (R393) -/

/-- MONITOR_FAULT_REPORT: the core reports the fault and the root core resets the partition (R393). -/
def execMonitorFaultReport (core : Nat) (s : State) : Out1 :=
  match (s.core core).monFault, (s.core core).part with
  | some _, some p => .next ((s.modCore core (fun co => { co with monFault := none })).fence p false)
  | _, _ => .next s

/-! ## RESET_DRAIN_COMPLETE (R396 steps 3 to 7) -/

/-- Core of a request to the host. -/
def HostReq.core : HostReq → Nat
  | .load c _ _ _ => c
  | .atomic c _ _ _ => c
  | .flush c _ => c
  | .read c _ _ => c

/-- Nothing that the partition has asked for outside its cores is outstanding. -/
def State.drainedPart (s : State) (p : Nat) : Bool :=
  (s.part p).cores.all (fun c => strNums.all (fun k => (s.str c k).lds.isEmpty) && !(s.core c).misses.any (·.asked))
    && !(s.core (4100 + p)).misses.any (·.asked) && !s.hostReqs.any (fun r => r.2.core == 4100 + p || (s.part p).cores.contains r.2.core)

/-- Every launch of a partition completes, its state having been cleared (R396 step 5). -/
def State.completeAll (s : State) (p : Nat) : State :=
  (s.launches.filter (fun l => l.2.part == p)).foldl (fun s l => match l.2.phase with
    | .ending st v _ => s.complete l.1 l.2 st v
    | _ => s) s

/-- Blocks of a partition that a commit has switched and not copied back go with their granules (R94, R170). -/
def State.dropSwitched (s : State) (p : Nat) : State :=
  let mine := s.switched.filter (fun r => r.1 / 256 == p)
  { mine.foldl (fun s r => s.dropCopy r.1 r.2) s with switched := s.switched.filter (fun r => r.1 / 256 != p) }

/-- The RESET snapshot, the clearing of the cores, and the completion records (R396 steps 4 and 5). -/
def State.meterAndClear (s : State) (p : Nat) : State :=
  let cs := (s.part p).cores
  let s1 := cs.foldl (fun s c => (s.clearCore c).retireCore c) (s.snapshot p 3 0 0 0)
  let mine := (s1.launches.filter (fun l => l.2.part == p)).map (·.1)
  let gone (f : Flight) : Bool := mine.contains f.msg.launch || (s1.vf f.vf).part == some p
  (({ s1 with net := s1.net.filter (fun f => !gone f) } : State).completeAll p).dropSwitched p

/-- What a partition held is freed (R404). -/
def State.freePart (s : State) (p : Nat) : State :=
  let q := s.part p
  let s1 := q.cores.foldl (fun s c => s.modCore c (fun co => { co with part := none, mentry := 0 })) s
  let vfs := s1.vfs.map (fun v => if v.2.part = some p then
      (v.1, { v.2 with part := none, save := 0, parea := 0, pareaLen := 0, pfree := [] }) else v)
  (({ s1 with vfs := vfs, parts := mset s1.parts p { Partition.init with keyGen := q.keyGen + 1 } } : State).installKey p).extendMap

/-- The RESET or TEARDOWN that the mailbox holds for a partition completes. -/
def State.finishReset (s : State) (p : Nat) : State :=
  let m := s.root.mbox
  if m.go && m.begun && (m.op == 9 || m.op == 10) && m.p == p then s.finishCmd 0 0 else s

/-- After a thermal trip the compute dies lose their power once no partition has still to go through its reset, and their cores hold
nothing (R452). -/
def State.tripDone (s : State) : State :=
  if s.dev.tripped && s.parts.all (fun p => p.2.resetKind.isNone) then
    let s1 := ((s.cores.map (·.1)).filter (fun c => decide (c < 4096))).foldl State.clearCore s
    { s1 with dev := { s1.dev with powered := false, tripped := false } }
  else s

/-- RESET_DRAIN_COMPLETE: every request outstanding has completed or timed out; the reset goes through its other steps. `image` is
what the host's memory gave for the monitor image; a read that fails is made again (R396). -/
def execResetDrainComplete (part : Nat) (image : Option (List Byte)) (s : State) : Out1 :=
  let q := s.part part
  match q.resetKind, image with
  | none, _ => .next s
  | some true, _ => if s.drainedPart part then .next (((s.meterAndClear part).freePart part).finishReset part).tripDone else .next s
  | some false, none => .next s
  | some false, some b =>
    if !s.drainedPart part || b.length != q.imageLen then .next s
    else .next ((((q.granules.foldl State.initGranule (s.meterAndClear part)).createPart part b)).finishReset part).tripDone

end Sys2Proof.Machine
end

