-- ==== Sys2Proof/Machine/Partitions.lean ====
section
/-! DEFINITION. The commands by which the physical function creates and controls partitions (R403, R404), and the quantum table
(R377, R378). -/

namespace Sys2Proof.Machine

/-! ## Running a command -/

/-- Argument `i` of the command in the mailbox. -/
def State.arg (s : State) (i : Nat) : Nat := (s.root.mbox.args.toList.getD i 0).toNat

/-- The mailbox holds a command of one of these kinds that has not begun. -/
def State.waiting (s : State) (op : Nat) : Bool := s.root.mbox.go && !s.root.mbox.begun && s.root.mbox.op == op

/-- The command has begun and completes later. -/
def State.begin (s : State) : State := { s with root := { s.root with mbox := { s.root.mbox with begun := true } } }

/-- Runs a command on partition p of the mailbox: STATE where the column of R404 does not allow its state, the status of a failure,
which changes nothing, or its effect and result, once what commits have switched has been copied back (R170). -/
def command (op : Nat) (allowed : PState → Bool) (run : Nat → State → Except Nat (State × Word)) (s : State) : Out1 :=
  if !s.waiting op then .next s
  else if !allowed (s.part s.root.mbox.p).pstate then .next (s.finishCmd 3 0)
  else match run s.root.mbox.p s.backAll with
    | .error st => .next (s.finishCmd st 0)
    | .ok (s1, r) => .next (s1.finishCmd 0 r)

/-- The partition is STOPPED. -/
def isStopped (p : PState) : Bool := p == .stopped

/-- PMCMD_UNKNOWN_OP: BADOP (R404). -/
def execPmcmdUnknownOp (s : State) : Out1 :=
  let m := s.root.mbox
  if m.go && !m.begun && (m.op == 0 || decide (11 < m.op)) then .next (s.finishCmd 1 0) else .next s

/-! ## CREATE -/

/-- Clusters of the mask in PMARG0 to PMARG3. -/
def State.argClusters (s : State) : List Nat := (upTo 256).filter (fun i => bitAt (s.arg (i / 64)) (i % 64))

/-- The first of a row of granules, which must begin one. -/
def granuleAt (pa : Nat) : Option Nat := if pa % 0x4000000 = 0 ∧ pa < 2 ^ 42 then granuleOf pa else none

/-- No partition holds the granule. -/
def State.granuleFree (s : State) (g : Nat) : Bool := !s.parts.any (fun p => p.2.granules.contains g)

/-- Why CREATE fails, if it does (R404, R432): an argument out of range, then a shortfall; the order is the model's (log 26). -/
def State.createFails (s : State) : Option Nat :=
  let cl := s.argClusters
  let lg := field (s.arg 4) 0 4
  match granuleAt (s.arg 5) with
  | none => some 5
  | some g =>
    if !isDram (s.arg 5) || lg < 4 || 14 < lg || cl.isEmpty then some 5
    else if cl.any (fun c => s.parts.any (fun p => p.2.clusters.contains c)) then some 4
    else if 16384 < 2 ^ lg + (s.parts.filter (fun p => p.2.pstate != .free)).foldl (fun a p => a + p.2.lim) 0 then some 4
    else if !s.granuleFree g then some 4
    else if 2 ≤ s.root.drbgFailures then some 3
    else none

/-- What a partition holds as CREATE gives it. -/
def State.newPart (s : State) (q : Partition) : Partition :=
  { q with ownlim := field (s.arg 4) 0 4, clusters := s.argClusters, granules := (granuleAt (s.arg 5)).toList, home := s.arg 5,
           image := BitVec.ofNat 64 (s.arg 6), imageLen := field (s.arg 7) 0 24, members := [], pool := [] }

/-- CREATE (R404); `image` is what the host's memory gave for the monitor image and configuration block. -/
def execCreate (image : Option (List Byte)) : State → Out1 :=
  command 1 (· == .free) (fun p s => match s.createFails, image with
    | some st, _ => .error st
    | none, none => .error 5
    | none, some b =>
      if b.length ≠ field (s.arg 7) 0 24 then .error 5
      else
        let s1 := s.modPart p s.newPart
        let s2 := (s1.part p).cores.foldl State.clearCore ((s1.part p).granules.foldl State.initGranule s1)
        .ok (s2.createPart p b, 0))

/-! ## Granules -/

/-- The granules that `n` PMARGs name: a first physical address and a count; none if one of them is a hole. -/
def State.argGranules (s : State) : Option (List Nat) :=
  if 18816 < s.arg 1 then none else (upTo (s.arg 1)).mapM (fun i => granuleAt (s.arg 0 + i * 0x4000000))

/-- A range of bytes meets a save area or a parameter area of a VF bound to the partition (R157, R383). -/
def State.inAreas (s : State) (p a n : Nat) : Bool :=
  s.vfs.any (fun v => v.2.part == some p && (overlaps a n v.2.save ((s.part p).cores.length * 0xA8000)
    || overlaps a n v.2.parea v.2.pareaLen))

/-- A granule of a partition is in no area: not its home granule, nor in the shadow pool, nor in an area of a bound VF. -/
def State.unused (s : State) (p g : Nat) : Bool :=
  granuleBase g != (s.part p).home && !(s.part p).pool.contains g && !s.inAreas p (granuleBase g) 0x4000000

/-- GRANULE_GIVE: granules that no partition holds are cleared and added (R28, R94, R404). -/
def execGranuleGive (s : State) : Out1 :=
  if !bitAt (s.arg 2) 0 then .next s
  else command 2 isStopped (fun p s => match s.argGranules with
    | none => .error 5
    | some gs =>
      if !gs.all s.granuleFree then .error 4
      else .ok (((gs.foldl State.initGranule s).modPart p (fun q => { q with granules := q.granules ++ gs })).describe p, 0)) s

/-- GRANULE_TAKE: granules of the partition that are in no area are cleared and freed (R28, R94, R404). -/
def execGranuleTake (s : State) : Out1 :=
  if bitAt (s.arg 2) 0 then .next s
  else command 2 isStopped (fun p s => match s.argGranules with
    | none => .error 5
    | some gs =>
      if !gs.all (fun g => (s.part p).granules.contains g && s.unused p g) then .error 5
      else .ok (((gs.foldl State.initGranule s).modPart p (fun q =>
        { q with granules := q.granules.filter (fun g => !gs.contains g) })).describe p, 0)) s

/-- SHADOWPOOL: the granules replace the pool (R170, R404). -/
def execShadowpool : State → Out1 := command 5 isStopped (fun p s => match s.argGranules with
  | none => .error 5
  | some gs =>
    let s1 := s.modPart p (fun q => { q with pool := [] })
    if !gs.all (fun g => (s.part p).granules.contains g && s1.unused p g) then .error 5
    else .ok ((s1.modPart p (fun q => { q with pool := gs })).describe p, 0))

/-! ## VFs -/

/-- A range lies in granules of a partition and meets none of its areas, nor its home granule or its pool. -/
def State.areaOk (s : State) (p a n : Nat) : Bool :=
  let q := s.part p
  inDeckle q a n && !overlaps a n q.home 0x4000000 && !q.pool.any (fun g => overlaps a n (granuleBase g) 0x4000000)
    && !s.inAreas p a n

/-- BINDVF (R157, R383, R404, R407). -/
def execBindvf : State → Out1 := command 3 isStopped (fun p s =>
  let f := s.root.mbox.f
  let n := (s.part p).cores.length * 0xA8000
  let len := s.arg 2 * 0x10000
  if f = 0 ∨ 256 < f ∨ (s.vf f).part.isSome then .error 5
  else if s.arg 0 % 4096 ≠ 0 ∨ s.arg 1 % 0x10000 ≠ 0 ∨ s.arg 2 = 0 ∨ 65535 < s.arg 2 then .error 5
  else if !s.areaOk p (s.arg 0) n || !s.areaOk p (s.arg 1) len || overlaps (s.arg 0) n (s.arg 1) len || !isDram (s.arg 0)
      || !isDram (s.arg 1) then .error 5
  else .ok (s.modVf f (fun v =>
    { v with part := some p, save := s.arg 0, parea := s.arg 1, pareaLen := len, incarn := v.incarn + 1, lcount := 0,
             pfree := (upTo (16 * s.arg 2)).map (fun i => s.arg 1 + 4096 * i) }), 0))

/-- UNBINDVF (R404). -/
def execUnbindvf : State → Out1 := command 4 isStopped (fun p s =>
  let f := s.root.mbox.f
  if (s.vf f).part ≠ some p ∨ s.launches.any (fun l => l.2.vf == f) then .error 5
  else
    let s1 := (s.part p).cores.foldl (fun s c => s.modCore c (fun co => { co with vfs := mdel co.vfs f })) s
    .ok (s1.modVf f (fun v => { v with part := none, save := 0, parea := 0, pareaLen := 0, pfree := [] }), 0))

/-- RESETVF: the VF is reset, and the command completes once its launches have gone (R398, R404). -/
def execResetvf (s : State) : Out1 :=
  let m := s.root.mbox
  if !s.waiting 11 then .next s
  else if !((s.part m.p).pstate == .stopped || (s.part m.p).pstate == .running) then .next (s.finishCmd 3 0)
  else if (s.vf m.f).part ≠ some m.p then .next (s.finishCmd 5 0)
  else .next (s.begin.resetVf m.f).settleCmd

/-! ## The domain (R37, R404, R414) -/

/-- Package and partition number that PMARG0 names. -/
def State.argPkg (s : State) : Nat := field (s.arg 0) 0 10
/-- See `State.argPkg`. -/
def State.argPkgPart (s : State) : Nat := field (s.arg 0) 16 4

/-- Owner 0 has an entry for each package of the domain set: one is added for a package that has become a member, or what it holds over
a package that has left it goes (R44; log 24). -/
def State.ownerZeroFor (s : State) (p q : Nat) (there : Bool) : State :=
  if !isLive s.mem (s.part p) 0 then s
  else
    let t := (table s.mem (s.part p) 0).filter (fun e => e.pkg != q)
    s.writeTable 0x1360 p 0 (tidy (if there then t ++ [ownerZero q] else t))

/-- DOMAIN_ADD: the root cores agree a key; the package is a member once its own physical function has added this partition (R404). -/
def execDomainAdd (peerAdded : Bool) (s : State) : Out1 :=
  if !bitAt (s.arg 0) 32 then .next s
  else command 6 isStopped (fun p s =>
    let q := s.argPkg
    if q = s.pkg ∨ (s.part p).members.any (fun m => m.pkg == q) then .error 5
    else
      let m : Member := { pkg := q, part := s.argPkgPart, weAdded := true, peerAdded := peerAdded, rekeys := 0 }
      let s1 := s.modPart p (fun r => { r with members := r.members ++ [m] })
      if peerAdded then .ok ((s1.ownerZeroFor p q true).describe p, 1) else .ok (s1, 0)) s

/-- DOMAIN_REMOVE: the member is closed at once (R404). -/
def execDomainRemove (s : State) : Out1 :=
  if bitAt (s.arg 0) 32 then .next s
  else command 6 isStopped (fun p s =>
    let q := s.argPkg
    if !(s.part p).members.any (fun m => m.pkg == q) then .error 5
    else .ok (((s.modPart p (fun r => { r with members := r.members.filter (fun m => m.pkg != q) })).ownerZeroFor p q false).describe p,
      0)) s

/-- DOMAIN_MEMBER_ACTIVE: the package's physical function has added this partition in turn. The descriptor changes only while the
partition is STOPPED, and so does the set (R43, R404; log 24). PMRES stays as the command left it: the model's choice (log 90). -/
def execDomainMemberActive (part q : Nat) (s : State) : Out1 :=
  let r := s.part part
  if r.pstate = .stopped && r.members.any (fun m => m.pkg == q && m.weAdded && !m.peerAdded) then
    let s1 := s.modPart part (fun r =>
      { r with members := r.members.map (fun m => if m.pkg = q then { m with peerAdded := true } else m) })
    .next ((s1.backAll.ownerZeroFor part q true).describe part)
  else .next s

/-! ## START, STOP, RESET and TEARDOWN -/

/-- START: launch units accept doorbells and LNCH, and the quantum table runs from entry 0 (R378, R404). -/
def execStart : State → Out1 := command 7 isStopped (fun p s =>
  let s1 := s.modPart p (fun q => { q with pstate := .running, qpos := 0, sched := none, rot := .none })
  let fs := (s1.vfs.filter (fun v => v.2.part == some p)).map (·.1)
  .ok ((fs.foldl State.decideQueue s1).schedAgain p, 0))

/-- STOP: launch units stop reading rings and admitting; the command completes when no launch is admitted (R404). -/
def execStop (s : State) : Out1 :=
  let m := s.root.mbox
  if !s.waiting 8 then .next s
  else if (s.part m.p).pstate ≠ .running then .next (s.finishCmd 3 0)
  else .next (s.begin.modPart m.p (fun q => { q with stopping := true })).settleCmd

/-- A command that fences a partition; it completes at RESET_DRAIN_COMPLETE (R396). -/
def fenceCommand (op : Nat) (teardown : Bool) (s : State) : Out1 :=
  let m := s.root.mbox
  if !s.waiting op then .next s
  else if (s.part m.p).pstate = .free then .next (s.finishCmd 3 0)
  else .next (s.begin.fence m.p teardown)

/-- RESET (R396, R404). -/
def execReset : State → Out1 := fenceCommand 9 false
/-- TEARDOWN (R396, R404). -/
def execTeardown : State → Out1 := fenceCommand 10 true

/-! ## The quantum table (R377, R378) -/

/-- QUANTUM_TABLE_WRITE: reserved bits stay zero; the walk is made again where no quantum runs. -/
def execQuantumTableWrite (part i : Nat) (val : Word) (s : State) : Out1 :=
  if !s.dev.rdy then .next s
  else if h : i < 32 then
    .next ((s.modPart part (fun q => { q with qt := q.qt.set i (val &&& 0x000101FFFFFFFFFF) h })).schedAgain part)
  else .next s

end Sys2Proof.Machine
end

