-- ==== Sys2Proof/Machine/HostLink.lean ====
section
/-! DEFINITION. The host-visible registers, the rings, messages and replies from the host, IDE and TDISP, address translation services,
completions, and the Novino link (R36, R37, R62, R147, R281, R397, R401 to R415, R419). -/

namespace Sys2Proof.Machine

/-! ## Who is heard (R397, R450) -/

/-- A posted write to a function's register block is taken: the device is ready, and the function's partition is not fenced. -/
def State.hears (s : State) (f : Nat) : Bool :=
  s.dev.rdy && (match (s.vf f).part with
    | some p => (s.part p).pstate != .fenced
    | none => true)

/-- The DOE mailboxes hold their Busy bit, and answer no SPDM request, until the device is ready (R450). -/
def State.doeBusy (s : State) : Bool := !s.dev.rdy

/-- A posted write that is not taken: one to a function of a fenced partition is counted (R397). -/
def State.deaf (s : State) : State := if s.dev.rdy then s.countAt hostUnit else s

/-- Adds to a counter that saturates at 2^32 − 1. -/
def satUp (w : BitVec 32) : BitVec 32 := if w = BitVec.allOnes 32 then w else w + 1

/-- One more response or reply is discarded (R402). -/
def State.countStale (s : State) (f : Nat) : State := s.modVf f (fun v => { v with stale := satUp v.stale })

/-! ## TDISP (R413) -/

/-- A locked register is written: a locked or running interface goes to ERROR, which resets the VF and discards its IDE keys. -/
def State.touchLocked (s : State) (f : Nat) : State :=
  match (s.vf f).tdi with
  | .unlocked => s
  | .error => s
  | _ => (s.modVf f (fun v => { v with tdi := .error, ideKeyed := [] })).resetVf f

/-- LOCK_INTERFACE (R413). -/
def execLockInterface (vf : Nat) (s : State) : Out1 :=
  if (s.vf vf).tdi = .unlocked then .next (s.modVf vf (fun v => { v with tdi := .locked })) else .next s

/-- START_INTERFACE; it fails on an interface that is not locked (R413). -/
def execStartInterface (vf : Nat) (s : State) : Out1 :=
  if (s.vf vf).tdi = .locked then .next (s.modVf vf (fun v => { v with tdi := .run })) else .next s

/-- STOP_INTERFACE: to CONFIG_UNLOCKED, from ERROR too (R413). -/
def execStopInterface (vf : Nat) (s : State) : Out1 := .next (s.modVf vf (fun v => { v with tdi := .unlocked }))

/-! ## IDE streams (R400, R412) -/

/-- The IDE stream that carries a function's traffic: its own selective stream, or else the link's, number 64 (R400; log 35). -/
def Vf.stream (v : Vf) : Nat := (v.ideKeyed.filter (fun x => decide (x < 64))).headD 64

/-- The stream that carries a function's traffic is Insecure (R412). -/
def State.isInsecure (s : State) (f : Nat) : Bool := s.dev.insecure.contains (s.vf f).stream

/-! ## Rings (R401, R405) -/

/-- The launch ring is in error, and vector 0 is raised (R405). -/
def State.launchRingError (s : State) (f code : Nat) : State :=
  (s.modVf f (fun v => { v with le := true, lcode := BitVec.ofNat 4 code })).emit (.msix f 0 false)

/-- LRDB_WRITE: the launch doorbell, checked before it is taken; launch units accept it while the partition is RUNNING (R404, R405). -/
def execLrdbWrite (vf : Nat) (val : Word) (s : State) : Out1 :=
  let v := s.vf vf
  if !s.hears vf then .next s.deaf
  else if v.le then .next s
  else if !(match v.part with | some p => (s.part p).pstate == .running | none => false) then .next s
  else
    let c := if field val.toNat 16 48 != 0 then 1 else ringCode v v.lrcfg v.lrbase 128
    let w := val.extractLsb' 0 16
    let n := 2 ^ field v.lrcfg.toNat 0 4
    if c ≠ 0 then .next (s.launchRingError vf c)
    else if n < (w - v.lp).toNat || n < (w - v.lh).toNat then .next (s.launchRingError vf 3)
    else .next (s.modVf vf (fun v => { v with lp := w }))

/-- ERDB_WRITE: the event doorbell (R405). -/
def execErdbWrite (vf : Nat) (val : Word) (s : State) : Out1 :=
  let v := s.vf vf
  if !s.hears vf then .next s.deaf
  else if v.ee then .next s
  else
    let c := ringCode v v.ercfg v.erbase 64
    let w := val.extractLsb' 0 16
    let n := 2 ^ field v.ercfg.toNat 0 4
    if c ≠ 0 then .next (s.eventRingError vf c)
    else if n < (w - v.ep).toNat || n < (v.ed - w).toNat then .next (s.eventRingError vf 3)
    else .next (s.modVf vf (fun v => { v with ep := w }))

/-- A ring configuration as it is written, whose reserved bits are ignored (R7, R401; log 34). -/
def ringCfg (val : Word) : Word := val &&& 0x2F

/-- What a write of LRCFG does to a function: EN = 0 clears the error and the indices (R405). -/
def Vf.setLrcfg (v : Vf) (val : Word) : Vf :=
  if bitAt val.toNat 5 then { v with lrcfg := ringCfg val }
  else { v with lrcfg := ringCfg val, le := false, lcode := 0, lh := 0, lp := 0 }

/-- What a write of ERCFG does: EN = 0 clears the error and the indices, and keeps the entries that wait; EN = 1 asks for the check
before the first entry (R405). -/
def Vf.setErcfg (v : Vf) (val : Word) : Vf :=
  if bitAt val.toNat 5 then { v with ercfg := ringCfg val, erchk := true }
  else { v with ercfg := ringCfg val, ee := false, ecode := 0, ed := 0, ep := 0, erchk := false }

/-- LRCFG_WRITE (R405, R413). -/
def execLrcfgWrite (vf : Nat) (val : Word) (s : State) : Out1 :=
  if s.hears vf then .next ((s.modVf vf (fun v => v.setLrcfg val)).touchLocked vf) else .next s.deaf

/-- ERCFG_WRITE (R405, R413). -/
def execErcfgWrite (vf : Nat) (val : Word) (s : State) : Out1 :=
  if s.hears vf then .next ((s.modVf vf (fun v => v.setErcfg val)).touchLocked vf) else .next s.deaf

/-- An entry as it is written to slot `j`: P is 1 on odd passes of the ring, the first being odd (R406). -/
def slotBits (v : Vf) (e : EventEntry) : BitVec 512 :=
  if bitAt v.ed.toNat (field v.ercfg.toNat 0 4) then e.bits else e.bits ||| 1

/-- An entry is written to its slot: bytes 1 to 63, and then byte 0 in a second posted write with Relaxed Ordering clear (R406; that the
first has it set, as a plain store has, is the model's choice: log 48). -/
def State.writeEntry (s : State) (f slot : Nat) (bits : BitVec 512) : State :=
  (s.emit (.eventEntry f slot 1 63 bits true)).emit (.eventEntry f slot 0 1 bits false)

/-- EVENT_ENTRY_WRITE: the oldest waiting entry of a function is written to its ring and vector 1 is raised; `sendable` tells whether
the link can send the write (R150, R405, R406, R412). -/
def execEventEntryWrite (vf : Nat) (sendable : Bool) (s : State) : Out1 :=
  let v := s.vf vf
  match v.entries with
  | [] => .next s
  | e :: rest =>
    let c := if v.erchk then ringCode v v.ercfg v.erbase 64 else 0
    if !s.dev.rdy || !bitAt v.ercfg.toNat 5 || v.ee then .next s
    else if c ≠ 0 then .next (s.eventRingError vf c)
    else if 2 ^ field v.ercfg.toNat 0 4 ≤ (v.ed - v.ep).toNat then .next s
    else if !(sendable && v.busMaster && !s.isInsecure vf) then .next (s.eventRingError vf 5)
    else
      let slot := v.ed.toNat % 2 ^ field v.ercfg.toNat 0 4
      let s1 := (s.modVf vf (fun v => { v with entries := rest, ed := v.ed + 1, erchk := false })).writeEntry vf slot (slotBits v e)
      .next (if e.notify then s1.emit (.msix vf 1 false) else s1)

/-! ## HMSG, AGREPLY and the agent's timeout (R410, R411) -/

/-- The launch of a function that a serial names, if it has been admitted and has not completed. -/
def State.knownSerial (s : State) (f : Nat) (serial : Nat) : Option (Nat × Launch) :=
  s.launches.find? (fun l => l.2.vf == f && l.2.serial.toNat == serial && !l.2.place.isEmpty)

/-- HMSG_POST: a message to handler 62 of a launch (R410). -/
def execHmsgPost (vf size : Nat) (data : BitVec 512) (s : State) : Out1 :=
  let d := data.toNat
  if !s.hears vf then .next s.deaf
  else if size ≠ 64 then .next (s.countStale vf)
  else match s.knownSerial vf (field d 308 64) with
    | none => .next (s.countStale vf)
    | some (i, l) =>
      let lc := field d 296 12
      if l.nlcore ≤ lc then .next (s.countStale vf)
      else
        let f := unitFlight i l lc 62 (BitVec.ofNat 256 d)
        .next (s.post hostUnit { f with msg := { f.msg with key := BitVec.ofNat 40 (field d 256 40) } })

/-- What a reply gives an atomic of `n` bytes: the old value and the flags (R411). -/
def Load.replied (old : BitVec 128) (flags : BitVec 5) (l : Load) : Load :=
  { l with evs := [], got := (upTo 16).map (fun i => (i, BitVec.extractLsb' (8 * i) 8 old)), flags := flags }

/-- The agent request of an id, which leaves the list. -/
def State.takeAgent (s : State) (f id : Nat) : Option (AgentReq × State) :=
  ((s.vf f).agents.find? (fun a => a.id == id)).map (fun a =>
    (a, s.modVf f (fun v => { v with agents := v.agents.filter (fun b => b.id != id) })))

/-- Bytes of the host page that an outstanding atomic touches count in BHOST as it performs (R436). -/
def State.meterAtom (s : State) (c k seq : Nat) : State :=
  match ((s.str c k).lds.find? (fun l => l.seq == seq)).bind (fun l => l.evs.head?) with
  | some e => s.meterOf c 9 e.bytes.length
  | none => s

/-- The atomic faults with HOST_ABORT. -/
def State.abortLoad (s : State) (c k seq : Nat) : State :=
  s.answerLoad c k seq (fun l => { l with evs := [], bad := worse l.bad 0 { code := 0x41, detail := 0, val := l.ptr } })

/-- AGREPLY_WRITE: the host agent's reply to a request (R411). -/
def execAgreplyWrite (vf : Nat) (data : BitVec 256) (s : State) : Out1 :=
  if !s.hears vf then .next s.deaf
  else match s.takeAgent vf (field data.toNat 0 16) with
    | none => .next (s.countStale vf)
    | some (a, s1) =>
      if bitAt data.toNat 16 then
        .next ((s1.meterAtom a.core a.str a.seq).answerLoad a.core a.str a.seq (Load.replied (data.extractLsb' 128 128) (data.extractLsb' 17 5)))
      else .next (s1.abortLoad a.core a.str a.seq)

/-- AGENT_TIMEOUT: no reply within AGTO (R411). -/
def execAgentTimeout (vf id : Nat) (s : State) : Out1 :=
  match s.takeAgent vf id with
  | none => .next s
  | some (a, s1) => .next (s1.abortLoad a.core a.str a.seq)

/-! ## Register and configuration writes (R401, R403, R404, R413) -/

/-- A write to the command mailbox. While a command runs, GO reads 1, and a write to PMCMD with GO = 1 is ignored; one with GO = 0 sets the
other fields, which the command that runs does not read again (R404; log 26). -/
def Mailbox.write (m : Mailbox) (off : Nat) (val : Word) : Mailbox :=
  let w := val &&& 0x8000000001FF0FFF
  if off = 0 then
    if !m.go then { m with cmd := w, run := w }
    else if bitAt val.toNat 63 then m else { m with cmd := w ||| 0x8000000000000000 }
  else if h : 0x10 ≤ off ∧ off ≤ 0x48 ∧ off % 8 = 0 then { m with args := m.args.set (off / 8 - 2) val (by omega) }
  else m

/-- A write to a register of a partition block (R403). -/
def Partition.writeReg (q : Partition) (off : Nat) (val : Word) : Partition :=
  match off with
  | 0x010 => { q with wlbase := val }
  | 0x018 => { q with wlcfg := val &&& 0x2F }
  | 0x020 => { q with wlpasid := val &&& 0xFFFFF }
  | _ => q

/-- A write to the partition management window, at an offset from its start (R403). -/
def State.writeWindow (s : State) (o : Nat) (val : Word) : Out1 :=
  if o < 0x80 then .next { s with root := { s.root with mbox := s.root.mbox.write o val } }
  else if 0x10000 ≤ o ∧ o < 0x20000 then
    let p := (o - 0x10000) / 0x1000
    let r := (o - 0x10000) % 0x1000
    if 0x100 ≤ r ∧ r < 0x200 ∧ r % 8 = 0 then execQuantumTableWrite p ((r - 0x100) / 8) val s
    else .next (s.modPart p (fun q => q.writeReg r val))
  else if 0x20000 ≤ o ∧ o < 0x20000 + 0x10 * 257 then
    let f := (o - 0x20000) / 0x10
    if f = 0 then .next s
    else if (o % 0x10) = 0 then .next ((s.modVf f (fun v => { v with hwlo := val })).touchLocked f)
    else if (o % 0x10) = 8 then .next ((s.modVf f (fun v => { v with hwhi := val })).touchLocked f)
    else .next s
  else .next s

/-- A write of 8 bytes to a VF register block (R401). One inside HMSG is of another size than 64 bytes, discarded and counted (R410); that one
inside AGREPLY is discarded and not counted is the model's choice (log 89). -/
def State.writeVfReg (s : State) (f off : Nat) (val : Word) : Out1 :=
  match off with
  | 0x000 => .next ((s.modVf f (fun v => { v with lrbase := val })).touchLocked f)
  | 0x008 => execLrcfgWrite f val s
  | 0x010 => execLrdbWrite f val s
  | 0x018 => .next ((s.modVf f (fun v => { v with erbase := val })).touchLocked f)
  | 0x020 => execErcfgWrite f val s
  | 0x028 => execErdbWrite f val s
  | 0x160 => .next (s.modVf f (fun v => { v with agto := val }))
  | o => .next (if 0x100 ≤ o ∧ o < 0x140 then s.countStale f else s)

/-- A write of 8 bytes at an offset of BAR 0 of a function; read-only and reserved registers ignore it (R7, R401, R403, R450). -/
def State.regWrite (s : State) (fn off : Nat) (val : Word) : Out1 :=
  if fn = 0 then
    if s.dev.rdy && decide (0x40000 ≤ off) && decide (off < 0x80000) then s.writeWindow (off - 0x40000) val else .next s
  else if s.hears fn then s.writeVfReg fn off val
  else .next s.deaf

/-! ## Register reads (R7, R401 to R404, R447, R449, R450) -/

/-- VFSTAT (R402). -/
def State.vfstat (s : State) (f : Nat) : Word :=
  let v := s.vf f
  BitVec.ofNat 64 (b2n s.dev.rdy + b2n v.le * 2 + b2n v.ee * 2 ^ 2 + b2n (v.tdi == .error) * 2 ^ 3 + v.lcode.toNat * 2 ^ 4
    + v.ecode.toNat * 2 ^ 8 + v.incarn % 256 * 2 ^ 16 + v.stale.toNat * 2 ^ 32)

/-- A VF register block (R401); what may only be written reads zero. -/
def State.readBlock (s : State) (f off : Nat) : Word :=
  let v := s.vf f
  match off with
  | 0x000 => v.lrbase
  | 0x008 => v.lrcfg &&& 0x2F
  | 0x018 => v.erbase
  | 0x020 => v.ercfg &&& 0x2F
  | 0x030 => s.vfstat f
  | 0x038 => v.lcount.zeroExtend 64
  | 0x040 => v.hwlo
  | 0x048 => v.hwhi
  | 0x160 => v.agto
  | _ => 0

/-- Code of PSTATE (R403). -/
def PState.code : PState → Nat
  | .free => 0
  | .stopped => 1
  | .running => 2
  | .fenced => 3

/-- A partition block (R403); a retired core is not among the cores held (R447). -/
def State.readPart (s : State) (p off : Nat) : Word :=
  let q := s.part p
  match off with
  | 0x000 => BitVec.ofNat 64 (q.pstate.code + q.ownlim * 2 ^ 8 + (s.liveCores p).length * 2 ^ 16)
  | 0x008 => BitVec.ofNat 64 q.home
  | 0x010 => q.wlbase
  | 0x018 => q.wlcfg
  | 0x020 => q.wlpasid
  | _ => if 0x100 ≤ off ∧ off < 0x200 then q.qt.toList.getD ((off - 0x100) / 8) 0 else 0

/-- The command mailbox (R404). -/
def Mailbox.read (m : Mailbox) (off : Nat) : Word :=
  match off with
  | 0x00 => m.cmd
  | 0x08 => m.stat
  | 0x50 => m.res
  | _ => if 0x10 ≤ off ∧ off ≤ 0x48 then m.args.toList.getD (off / 8 - 2) 0 else 0

/-- The partition management window, at an offset from its start (R403). -/
def State.readWindow (s : State) (o : Nat) : Word :=
  if o < 0x80 then s.root.mbox.read o
  else if 0x10000 ≤ o ∧ o < 0x20000 then s.readPart ((o - 0x10000) / 0x1000) ((o - 0x10000) % 0x1000)
  else if 0x20010 ≤ o ∧ o < 0x20000 + 0x10 * 257 then
    if o % 0x10 = 0 then (s.vf ((o - 0x20000) / 0x10)).hwlo else (s.vf ((o - 0x20000) / 0x10)).hwhi
  else 0

/-- DEVSTAT (R449). -/
def Device.stat (d : Device) : Word :=
  BitVec.ofNat 64 (b2n d.rdy + b2n d.fail * 2 + d.phase.toNat * 2 ^ 8 + d.bstep.toNat * 2 ^ 16 + d.unit.toNat * 2 ^ 32)

/-- Eight bytes of the core map, the states of 32 cores from core `c` (R447). -/
def Device.mapWord (d : Device) (c : Nat) : Word :=
  BitVec.ofNat 64 ((upTo 32).foldl (fun a i => a + (mget WState.service d.coreMap (c + i)).code * 4 ^ i) 0)

/-- The 8 aligned bytes that a read of BAR 0 of a function gives (R7, R447, R449, R450). -/
def State.readReg (s : State) (fn off : Nat) : Word :=
  if fn ≠ 0 then (if s.dev.rdy || off == 0x030 then s.readBlock fn off else 0)
  else if off = 0x1000 then s.dev.stat
  else if 0x2000 ≤ off ∧ off < 0x2400 then s.dev.mapWord ((off - 0x2000) / 8 * 32)
  else if 0x20000 ≤ off ∧ off < 0x40000 then
    BitVec.extractLsb' (64 * (off % 32 / 8)) 64 (mget 0 s.dev.records ((off - 0x20000) / 32))
  else if s.dev.rdy && decide (0x40000 ≤ off) && decide (off < 0x80000) then s.readWindow (off - 0x40000)
  else 0

/-- One event after another. -/
def thenDo (r : Out1) (f : State → Out1) : Out1 :=
  match r with
  | .next s => f s
  | x => x

/-- An AtomicOp of the host at `n` bytes of the registers: the old value goes back, and a new one is written as a write of each register
touched (R400). -/
def State.regAtomic (s : State) (fn off n : Nat) (f : AtomFn) (a b : BitVec 128) : Out1 :=
  let lo := off / 8 * 8
  let old := (s.readReg fn lo).toNat + (s.readReg fn (lo + 8)).toNat * 2 ^ 64
  let sh := 8 * (off % 8)
  let was := field old sh (8 * n)
  let now := old - was * 2 ^ sh + (atomNew f n was a.toNat b.toNat 0).1 % 2 ^ (8 * n) * 2 ^ sh
  let s1 := s.emit (.hostReply fn (BitVec.ofNat 128 was))
  if !atomWrites f was a.toNat then .next s1
  else thenDo (s1.regWrite fn lo (BitVec.ofNat 64 now)) (fun s2 =>
    if n = 16 then s2.regWrite fn (lo + 8) (BitVec.ofNat 64 (now / 2 ^ 64)) else .next s2)

/-- A request of the host that awaits an answer is refused: its function's partition is fenced (R397). -/
def State.shut (s : State) (f : Nat) : Bool :=
  match (s.vf f).part with
  | some p => (s.part p).pstate == .fenced
  | none => false

/-- REGISTER_WRITE: a write of 8 bytes to a register of BAR 0 of a function, or a read or an AtomicOp (R7, R397, R400, R401, R403,
R450). -/
def execRegisterWrite (fn off : Nat) (op : RegOp) (s : State) : Out1 :=
  match op with
  | .write val => s.regWrite fn off val
  | .read => .next (s.emit (if s.shut fn then .unsupported fn else .regReply fn (s.readReg fn off)))
  | .atomic f n a b =>
    if s.shut fn || !hasAtomicOp f n || off % n != 0 then .next (s.emit (.unsupported fn)) else s.regAtomic fn off n f a b

/-- The field that a configuration write names. -/
def Vf.configure (v : Vf) (x : CfgField) (val : Word) : Vf :=
  match x with
  | .space => v
  | .msixTable => v
  | .lrbase => { v with lrbase := val }
  | .erbase => { v with erbase := val }
  | .lrcfg => v.setLrcfg val
  | .ercfg => v.setErcfg val
  | .hwlo => { v with hwlo := val }
  | .hwhi => { v with hwhi := val }
  | .busMaster => { v with busMaster := val.getLsbD 0 }
  | .atomicRequester => { v with atomicReq := val.getLsbD 0 }
  | .pasid => { v with pasid := val.extractLsb' 0 20 }

/-- The write goes to the function's configuration space and not to a BAR. -/
def cfgInSpace : CfgField → Bool
  | .space => true
  | .busMaster => true
  | .atomicRequester => true
  | .pasid => true
  | _ => false

/-- CONFIGURATION_WRITE: the write takes effect, and a locked interface goes to ERROR (R406, R413, R419). To a function of a fenced partition
a write of configuration space, which awaits a completion, ends with Unsupported Request, and one of a BAR is discarded and counted
(R397). -/
def execConfigurationWrite (fn : Nat) (field : CfgField) (val : Word) (s : State) : Out1 :=
  if s.shut fn && cfgInSpace field then .next (s.emit (.unsupported fn))
  else if cfgInSpace field || s.hears fn || (field == .msixTable && !s.shut fn) then
    .next ((s.modVf fn (fun v => v.configure field val)).touchLocked fn)
  else .next s.deaf

/-! ## Completions (R147, R281, R411) -/

/-- The request of an id leaves the list. -/
def State.takeReq (s : State) (id : Nat) : Option (HostReq × State) :=
  (mfind s.hostReqs id).map (fun r => (r, { s with hostReqs := mdel s.hostReqs id }))

/-- The read that shows earlier stores to have arrived has completed (R147). -/
def State.flushed (s : State) (c k id : Nat) : State :=
  s.modStr c k (fun t => if t.flush = some id then { t with flush := none } else t)

/-- A sector that a requester waits for has come, or its request has failed; one that nothing waits for any more is discarded and counted
(R396, R398). -/
def State.giveSector (s : State) (c who : Nat) (pl : Place) (h : Hand) : State :=
  if (s.core c).misses.contains (.data who pl) then s.serve c who (.data who pl) h else s.countAt (coreUnit c)

/-- A store of the buffer waits for the host to show that earlier ones have arrived (R147). -/
def Store.flushes (x : Store) : Bool :=
  x.rel == some .sys && x.evs.any (fun e => match e.place with | .host _ _ _ => false | _ => true)

/-- What a stream has waiting for the accesses before its SBIND ends with HOST_ABORT: its pushes go, or the element that it would read next
faults. -/
def Stream.aborted (x : Stream) : Stream :=
  if x.after.isNone then x
  else if x.dst then { x with pushes := [], after := none }
  else { x with after := none, fetched := mset x.fetched x.pos (.bad { code := 0x41, detail := 0, val := x.base }) }

/-- A string without what waited for a flush read that has failed. -/
def Str.noFlush (t : Str) : Str :=
  { t with flush := none, sb := t.sb.filter (fun x => !x.flushes), st := t.st.map (·.map Stream.aborted),
           inHand := if t.run = .running then t.inHand ++ [.noFlush] else t.inHand }

/-- The pointers of a string's writes that wait for a flush read, stores and then pushes. -/
def Str.flushPtrs (t : Str) : List Word :=
  (t.sb.filter Store.flushes).flatMap (fun x => x.evs.map x.ptrAt)
    ++ t.st.toList.flatMap (fun x => match x with
      | some x => if x.after.isSome then x.pushes.map (·.ptr) else []
      | none => [])

/-- The read that was to show a string's stores to the host to have arrived ends in an error: atomics, the executing instruction, elements and
commands that wait for it fault with HOST_ABORT, and stores and pushes are reported (R390, R412, R414; log 35). -/
def State.flushFailed (s : State) (c k id : Nat) : State :=
  let t := s.str c k
  if t.flush != some id then s
  else
    let s1 := s.modStr c k Str.noFlush
    let s2 := t.flushPtrs.foldl (fun s p => s.reportWrite c t.launch p 0x21) s1
    let s3 := (t.lds.filter (fun l => l.rel == some .sys && !l.evs.isEmpty)).foldl (fun s l => s.abortLoad c k l.seq) s2
    s3.modCore c (fun co => (co.askers (fun x => x.str == k && x.after.isSome)).foldl (fun co e =>
      co.failCmd e { code := 0x41, detail := 0, val := 0 }) co)

/-- A request ends with an abort or a timeout (R281, R412). -/
def State.abortReq (s : State) (id : Nat) (r : HostReq) : State :=
  match r with
  | .load c k seq e => s.answerLoad c k seq (Load.failed 0x41 0 e)
  | .atomic c k seq _ => s.abortLoad c k seq
  | .flush c k => s.flushFailed c k id
  | .read c who pl => s.giveSector c who pl (.failed pl 0x41 0)

/-- The answer to a host atomic: its bytes are in the low bits of the data (R281). -/
def Load.atomAnswered (d : BitVec 256) (l : Load) : Load :=
  ({ l with evs := [], got := (upTo 16).map (fun i => (i, BitVec.extractLsb' (8 * i) 8 d)) } : Load).amoFlags

/-- A request completes successfully; a load's data are those of its sector (R147). -/
def State.completeReq (s : State) (id : Nat) (r : HostReq) (d : BitVec 256) : State :=
  match r with
  | .load c k seq e => (s.meterOf c 9 e.bytes.length).answerLoad c k seq (Load.answered d e)
  | .atomic c k seq _ => (s.meterAtom c k seq).answerLoad c k seq (Load.atomAnswered d)
  | .flush c k => s.flushed c k id
  | .read c who pl => s.giveSector c who pl (.sector pl d)

/-- HOST_COMPLETION; one that no request waits for is discarded and counted (R147, R281, R396, R419). -/
def execHostCompletion (id : Nat) (status : CplStatus) (data : BitVec 256) (s : State) : Out1 :=
  match s.takeReq id with
  | none => .next (s.countAt hostUnit)
  | some (r, s1) => match status, r with
    | .ok, r => .next (s1.completeReq id r data)
    | .unsupported, .atomic c k seq agent => .next (s1.hostRefused c k seq agent)
    | _, r => .next (s1.abortReq id r)

/-- COMPLETION_TIMEOUT (R281). -/
def execCompletionTimeout (id : Nat) (s : State) : Out1 :=
  match s.takeReq id with
  | none => .next s
  | some (r, s1) => .next (s1.abortReq id r)

/-- The function under which a request went out. -/
def State.reqFn (s : State) (r : HostReq) : Nat :=
  match r with
  | .load _ _ _ e => (match e.place with | .host f _ _ => f | _ => 0)
  | .atomic c k _ _ => strFn s c (s.str c k).launch
  | .flush c k => strFn s c (s.str c k).launch
  | .read _ _ pl => (match pl with | .host f _ _ => f | _ => 0)

/-- Requests of a core for pages of the chosen functions end with HOST_ABORT (R412). -/
def State.abortPages (s : State) (c : Nat) (on : Nat → Bool) : State :=
  (s.core c).misses.foldl (fun s m => match m with
    | .host k f page _ _ => if on f then s.serve c k m (.hostAbort f page) else s
    | _ => s) s

/-- IDE_INTEGRITY_FAILURE: the stream is Insecure for every function whose traffic it carries or comes to carry, until its keys are programmed
again, and outstanding requests on it, those for translations and pages among them, fault with HOST_ABORT (R412). -/
def execIdeIntegrityFailure (_fn stream : Nat) (s : State) : Out1 :=
  let on (f : Nat) : Bool := (s.vf f).stream == stream
  let s1 : State := { s with dev := { s.dev with insecure := stream :: s.dev.insecure.filter (fun x => x != stream) } }
  let rs := s1.hostReqs.filter (fun r => on (s1.reqFn r.2))
  let s2 := rs.foldl (fun s r => ({ s with hostReqs := mdel s.hostReqs r.1 } : State).abortReq r.1 r.2) s1
  .next ((s2.cores.map (·.1)).foldl (fun s c => s.abortPages c on) s2)

/-! ## Address translation (R36, R409) -/

/-- A core whose miss of a function's page stands at one of the chosen stages, with the miss. -/
def State.pageMiss (s : State) (f page : Nat) (at_ : Nat → Bool) : Option (Nat × Miss) :=
  s.cores.findSome? (fun c => (c.2.misses.find? (fun m => match m with
    | .host _ v g _ st => v == f && g == page && at_ st
    | _ => false)).map (fun m => (c.1, m)))

/-- Replaces a miss of a core. -/
def State.moveMiss (s : State) (c : Nat) (m m' : Miss) : State :=
  s.modCore c (fun co => { co with misses := co.misses.map (fun x => if x = m then m' else x) })

/-- A miss is over: the access is tried again. -/
def State.endMiss (s : State) (c : Nat) (m : Miss) : State :=
  s.modCore c (fun co => { co with misses := co.misses.filter (fun x => x != m) })

/-- The access is refused (XLATE, cause HOSTPAGE). -/
def State.refusePage (s : State) (c : Nat) (m : Miss) : State :=
  match m with
  | .host k f page _ _ => s.serve c k m (.noHost f page)
  | _ => s

/-- Asks for a page through a free one of the 256 slots of the function; with none free the access is refused (R36, R409). -/
def State.askPage (s : State) (c : Nat) (m : Miss) : State :=
  match m with
  | .host k f page wr _ =>
    let v := s.vf f
    match (upTo 256).find? (fun i => !v.pri.any (fun x => x.1 == i)) with
    | none => s.refusePage c m
    | some i =>
      ((s.moveMiss c m (.host k f page wr 1)).modVf f (fun v => { v with pri := v.pri ++ [(i, v.incarn, page, wr)] })).emit
        (.pageRequest f page i v.incarn wr)
  | _ => s

/-- The completion of a translation request replaces what the cache of 4,096 entries holds for the page; from a full cache the entry goes
that was installed longest ago (log 66). -/
def State.cachePage (s : State) (f page target : Nat) (reads writes : Bool) : State :=
  let others := s.ats.filter (fun e => !(e.vf == f && e.page == page && e.pasid == (s.vf f).pasid))
  { s with ats := if reads || writes then
      ({ vf := f, pasid := (s.vf f).pasid, page := page, target := target, reads := reads, writes := writes } :: others).take 4096
    else others }

/-- ATS_TRANSLATION_COMPLETION: the page's translated address is `target` × 4096 (R36 steps 2 to 4). One that no access waits for any more is
discarded and counted, and in a fenced partition no page is asked for (R396, R397). -/
def execAtsTranslationCompletion (vf : Nat) (page : AtsPage) (reads writes : Bool) (s : State) : Out1 :=
  match s.pageMiss vf (page.iova / 4096) (fun st => st == 0 || st == 2) with
  | some (c, .host k f p wr st) =>
    let m := Miss.host k f p wr st
    let s1 := s.cachePage vf (page.iova / 4096) page.target reads writes
    if (if wr then writes else reads) || s.shut vf then .next (s1.endMiss c m)
    else if st = 0 then .next (s1.askPage c m)
    else .next (s1.refusePage c m)
  | _ => .next (s.countAt hostUnit)

/-- PAGE_REQUEST_GROUP_RESPONSE: the response frees its slot, and one of an old incarnation counts as stale (R36, R409); one that no access
waits for any more is discarded and counted (R396). -/
def execPageRequestGroupResponse (vf slot incarn : Nat) (success : Bool) (s : State) : Out1 :=
  let v := s.vf vf
  match v.pri.find? (fun x => x.1 == slot && x.2.1 == incarn) with
  | none => .next (s.countStale vf)
  | some (_, _, page, _) =>
    let s1 := s.modVf vf (fun v => { v with pri := v.pri.filter (fun x => x.1 != slot) })
    if incarn ≠ v.incarn then .next (s1.countStale vf)
    else match s1.pageMiss vf page (· == 1) with
      | some (c, .host k f g wr st) =>
        let m := Miss.host k f g wr st
        if success then .next ((s1.moveMiss c m (.host k f g wr 2)).emit (.atsRequest vf page)) else .next (s1.refusePage c m)
      | _ => .next (s1.countAt hostUnit)

/-- ATS_INVALIDATE_REQUEST: matching entries go; the completion follows once every request that used one has been sent (R36). -/
def execAtsInvalidateRequest (vf iova len : Nat) (s : State) : Out1 :=
  let s1 : State := { s with ats := s.ats.filter (fun e => !(e.vf == vf && overlaps iova len (e.page * 4096) 4096)) }
  .next ((s1.modVf vf (fun v => { v with inval := v.inval ++ [(iova, len)] })).settleInval vf)

/-! ## The Novino link (R37, R62, R397, R414) -/

/-- A write that has carried poison leaves its sector poisoned (R84). -/
def State.carried (s : State) (poison : Bool) (a : Nat) : State :=
  if poison then { s with bad := mset s.bad (s.version 0 a / 32) .poisoned } else s

/-- Performs a request of a member package at its home, which makes no rights check and carries shadow number 0 (R62, R170). Loads and atomics
that are known not to fault perform before bytes that carry poison (log 13). -/
def State.performRemote (s : State) (q a size : Nat) (k : RemKind) (d : BitVec 256) : State :=
  let evs := (upTo size).map (fun i => (i, i))
  let bytes := (upTo size).map (fun i => (i, s.mem.get (s.version 0 (a + i))))
  match badAt s none a 0, k with
  | some f, .read => (s.poisonFound none a).emit (.novinoReply q [] (some (f.code, 0)))
  | some f, .atomic _ => (s.poisonFound none a).emit (.novinoReply q [] (some (f.code, 0)))
  | none, .read => s.emit (.novinoReply q bytes none)
  | _, .write poison =>
    if s.inSpan (s.version 0 a) then s.emit (.novinoReply q [] (some (0x21, 0)))
    else
      let s1 := if poison then s.sureFirst (· == s.version 0 a / 32) else s
      ((s1.writeEv none a evs (d.zeroExtend 4096)).carried poison a).emit (.novinoReply q [] none)
  | none, .atomic f =>
    let old := leNat (bytes.map (·.2))
    let r := atomNew f size old (field d.toNat 0 128) (field d.toNat 128 128) (d.extractLsb' 128 2)
    let s1 := if atomWrites f old (field d.toNat 0 128) then s.writeEv none a evs (BitVec.ofNat 4096 r.1) else s
    s1.emit (.novinoReply q bytes none)

/-- NOVINO_REQUEST: an access to `off` by member package `q` of a partition. A fenced partition answers with a NACK of reason RESET; the
offset is translated by the partition's tables, a misdeclared leaf counting in MISROUTE, and a fault goes back with its cause (R37, R62, R73,
R397). The operands of an atomic stand in
the two halves of `data`; the mode of a FAMO in the low bits of the upper one. -/
def execNovinoRequest (part q off size : Nat) (kind : RemKind) (data : BitVec 256) (s : State) : Out1 :=
  let r := s.part part
  if r.pstate = .fenced ∨ !r.member q then .next (s.emit (.novinoNack q (r.pstate == .fenced)))
  else if 2 ^ 45 ≤ off then .next (s.emit (.novinoReply q [] (some (0x10, 1))))
  else
    let s1 := (s.walkOf part off).foldl (fun s x => (s.roundTrip (novinoUnit off) (.phys x) part).poisonFound none x) s
    match walk s.seen r off with
    | .error c => .next (s1.emit (.novinoReply q [] (some (0x10, c))))
    | .ok e =>
      if e.host then .next (s1.emit (.novinoReply q [] (some (0x10, 6))))
      else
        let a := e.target + (off - e.va)
        let s2 := if declaredRight e.home e.hcl e.target e.size then s1 else s1.modPart part (fun q => q.meter 14 1)
        .next ((s2.roundTrip (novinoUnit off) (.phys a) part).performRemote q a (Nat.min size (32 - off % 32)) kind data)

/-- REKEY: the pair of root cores agrees a new link key (R414). -/
def execRekey (part q : Nat) (s : State) : Out1 :=
  .next (s.modPart part (fun r => { r with members := r.members.map (fun m =>
    if m.pkg = q then { m with rekeys := m.rekeys + 1 } else m) }))

end Sys2Proof.Machine
end

