-- ==== Sys2Proof/Machine/Spdm.lean ====
section
/-! DEFINITION. The SPDM responder of the root core (R400, R433 to R435, R450). Codes of requests, responses and errors are those of SPDM
(log 27). -/

namespace Sys2Proof.Machine

/-! ## Connections and replies -/

/-- The connection of a function's DOE mailbox. -/
def State.spdmOf (s : State) (f : Nat) : Spdm := mget Spdm.init s.root.spdm f

/-- Replaces it. -/
def State.setSpdm (s : State) (f : Nat) (x : Spdm) : State := { s with root := { s.root with spdm := mset s.root.spdm f x } }

/-- An ERROR reply, which enters no transcript and changes no state (R434). -/
def State.spdmError (s : State) (f code : Nat) : State := s.emit (.spdm f 0x7F code [])

/-- The bytes of a message: version, code, parameter and body (log 27). -/
def msgBytes (ver code param : Nat) (body : List Byte) : List Byte := leBytes 1 ver ++ leBytes 1 code ++ leBytes 4 param ++ body

/-- Bytes of a number of 384 bits, as a digest stands in a message. -/
def bytes48 (v : BitVec 384) : List Byte := leBytes 48 v.toNat

/-- A message of a request or a reply: code, parameter and body. -/
abbrev SpdmMsg := Nat × Nat × List Byte

/-- A request and its reply as a transcript holds them. -/
def Spdm.pair (x : Spdm) (req rsp : SpdmMsg) : List Byte :=
  msgBytes x.version req.1 req.2.1 req.2.2 ++ msgBytes x.version rsp.1 rsp.2.1 rsp.2.2

/-- The hash of a transcript (R434). -/
def transcriptHash (t : List Byte) : BitVec 384 := digestNum (sha384 t)

/-- The signature of the alias key over the hash of a transcript, in two halves (R433, R434). -/
def State.signature (s : State) (t : List Byte) : List Byte :=
  bytes48 (Config.sign s.root.aliasKey (transcriptHash t) false) ++ bytes48 (Config.sign s.root.aliasKey (transcriptHash t) true)

/-- A reply goes out, with what follows its body, and the connection becomes `x`. -/
def State.spdmReply (s : State) (f : Nat) (rsp : SpdmMsg) (sg : List Byte) (x : Spdm) : State :=
  (s.setSpdm f x).emit (.spdm f rsp.1 rsp.2.1 (rsp.2.2 ++ sg))

/-- Runs a request that is allowed in one state of the connection: UnexpectedRequest in another, VersionMismatch for another version
than the one negotiated (R434). Before RDY no request is answered (R450). -/
def spdmRequest (f : Nat) (allowed : Spdm → Bool) (verOk : Spdm → Bool) (run : State → State) (s : State) : Out1 :=
  if s.doeBusy then .next s
  else if !allowed (s.spdmOf f) then .next (s.spdmError f 0x04)
  else if !verOk (s.spdmOf f) then .next (s.spdmError f 0x41)
  else .next (run s)

/-- Fresh numbers: the responder's share of a key exchange, and what is computed from the shared secret (R433; log 9). -/
def State.opaqueBody (s : State) (n : Nat) : List Byte := (upTo n).flatMap (fun i => bytes48 (Config.fresh (s.tick + i)))

/-- The digest of the certificate chain of slot 0 (R433). -/
def State.chainDigest (s : State) : List Byte := sha384 (Config.chain s.root.aliasKey)

/-- TH as far as the session's messages have gone: the set-up, the digest of the chain, and those messages (R434; log 27). -/
def State.sessionText (s : State) (x : Spdm) : List Byte := x.setup ++ s.chainDigest ++ x.keys

/-! ## The requests -/

/-- GET_VERSION: it resets the connection and the transcripts; versions 1.2 and 1.3 (R415, R434). -/
def execGetVersion (fn : Nat) (s : State) : Out1 :=
  let rsp : SpdmMsg := (0x04, 0x1312, [])
  if s.doeBusy then .next s
  else .next (s.spdmReply fn rsp [] { Spdm.init with state := .version, setup := Spdm.init.pair (0x84, 0, []) rsp })

/-- GET_CAPABILITIES: the request's version becomes that of the connection. -/
def execGetCapabilities (fn ver : Nat) : State → Out1 :=
  spdmRequest fn (fun x => x.state == .version) (fun _ => ver == 0x12 || ver == 0x13) (fun s =>
    let x := { s.spdmOf fn with state := .capabilities, version := ver }
    s.spdmReply fn (0x61, ver, []) [] { x with setup := x.setup ++ x.pair (0xE1, 0, []) (0x61, ver, []) })

/-- The algorithms offered, as the selections of ALGORITHMS: ECDSA P-384 in bits 31 to 0, SHA-384 in 63 to 32, ECDHE P-384 in 79 to 64, and
AES-256-GCM in 95 to 80 (R433; log 27). -/
def algorithms : BitVec 384 := BitVec.ofNat 384 (0x80 + 0x02 * 2 ^ 32 + 0x10 * 2 ^ 64 + 0x02 * 2 ^ 80)

/-- NEGOTIATE_ALGORITHMS: SHA-384, ECDSA P-384, ECDHE P-384 and AES-256-GCM alone (R433). -/
def execNegotiateAlgorithms (fn ver : Nat) : State → Out1 :=
  spdmRequest fn (fun x => x.state == .capabilities) (fun x => x.version == ver) (fun s =>
    let x := s.spdmOf fn
    let rsp : SpdmMsg := (0x63, 0, bytes48 algorithms)
    s.spdmReply fn rsp [] { x with state := .algorithms, setup := x.setup ++ x.pair (0xE3, 0, []) rsp })

/-- The algorithms of the connection are agreed. -/
def Spdm.agreed (x : Spdm) : Bool := x.state == .algorithms

/-- GET_DIGESTS: the digest of the chain of slot 0. -/
def execGetDigests (fn ver : Nat) : State → Out1 :=
  spdmRequest fn Spdm.agreed (fun x => x.version == ver) (fun s =>
    let x := s.spdmOf fn
    let rsp : SpdmMsg := (0x01, 0, s.chainDigest)
    s.spdmReply fn rsp [] { x with certs := x.certs ++ x.pair (0x81, 0, []) rsp })

/-- GET_CERTIFICATE: a portion of the chain of slot 0, the Renrad root, the identity certificate and the alias certificate of this boot;
the reply's parameter has the length of the portion, and above bit 16 that of the rest. -/
def execGetCertificate (fn ver off len : Nat) : State → Out1 :=
  spdmRequest fn Spdm.agreed (fun x => x.version == ver) (fun s =>
    let x := s.spdmOf fn
    let rest := (Config.chain s.root.aliasKey).drop off
    let b := rest.take len
    let rsp : SpdmMsg := (0x02, b.length + (rest.length - b.length) * 2 ^ 16, b)
    s.spdmReply fn rsp [] { x with certs := x.certs ++ x.pair (0x82, off + len * 2 ^ 16, []) rsp })

/-- CHALLENGE: signed with the alias key over M1, which the messages of the set-up, of the certificate exchange and of the challenge make up
(R433, R434; log 27). -/
def execChallenge (fn ver : Nat) (nonce : BitVec 256) : State → Out1 :=
  spdmRequest fn Spdm.agreed (fun x => x.version == ver) (fun s =>
    let x := s.spdmOf fn
    let rsp : SpdmMsg := (0x03, 0, s.chainDigest ++ bytes48 (Config.fresh s.tick))
    s.spdmReply fn rsp (s.signature (x.setup ++ x.certs ++ x.pair (0x83, 0, leBytes 32 nonce.toNat) rsp)) { x with certs := [] })

/-- KEY_EXCHANGE begins a session: the responder's share goes out, with a signature over TH (R434; log 27). -/
def execKeyExchange (fn ver : Nat) (data : BitVec 256) : State → Out1 :=
  spdmRequest fn (fun x => x.agreed && x.session == .none) (fun x => x.version == ver) (fun s =>
    let x := { s.spdmOf fn with session := .exchanged, certs := [] }
    let rsp : SpdmMsg := (0x64, 0, s.opaqueBody 2)
    let b := x.pair (0xE4, 0, leBytes 32 data.toNat) rsp
    let sg := s.signature (s.sessionText { x with keys := b })
    s.spdmReply fn rsp sg { x with keys := b ++ sg })

/-- The verification data of a FINISH are right for TH with the request's own first bytes, which a free value tells (R434; log 27). -/
def State.finishOk (s : State) (fn : Nat) (data : BitVec 256) : Bool :=
  let x := s.spdmOf fn
  Config.verified (transcriptHash (s.sessionText x ++ msgBytes x.version 0xE5 0 [])) data

/-- FINISH opens the session, if its verification data are right, and otherwise ends with DecryptError (0x06) and changes no state. -/
def execFinish (fn ver : Nat) (data : BitVec 256) : State → Out1 :=
  spdmRequest fn (fun x => x.agreed && x.session == .exchanged) (fun x => x.version == ver) (fun s =>
    let x := s.spdmOf fn
    let rsp : SpdmMsg := (0x65, 0, s.opaqueBody 1)
    if s.finishOk fn data then
      s.spdmReply fn rsp [] { x with session := .open, certs := [], keys := x.keys ++ x.pair (0xE5, 0, leBytes 32 data.toNat) rsp }
    else s.spdmError fn 0x06)

/-- END_SESSION ends it. -/
def execEndSession (fn ver : Nat) : State → Out1 :=
  spdmRequest fn (fun x => x.agreed && x.session == .open) (fun x => x.version == ver) (fun s =>
    s.spdmReply fn (0x6C, 0, []) [] { s.spdmOf fn with session := .none, certs := [], keys := [] })

/-- Codes of the requests that the root core answers. -/
def spdmCodes : List Nat := [0x81, 0x82, 0x83, 0x84, 0xE0, 0xE1, 0xE3, 0xE4, 0xE5, 0xEC]

/-- UNSUPPORTED_SPDM_REQUEST: an unknown request code (R434). -/
def execUnsupportedSpdmRequest (fn code : Nat) (s : State) : Out1 :=
  if s.dev.rdy && !spdmCodes.contains code then .next (s.spdmError fn 0x07) else .next s

/-- IDE_KM_KEY_PROG: within a session, the keys of a stream are programmed, and the stream is secure again (R400, R412). -/
def execIdeKmKeyProg (fn stream : Nat) (s : State) : Out1 :=
  if s.dev.rdy && (s.spdmOf fn).session == .open && decide (stream ≤ 64) then
    let s1 := s.modVf fn (fun v => { v with ideKeyed := stream :: v.ideKeyed.filter (fun x => x != stream) })
    .next { s1 with dev := { s1.dev with insecure := s1.dev.insecure.filter (fun x => x != stream) } }
  else .next s

/-! ## GET_MEASUREMENTS (R435) -/

/-- Partitions that a function may read: every one for the physical function, its own for a VF. -/
def State.readable (s : State) (f : Nat) : List Nat :=
  (s.parts.filter (fun p => p.2.pstate != .free && (f == 0 || (s.vf f).part == some p.1))).map (·.1)

/-- The bytes of one index; none for an index that the function may not read. -/
def State.measured (s : State) (f ix : Nat) : Option (List Byte) :=
  if 1 ≤ ix ∧ ix ≤ 16 then some (bytes48 (s.root.meas.toList.getD (ix - 1) 0))
  else if 0x40 ≤ ix ∧ ix < 0x50 ∧ (s.readable f).contains (ix - 0x40) then some (bytes48 (s.part (ix - 0x40)).monMeas)
  else if 0x50 ≤ ix ∧ ix < 0x60 ∧ (s.readable f).contains (ix - 0x50) then
    some (leBytes 8 ((s.part (ix - 0x50)).wseq - 1).toNat ++ bytes48 (s.part (ix - 0x50)).whead)
  else none

/-- Partitions whose watermark a request reports, so that a snapshot is first appended to each. -/
def State.marked (s : State) (f ix : Nat) : List Nat :=
  (s.readable f).filter (fun p => ix == 0xFF || ix == 0x50 + p)

/-- GET_MEASUREMENTS, signed with the alias key over L1, which the messages of the set-up and of this exchange make up (R433 to R435;
log 27). -/
def execGetMeasurements (fn ver index : Nat) (nonce : BitVec 256) : State → Out1 :=
  spdmRequest fn Spdm.agreed (fun x => x.version == ver) (fun s =>
    let s1 := (s.marked fn index).foldl (fun s p => s.snapshot p 2 0 0 0) s
    let body := if index = 0xFF then some ((upTo 0x60).flatMap (fun i => (s1.measured fn i).getD [])) else s1.measured fn index
    match body with
    | some b =>
      let x := s1.spdmOf fn
      s1.spdmReply fn (0x60, index, b) (s1.signature (x.setup ++ x.pair (0xE0, index, leBytes 32 nonce.toNat) (0x60, index, b)))
        { x with certs := [] }
    | none => s.spdmError fn 0x01)

end Sys2Proof.Machine
end

