-- ==== Sys2Proof/Machine/Wear.lean ====
section
/-! DEFINITION. Wear monitors and core life (R391, R440 to R447), and throttling (R452). -/

namespace Sys2Proof.Machine

/-! ## Samples and states (R443) -/

/-- The increase of a reading against its baseline in units of 2^-10, rounded down and at least 0 (R440, R441); against a baseline of 0 it
is `v`. -/
def increase (base reading v : Nat) : Nat := if base = 0 then v else (reading - base) * 1024 / base

/-- Which monitors reach a pair of thresholds: 0 none, 1 BTI, 2 EM, 3 both. -/
def reaches (bti em tb te : Nat) : Nat := b2n (decide (tb ≤ bti)) + 2 * b2n (decide (te ≤ em))

/-- A count of consecutive samples, up to the 4 at which a threshold is crossed. -/
def countUp (n : Nat) (hit : Nat) : Nat := if hit = 0 then 0 else Nat.min 4 (n + 1)

/-- One sample of a core (R441, R443). -/
def Wear.sample (w : Wear) (bti em : Nat) : Wear :=
  let h1 := reaches bti em 64 128
  let h2 := reaches bti em 96 192
  let w1 := { w with bti := bti, em := em }
  match w.state with
  | .service =>
    let n1 := countUp w.cntDerated h1
    let n2 := countUp w.cntDrained h2
    if n2 = 4 then { w1 with cntDerated := 0, cntDrained := 0, state := .drained, cause := BitVec.ofNat 3 h2 }
    else if n1 = 4 then { w1 with cntDerated := 0, cntDrained := n2, state := .derated, cause := BitVec.ofNat 3 h1 }
    else { w1 with cntDerated := n1, cntDrained := n2 }
  | .derated =>
    let n2 := countUp w.cntDrained h2
    if n2 = 4 then { w1 with cntDrained := 0, state := .drained, cause := BitVec.ofNat 3 h2 } else { w1 with cntDrained := n2 }
  | _ => w1

/-- The count towards the next threshold above the state (R446). -/
def Wear.run (w : Wear) : Nat :=
  match w.state with
  | .service => w.cntDerated
  | .derated => w.cntDrained
  | _ => 0

/-- The lifetime record of a core (R446). -/
def Wear.record (w : Wear) : BitVec 256 :=
  BitVec.ofNat 256 (w.state.code + w.cause.toNat * 2 ^ 2 + w.run * 2 ^ 5 + w.emb.toNat * 2 ^ 96 + w.btib.toNat * 2 ^ 128
    + Nat.min 65535 w.em * 2 ^ 160 + Nat.min 65535 w.bti * 2 ^ 176 + Nat.min (2 ^ 64 - 1) (w.wear / 2 ^ 24) * 2 ^ 192)

/-- A state from its code. -/
def wstateOf (n : Nat) : WState :=
  match n with
  | 0 => .service
  | 1 => .derated
  | 2 => .drained
  | _ => .retired

/-- The wear that a lifetime record in flash gives a core at bring-up (R446, R448). -/
def Wear.ofRecord (r : BitVec 256) : Wear :=
  let n := r.toNat
  let st := wstateOf (field n 0 2)
  { Wear.init with wear := field n 192 64 * 2 ^ 24, bti := field n 176 16, em := field n 160 16, btib := BitVec.ofNat 32 (field n 128 32),
                   emb := BitVec.ofNat 32 (field n 96 32), cause := BitVec.ofNat 3 (field n 2 3), state := st,
                   cntDerated := if st = .service then field n 5 3 else 0, cntDrained := if st = .derated then field n 5 3 else 0 }

/-- Every compute core that the state lists. -/
def State.listed (s : State) : List (Nat × Core) := s.cores.filter (fun c => decide (c.1 < 4096))

/-- The core map and the records that the host reads are refreshed (R447). -/
def State.refreshMap (s : State) : State :=
  { s with dev := { s.dev with coreMap := s.listed.map (fun c => (c.1, c.2.wear.state)),
                               records := s.listed.map (fun c => (c.1, c.2.wear.record)) } }

/-- A core that has entered DRAINED forwards WEAR_DRAIN to the FAULT handler of each launch resident on it (R391). -/
def State.wearNotice (s : State) (c : Nat) : State :=
  (s.core c).res.foldl (fun s r => s.forwardRec c r.1 (recWord 0 0 4 0 0 0x60) 0 0 0) s

/-- One sample of one core, from a ring-oscillator period in fs and a resistance in mΩ; a DRAINED core with no resident launch is RETIRED at
once, and the launch unit waits for it no longer (R381, R440, R443 to R445). -/
def State.sampleCore (s : State) (c period res : Nat) : State :=
  let w := (s.core c).wear
  let old := w.state
  if old = .retired ∨ 4096 ≤ c then s
  else
    let s1 := s.modCore c (fun co => { co with wear := co.wear.sample (increase w.btib.toNat period (Config.reading c 2 period))
                                                                      (increase w.emb.toNat res (Config.reading c 3 res)) })
    let s2 := if (s1.core c).wear.state = .drained ∧ old ≠ .drained then s1.wearNotice c else s1
    let s3 := s2.retireCore c
    match (s3.core c).part with
    | some p => s3.goIfSaved p
    | none => s3

/-- The readings of a sample, of every core; what the outside does not give is a free value (R441; log 7). -/
def State.readings (s : State) (samples : List (Nat × Nat × Nat)) : List (Nat × Nat × Nat) :=
  (upTo 4096).map (fun c => match samples.find? (fun x => x.1 == c) with
    | some x => x
    | none => (c, Config.reading c 0 s.tick, Config.reading c 1 s.tick))

/-- WEAR_SAMPLE: the root core samples the monitors of every core: core, ring-oscillator period in fs and resistance in mΩ (R440, R441,
R443, R445, R447). -/
def execWearSample (samples : List (Nat × Nat × Nat)) (s : State) : Out1 :=
  .next ((s.readings samples).foldl (fun s x => s.sampleCore x.1 x.2.1 x.2.2) s).refreshMap

/-- STRESS_FACTOR_UPDATE: the factor is at least 1/256 (R441). -/
def execStressFactorUpdate (core : Nat) (s : BitVec 16) (st : State) : Out1 :=
  .next (st.modCore core (fun co => { co with wear := { co.wear with stress := if s = 0 then 1 else s } }))

/-! ## The lifetime records (R446) -/

/-- Every core's lifetime record is written to flash. -/
def State.writeRecords (s : State) : State :=
  { s with root := { s.root with flash := s.listed.foldl (fun m c => mset m c.1 c.2.wear.record) s.root.flash } }

/-- LIFETIME_RECORD_WRITE (R446). -/
def execLifetimeRecordWrite (s : State) : Out1 := .next s.writeRecords

/-- ORDERLY_SHUTDOWN (R446). -/
def execOrderlyShutdown (s : State) : Out1 := .next s.writeRecords

/-! ## Power and heat (R452) -/

/-- THROTTLE: timing only. -/
def execThrottle (core : Nat) (on : Bool) (s : State) : Out1 :=
  .next (s.modCore core (fun co => { co with wear := { co.wear with throttled := on } }))

/-- THERMAL_TRIP: every partition is fenced and reset, and then the compute dies lose their power. -/
def execThermalTrip (_core : Nat) (s : State) : Out1 :=
  let s1 := (s.parts.filter (fun p => p.2.pstate != .free)).foldl (fun s p => s.fence p.1 false) s
  .next ({ s1 with dev := { s1.dev with tripped := s1.dev.powered } } : State).tripDone

end Sys2Proof.Machine
end

