-- ==== Sys2Proof/Machine/Boot.lean ====
section
/-! DEFINITION. Power-on, the boot chain and the bring-up, resets and power loss, link training, and the decoding fault (R253, R428,
R429, R431, R433, R446 to R450). -/

namespace Sys2Proof.Machine

/-! ## Losing everything -/

/-- What is left when all volatile state is lost: flash, fuses, and what stands outside the package (R446; log 6). -/
def State.volatileLost (s : State) : State :=
  { State.reset with turn := s.turn, tick := s.tick, inputs := s.inputs, pkg := s.pkg, out := s.out,
                     dev := { Device.init with ports := s.dev.ports },
                     root := { Root.init with stage1 := s.root.stage1, keyHash := s.root.keyHash, minSvn := s.root.minSvn,
                                              flash := s.root.flash } }

/-! ## The boot of stage 1 (R428, R429) -/

/-- `n` bytes of stage 1 from an offset. -/
def Root.stageBytes (r : Root) (lo n : Nat) : List Byte := (r.stage1.drop lo).take n

/-- e: the digest of the header without its signature, and of the body. -/
def Root.stageDigest (r : Root) : List Byte := sha384 (r.stageBytes 0 0xA0 ++ r.stageBytes 0x200 (leNat (r.stageBytes 8 8)))

/-- The step of R429 that fails, 0 if none does. -/
def Root.bootFails (r : Root) : Nat :=
  let num (lo : Nat) : Nat := beNat (r.stageBytes lo 48)
  if digestNum (sha384 (r.stageBytes 0x40 96)) ≠ r.keyHash ∨ leNat (r.stageBytes 0x10 4) < r.minSvn then 1
  else if ecVerify (beNat r.stageDigest) (num 0x40) (num 0x70) (num 0xA0) (num 0xD0) ≠ 0 then 3
  else 0

/-- The root core's string as control is transferred to the body of stage 1, in root-private SRAM (R428, R429; log 14). -/
def rootStr : Str := { Str.init with run := .running, lvl := 2, pc := 0x200 }

/-- Measures stage 1 and transfers control to it; the ROM derives the alias key from the identity key and MEAS0 and MEAS1
(R429 step 4, R433; log 9). -/
def State.enterStage1 (s : State) : State :=
  let s1 := s.extend 1 s.root.stageDigest
  let meas (i : Nat) : BitVec 384 := s1.root.meas.toList.getD i 0
  let s2 := s1.putBytes (sliceFlat 4096 0) (s1.root.stage1.take (2 ^ 21))
  ({ s2 with root := { s2.root with aliasKey := Config.aliasKey (meas 0) (meas 1) } } : State).setStr 4096 0 rootStr

/-! ## Bring-up (R448, R449) -/

/-- The cores as their lifetime records in flash give them; one that is DRAINED has no resident launch, and is RETIRED before any launch
is placed (R443, R444, R446, R448 phase 5). -/
def State.readRecords (s : State) : State :=
  let s1 := s.root.flash.foldl (fun s r => s.modCore r.1 (fun co => { co with wear := Wear.ofRecord r.2 })) s
  (s.root.flash.foldl (fun s r => s.retireCore r.1) s1).refreshMap

/-- Phase 4 measures the reference operating point of the ageing monitors, at which later readings are taken (R440, R448). -/
def State.monitorPoint (s : State) : State := { s with dev := { s.dev with refPoint := Config.fresh (s.tick + 1) } }

/-- DEVSTAT's unit field as a failing unit gives it: its class, and the bits that the class uses, the lower die of a link first (R449). What names
no unit, a link from a die to itself among it, gives 0 (log 91). -/
def unitField (u : Nat) : Nat :=
  match field u 12 4 with
  | 1 => 0x1000 + field u 0 12
  | 2 => if field u 2 2 = field u 0 2 then 0 else 0x2000 + 4 * Nat.min (field u 2 2) (field u 0 2) + Nat.max (field u 2 2) (field u 0 2)
  | 3 => 0x3000 + field u 0 8
  | 4 => 0x4000 + field u 0 8
  | 5 => 0x5000 + field u 0 8
  | 6 => 0x6000
  | _ => 0

/-- The bring-up, whose ROM first measures itself and the fuses (R431), and which fails at a phase with a unit, or sets RDY; phase 4 is over when a later one fails. -/
def State.bringUp (s : State) (fail : Option (Nat × Nat)) : State :=
  let s1 := s.extend 0 (leBytes 48 (Config.romDigest s.root.keyHash s.root.minSvn).toNat)
  let b := s1.root.bootFails
  if b ≠ 0 then { s1 with dev := { s1.dev with fail := true, bstep := BitVec.ofNat 4 b } }
  else
    let s2 := s1.enterStage1
    let ready : State := let s3 := s2.monitorPoint.readRecords
      { s3 with dev := { s3.dev with rdy := true, phase := 6 } }
    match fail with
    | some (ph, u) =>
      let s3 := if 4 < ph then s2.monitorPoint else s2
      if 1 ≤ ph ∧ ph ≤ 5 then { s3 with dev := { s3.dev with fail := true, phase := BitVec.ofNat 4 ph, unit := BitVec.ofNat 16 (unitField u) } }
      else ready
    | none => ready

/-- POWER_ON: the phases run in order to READY or to the failing one, which the outside names by phase and unit (R428, R448, R449). -/
def execPowerOn (fail : Option (Nat × Nat)) (s : State) : Out1 := .next (s.volatileLost.bringUp fail)

/-- The bring-up that a fundamental reset starts again, unless the outside says first how it goes. -/
def bringUpNext : List Instr → List Instr
  | .powerOn f :: t => .powerOn f :: t
  | t => .powerOn none :: t

/-- FUNDAMENTAL_RESET: RDY is cleared, and the bring-up starts again (R449). -/
def execFundamentalReset (s : State) : Out1 := .next { s.volatileLost with inputs := bringUpNext s.inputs }

/-- POWER_LOSS: all volatile state is lost, with the wear charged since the records were written (R446). -/
def execPowerLoss (s : State) : Out1 :=
  .next { s.volatileLost with dev := { s.volatileLost.dev with powered := false, ports := [] } }

/-- LINK_TRAINING: ports 0 to 35 are Novino ports and 36 is the PCI Express port; the version is the highest that both sides support
(R415, R448). -/
def execLinkTraining (port version : Nat) (s : State) : Out1 :=
  if port < 36 then
    if version = 0 then .next s else .next { s with dev := { s.dev with ports := mset s.dev.ports port 1 } }
  else if port = 36 then .next { s with dev := { s.dev with ports := mset s.dev.ports 36 version } }
  else .next s

/-! ## Decoding -/

/-- ILLEGAL_ENCODING: the word at the executing string's pc raises ILLEGAL, with no effect (R253). -/
def execIllegalEncoding (_w : BitVec 32) : State → Out1 := runInstr (raise 0x01)

end Sys2Proof.Machine
end

