-- ==== Sys2Proof/Machine/Jets.lean ====
section
/-! DEFINITION. Taylor jets (R210 to R215): each coefficient is rounded once from its formula, evaluated exactly on the
operands and on the lower coefficients already rounded. A jet is the list of the encodings of its coefficients. -/

namespace Sys2Proof.Machine

/-- A term of a formula: a signed rational coefficient and factors. -/
structure Term where
  cn : Int
  cd : Nat
  factors : List Ex
deriving DecidableEq, Repr

/-- Value of a term and its flags. -/
def Term.value (t : Term) : Ex × Nat :=
  t.factors.foldl (fun r x => let (v, f) := r.1.mul x; (v, f ||| r.2)) (.rat (decide (t.cn < 0)) t.cn.natAbs t.cd, 0)

/-- A formula's sum (R214): a NaN factor gives NaN without a flag, an invalid product NaN with NV. -/
def evalSum (mode : Mode) (ts : List Term) : Ex × Nat :=
  if ts.any (fun t => t.factors.contains .nan) then (.nan, 0)
  else
    let vs := ts.map Term.value
    let fl := vs.foldl (fun a v => a ||| v.2) (0 : Nat)
    if fl ≠ 0 then (.nan, NV) else Ex.sum mode (vs.map (·.1))

/-- Σ xs − Σ ys, each sum taken by itself with its own sign of zero (R195); an empty sum adds nothing. -/
def evalDiff (mode : Mode) (xs ys : List Term) : Ex × Nat :=
  if (xs ++ ys).any (fun t => t.factors.contains .nan) then (.nan, 0)
  else
    let p := evalSum mode xs
    let q := evalSum mode ys
    if p.2 ||| q.2 ≠ 0 then (.nan, NV)
    else if ys.isEmpty then p
    else if xs.isEmpty then (q.1.neg, 0)
    else Ex.sum mode [p.1, q.1.neg]

/-- Divides a formula's sum (R214). -/
def overHigh (r : Ex × Nat) (b : Ex) : Ex × Nat :=
  if r.2 ≠ 0 then r else r.1.divHigh b

/-- Coefficient `i` of a jet as an exact number. -/
def co (f : Fmt) (a : List Nat) (i : Nat) : Ex := f.decode (a.getD i 0)

/-- Extends a jet from coefficient `k` on, `n` more coefficients, by a formula of the coefficients so far. -/
def jetGo (f : Fmt) (mode : Mode) (g : List Nat → Nat → Ex × Nat) : Nat → Nat → List (Nat × Nat) → List (Nat × Nat)
  | 0, _, c => c
  | n + 1, k, c =>
    let lower := c.map (·.1)
    let (x, fl) := g lower k
    let (b, fr) := x.round f mode
    jetGo f mode g n (k + 1) (c ++ [(b, fl ||| fr)])

/-- A jet of order `n` from coefficient 0 and a formula; a NaN in coefficient 0 makes every coefficient NaN (R214). -/
def mkJet (f : Fmt) (mode : Mode) (n : Nat) (c0 : Nat × Nat) (g : List Nat → Nat → Ex × Nat) : List (Nat × Nat) :=
  if f.isNan c0.1 then c0 :: List.replicate n (f.nan, 0) else jetGo f mode g n 1 [c0]

/-- Terms of Σ a_j b_{k−j} for j from `lo` to `hi`, each with a coefficient. -/
def conv (f : Fmt) (a b : List Nat) (k lo hi : Nat) (w : Nat → Int × Nat) : List Term :=
  ((upTo (hi + 1)).filter (fun j => decide (lo ≤ j))).map
    (fun j => { cn := (w j).1, cd := (w j).2, factors := [co f a j, co f b (k - j)] })

/-- One factor with a sign. -/
def one (f : Fmt) (a : List Nat) (k : Nat) (sgn : Int) : Term := { cn := sgn, cd := 1, factors := [co f a k] }

/-- Operand 0 of a jet. -/
def c0 (a : List Nat) : Nat := a.getD 0 0

/-- add and sub (R213). -/
def jetAdd (f : Fmt) (mode : Mode) (n : Nat) (sub : Bool) (a b : List Nat) : List (Nat × Nat) :=
  mkJet f mode n (if sub then fpSub f mode (c0 a) (c0 b) else fpAdd f mode (c0 a) (c0 b))
    (fun _ k => evalSum mode [one f a k 1, one f b k (if sub then -1 else 1)])

/-- mul (R213). -/
def jetMul (f : Fmt) (mode : Mode) (n : Nat) (a b : List Nat) : List (Nat × Nat) :=
  mkJet f mode n (fpMul f mode (c0 a) (c0 b)) (fun _ k => evalSum mode (conv f a b k 0 k (fun _ => (1, 1))))

/-- The fused family with its signs (R213, R295). -/
def jetFma (f : Fmt) (mode : Mode) (n : Nat) (negP negC : Bool) (a b d : List Nat) : List (Nat × Nat) :=
  mkJet f mode n (fpFma f mode negP negC (c0 a) (c0 b) (c0 d))
    (fun _ k =>
      let p := conv f a b k 0 k (fun _ => (1, 1))
      let c := [one f d k (if negC then -1 else 1)]
      if negP then evalDiff mode c p else evalSum mode (p ++ c))

/-- div (R213). -/
def jetDiv (f : Fmt) (mode : Mode) (n : Nat) (a b : List Nat) : List (Nat × Nat) :=
  mkJet f mode n (fpDiv f mode (c0 a) (c0 b))
    (fun c k => overHigh (evalDiff mode [one f a k 1] (conv f c b k 0 (k - 1) (fun _ => (1, 1)))) (co f b 0))

/-- sqrt (R213). -/
def jetSqrt (f : Fmt) (mode : Mode) (n : Nat) (a : List Nat) : List (Nat × Nat) :=
  mkJet f mode n (fpSqrt f mode (c0 a))
    (fun c k => overHigh (evalDiff mode [one f a k 1] (conv f c c k 1 (k - 1) (fun _ => (1, 1))))
      ((Ex.ofNat 2).mul (co f c 0)).1)

/-- rsqrt (R213): the formula divides 1 by k a_0, so that a zero a_0 sets DZ unless a term is a NaN, which sets no flag (R214). -/
def jetRsqrt (f : Fmt) (mode : Mode) (n : Nat) (a : List Nat) : List (Nat × Nat) :=
  mkJet f mode n (fpRsqrt f mode (c0 a))
    (fun c k =>
      let ka := ((Ex.ofNat k).mul (co f a 0)).1
      let r := overHigh (evalSum mode (conv f a c k 1 k (fun j => ((j : Int) - 2 * k, 2)))) ka
      if r.2 = 0 then r else (r.1, r.2 ||| ((Ex.ofNat 1).divHigh ka).2))

/-- exp (R213). -/
def jetExp (f : Fmt) (mode : Mode) (n : Nat) (a : List Nat) : List (Nat × Nat) :=
  mkJet f mode n (fpSpecial .exp f mode (c0 a)) (fun c k => evalSum mode (conv f a c k 1 k (fun j => (j, k))))

/-- log (R213). -/
def jetLog (f : Fmt) (mode : Mode) (n : Nat) (a : List Nat) : List (Nat × Nat) :=
  mkJet f mode n (fpSpecial .log f mode (c0 a))
    (fun c k => overHigh (evalDiff mode [one f a k 1] (conv f c a k 1 (k - 1) (fun j => (j, k)))) (co f a 0))

/-- Extends the joint sine and cosine (R213) from coefficient `k` on. -/
def trigJet (f : Fmt) (mode : Mode) (a : List Nat) :
    Nat → Nat → List (Nat × Nat) → List (Nat × Nat) → List (Nat × Nat) × List (Nat × Nat)
  | 0, _, s, o => (s, o)
  | n + 1, k, s, o =>
    let (x, fx) := evalSum mode (conv f a (o.map (·.1)) k 1 k (fun j => (j, k)))
    let (y, fy) := evalDiff mode [] (conv f a (s.map (·.1)) k 1 k (fun j => (j, k)))
    let (xb, xf) := x.round f mode
    let (yb, yf) := y.round f mode
    trigJet f mode a n (k + 1) (s ++ [(xb, fx ||| xf)]) (o ++ [(yb, fy ||| yf)])

/-- sin or cos, computed together (R213). -/
def jetTrig (f : Fmt) (mode : Mode) (n : Nat) (cos : Bool) (a : List Nat) : List (Nat × Nat) :=
  let s := fpSpecial .sin f mode (c0 a)
  let o := fpSpecial .cos f mode (c0 a)
  if f.isNan s.1 then (if cos then o else s) :: List.replicate n (f.nan, 0)
  else
    let (x, y) := trigJet f mode a n 1 [s] [o]
    if cos then y else x

/-- e_i of tanh: δ_i − Σ c_m c_{i−m}, exact (R213). -/
def tanhE (f : Fmt) (mode : Mode) (c : List Nat) (i : Nat) : Ex × Nat :=
  evalDiff mode [{ cn := if i = 0 then 1 else 0, cd := 1, factors := [] }] (conv f c c i 0 i (fun _ => (1, 1)))

/-- tanh (R213). -/
def jetTanh (f : Fmt) (mode : Mode) (n : Nat) (a : List Nat) : List (Nat × Nat) :=
  mkJet f mode n (fpSpecial .tanh f mode (c0 a)) (fun c k =>
    let es := (upTo k).map (tanhE f mode c)
    let fl := es.foldl (fun x e => x ||| e.2) (0 : Nat)
    if (upTo k).any (fun i => co f c i == .nan || co f a (i + 1) == .nan) then (.nan, 0)
    else if fl ≠ 0 then (.nan, fl)
    else evalSum mode ((upTo k).map (fun i =>
      { cn := ((k - i : Nat) : Int), cd := k, factors := [co f a (k - i), (es.getD i (.nan, 0)).1] })))

/-- min and max move the whole jet that R201 selects on coefficient 0 (R213, R214). -/
def jetMinMax (f : Fmt) (mx : Bool) (n : Nat) (a b : List Nat) : List (Nat × Nat) :=
  let x := c0 a
  let y := c0 b
  if f.isNan x || f.isNan y then (f.nan, sigFlag f [x, y]) :: List.replicate n (f.nan, 0)
  else
    let first := if mx then (f.decode x).firstMore (f.decode y) else (f.decode x).firstLess (f.decode y)
    (if first then a else b).map (fun v => (v, 0))

/-- Inverts a sign bit. -/
def flipSign (f : Fmt) (a : Nat) : Nat := if f.sign a then a - 2 ^ (f.w - 1) else a + 2 ^ (f.w - 1)

/-- neg (R213, R292). -/
def jetNeg (f : Fmt) (a : List Nat) : List (Nat × Nat) := a.map (fun v => (flipSign f v, 0))

/-- abs (R213, R292): with a set sign bit in coefficient 0 every coefficient is negated. -/
def jetAbs (f : Fmt) (a : List Nat) : List (Nat × Nat) :=
  if f.sign (c0 a) then jetNeg f a else a.map (fun v => (v, 0))

/-- Flags of a jet result: FFLG takes coefficient 0, JFLG fields c1 to c3 the others (R212). -/
def jetFlags (r : List (Nat × Nat)) : Nat × Nat :=
  ((r.getD 0 (0, 0)).2, (r.getD 1 (0, 0)).2 + 32 * (r.getD 2 (0, 0)).2 + 1024 * (r.getD 3 (0, 0)).2)

end Sys2Proof.Machine
end

