-- ==== Sys2Proof/Machine/VectorFp.lean ====
section
/-! DEFINITION. Floating-point vector instructions (R291 to R298). -/

namespace Sys2Proof.Machine

/-- VOP meter of a type (R436). -/
def vopMeter : FTy → Nat
  | .f64 => 2
  | .f32 => 3
  | .bf16 => 4

/-- Counts active elements, `n` of a register, times coefficients, in a VOP meter (R436). -/
def countVop (ty : FTy) (mask : BitVec 64) (n coeffs : Nat) : M Unit :=
  modify (fun s => s.meterOf s.cur.1 (vopMeter ty) (coeffs * ((upTo n).filter (active mask)).length))

/-- Element `i` of each register of an operand: a jet. -/
def jetAt (w : Nat) (vs : List Vec) (i : Nat) : List Nat := vs.map (fun v => (elems w v).getD i 0)

/-- Results of the active elements, in order; inactive ones have none. -/
def elemResults (w : Nat) (mask : BitVec 64) (h : List (List Nat) → List (Nat × Nat)) (vs : List (List Vec)) :
    List (List (Nat × Nat)) :=
  (upTo (512 / w)).map (fun i => if active mask i then h (vs.map (fun v => jetAt w v i)) else [])

/-- Register `k` of a destination: coefficient `k` of the results under the mask (R288). -/
def planeOf (w : Nat) (mask : BitVec 64) (res : List (List (Nat × Nat))) (k : Nat) (old : Vec) : Vec :=
  ofElems w (mergeElems mask (elems w old) (res.map (fun r => (r.getD k (0, 0)).1)))

/-- All flags of the results (R198, R212). -/
def allFlags (res : List (List (Nat × Nat))) : Nat × Nat :=
  res.foldl (fun a r => (a.1 ||| (jetFlags r).1, a.2 ||| (jetFlags r).2)) (0, 0)

/-- A whole-jet operation: `h` gives the jet of an element from the jets of the operands (R212 to R215, R292). -/
def jetOp (ty : FTy) (rd : VReg) (srcs : List VReg) (mk : MReg)
    (h : Str → Nat → List (List Nat) → List (Nat × Nat)) : M Adv := do
  let t ← theStr
  let n := t.planes
  let w := (tyFmt ty).w
  let mask := t.getM mk
  let r ← vecOp [] (rd :: srcs) (srcs.map (fun x => (x, n))) rd n (fun t vs old =>
    let res := elemResults w mask (h t t.ord) vs
    ((upTo n).map (fun k => planeOf w mask res k (old.getD k 0)), fun t => t.orJet (allFlags res)))
  countVop ty mask (512 / w) n
  return r

/-- Operand `i` of a list of jets. -/
def opn (l : List (List Nat)) (i : Nat) : List Nat := l.getD i []

/-- VADD (R292). -/
def execVaddFp (ty : FTy) (rd ra rb : VReg) (mk : MReg) (rm : Rm) : State → Out1 :=
  runInstr (jetOp ty rd [ra, rb] mk (fun t n l => jetAdd (tyFmt ty) (t.mode rm) n false (opn l 0) (opn l 1)))
/-- VSUB (R292). -/
def execVsubFp (ty : FTy) (rd ra rb : VReg) (mk : MReg) (rm : Rm) : State → Out1 :=
  runInstr (jetOp ty rd [ra, rb] mk (fun t n l => jetAdd (tyFmt ty) (t.mode rm) n true (opn l 0) (opn l 1)))
/-- VMUL (R292). -/
def execVmulFp (ty : FTy) (rd ra rb : VReg) (mk : MReg) (rm : Rm) : State → Out1 :=
  runInstr (jetOp ty rd [ra, rb] mk (fun t n l => jetMul (tyFmt ty) (t.mode rm) n (opn l 0) (opn l 1)))
/-- VDIV (R292). -/
def execVdiv (ty : FTy) (rd ra rb : VReg) (mk : MReg) (rm : Rm) : State → Out1 :=
  runInstr (jetOp ty rd [ra, rb] mk (fun t n l => jetDiv (tyFmt ty) (t.mode rm) n (opn l 0) (opn l 1)))
/-- VSQRT (R200, R292). -/
def execVsqrt (ty : FTy) (rd ra : VReg) (mk : MReg) (rm : Rm) : State → Out1 :=
  runInstr (jetOp ty rd [ra] mk (fun t n l => jetSqrt (tyFmt ty) (t.mode rm) n (opn l 0)))
/-- VRSQ (R200, R292). -/
def execVrsq (ty : FTy) (rd ra : VReg) (mk : MReg) (rm : Rm) : State → Out1 :=
  runInstr (jetOp ty rd [ra] mk (fun t n l => jetRsqrt (tyFmt ty) (t.mode rm) n (opn l 0)))
/-- VEXP (R200, R292). -/
def execVexp (ty : FTy) (rd ra : VReg) (mk : MReg) (rm : Rm) : State → Out1 :=
  runInstr (jetOp ty rd [ra] mk (fun t n l => jetExp (tyFmt ty) (t.mode rm) n (opn l 0)))
/-- VLOG (R200, R292). -/
def execVlog (ty : FTy) (rd ra : VReg) (mk : MReg) (rm : Rm) : State → Out1 :=
  runInstr (jetOp ty rd [ra] mk (fun t n l => jetLog (tyFmt ty) (t.mode rm) n (opn l 0)))
/-- VTANH (R200, R292). -/
def execVtanh (ty : FTy) (rd ra : VReg) (mk : MReg) (rm : Rm) : State → Out1 :=
  runInstr (jetOp ty rd [ra] mk (fun t n l => jetTanh (tyFmt ty) (t.mode rm) n (opn l 0)))
/-- VSIN (R200, R213, R292). -/
def execVsin (ty : FTy) (rd ra : VReg) (mk : MReg) (rm : Rm) : State → Out1 :=
  runInstr (jetOp ty rd [ra] mk (fun t n l => jetTrig (tyFmt ty) (t.mode rm) n false (opn l 0)))
/-- VCOS (R200, R213, R292). -/
def execVcos (ty : FTy) (rd ra : VReg) (mk : MReg) (rm : Rm) : State → Out1 :=
  runInstr (jetOp ty rd [ra] mk (fun t n l => jetTrig (tyFmt ty) (t.mode rm) n true (opn l 0)))
/-- VMIN (R201, R213, R292). -/
def execVminFp (ty : FTy) (rd ra rb : VReg) (mk : MReg) : State → Out1 :=
  runInstr (jetOp ty rd [ra, rb] mk (fun _ n l => jetMinMax (tyFmt ty) false n (opn l 0) (opn l 1)))
/-- VMAX (R201, R213, R292). -/
def execVmaxFp (ty : FTy) (rd ra rb : VReg) (mk : MReg) : State → Out1 :=
  runInstr (jetOp ty rd [ra, rb] mk (fun _ n l => jetMinMax (tyFmt ty) true n (opn l 0) (opn l 1)))
/-- VABS (R193, R213, R292). -/
def execVabsFp (ty : FTy) (rd ra : VReg) (mk : MReg) : State → Out1 :=
  runInstr (jetOp ty rd [ra] mk (fun _ _ l => jetAbs (tyFmt ty) (opn l 0)))
/-- VNEG (R193, R213, R292). -/
def execVnegFp (ty : FTy) (rd ra : VReg) (mk : MReg) : State → Out1 :=
  runInstr (jetOp ty rd [ra] mk (fun _ _ l => jetNeg (tyFmt ty) (opn l 0)))

/-- Mask of the active elements that pass a test (R293). -/
def cmpMask (n : Nat) (mask : BitVec 64) (f : Nat → Bool) : BitVec 64 :=
  BitVec.ofNat 64 (joinElems 1 ((upTo n).map (fun i => b2n (active mask i && f i))))

/-- VCMP on floating point (R293): coefficient 0 alone. -/
def execVcmpFp (ty : FTy) (rd : MReg) (ra rb : VReg) (mk : MReg) (c : Cond) : State → Out1 :=
  runInstr (vecRead [] [] [(ra, 1), (rb, 1)] (fun t vs =>
    let f := tyFmt ty
    let mask := t.getM mk
    let a := elems f.w ((vs.getD 0 []).getD 0 0)
    let b := elems f.w ((vs.getD 1 []).getD 0 0)
    let r := fun i => fpCmp f c (a.getD i 0) (b.getD i 0)
    let fl := ((upTo (512 / f.w)).filter (active mask)).foldl (fun x i => x ||| (r i).2) 0
    fun t => (t.setM rd (cmpMask (512 / f.w) mask (fun i => (r i).1))).orFlags fl))

/-- Element 0 with the others +0 (R294). -/
def onlyFirst (w v : Nat) : Vec := ofElems w [v]

/-- Indices of the active elements of a register. -/
def activeIx (n : Nat) (mask : BitVec 64) : List Nat := (upTo n).filter (active mask)

/-- VREDSUM (R202, R294): each plane is summed and rounded once. -/
def execVredsumFp (ty : FTy) (rd ra : VReg) (mk : MReg) (rm : Rm) : State → Out1 := runInstr do
  let t ← theStr
  let f := tyFmt ty
  let n := t.planes
  let mask := t.getM mk
  let ix := activeIx (512 / f.w) mask
  let r ← vecOp [] [rd, ra] [(ra, n)] rd n (fun t vs _ =>
    let sums := (vs.getD 0 []).map (fun v => fpSum f (t.mode rm) (ix.map (fun i => (elems f.w v).getD i 0)))
    (sums.map (fun x => onlyFirst f.w x.1), fun t => t.orJet (jetFlags sums)))
  countVop ty mask (512 / f.w) n
  return r

/-- The active element that R201 selects as greatest or least; the lowest index on a tie (R294). -/
def pickElem (f : Fmt) (mx : Bool) (vs : List Nat) : List Nat → Option Nat
  | [] => none
  | i :: t => match pickElem f mx vs t with
    | none => some i
    | some j =>
      let a := f.decode (vs.getD i 0)
      let b := f.decode (vs.getD j 0)
      if (if mx then a.firstMore b else a.firstLess b) then some i else some j

/-- VREDMAX and VREDMIN (R294): the whole jet of the selected element. -/
def redMinMax (ty : FTy) (mx : Bool) (rd ra : VReg) (mk : MReg) : M Adv := do
  let t ← theStr
  let f := tyFmt ty
  let n := t.planes
  let mask := t.getM mk
  let ix := activeIx (512 / f.w) mask
  let r ← vecOp [] [rd, ra] [(ra, n)] rd n (fun _ vs _ =>
    let planes := vs.getD 0 []
    let first := elems f.w (planes.getD 0 0)
    let act := ix.map (fun i => first.getD i 0)
    if act.any f.isNan then
      (planes.map (fun _ => onlyFirst f.w f.nan), fun t => t.orFlags (sigFlag f act))
    else match pickElem f mx first ix with
      | some i => (planes.map (fun v => onlyFirst f.w ((elems f.w v).getD i 0)), id)
      | none => ((upTo n).map (fun k => if k = 0 then onlyFirst f.w (f.inf mx) else 0), id))
  countVop ty mask (512 / f.w) n
  return r

/-- VREDMAX (R294). -/
def execVredmaxFp (ty : FTy) (rd ra : VReg) (mk : MReg) : State → Out1 := runInstr (redMinMax ty true rd ra mk)
/-- VREDMIN (R294). -/
def execVredminFp (ty : FTy) (rd ra : VReg) (mk : MReg) : State → Out1 := runInstr (redMinMax ty false rd ra mk)

/-- Builds a jet from one register (R296): coefficient 0 copies it, coefficient 1 is `c1`, the others +0. -/
def seedJet (ty : FTy) (c1 : Nat) (rd ra : VReg) (mk : MReg) : M Adv := do
  let t ← theStr
  let w := (tyFmt ty).w
  vecOp [] [rd] [(ra, 1)] rd t.planes (fun t vs old =>
    let mask := t.getM mk
    let v := elems w ((vs.getD 0 []).getD 0 0)
    ((upTo t.planes).map (fun k => ofElems w (mergeElems mask (elems w (old.getD k 0))
      (if k = 0 then v else v.map (fun _ => if k = 1 then c1 else 0)))), id))

/-- JSEED (R296). -/
def execJseed (ty : FTy) (rd ra : VReg) (mk : MReg) : State → Out1 := runInstr (seedJet ty (tyFmt ty).one rd ra mk)
/-- JCONST (R296). -/
def execJconst (ty : FTy) (rd ra : VReg) (mk : MReg) : State → Out1 := runInstr (seedJet ty 0 rd ra mk)

/-- JGET (R297). -/
def execJget (ty : FTy) (rd ra : VReg) (k : BitVec 2) (mk : MReg) : State → Out1 := runInstr do
  let t ← theStr
  let w := (tyFmt ty).w
  vecOp [] [ra] [(ra, t.planes)] rd 1 (fun t vs old =>
    let v := if k.toNat ≤ t.ord then (vs.getD 0 []).getD k.toNat 0 else 0
    ([ofElems w (mergeElems (t.getM mk) (elems w (old.getD 0 0)) (elems w v))], id))

/-- JSET (R297): with k above JORD nothing is written. -/
def execJset (ty : FTy) (rd ra : VReg) (k : BitVec 2) (mk : MReg) : State → Out1 := runInstr do
  let t ← theStr
  let w := (tyFmt ty).w
  vecOp [] [rd] [(ra, 1)] rd t.planes (fun t vs old =>
    ((upTo t.planes).map (fun j => if j = k.toNat then
        ofElems w (mergeElems (t.getM mk) (elems w (old.getD j 0)) (elems w ((vs.getD 0 []).getD 0 0)))
      else old.getD j 0), id))

/-- k! for k up to 3. -/
def factorial : Nat → Nat
  | 0 => 1
  | n + 1 => (n + 1) * factorial n

/-- k! times a coefficient, rounded once (R298). -/
def derElem (f : Fmt) (mode : Mode) (k a : Nat) : Nat × Nat :=
  finish f mode [a] ((Ex.ofNat (factorial k)).mul (f.decode a))

/-- JDER (R298). -/
def execJder (ty : FTy) (rd ra : VReg) (k : BitVec 2) (mk : MReg) (rm : Rm) : State → Out1 := runInstr do
  let t ← theStr
  let f := tyFmt ty
  let mask := t.getM mk
  let r ← vecOp [] [ra] [(ra, t.planes)] rd 1 (fun t vs old =>
    let v := (vs.getD 0 []).getD k.toNat 0
    let res := elemResults f.w mask (fun l =>
      if k.toNat ≤ t.ord then [derElem f (t.mode rm) k.toNat ((l.getD 0 []).getD 0 0)] else [(0, 0)]) [[v]]
    ([planeOf f.w mask res 0 (old.getD 0 0)], fun t => t.orFlags (allFlags res).1))
  countVop ty mask (512 / f.w) 1
  return r

/-- A fused form with the signs of the product and of the addend (R295). -/
def fusedOp (ty : FTy) (negP negC : Bool) (rd ra rb rc : VReg) (rm : Rm) (mk : MReg) : M Adv :=
  jetOp ty rd [ra, rb, rc] mk (fun t n l => jetFma (tyFmt ty) (t.mode rm) n negP negC (opn l 0) (opn l 1) (opn l 2))

/-- VFMA on f64 (R295). -/
def execVfmaF64 (rd ra rb rc : VReg) (rm : Rm) (mk : MReg) : State → Out1 :=
  runInstr (fusedOp .f64 false false rd ra rb rc rm mk)
/-- VFMA on f32 (R295). -/
def execVfmaF32 (rd ra rb rc : VReg) (rm : Rm) (mk : MReg) : State → Out1 :=
  runInstr (fusedOp .f32 false false rd ra rb rc rm mk)
/-- VFMA on bf16 (R295). -/
def execVfmaBf16 (rd ra rb rc : VReg) (rm : Rm) (mk : MReg) : State → Out1 :=
  runInstr (fusedOp .bf16 false false rd ra rb rc rm mk)
/-- VFMS on f64 (R295). -/
def execVfmsF64 (rd ra rb rc : VReg) (rm : Rm) (mk : MReg) : State → Out1 :=
  runInstr (fusedOp .f64 false true rd ra rb rc rm mk)
/-- VFMS on f32 (R295). -/
def execVfmsF32 (rd ra rb rc : VReg) (rm : Rm) (mk : MReg) : State → Out1 :=
  runInstr (fusedOp .f32 false true rd ra rb rc rm mk)
/-- VFMS on bf16 (R295). -/
def execVfmsBf16 (rd ra rb rc : VReg) (rm : Rm) (mk : MReg) : State → Out1 :=
  runInstr (fusedOp .bf16 false true rd ra rb rc rm mk)
/-- VFNMA on f64 (R295). -/
def execVfnmaF64 (rd ra rb rc : VReg) (rm : Rm) (mk : MReg) : State → Out1 :=
  runInstr (fusedOp .f64 true false rd ra rb rc rm mk)
/-- VFNMA on f32 (R295). -/
def execVfnmaF32 (rd ra rb rc : VReg) (rm : Rm) (mk : MReg) : State → Out1 :=
  runInstr (fusedOp .f32 true false rd ra rb rc rm mk)
/-- VFNMA on bf16 (R295). -/
def execVfnmaBf16 (rd ra rb rc : VReg) (rm : Rm) (mk : MReg) : State → Out1 :=
  runInstr (fusedOp .bf16 true false rd ra rb rc rm mk)
/-- VFNMS on f64 (R295). -/
def execVfnmsF64 (rd ra rb rc : VReg) (rm : Rm) (mk : MReg) : State → Out1 :=
  runInstr (fusedOp .f64 true true rd ra rb rc rm mk)
/-- VFNMS on f32 (R295). -/
def execVfnmsF32 (rd ra rb rc : VReg) (rm : Rm) (mk : MReg) : State → Out1 :=
  runInstr (fusedOp .f32 true true rd ra rb rc rm mk)
/-- VFNMS on bf16 (R295). -/
def execVfnmsBf16 (rd ra rb rc : VReg) (rm : Rm) (mk : MReg) : State → Out1 :=
  runInstr (fusedOp .bf16 true true rd ra rb rc rm mk)

end Sys2Proof.Machine
end

