-- ==== Sys2Proof/Machine/VectorInt.lean ====
section
/-! DEFINITION. Integer, move, permute and mask instructions (R299 to R304). -/

namespace Sys2Proof.Machine

/-- The signed value of an element of `w` bits. -/
def selem (w v : Nat) : Int := sfield v w

/-- An integer as an element of `w` bits. -/
def toElem (w : Nat) (i : Int) : Nat := (i % (2 ^ w : Nat)).toNat

/-- The only register of operand `k`. -/
def src (vs : List (List Vec)) (k : Nat) : Vec := (vs.getD k []).getD 0 0

/-- An element-wise operation on two registers (R300). -/
def int2 (h : Nat → Nat → Nat → Nat) (rd ra rb : VReg) (mk : MReg) (e : Sz) : State → Out1 :=
  runInstr (vecOp [] [] [(ra, 1), (rb, 1)] rd 1 (fun t vs old =>
    let w := szBits e
    let b := elems w (src vs 1)
    let r := ((elems w (src vs 0)).zip b).map (fun p => h w p.1 p.2)
    ([ofElems w (mergeElems (t.getM mk) (elems w (old.getD 0 0)) r)], id)))

/-- An element-wise operation on one register (R300). -/
def int1 (h : Nat → Nat → Nat) (rd ra : VReg) (mk : MReg) (e : Sz) : State → Out1 :=
  runInstr (vecOp [] [] [(ra, 1)] rd 1 (fun t vs old =>
    let w := szBits e
    ([ofElems w (mergeElems (t.getM mk) (elems w (old.getD 0 0)) ((elems w (src vs 0)).map (h w)))], id)))

/-- VADD (R300). -/
def execVaddInt (rd ra rb : VReg) (mk : MReg) (e : Sz) : State → Out1 := int2 (fun _ a b => a + b) rd ra rb mk e
/-- VSUB (R300). -/
def execVsubInt (rd ra rb : VReg) (mk : MReg) (e : Sz) : State → Out1 := int2 (fun w a b => a + (2 ^ w - b % 2 ^ w)) rd ra rb mk e
/-- VMUL (R300). -/
def execVmulInt (rd ra rb : VReg) (mk : MReg) (e : Sz) : State → Out1 := int2 (fun _ a b => a * b) rd ra rb mk e
/-- VMIN (R300). -/
def execVminInt (rd ra rb : VReg) (mk : MReg) (e : Sz) : State → Out1 := int2 (fun w a b => if selem w b < selem w a then b else a) rd ra rb mk e
/-- VMAX (R300). -/
def execVmaxInt (rd ra rb : VReg) (mk : MReg) (e : Sz) : State → Out1 := int2 (fun w a b => if selem w a < selem w b then b else a) rd ra rb mk e
/-- VAND (R300). -/
def execVand (rd ra rb : VReg) (mk : MReg) (e : Sz) : State → Out1 := int2 (fun _ a b => a &&& b) rd ra rb mk e
/-- VOR (R300). -/
def execVor (rd ra rb : VReg) (mk : MReg) (e : Sz) : State → Out1 := int2 (fun _ a b => a ||| b) rd ra rb mk e
/-- VXOR (R300). -/
def execVxor (rd ra rb : VReg) (mk : MReg) (e : Sz) : State → Out1 := int2 (fun _ a b => a ^^^ b) rd ra rb mk e
/-- VSHL (R300). -/
def execVshl (rd ra rb : VReg) (mk : MReg) (e : Sz) : State → Out1 := int2 (fun w a b => a <<< (b % w)) rd ra rb mk e
/-- VSHR (R300). -/
def execVshr (rd ra rb : VReg) (mk : MReg) (e : Sz) : State → Out1 := int2 (fun w a b => a >>> (b % w)) rd ra rb mk e
/-- VSRA (R300). -/
def execVsra (rd ra rb : VReg) (mk : MReg) (e : Sz) : State → Out1 := int2 (fun w a b => toElem w (selem w a / (2 ^ (b % w) : Nat))) rd ra rb mk e
/-- VABS (R300). -/
def execVabsInt (rd ra : VReg) (mk : MReg) (e : Sz) : State → Out1 := int1 (fun w a => (selem w a).natAbs) rd ra mk e
/-- VNEG (R300). -/
def execVnegInt (rd ra : VReg) (mk : MReg) (e : Sz) : State → Out1 := int1 (fun w a => 2 ^ w - a % 2 ^ w) rd ra mk e

/-- An integer compare to a mask (R293, R300). -/
def intCmp (h : Nat → Nat → Nat → Bool) (rd : MReg) (ra rb : VReg) (mk : MReg) (e : Sz) : State → Out1 :=
  runInstr (vecRead [] [] [(ra, 1), (rb, 1)] (fun t vs =>
    let w := szBits e
    let a := elems w (src vs 0)
    let b := elems w (src vs 1)
    fun u => u.setM rd (cmpMask (512 / w) (t.getM mk) (fun i => h w (a.getD i 0) (b.getD i 0)))))

/-- VCMP.EQ (R300). -/
def execVcmpEq (rd : MReg) (ra rb : VReg) (mk : MReg) (e : Sz) : State → Out1 :=
  intCmp (fun _ a b => a == b) rd ra rb mk e
/-- VCMP.NE (R300). -/
def execVcmpNe (rd : MReg) (ra rb : VReg) (mk : MReg) (e : Sz) : State → Out1 :=
  intCmp (fun _ a b => a != b) rd ra rb mk e
/-- VCMP.LT (R300). -/
def execVcmpLt (rd : MReg) (ra rb : VReg) (mk : MReg) (e : Sz) : State → Out1 :=
  intCmp (fun w a b => decide (selem w a < selem w b)) rd ra rb mk e
/-- VCMP.LE (R300). -/
def execVcmpLe (rd : MReg) (ra rb : VReg) (mk : MReg) (e : Sz) : State → Out1 :=
  intCmp (fun w a b => decide (selem w a ≤ selem w b)) rd ra rb mk e
/-- VCMP.LTU (R300). -/
def execVcmpLtu (rd : MReg) (ra rb : VReg) (mk : MReg) (e : Sz) : State → Out1 :=
  intCmp (fun _ a b => decide (a < b)) rd ra rb mk e
/-- VCMP.LEU (R300). -/
def execVcmpLeu (rd : MReg) (ra rb : VReg) (mk : MReg) (e : Sz) : State → Out1 :=
  intCmp (fun _ a b => decide (a ≤ b)) rd ra rb mk e

/-- A reduction of the active elements to element 0 (R294, R300). -/
def intRed (h : Nat → List Nat → Nat) (rd ra : VReg) (mk : MReg) (e : Sz) : State → Out1 :=
  runInstr (vecOp [] [] [(ra, 1)] rd 1 (fun t vs _ =>
    let w := szBits e
    let v := elems w (src vs 0)
    ([onlyFirst w (h w ((activeIx (512 / w) (t.getM mk)).map (fun i => v.getD i 0)))], id)))

/-- VREDSUM (R300). -/
def execVredsumInt (rd ra : VReg) (mk : MReg) (e : Sz) : State → Out1 := intRed (fun _ l => l.foldl (· + ·) 0) rd ra mk e
/-- VREDMAX (R300): −2^(w−1) with no active element. -/
def execVredmaxInt (rd ra : VReg) (mk : MReg) (e : Sz) : State → Out1 :=
  intRed (fun w l => l.foldl (fun a b => if selem w a < selem w b then b else a) (2 ^ (w - 1))) rd ra mk e
/-- VREDMIN (R300): 2^(w−1) − 1 with no active element. -/
def execVredminInt (rd ra : VReg) (mk : MReg) (e : Sz) : State → Out1 :=
  intRed (fun w l => l.foldl (fun a b => if selem w b < selem w a then b else a) (2 ^ (w - 1) - 1)) rd ra mk e

/-- A movement of elements of whole groups (R301, R303): `h` gives the new elements of a register from those of the
operands' registers of the same plane; `xs` are the X registers that it names. -/
def moveOp (xs : List XReg) (groups : List VReg) (srcs : List VReg) (rd : VReg) (e : Sz)
    (h : Str → List (List Nat) → List Nat → List Nat) : M Adv := do
  let t ← theStr
  let n := t.planes
  let w := szBits e
  vecOp xs groups (srcs.map (fun r => (r, n))) rd n (fun t vs old =>
    ((upTo n).map (fun k => ofElems w (h t (vs.map (fun v => elems w (v.getD k 0))) (elems w (old.getD k 0)))), id))

/-- VMOV (R301). -/
def execVmov (rd ra : VReg) (mk : MReg) (e : Sz) : State → Out1 :=
  runInstr (moveOp [] [rd, ra] [ra] rd e (fun t l old => mergeElems (t.getM mk) old (l.getD 0 [])))
/-- VSEL (R301): the mask selects and does not govern. -/
def execVsel (rd ra rb : VReg) (mk : MReg) (e : Sz) : State → Out1 :=
  runInstr (moveOp [] [rd, ra, rb] [ra, rb] rd e (fun t l _ => mergeElems (t.getM mk) (l.getD 1 []) (l.getD 0 [])))

/-- VBCAST (R301): a constant jet. -/
def execVbcast (rd : VReg) (ra : XReg) (mk : MReg) (e : Sz) : State → Out1 := runInstr do
  let t ← theStr
  let w := szBits e
  vecOp [ra] [rd] [] rd t.planes (fun t _ old =>
    ((upTo t.planes).map (fun k =>
      let o := elems w (old.getD k 0)
      ofElems w (mergeElems (t.getM mk) o (o.map (fun _ => if k = 0 then (t.getX ra).toNat % 2 ^ w else 0)))), id))

/-- VEXT (R302). -/
def execVext (rd : XReg) (ra : VReg) (rb : XReg) (e : Sz) : State → Out1 :=
  runInstr (vecRead [rd, rb] [] [(ra, 1)] (fun t vs u =>
    u.setX rd (BitVec.ofNat 64 ((elems (szBits e) (src vs 0)).getD (t.getX rb).toNat 0))))
/-- VINS (R302). -/
def execVins (rd : VReg) (ra rb : XReg) (e : Sz) : State → Out1 :=
  runInstr (vecOp [ra, rb] [] [] rd 1 (fun t _ old =>
    let w := szBits e
    ([ofElems w (setAt (elems w (old.getD 0 0)) (t.getX rb).toNat ((t.getX ra).toNat % 2 ^ w))], id)))
/-- VIOTA (R302). -/
def execViota (rd : VReg) (mk : MReg) (e : Sz) : State → Out1 :=
  runInstr (vecOp [] [] [] rd 1 (fun t _ old =>
    let w := szBits e
    let mask := t.getM mk
    ([ofElems w (mergeElems mask (elems w (old.getD 0 0))
      ((upTo (512 / w)).map (fun i => (activeIx i mask).length)))], id)))

/-- VPERM (R303): one index register for every register of the group. -/
def execVperm (rd ra rb : VReg) (mk : MReg) (e : Sz) : State → Out1 := runInstr do
  let t ← theStr
  let n := t.planes
  let w := szBits e
  vecOp [] [rd, ra] [(ra, n), (rb, 1)] rd n (fun t vs old =>
    let ix := elems w (src vs 1)
    ((upTo n).map (fun k =>
      let a := elems w ((vs.getD 0 []).getD k 0)
      ofElems w (mergeElems (t.getM mk) (elems w (old.getD k 0)) (ix.map (fun j => a.getD j 0)))), id))

/-- Elements moved by a signed distance (R303). -/
def slide (d : Int) (a : List Nat) : List Nat :=
  (upTo a.length).map (fun (i : Nat) => if 0 ≤ (i : Int) + d then a.getD ((i : Int) + d).toNat 0 else 0)

/-- VSLIDE (R303). -/
def execVslide (rd ra : VReg) (rb : XReg) (mk : MReg) (e : Sz) : State → Out1 :=
  runInstr (moveOp [rb] [rd, ra] [ra] rd e (fun t l old =>
    mergeElems (t.getM mk) old (slide (t.getX rb).toInt (l.getD 0 []))))

/-- MAND (R304). -/
def execMand (rd ra rb : MReg) : State → Out1 := strOp (xRegs []) (fun t => t.setM rd (t.getM ra &&& t.getM rb))
/-- MOR (R304). -/
def execMor (rd ra rb : MReg) : State → Out1 := strOp (xRegs []) (fun t => t.setM rd (t.getM ra ||| t.getM rb))
/-- MNOT (R304). -/
def execMnot (rd ra : MReg) : State → Out1 := strOp (xRegs []) (fun t => t.setM rd (~~~ t.getM ra))
/-- MPOP (R304). -/
def execMpop (rd : XReg) (ra : MReg) : State → Out1 :=
  strOp (xRegs [rd]) (fun t => t.setX rd (BitVec.ofNat 64 ((upTo 64).filter (active (t.getM ra))).length))

end Sys2Proof.Machine
end

