-- ==== Sys2Proof/Machine/Convert.lean ====
section
/-! DEFINITION. Vector conversions (R305 to R307). -/

namespace Sys2Proof.Machine

/-- Converts the low N elements of a register, N being that of the wider type, to elements of `wd` bits: the merged
register and the flags. A narrowing conversion writes zero to the elements from N on (R306). -/
def convReg (ws wd : Nat) (mask : BitVec 64) (h : Nat → Nat × Nat) (v old : Vec) : Vec × Nat :=
  let n := 512 / max ws wd
  let a := elems ws v
  let o := elems wd old
  let r := (upTo n).map (fun i => if active mask i then h (a.getD i 0) else (o.getD i 0, 0))
  (ofElems wd (r.map (·.1)), r.foldl (fun x p => x ||| p.2) 0)

/-- The wider floating-point type's meter: FP64, FP32, BF16 in that order (R436). -/
def widerTy (a b : Fmt) : FTy := if a.w = 64 ∨ b.w = 64 then .f64 else if a.w = 32 ∨ b.w = 32 then .f32 else .bf16

/-- AMAX over the active elements (R205). -/
def amaxOver (f : Fmt) (mask : BitVec 64) (n : Nat) (v : Vec) (a : BitVec 33) : BitVec 33 :=
  (activeIx n mask).foldl (fun x i => amaxStep f x ((elems f.w v).getD i 0)) a

/-- VCVTF (R306): to FP8 with scale and AMAX, coefficient 0 alone; otherwise every coefficient. -/
def execVcvtFpFp (rd ra : VReg) (rb : XReg) (mk : MReg) (dst s : FTy8) (rm : Rm) : State → Out1 := runInstr do
  let t ← theStr
  let fd := ty8Fmt dst
  let fs := ty8Fmt s
  let mask := t.getM mk
  let n := 512 / max fd.w fs.w
  if dst = .fp8 then
    let r ← vecOp [rb] [] [(ra, 1)] rd 1 (fun t vs old =>
      let x := convReg fs.w 8 mask (fun a => fpToFp8 fs (t.mode rm) a ((t.getX rb).toNat % 2 ^ 32)) (src vs 0) (old.getD 0 0)
      ([x.1], fun t => { t.orFlags x.2 with amax := amaxOver fs mask n (src vs 0) t.amax }))
    countVop (widerTy fd fs) mask n 1
    return r
  else
    let r ← vecOp [rb] [rd, ra] [(ra, t.planes)] rd t.planes (fun t vs old =>
      let x := (upTo t.planes).map (fun k =>
        convReg fs.w fd.w mask (fpConv fs fd (t.mode rm)) ((vs.getD 0 []).getD k 0) (old.getD k 0))
      (x.map (·.1), fun t => t.orJet (jetFlags (x.map (fun p => (0, p.2))))))
    countVop (widerTy fd fs) mask n t.planes
    return r

/-- VCVTI from integer elements (R307). -/
def execVcvtIntToFp (rd ra : VReg) (mk : MReg) (ity : Sz) (fty : FTy) (rm : Rm) : State → Out1 := runInstr do
  let t ← theStr
  let f := tyFmt fty
  let w := szBits ity
  let mask := t.getM mk
  let r ← vecOp [] [] [(ra, 1)] rd 1 (fun t vs old =>
    let x := convReg w f.w mask (fun a => fpOfInt f (t.mode rm) (selem w a)) (src vs 0) (old.getD 0 0)
    ([x.1], fun t => t.orFlags x.2))
  countVop fty mask (512 / max w f.w) 1
  return r

/-- VCVTI to integer elements (R203, R307). -/
def execVcvtFpToInt (rd ra : VReg) (mk : MReg) (ity : Sz) (fty : FTy) (rm : Rm) : State → Out1 := runInstr do
  let t ← theStr
  let f := tyFmt fty
  let w := szBits ity
  let mask := t.getM mk
  let r ← vecOp [] [] [(ra, 1)] rd 1 (fun t vs old =>
    let h := fun a =>
      let y := fpToInt f (t.mode rm) (-((2 ^ (w - 1) : Nat) : Int)) ((2 ^ (w - 1) - 1 : Nat) : Int) a
      (toElem w y.1, y.2)
    let x := convReg f.w w mask h (src vs 0) (old.getD 0 0)
    ([x.1], fun t => t.orFlags x.2))
  countVop fty mask (512 / max w f.w) 1
  return r

end Sys2Proof.Machine
end

