-- ==== Sys2Proof/Machine/Scalar.lean ====
section
/-! DEFINITION. Integer register operations, immediates, address arithmetic, branches and jumps (R255 to R264, R271,
R272). -/

namespace Sys2Proof.Machine

/-- 1 or 0 as a word. -/
def flagWord (b : Bool) : Word := if b then 1 else 0

/-- Writes a function of two registers. -/
def alu2 (f : Word → Word → Word) (rd ra rb : XReg) (t : Str) : Str := t.setX rd (f (t.getX ra) (t.getX rb))

/-- Writes a function of one register. -/
def alu1 (f : Word → Word) (rd ra : XReg) (t : Str) : Str := t.setX rd (f (t.getX ra))

/-- A sign-extended immediate. -/
def sext16 (i : BitVec 16) : Word := i.signExtend 64
/-- A zero-extended immediate. -/
def zext16 (i : BitVec 16) : Word := i.zeroExtend 64

/-- The largest signed word. -/
def maxInt : Word := 0x7FFFFFFFFFFFFFFF
/-- The smallest signed word. -/
def minInt : Word := 0x8000000000000000

/-- DIV (R259, R260). -/
def divS (a b : Word) : Word :=
  if b = 0 then (if a = 0 then 0 else if a.slt 0 then minInt else maxInt)
  else if a = minInt ∧ b = BitVec.allOnes 64 then maxInt
  else BitVec.ofInt 64 (a.toInt.tdiv b.toInt)
/-- DIVU (R259, R260). -/
def divU (a b : Word) : Word :=
  if b = 0 then (if a = 0 then 0 else BitVec.allOnes 64) else BitVec.ofNat 64 (a.toNat / b.toNat)
/-- REM (R259, R260): it takes the sign of a. -/
def remS (a b : Word) : Word :=
  if b = 0 then 0
  else if a = minInt ∧ b = BitVec.allOnes 64 then 0
  else BitVec.ofInt 64 (a.toInt.tmod b.toInt)
/-- REMU (R259, R260). -/
def remU (a b : Word) : Word := if b = 0 then 0 else BitVec.ofNat 64 (a.toNat % b.toNat)

/-- Number of leading zero bits. -/
def clz64 (a : Word) : Word := if a = 0 then 64 else BitVec.ofNat 64 (63 - a.toNat.log2)
/-- Trailing zero bits, `n` bits being left. -/
def ctzGo : Nat → Nat → Nat
  | 0, _ => 0
  | n + 1, v => if v % 2 = 1 then 0 else 1 + ctzGo n (v / 2)
/-- Number of trailing zero bits. -/
def ctz64 (a : Word) : Word := BitVec.ofNat 64 (ctzGo 64 a.toNat)
/-- One bits among the low `n` bits. -/
def popGo : Nat → Nat → Nat
  | 0, _ => 0
  | n + 1, v => v % 2 + popGo n (v / 2)
/-- Number of one bits. -/
def pop64 (a : Word) : Word := BitVec.ofNat 64 (popGo 64 a.toNat)

/-- Shift amount b[5:0]. -/
def sh6 (b : Word) : Nat := b.toNat % 64

/-- High half of the signed product. -/
def mulhS (a b : Word) : Word := BitVec.extractLsb' 64 64 (a.signExtend 128 * b.signExtend 128)
/-- High half of the unsigned product. -/
def mulhU (a b : Word) : Word := BitVec.extractLsb' 64 64 (a.zeroExtend 128 * b.zeroExtend 128)

/-- The colour of a pointer, zero-extended (R264). -/
def colourOf (p : Word) : Word := p >>> 56
/-- A pointer with another colour (R264). -/
def withColour (p c : Word) : Word := (BitVec.extractLsb' 0 8 c) ++ (BitVec.extractLsb' 0 56 p)

/-- Lane `k` of a word replaced (R262). -/
def setLane (v : Word) (k : BitVec 2) (i : BitVec 16) : Word :=
  (v &&& ~~~((0xFFFF : Word) <<< (16 * k.toNat))) ||| (zext16 i <<< (16 * k.toNat))

/-- ADD (R259). -/
def execAdd (rd ra rb : XReg) : State → Out1 := strOp (xRegs [rd, ra, rb]) (alu2 (fun a b => a + b) rd ra rb)
/-- SUB (R259). -/
def execSub (rd ra rb : XReg) : State → Out1 := strOp (xRegs [rd, ra, rb]) (alu2 (fun a b => a - b) rd ra rb)
/-- AND (R259). -/
def execAnd (rd ra rb : XReg) : State → Out1 := strOp (xRegs [rd, ra, rb]) (alu2 (fun a b => a &&& b) rd ra rb)
/-- OR (R259). -/
def execOr (rd ra rb : XReg) : State → Out1 := strOp (xRegs [rd, ra, rb]) (alu2 (fun a b => a ||| b) rd ra rb)
/-- XOR (R259). -/
def execXor (rd ra rb : XReg) : State → Out1 := strOp (xRegs [rd, ra, rb]) (alu2 (fun a b => a ^^^ b) rd ra rb)
/-- ANDN (R259). -/
def execAndn (rd ra rb : XReg) : State → Out1 := strOp (xRegs [rd, ra, rb]) (alu2 (fun a b => a &&& ~~~b) rd ra rb)
/-- SLL (R259). -/
def execSll (rd ra rb : XReg) : State → Out1 := strOp (xRegs [rd, ra, rb]) (alu2 (fun a b => a <<< sh6 b) rd ra rb)
/-- SRL (R259). -/
def execSrl (rd ra rb : XReg) : State → Out1 := strOp (xRegs [rd, ra, rb]) (alu2 (fun a b => a >>> sh6 b) rd ra rb)
/-- SRA (R259). -/
def execSra (rd ra rb : XReg) : State → Out1 := strOp (xRegs [rd, ra, rb]) (alu2 (fun a b => a.sshiftRight (sh6 b)) rd ra rb)
/-- SLT (R259). -/
def execSlt (rd ra rb : XReg) : State → Out1 := strOp (xRegs [rd, ra, rb]) (alu2 (fun a b => flagWord (a.slt b)) rd ra rb)
/-- SLTU (R259). -/
def execSltu (rd ra rb : XReg) : State → Out1 := strOp (xRegs [rd, ra, rb]) (alu2 (fun a b => flagWord (a.ult b)) rd ra rb)
/-- MIN (R259). -/
def execMin (rd ra rb : XReg) : State → Out1 := strOp (xRegs [rd, ra, rb]) (alu2 (fun a b => if b.slt a then b else a) rd ra rb)
/-- MAX (R259). -/
def execMax (rd ra rb : XReg) : State → Out1 := strOp (xRegs [rd, ra, rb]) (alu2 (fun a b => if a.slt b then b else a) rd ra rb)
/-- MINU (R259). -/
def execMinu (rd ra rb : XReg) : State → Out1 := strOp (xRegs [rd, ra, rb]) (alu2 (fun a b => if b.ult a then b else a) rd ra rb)
/-- MAXU (R259). -/
def execMaxu (rd ra rb : XReg) : State → Out1 := strOp (xRegs [rd, ra, rb]) (alu2 (fun a b => if a.ult b then b else a) rd ra rb)
/-- MUL (R259). -/
def execMul (rd ra rb : XReg) : State → Out1 := strOp (xRegs [rd, ra, rb]) (alu2 (fun a b => a * b) rd ra rb)
/-- MULH (R259). -/
def execMulh (rd ra rb : XReg) : State → Out1 := strOp (xRegs [rd, ra, rb]) (alu2 (fun a b => mulhS a b) rd ra rb)
/-- MULHU (R259). -/
def execMulhu (rd ra rb : XReg) : State → Out1 := strOp (xRegs [rd, ra, rb]) (alu2 (fun a b => mulhU a b) rd ra rb)
/-- DIV (R260). -/
def execDiv (rd ra rb : XReg) : State → Out1 := strOp (xRegs [rd, ra, rb]) (alu2 (fun a b => divS a b) rd ra rb)
/-- DIVU (R260). -/
def execDivu (rd ra rb : XReg) : State → Out1 := strOp (xRegs [rd, ra, rb]) (alu2 (fun a b => divU a b) rd ra rb)
/-- REM (R260). -/
def execRem (rd ra rb : XReg) : State → Out1 := strOp (xRegs [rd, ra, rb]) (alu2 (fun a b => remS a b) rd ra rb)
/-- REMU (R260). -/
def execRemu (rd ra rb : XReg) : State → Out1 := strOp (xRegs [rd, ra, rb]) (alu2 (fun a b => remU a b) rd ra rb)
/-- COLS (R264). -/
def execCols (rd ra rb : XReg) : State → Out1 := strOp (xRegs [rd, ra, rb]) (alu2 (fun a b => withColour a b) rd ra rb)
/-- CLZ (R259). -/
def execClz (rd ra : XReg) : State → Out1 := strOp (xRegs [rd, ra]) (alu1 (fun a => clz64 a) rd ra)
/-- CTZ (R259). -/
def execCtz (rd ra : XReg) : State → Out1 := strOp (xRegs [rd, ra]) (alu1 (fun a => ctz64 a) rd ra)
/-- POPC (R259). -/
def execPopc (rd ra : XReg) : State → Out1 := strOp (xRegs [rd, ra]) (alu1 (fun a => pop64 a) rd ra)
/-- COLG (R264). -/
def execColg (rd ra : XReg) : State → Out1 := strOp (xRegs [rd, ra]) (alu1 (fun a => colourOf a) rd ra)
/-- SLLI (R259). -/
def execSlli (rd ra : XReg) (sh : BitVec 6) : State → Out1 := strOp (xRegs [rd, ra]) (alu1 (fun a => a <<< sh.toNat) rd ra)
/-- SRLI (R259). -/
def execSrli (rd ra : XReg) (sh : BitVec 6) : State → Out1 := strOp (xRegs [rd, ra]) (alu1 (fun a => a >>> sh.toNat) rd ra)
/-- SRAI (R259). -/
def execSrai (rd ra : XReg) (sh : BitVec 6) : State → Out1 := strOp (xRegs [rd, ra]) (alu1 (fun a => a.sshiftRight sh.toNat) rd ra)
/-- ADDI (R261). -/
def execAddi (rd ra : XReg) (i : BitVec 16) : State → Out1 := strOp (xRegs [rd, ra]) (alu1 (fun a => a + sext16 i) rd ra)
/-- ANDI (R261). -/
def execAndi (rd ra : XReg) (i : BitVec 16) : State → Out1 := strOp (xRegs [rd, ra]) (alu1 (fun a => a &&& zext16 i) rd ra)
/-- ORI (R261). -/
def execOri (rd ra : XReg) (i : BitVec 16) : State → Out1 := strOp (xRegs [rd, ra]) (alu1 (fun a => a ||| zext16 i) rd ra)
/-- XORI (R261). -/
def execXori (rd ra : XReg) (i : BitVec 16) : State → Out1 := strOp (xRegs [rd, ra]) (alu1 (fun a => a ^^^ zext16 i) rd ra)
/-- SLTI (R261). -/
def execSlti (rd ra : XReg) (i : BitVec 16) : State → Out1 := strOp (xRegs [rd, ra]) (alu1 (fun a => flagWord (a.slt (sext16 i))) rd ra)
/-- SLTIU (R261). -/
def execSltiu (rd ra : XReg) (i : BitVec 16) : State → Out1 := strOp (xRegs [rd, ra]) (alu1 (fun a => flagWord (a.ult (sext16 i))) rd ra)
/-- LIS (R262). -/
def execLis (rd : XReg) (k : BitVec 2) (i : BitVec 16) : State → Out1 :=
  strOp (xRegs [rd]) (fun t => t.setX rd (sext16 i <<< (16 * k.toNat)))
/-- LIH (R262). -/
def execLih (rd : XReg) (k : BitVec 2) (i : BitVec 16) : State → Out1 :=
  strOp (xRegs [rd]) (fun t => t.setX rd (setLane (t.getX rd) k i))
/-- LEA (R263). -/
def execLea (rd ra : XReg) (i : BitVec 16) : State → Out1 := strOp (xRegs [rd, ra]) (alu1 (fun a => nextPtr a i.toInt) rd ra)

/-- Target of a branch: the next instruction, or `off` words on (R271). -/
def branchTo (c : Word → Word → Bool) (ra rb : XReg) (off : BitVec 16) (t : Str) : Word :=
  if c (t.getX ra) (t.getX rb) then nextPtr t.pc (off.toInt * 4) else nextPtr t.pc 4

/-- JAL writes the link (R272). -/
def link (rd : XReg) (t : Str) : Str := t.setX rd (nextPtr t.pc 4)
/-- BEQ (R271). -/
def execBeq (ra rb : XReg) (off : BitVec 16) : State → Out1 :=
  strJump (xRegs [ra, rb]) id (branchTo (fun a b => a == b) ra rb off)
/-- BNE (R271). -/
def execBne (ra rb : XReg) (off : BitVec 16) : State → Out1 :=
  strJump (xRegs [ra, rb]) id (branchTo (fun a b => a != b) ra rb off)
/-- BLT (R271). -/
def execBlt (ra rb : XReg) (off : BitVec 16) : State → Out1 :=
  strJump (xRegs [ra, rb]) id (branchTo (fun a b => a.slt b) ra rb off)
/-- BGE (R271). -/
def execBge (ra rb : XReg) (off : BitVec 16) : State → Out1 :=
  strJump (xRegs [ra, rb]) id (branchTo (fun a b => !a.slt b) ra rb off)
/-- BLTU (R271). -/
def execBltu (ra rb : XReg) (off : BitVec 16) : State → Out1 :=
  strJump (xRegs [ra, rb]) id (branchTo (fun a b => a.ult b) ra rb off)
/-- BGEU (R271). -/
def execBgeu (ra rb : XReg) (off : BitVec 16) : State → Out1 :=
  strJump (xRegs [ra, rb]) id (branchTo (fun a b => !a.ult b) ra rb off)
/-- JAL (R272). -/
def execJal (rd : XReg) (off : BitVec 21) : State → Out1 := strJump (xRegs [rd]) (link rd) (fun t => nextPtr t.pc (off.toInt * 4))

/-- Target of a JALR, with the colour and package of the register (R272). -/
def jalrTo (ra : XReg) (i : BitVec 16) (t : Str) : Word := nextPtr (t.getX ra) i.toInt

/-- JALR (R272): a target that is no multiple of 4 faults with ALIGN. -/
def execJalr (rd ra : XReg) (i : BitVec 16) (s : State) : Out1 :=
  match settled (xRegs [rd, ra]) s with
  | some s =>
    if field (jalrTo ra i s.curStr).toNat 0 2 = 0 then .next ((s.setCurStr (link rd s.curStr)).retireTo (jalrTo ra i s.curStr))
    else if s.curStr.lds.isEmpty then .next (s.fault { code := 0x03, detail := 0, val := 0 })
    else .next s
  | none => .next s

end Sys2Proof.Machine
end

