-- ==== Sys2Proof/Machine/ScalarFp.lean ====
section
/-! DEFINITION. Scalar floating point (R265 to R270) and FXCVT (R320). -/

namespace Sys2Proof.Machine

/-- Format of a size token (R236). -/
def szFmt : FSz → Fmt
  | .s => fp32
  | .d => fp64
/-- The other format. -/
def szOther : FSz → Fmt
  | .s => fp64
  | .d => fp32

/-- A floating-point source: the low bits of the register (R266). -/
def Str.getF (t : Str) (sz : FSz) (r : XReg) : Nat := (t.getX r).toNat % 2 ^ (szFmt sz).w

/-- Writes a result, zero-extended (R266), and ORs its flags into FFLG. -/
def Str.putF (t : Str) (rd : XReg) (r : Nat × Nat) : Str := (t.setX rd (BitVec.ofNat 64 r.1)).orFlags r.2

/-- A two-operand operation that rounds. -/
def fp2 (op : Fmt → Mode → Nat → Nat → Nat × Nat) (rd ra rb : XReg) (rm : Rm) (sz : FSz) (t : Str) : Str :=
  t.putF rd (op (szFmt sz) (t.mode rm) (t.getF sz ra) (t.getF sz rb))

/-- A comparison (R267). -/
def fpTest (c : Cond) (rd ra rb : XReg) (sz : FSz) (t : Str) : Str :=
  let r := fpCmp (szFmt sz) c (t.getF sz ra) (t.getF sz rb)
  t.putF rd (b2n r.1, r.2)

/-- FADD (R267). -/
def execFadd (rd ra rb : XReg) (rm : Rm) (sz : FSz) : State → Out1 := strOp (xRegs [rd, ra, rb]) (fp2 fpAdd rd ra rb rm sz)
/-- FSUB (R267). -/
def execFsub (rd ra rb : XReg) (rm : Rm) (sz : FSz) : State → Out1 := strOp (xRegs [rd, ra, rb]) (fp2 fpSub rd ra rb rm sz)
/-- FMUL (R267). -/
def execFmul (rd ra rb : XReg) (rm : Rm) (sz : FSz) : State → Out1 := strOp (xRegs [rd, ra, rb]) (fp2 fpMul rd ra rb rm sz)
/-- FDIV (R267). -/
def execFdiv (rd ra rb : XReg) (rm : Rm) (sz : FSz) : State → Out1 := strOp (xRegs [rd, ra, rb]) (fp2 fpDiv rd ra rb rm sz)
/-- FSQRT (R267). -/
def execFsqrt (rd ra : XReg) (rm : Rm) (sz : FSz) : State → Out1 :=
  strOp (xRegs [rd, ra]) (fun t => t.putF rd (fpSqrt (szFmt sz) (t.mode rm) (t.getF sz ra)))
/-- FMIN (R267). -/
def execFmin (rd ra rb : XReg) (sz : FSz) : State → Out1 := strOp (xRegs [rd, ra, rb]) (fp2 (fun f _ => fpMin f) rd ra rb .rne sz)
/-- FMAX (R267). -/
def execFmax (rd ra rb : XReg) (sz : FSz) : State → Out1 := strOp (xRegs [rd, ra, rb]) (fp2 (fun f _ => fpMax f) rd ra rb .rne sz)
/-- FEQ (R267). -/
def execFeq (rd ra rb : XReg) (sz : FSz) : State → Out1 := strOp (xRegs [rd, ra, rb]) (fpTest .eq rd ra rb sz)
/-- FLT (R267). -/
def execFlt (rd ra rb : XReg) (sz : FSz) : State → Out1 := strOp (xRegs [rd, ra, rb]) (fpTest .lt rd ra rb sz)
/-- FLE (R267). -/
def execFle (rd ra rb : XReg) (sz : FSz) : State → Out1 := strOp (xRegs [rd, ra, rb]) (fpTest .le rd ra rb sz)
/-- FCLASS (R268). -/
def execFclass (rd ra : XReg) (sz : FSz) : State → Out1 :=
  strOp (xRegs [rd, ra]) (fun t => t.setX rd (BitVec.ofNat 64 (fpClass (szFmt sz) (t.getF sz ra))))
/-- FCVT.D.S and FCVT.S.D (R269): the size is the target's. -/
def execFcvtFp (rd ra : XReg) (rm : Rm) (sz : FSz) : State → Out1 :=
  strOp (xRegs [rd, ra]) (fun t => t.putF rd (fpConv (szOther sz) (szFmt sz) (t.mode rm) ((t.getX ra).toNat % 2 ^ (szOther sz).w)))
/-- FCVT from I64 (R269). -/
def execFcvtFromI64 (rd ra : XReg) (rm : Rm) (sz : FSz) : State → Out1 :=
  strOp (xRegs [rd, ra]) (fun t => t.putF rd (fpOfInt (szFmt sz) (t.mode rm) (t.getX ra).toInt))
/-- FCVT from U64 (R269). -/
def execFcvtFromU64 (rd ra : XReg) (rm : Rm) (sz : FSz) : State → Out1 :=
  strOp (xRegs [rd, ra]) (fun t => t.putF rd (fpOfInt (szFmt sz) (t.mode rm) (t.getX ra).toNat))

/-- Writes an integer result (R266) and ORs its flags into FFLG. -/
def Str.putI (t : Str) (rd : XReg) (r : Int × Nat) : Str := (t.setX rd (BitVec.ofInt 64 r.1)).orFlags r.2

/-- FCVT to I64 (R203, R269). -/
def execFcvtToI64 (rd ra : XReg) (rm : Rm) (sz : FSz) : State → Out1 :=
  strOp (xRegs [rd, ra]) (fun t => t.putI rd (fpToInt (szFmt sz) (t.mode rm) (-(2 ^ 63)) (2 ^ 63 - 1) (t.getF sz ra)))
/-- FCVT to U64 (R203, R269). -/
def execFcvtToU64 (rd ra : XReg) (rm : Rm) (sz : FSz) : State → Out1 :=
  strOp (xRegs [rd, ra]) (fun t => t.putI rd (fpToInt (szFmt sz) (t.mode rm) 0 (2 ^ 64 - 1) (t.getF sz ra)))
/-- FFMA (R270). -/
def execFfma (rd ra rb rc : XReg) (rm : Rm) (sz : FSz) : State → Out1 :=
  strOp (xRegs [rd, ra, rb, rc]) (fun t => t.putF rd (fpFma (szFmt sz) (t.mode rm) false false (t.getF sz ra) (t.getF sz rb) (t.getF sz rc)))

/-- The 256-bit accumulator in four registers, signed (R320). -/
def accInt (t : Str) (ra : XReg) : Int :=
  BitVec.toInt (t.getX (regUp ra 3) ++ t.getX (regUp ra 2) ++ t.getX (regUp ra 1) ++ t.getX ra)

/-- W of the handler the string runs; 200 if it holds no activation (R320, R453). -/
def handlerW (s : State) : Nat :=
  match s.curStr.act with
  | some a => match s.launch a.launch with
    | some l => field (l.handler a.trig.hid) 40 8
    | none => 200
  | none => 200

/-- FXCVT (R320). -/
def execFxcvt (rd ra : XReg) (rm : Rm) (s : State) : Out1 :=
  strOp (xRegs [rd, ra, regUp ra 1, regUp ra 2, regUp ra 3]) (fun t => t.putF rd (fxToFp (t.mode rm) (accInt t ra) (handlerW s))) s

end Sys2Proof.Machine
end

