-- ==== Sys2Proof/Machine/Dispatch.lean ====
section
/-! DEFINITION. The meaning of every instruction and every event: one arm for each constructor of `Instr`. -/

namespace Sys2Proof.Machine

/-- What an instruction or an event does to the machine. -/
def exec (i : Instr) (s : State) : Host.Outcome State Fault Refusal :=
  match i with
  | .add rd ra rb => Sys2Proof.Machine.execAdd rd ra rb s
  | .sub rd ra rb => Sys2Proof.Machine.execSub rd ra rb s
  | .and rd ra rb => Sys2Proof.Machine.execAnd rd ra rb s
  | .or rd ra rb => Sys2Proof.Machine.execOr rd ra rb s
  | .xor rd ra rb => Sys2Proof.Machine.execXor rd ra rb s
  | .andn rd ra rb => Sys2Proof.Machine.execAndn rd ra rb s
  | .sll rd ra rb => Sys2Proof.Machine.execSll rd ra rb s
  | .srl rd ra rb => Sys2Proof.Machine.execSrl rd ra rb s
  | .sra rd ra rb => Sys2Proof.Machine.execSra rd ra rb s
  | .slt rd ra rb => Sys2Proof.Machine.execSlt rd ra rb s
  | .sltu rd ra rb => Sys2Proof.Machine.execSltu rd ra rb s
  | .min rd ra rb => Sys2Proof.Machine.execMin rd ra rb s
  | .max rd ra rb => Sys2Proof.Machine.execMax rd ra rb s
  | .minu rd ra rb => Sys2Proof.Machine.execMinu rd ra rb s
  | .maxu rd ra rb => Sys2Proof.Machine.execMaxu rd ra rb s
  | .mul rd ra rb => Sys2Proof.Machine.execMul rd ra rb s
  | .mulh rd ra rb => Sys2Proof.Machine.execMulh rd ra rb s
  | .mulhu rd ra rb => Sys2Proof.Machine.execMulhu rd ra rb s
  | .div rd ra rb => Sys2Proof.Machine.execDiv rd ra rb s
  | .divu rd ra rb => Sys2Proof.Machine.execDivu rd ra rb s
  | .rem rd ra rb => Sys2Proof.Machine.execRem rd ra rb s
  | .remu rd ra rb => Sys2Proof.Machine.execRemu rd ra rb s
  | .clz rd ra => Sys2Proof.Machine.execClz rd ra s
  | .ctz rd ra => Sys2Proof.Machine.execCtz rd ra s
  | .popc rd ra => Sys2Proof.Machine.execPopc rd ra s
  | .slli rd ra sh => Sys2Proof.Machine.execSlli rd ra sh s
  | .srli rd ra sh => Sys2Proof.Machine.execSrli rd ra sh s
  | .srai rd ra sh => Sys2Proof.Machine.execSrai rd ra sh s
  | .colg rd ra => Sys2Proof.Machine.execColg rd ra s
  | .cols rd ra rb => Sys2Proof.Machine.execCols rd ra rb s
  | .addi rd ra imm => Sys2Proof.Machine.execAddi rd ra imm s
  | .andi rd ra imm => Sys2Proof.Machine.execAndi rd ra imm s
  | .ori rd ra imm => Sys2Proof.Machine.execOri rd ra imm s
  | .xori rd ra imm => Sys2Proof.Machine.execXori rd ra imm s
  | .slti rd ra imm => Sys2Proof.Machine.execSlti rd ra imm s
  | .sltiu rd ra imm => Sys2Proof.Machine.execSltiu rd ra imm s
  | .lis rd k imm => Sys2Proof.Machine.execLis rd k imm s
  | .lih rd k imm => Sys2Proof.Machine.execLih rd k imm s
  | .lea rd ra imm => Sys2Proof.Machine.execLea rd ra imm s
  | .ldlW rd off => Sys2Proof.Machine.execLdlW rd off s
  | .ldlD rd off => Sys2Proof.Machine.execLdlD rd off s
  | .ldlv rd off => Sys2Proof.Machine.execLdlv rd off s
  | .jal rd off => Sys2Proof.Machine.execJal rd off s
  | .jalr rd ra imm => Sys2Proof.Machine.execJalr rd ra imm s
  | .fadd rd ra rb rm sz => Sys2Proof.Machine.execFadd rd ra rb rm sz s
  | .fsub rd ra rb rm sz => Sys2Proof.Machine.execFsub rd ra rb rm sz s
  | .fmul rd ra rb rm sz => Sys2Proof.Machine.execFmul rd ra rb rm sz s
  | .fdiv rd ra rb rm sz => Sys2Proof.Machine.execFdiv rd ra rb rm sz s
  | .fsqrt rd ra rm sz => Sys2Proof.Machine.execFsqrt rd ra rm sz s
  | .fmin rd ra rb sz => Sys2Proof.Machine.execFmin rd ra rb sz s
  | .fmax rd ra rb sz => Sys2Proof.Machine.execFmax rd ra rb sz s
  | .feq rd ra rb sz => Sys2Proof.Machine.execFeq rd ra rb sz s
  | .flt rd ra rb sz => Sys2Proof.Machine.execFlt rd ra rb sz s
  | .fle rd ra rb sz => Sys2Proof.Machine.execFle rd ra rb sz s
  | .fclass rd ra sz => Sys2Proof.Machine.execFclass rd ra sz s
  | .fcvtFp rd ra rm sz => Sys2Proof.Machine.execFcvtFp rd ra rm sz s
  | .fcvtFromI64 rd ra rm sz => Sys2Proof.Machine.execFcvtFromI64 rd ra rm sz s
  | .fcvtFromU64 rd ra rm sz => Sys2Proof.Machine.execFcvtFromU64 rd ra rm sz s
  | .fcvtToI64 rd ra rm sz => Sys2Proof.Machine.execFcvtToI64 rd ra rm sz s
  | .fcvtToU64 rd ra rm sz => Sys2Proof.Machine.execFcvtToU64 rd ra rm sz s
  | .ffma rd ra rb rc rm sz => Sys2Proof.Machine.execFfma rd ra rb rc rm sz s
  | .csrr rd n => Sys2Proof.Machine.execCsrr rd n s
  | .csrw rd ra n => Sys2Proof.Machine.execCsrw rd ra n s
  | .csrs rd ra n => Sys2Proof.Machine.execCsrs rd ra n s
  | .csrc rd ra n => Sys2Proof.Machine.execCsrc rd ra n s
  | .beq ra rb off => Sys2Proof.Machine.execBeq ra rb off s
  | .bne ra rb off => Sys2Proof.Machine.execBne ra rb off s
  | .blt ra rb off => Sys2Proof.Machine.execBlt ra rb off s
  | .bge ra rb off => Sys2Proof.Machine.execBge ra rb off s
  | .bltu ra rb off => Sys2Proof.Machine.execBltu ra rb off s
  | .bgeu ra rb off => Sys2Proof.Machine.execBgeu ra rb off s
  | .vcvtFpFp rd ra rb mk dst src rm => Sys2Proof.Machine.execVcvtFpFp rd ra rb mk dst src rm s
  | .vcvtIntToFp rd ra mk ity fty rm => Sys2Proof.Machine.execVcvtIntToFp rd ra mk ity fty rm s
  | .vcvtFpToInt rd ra mk ity fty rm => Sys2Proof.Machine.execVcvtFpToInt rd ra mk ity fty rm s
  | .ldB rd ra imm => Sys2Proof.Machine.execLdB rd ra imm s
  | .ldH rd ra imm => Sys2Proof.Machine.execLdH rd ra imm s
  | .ldW rd ra imm => Sys2Proof.Machine.execLdW rd ra imm s
  | .ldD rd ra imm => Sys2Proof.Machine.execLdD rd ra imm s
  | .ldBu rd ra imm => Sys2Proof.Machine.execLdBu rd ra imm s
  | .ldHu rd ra imm => Sys2Proof.Machine.execLdHu rd ra imm s
  | .ldWu rd ra imm => Sys2Proof.Machine.execLdWu rd ra imm s
  | .stB rd ra imm => Sys2Proof.Machine.execStB rd ra imm s
  | .stH rd ra imm => Sys2Proof.Machine.execStH rd ra imm s
  | .stW rd ra imm => Sys2Proof.Machine.execStW rd ra imm s
  | .stD rd ra imm => Sys2Proof.Machine.execStD rd ra imm s
  | .ldAcq rd ra kind sc imm => Sys2Proof.Machine.execLdAcq rd ra kind sc imm s
  | .stRel rd ra kind sc imm => Sys2Proof.Machine.execStRel rd ra kind sc imm s
  | .amoAddD rd ra sc ord imm => Sys2Proof.Machine.execAmoAddD rd ra sc ord imm s
  | .amoAndD rd ra sc ord imm => Sys2Proof.Machine.execAmoAndD rd ra sc ord imm s
  | .amoOrD rd ra sc ord imm => Sys2Proof.Machine.execAmoOrD rd ra sc ord imm s
  | .amoXorD rd ra sc ord imm => Sys2Proof.Machine.execAmoXorD rd ra sc ord imm s
  | .amoMinD rd ra sc ord imm => Sys2Proof.Machine.execAmoMinD rd ra sc ord imm s
  | .amoMaxD rd ra sc ord imm => Sys2Proof.Machine.execAmoMaxD rd ra sc ord imm s
  | .amoMinuD rd ra sc ord imm => Sys2Proof.Machine.execAmoMinuD rd ra sc ord imm s
  | .amoMaxuD rd ra sc ord imm => Sys2Proof.Machine.execAmoMaxuD rd ra sc ord imm s
  | .amoSwapD rd ra sc ord imm => Sys2Proof.Machine.execAmoSwapD rd ra sc ord imm s
  | .amoAddW rd ra sc ord imm => Sys2Proof.Machine.execAmoAddW rd ra sc ord imm s
  | .amoAndW rd ra sc ord imm => Sys2Proof.Machine.execAmoAndW rd ra sc ord imm s
  | .amoOrW rd ra sc ord imm => Sys2Proof.Machine.execAmoOrW rd ra sc ord imm s
  | .amoXorW rd ra sc ord imm => Sys2Proof.Machine.execAmoXorW rd ra sc ord imm s
  | .amoMinW rd ra sc ord imm => Sys2Proof.Machine.execAmoMinW rd ra sc ord imm s
  | .amoMaxW rd ra sc ord imm => Sys2Proof.Machine.execAmoMaxW rd ra sc ord imm s
  | .amoMinuW rd ra sc ord imm => Sys2Proof.Machine.execAmoMinuW rd ra sc ord imm s
  | .amoMaxuW rd ra sc ord imm => Sys2Proof.Machine.execAmoMaxuW rd ra sc ord imm s
  | .amoSwapW rd ra sc ord imm => Sys2Proof.Machine.execAmoSwapW rd ra sc ord imm s
  | .casW rd ra sc ord imm => Sys2Proof.Machine.execCasW rd ra sc ord imm s
  | .casD rd ra sc ord imm => Sys2Proof.Machine.execCasD rd ra sc ord imm s
  | .casQ rd ra sc ord imm => Sys2Proof.Machine.execCasQ rd ra sc ord imm s
  | .famoAddS rd ra sc ord imm => Sys2Proof.Machine.execFamoAddS rd ra sc ord imm s
  | .famoAddD rd ra sc ord imm => Sys2Proof.Machine.execFamoAddD rd ra sc ord imm s
  | .fence kind sc => Sys2Proof.Machine.execFence kind sc s
  | .wait ld st cp mx => Sys2Proof.Machine.execWait ld st cp mx s
  | .send rd ra rb c op hid => Sys2Proof.Machine.execSend rd ra rb c op hid s
  | .sendv rd ra rb c op hid => Sys2Proof.Machine.execSendv rd ra rb c op hid s
  | .arm rd ra rb op hid => Sys2Proof.Machine.execArm rd ra rb op hid s
  | .done => Sys2Proof.Machine.execDone s
  | .endl ra status => Sys2Proof.Machine.execEndl ra status s
  | .msk rd ra rb => Sys2Proof.Machine.execMsk rd ra rb s
  | .lnch rd ra => Sys2Proof.Machine.execLnch rd ra s
  | .fxcvt rd ra rm => Sys2Proof.Machine.execFxcvt rd ra rm s
  | .rinit ra rb => Sys2Proof.Machine.execRinit ra rb s
  | .rfree ra => Sys2Proof.Machine.execRfree ra s
  | .rwait ra rb => Sys2Proof.Machine.execRwait ra rb s
  | .rrel ra rb => Sys2Proof.Machine.execRrel ra rb s
  | .rstat rd ra => Sys2Proof.Machine.execRstat rd ra s
  | .sbind rd ra => Sys2Proof.Machine.execSbind rd ra s
  | .sunb rd => Sys2Proof.Machine.execSunb rd s
  | .sstat rd ra => Sys2Proof.Machine.execSstat rd ra s
  | .mxst rd => Sys2Proof.Machine.execMxst rd s
  | .rqry rd ra rb => Sys2Proof.Machine.execRqry rd ra rb s
  | .plbinv ra => Sys2Proof.Machine.execPlbinv ra s
  | .plbinvAll => Sys2Proof.Machine.execPlbinvAll s
  | .tlbinv ra rb => Sys2Proof.Machine.execTlbinv ra rb s
  | .trap ra => Sys2Proof.Machine.execTrap ra s
  | .mcall ra => Sys2Proof.Machine.execMcall ra s
  | .eret => Sys2Proof.Machine.execEret s
  | .idle => Sys2Proof.Machine.execIdle s
  | .bar => Sys2Proof.Machine.execBar s
  | .grant rd ra rb rc => Sys2Proof.Machine.execGrant rd ra rb rc s
  | .revoke rd ra rb rc => Sys2Proof.Machine.execRevoke rd ra rb rc s
  | .enq eng ra rb off => Sys2Proof.Machine.execEnq eng ra rb off s
  | .vld rd ra mk e => Sys2Proof.Machine.execVld rd ra mk e s
  | .vst rd ra mk e => Sys2Proof.Machine.execVst rd ra mk e s
  | .vlds rd ra rb mk e => Sys2Proof.Machine.execVlds rd ra rb mk e s
  | .vsts rd ra rb mk e => Sys2Proof.Machine.execVsts rd ra rb mk e s
  | .vgath rd ra rb mk e => Sys2Proof.Machine.execVgath rd ra rb mk e s
  | .vscat rd ra rb mk e => Sys2Proof.Machine.execVscat rd ra rb mk e s
  | .vldj rd ra mk e => Sys2Proof.Machine.execVldj rd ra mk e s
  | .vstj rd ra mk e => Sys2Proof.Machine.execVstj rd ra mk e s
  | .vaddFp ty rd ra rb mk rm => Sys2Proof.Machine.execVaddFp ty rd ra rb mk rm s
  | .vsubFp ty rd ra rb mk rm => Sys2Proof.Machine.execVsubFp ty rd ra rb mk rm s
  | .vmulFp ty rd ra rb mk rm => Sys2Proof.Machine.execVmulFp ty rd ra rb mk rm s
  | .vdiv ty rd ra rb mk rm => Sys2Proof.Machine.execVdiv ty rd ra rb mk rm s
  | .vsqrt ty rd ra mk rm => Sys2Proof.Machine.execVsqrt ty rd ra mk rm s
  | .vrsq ty rd ra mk rm => Sys2Proof.Machine.execVrsq ty rd ra mk rm s
  | .vexp ty rd ra mk rm => Sys2Proof.Machine.execVexp ty rd ra mk rm s
  | .vlog ty rd ra mk rm => Sys2Proof.Machine.execVlog ty rd ra mk rm s
  | .vsin ty rd ra mk rm => Sys2Proof.Machine.execVsin ty rd ra mk rm s
  | .vcos ty rd ra mk rm => Sys2Proof.Machine.execVcos ty rd ra mk rm s
  | .vtanh ty rd ra mk rm => Sys2Proof.Machine.execVtanh ty rd ra mk rm s
  | .vminFp ty rd ra rb mk => Sys2Proof.Machine.execVminFp ty rd ra rb mk s
  | .vmaxFp ty rd ra rb mk => Sys2Proof.Machine.execVmaxFp ty rd ra rb mk s
  | .vabsFp ty rd ra mk => Sys2Proof.Machine.execVabsFp ty rd ra mk s
  | .vnegFp ty rd ra mk => Sys2Proof.Machine.execVnegFp ty rd ra mk s
  | .vcmpFp ty rd ra rb mk cond => Sys2Proof.Machine.execVcmpFp ty rd ra rb mk cond s
  | .vredsumFp ty rd ra mk rm => Sys2Proof.Machine.execVredsumFp ty rd ra mk rm s
  | .vredmaxFp ty rd ra mk => Sys2Proof.Machine.execVredmaxFp ty rd ra mk s
  | .vredminFp ty rd ra mk => Sys2Proof.Machine.execVredminFp ty rd ra mk s
  | .jseed ty rd ra mk => Sys2Proof.Machine.execJseed ty rd ra mk s
  | .jconst ty rd ra mk => Sys2Proof.Machine.execJconst ty rd ra mk s
  | .jget ty rd ra k mk => Sys2Proof.Machine.execJget ty rd ra k mk s
  | .jset ty rd ra k mk => Sys2Proof.Machine.execJset ty rd ra k mk s
  | .jder ty rd ra k mk rm => Sys2Proof.Machine.execJder ty rd ra k mk rm s
  | .vaddInt rd ra rb mk e => Sys2Proof.Machine.execVaddInt rd ra rb mk e s
  | .vsubInt rd ra rb mk e => Sys2Proof.Machine.execVsubInt rd ra rb mk e s
  | .vmulInt rd ra rb mk e => Sys2Proof.Machine.execVmulInt rd ra rb mk e s
  | .vminInt rd ra rb mk e => Sys2Proof.Machine.execVminInt rd ra rb mk e s
  | .vmaxInt rd ra rb mk e => Sys2Proof.Machine.execVmaxInt rd ra rb mk e s
  | .vabsInt rd ra mk e => Sys2Proof.Machine.execVabsInt rd ra mk e s
  | .vnegInt rd ra mk e => Sys2Proof.Machine.execVnegInt rd ra mk e s
  | .vand rd ra rb mk e => Sys2Proof.Machine.execVand rd ra rb mk e s
  | .vor rd ra rb mk e => Sys2Proof.Machine.execVor rd ra rb mk e s
  | .vxor rd ra rb mk e => Sys2Proof.Machine.execVxor rd ra rb mk e s
  | .vshl rd ra rb mk e => Sys2Proof.Machine.execVshl rd ra rb mk e s
  | .vshr rd ra rb mk e => Sys2Proof.Machine.execVshr rd ra rb mk e s
  | .vsra rd ra rb mk e => Sys2Proof.Machine.execVsra rd ra rb mk e s
  | .vcmpEq rd ra rb mk e => Sys2Proof.Machine.execVcmpEq rd ra rb mk e s
  | .vcmpNe rd ra rb mk e => Sys2Proof.Machine.execVcmpNe rd ra rb mk e s
  | .vcmpLt rd ra rb mk e => Sys2Proof.Machine.execVcmpLt rd ra rb mk e s
  | .vcmpLe rd ra rb mk e => Sys2Proof.Machine.execVcmpLe rd ra rb mk e s
  | .vcmpLtu rd ra rb mk e => Sys2Proof.Machine.execVcmpLtu rd ra rb mk e s
  | .vcmpLeu rd ra rb mk e => Sys2Proof.Machine.execVcmpLeu rd ra rb mk e s
  | .vredsumInt rd ra mk e => Sys2Proof.Machine.execVredsumInt rd ra mk e s
  | .vredmaxInt rd ra mk e => Sys2Proof.Machine.execVredmaxInt rd ra mk e s
  | .vredminInt rd ra mk e => Sys2Proof.Machine.execVredminInt rd ra mk e s
  | .vmov rd ra mk e => Sys2Proof.Machine.execVmov rd ra mk e s
  | .vsel rd ra rb mk e => Sys2Proof.Machine.execVsel rd ra rb mk e s
  | .vbcast rd ra mk e => Sys2Proof.Machine.execVbcast rd ra mk e s
  | .vext rd ra rb e => Sys2Proof.Machine.execVext rd ra rb e s
  | .vins rd ra rb e => Sys2Proof.Machine.execVins rd ra rb e s
  | .viota rd mk e => Sys2Proof.Machine.execViota rd mk e s
  | .vperm rd ra rb mk e => Sys2Proof.Machine.execVperm rd ra rb mk e s
  | .vslide rd ra rb mk e => Sys2Proof.Machine.execVslide rd ra rb mk e s
  | .mand rd ra rb => Sys2Proof.Machine.execMand rd ra rb s
  | .mor rd ra rb => Sys2Proof.Machine.execMor rd ra rb s
  | .mnot rd ra => Sys2Proof.Machine.execMnot rd ra s
  | .mpop rd ra => Sys2Proof.Machine.execMpop rd ra s
  | .vfmaF64 rd ra rb rc rm mk => Sys2Proof.Machine.execVfmaF64 rd ra rb rc rm mk s
  | .vfmaF32 rd ra rb rc rm mk => Sys2Proof.Machine.execVfmaF32 rd ra rb rc rm mk s
  | .vfmaBf16 rd ra rb rc rm mk => Sys2Proof.Machine.execVfmaBf16 rd ra rb rc rm mk s
  | .vfmsF64 rd ra rb rc rm mk => Sys2Proof.Machine.execVfmsF64 rd ra rb rc rm mk s
  | .vfmsF32 rd ra rb rc rm mk => Sys2Proof.Machine.execVfmsF32 rd ra rb rc rm mk s
  | .vfmsBf16 rd ra rb rc rm mk => Sys2Proof.Machine.execVfmsBf16 rd ra rb rc rm mk s
  | .vfnmaF64 rd ra rb rc rm mk => Sys2Proof.Machine.execVfnmaF64 rd ra rb rc rm mk s
  | .vfnmaF32 rd ra rb rc rm mk => Sys2Proof.Machine.execVfnmaF32 rd ra rb rc rm mk s
  | .vfnmaBf16 rd ra rb rc rm mk => Sys2Proof.Machine.execVfnmaBf16 rd ra rb rc rm mk s
  | .vfnmsF64 rd ra rb rc rm mk => Sys2Proof.Machine.execVfnmsF64 rd ra rb rc rm mk s
  | .vfnmsF32 rd ra rb rc rm mk => Sys2Proof.Machine.execVfnmsF32 rd ra rb rc rm mk s
  | .vfnmsBf16 rd ra rb rc rm mk => Sys2Proof.Machine.execVfnmsBf16 rd ra rb rc rm mk s
  | .powerOn fail => Sys2Proof.Machine.execPowerOn fail s
  | .enqAppend core str => Sys2Proof.Machine.execEnqAppend core str s
  | .mxLoadb core => Sys2Proof.Machine.execMxLoadb core s
  | .mxRows core => Sys2Proof.Machine.execMxRows core s
  | .mxDrain core => Sys2Proof.Machine.execMxDrain core s
  | .mxZero core => Sys2Proof.Machine.execMxZero core s
  | .mxChkrd core => Sys2Proof.Machine.execMxChkrd core s
  | .bcCopy core => Sys2Proof.Machine.execBcCopy core s
  | .bcFill core => Sys2Proof.Machine.execBcFill core s
  | .crShaInit => Sys2Proof.Machine.execCrShaInit s
  | .crShaUpdate => Sys2Proof.Machine.execCrShaUpdate s
  | .crShaFinal => Sys2Proof.Machine.execCrShaFinal s
  | .crEcv => Sys2Proof.Machine.execCrEcv s
  | .crRng healthy => Sys2Proof.Machine.execCrRng healthy s
  | .engineCompletion core eng => Sys2Proof.Machine.execEngineCompletion core eng s
  | .storeAcknowledgement core str ix ev => Sys2Proof.Machine.execStoreAcknowledgement core str ix ev s
  | .loadResponse core str ix ev resp => Sys2Proof.Machine.execLoadResponse core str ix ev resp s
  | .errorResponse core str ix isLoad window => Sys2Proof.Machine.execErrorResponse core str ix isLoad window s
  | .tlbWalk core => Sys2Proof.Machine.execTlbWalk core s
  | .plbSearch core => Sys2Proof.Machine.execPlbSearch core s
  | .rightsRequest part => Sys2Proof.Machine.execRightsRequest part s
  | .hold core => Sys2Proof.Machine.execHold core s
  | .holdAcknowledge core => Sys2Proof.Machine.execHoldAcknowledge core s
  | .rightsTableWrite part => Sys2Proof.Machine.execRightsTableWrite part s
  | .release part => Sys2Proof.Machine.execRelease part s
  | .messageArrival ix tagOk => Sys2Proof.Machine.execMessageArrival ix tagOk s
  | .armArrival ix tagOk => Sys2Proof.Machine.execArmArrival ix tagOk s
  | .nack ix => Sys2Proof.Machine.execNack ix s
  | .responseTimeout core str ix isLoad => Sys2Proof.Machine.execResponseTimeout core str ix isLoad s
  | .recordSelection core str => Sys2Proof.Machine.execRecordSelection core str s
  | .recordAgeing core ix => Sys2Proof.Machine.execRecordAgeing core ix s
  | .replay launch => Sys2Proof.Machine.execReplay launch s
  | .streamElementRead core str st ix => Sys2Proof.Machine.execStreamElementRead core str st ix s
  | .streamPushPerform core str st ix => Sys2Proof.Machine.execStreamPushPerform core str st ix s
  | .launchRecordRead vf record => Sys2Proof.Machine.execLaunchRecordRead vf record s
  | .startMessage launch => Sys2Proof.Machine.execStartMessage launch s
  | .launchEnd part ix => Sys2Proof.Machine.execLaunchEnd part ix s
  | .completionRecordWrite launch => Sys2Proof.Machine.execCompletionRecordWrite launch s
  | .quantumExpiry part => Sys2Proof.Machine.execQuantumExpiry part s
  | .switch core => Sys2Proof.Machine.execSwitch core s
  | .go core => Sys2Proof.Machine.execGo core s
  | .quantumStart part => Sys2Proof.Machine.execQuantumStart part s
  | .noticePost core str ix => Sys2Proof.Machine.execNoticePost core str ix s
  | .eventEntryWrite vf sendable => Sys2Proof.Machine.execEventEntryWrite vf sendable s
  | .poisonNotice part => Sys2Proof.Machine.execPoisonNotice part s
  | .noticeTrap part => Sys2Proof.Machine.execNoticeTrap part s
  | .patrolScrub home result => Sys2Proof.Machine.execPatrolScrub home result s
  | .monitorFaultReport core => Sys2Proof.Machine.execMonitorFaultReport core s
  | .resetDrainComplete part image => Sys2Proof.Machine.execResetDrainComplete part image s
  | .pmcmdUnknownOp => Sys2Proof.Machine.execPmcmdUnknownOp s
  | .create image => Sys2Proof.Machine.execCreate image s
  | .granuleGive => Sys2Proof.Machine.execGranuleGive s
  | .granuleTake => Sys2Proof.Machine.execGranuleTake s
  | .bindvf => Sys2Proof.Machine.execBindvf s
  | .unbindvf => Sys2Proof.Machine.execUnbindvf s
  | .shadowpool => Sys2Proof.Machine.execShadowpool s
  | .domainAdd peerAdded => Sys2Proof.Machine.execDomainAdd peerAdded s
  | .domainRemove => Sys2Proof.Machine.execDomainRemove s
  | .domainMemberActive part q => Sys2Proof.Machine.execDomainMemberActive part q s
  | .start => Sys2Proof.Machine.execStart s
  | .stop => Sys2Proof.Machine.execStop s
  | .reset => Sys2Proof.Machine.execReset s
  | .teardown => Sys2Proof.Machine.execTeardown s
  | .resetvf => Sys2Proof.Machine.execResetvf s
  | .quantumTableWrite part n val => Sys2Proof.Machine.execQuantumTableWrite part n val s
  | .lrdbWrite vf val => Sys2Proof.Machine.execLrdbWrite vf val s
  | .erdbWrite vf val => Sys2Proof.Machine.execErdbWrite vf val s
  | .lrcfgWrite vf val => Sys2Proof.Machine.execLrcfgWrite vf val s
  | .ercfgWrite vf val => Sys2Proof.Machine.execErcfgWrite vf val s
  | .hmsgPost vf size data => Sys2Proof.Machine.execHmsgPost vf size data s
  | .agreplyWrite vf data => Sys2Proof.Machine.execAgreplyWrite vf data s
  | .agentTimeout vf id => Sys2Proof.Machine.execAgentTimeout vf id s
  | .registerWrite fn off op => Sys2Proof.Machine.execRegisterWrite fn off op s
  | .configurationWrite fn fld val => Sys2Proof.Machine.execConfigurationWrite fn fld val s
  | .lockInterface vf => Sys2Proof.Machine.execLockInterface vf s
  | .startInterface vf => Sys2Proof.Machine.execStartInterface vf s
  | .stopInterface vf => Sys2Proof.Machine.execStopInterface vf s
  | .ideIntegrityFailure fn stream => Sys2Proof.Machine.execIdeIntegrityFailure fn stream s
  | .atsTranslationCompletion vf page reads writes => Sys2Proof.Machine.execAtsTranslationCompletion vf page reads writes s
  | .pageRequestGroupResponse vf slot incarn success => Sys2Proof.Machine.execPageRequestGroupResponse vf slot incarn success s
  | .atsInvalidateRequest vf iova len => Sys2Proof.Machine.execAtsInvalidateRequest vf iova len s
  | .hostCompletion id status data => Sys2Proof.Machine.execHostCompletion id status data s
  | .completionTimeout id => Sys2Proof.Machine.execCompletionTimeout id s
  | .novinoRequest part q off size kind data => Sys2Proof.Machine.execNovinoRequest part q off size kind data s
  | .rekey part q => Sys2Proof.Machine.execRekey part q s
  | .getVersion fn => Sys2Proof.Machine.execGetVersion fn s
  | .getCapabilities fn ver => Sys2Proof.Machine.execGetCapabilities fn ver s
  | .negotiateAlgorithms fn ver => Sys2Proof.Machine.execNegotiateAlgorithms fn ver s
  | .getDigests fn ver => Sys2Proof.Machine.execGetDigests fn ver s
  | .getCertificate fn ver off len => Sys2Proof.Machine.execGetCertificate fn ver off len s
  | .challenge fn ver nonce => Sys2Proof.Machine.execChallenge fn ver nonce s
  | .getMeasurements fn ver index nonce => Sys2Proof.Machine.execGetMeasurements fn ver index nonce s
  | .keyExchange fn ver data => Sys2Proof.Machine.execKeyExchange fn ver data s
  | .finish fn ver data => Sys2Proof.Machine.execFinish fn ver data s
  | .endSession fn ver => Sys2Proof.Machine.execEndSession fn ver s
  | .unsupportedSpdmRequest fn code => Sys2Proof.Machine.execUnsupportedSpdmRequest fn code s
  | .wearSample samples => Sys2Proof.Machine.execWearSample samples s
  | .stressFactorUpdate core v => Sys2Proof.Machine.execStressFactorUpdate core v s
  | .lifetimeRecordWrite => Sys2Proof.Machine.execLifetimeRecordWrite s
  | .throttle core on => Sys2Proof.Machine.execThrottle core on s
  | .thermalTrip core => Sys2Proof.Machine.execThermalTrip core s
  | .fundamentalReset => Sys2Proof.Machine.execFundamentalReset s
  | .illegalEncoding w => Sys2Proof.Machine.execIllegalEncoding w s
  | .orderlyShutdown => Sys2Proof.Machine.execOrderlyShutdown s
  | .powerLoss => Sys2Proof.Machine.execPowerLoss s
  | .linkTraining port version => Sys2Proof.Machine.execLinkTraining port version s
  | .ideKmKeyProg fn stream => Sys2Proof.Machine.execIdeKmKeyProg fn stream s

end Sys2Proof.Machine
end

