-- ==== Sys2Proof/Machine/Step.lean ====
section
/-! DEFINITION. One step of the package: the moves that are due, the choice among them, and what each does (R116, R142, R376;
log 1); and the state in which a given word is the next instruction (log 2). -/

namespace Sys2Proof.Machine

/-! ## Issuing an instruction (R39, R253, R256) -/

/-- The bytes at the executing string's pc, with the state that their fetch leaves. -/
def fetch (s : State) : Except Stop (List Byte × State) := (fetchBytes s.curStr.pc 4).run s

/-- The string's instruction is in the hands of the rights unit, which finishes it (R60). -/
def Str.inRights (t : Str) : Bool := match t.wait with | .rights _ => true | _ => false

/-- The string may not issue: the rights unit has its instruction, or an atomic to a host page is outstanding (R60, R281). -/
def Str.held (t : Str) : Bool := t.inRights || t.hostAtomic

/-- The state `s2` that a fetch leaves: MISROUTE counts the fetch of one instruction once, however often it is made again (R73). -/
def State.afterFetch (s s2 : State) : State :=
  match s.curStr.routed, (s.core s.cur.1).part with
  | true, some p => s2.modPart p (fun q => { q with meters := q.meters.set 14 ((s.part p).meters[14]'(by decide)) (by decide) })
  | _, _ => s2.setCurStr { s2.curStr with routed := true }

/-- A fetch meets a fault on its way, and counts in MISROUTE unless it has before (R73, R84). -/
def State.fetchFault (f : FaultInfo) (via : List Place) (sent : Bool) (bad : Option Nat) (s : State) : State :=
  s.faultAt f via (sent && !s.curStr.routed) bad

/-- String `k` of core `c` issues the instruction at its pc: it is fetched, decoded and performed. A fault of the fetch waits for
earlier loads (R275). -/
def issue (c k : Nat) (s : State) : Out1 :=
  if 4096 < c ∨ 4 ≤ k then .fault (.noSuchString c k)
  else
    let s1 := { s with cur := (c, k) }
    if s1.curStr.run ≠ .running ∨ s1.curStr.held then .next s1
    else match fetch s1 with
      | .error (.fault f) => s1.faultDue (·.fault f)
      | .error (.met f v b a) => s1.faultDue (State.fetchFault f v b a)
      | .error (.stall m) => .next (s1.queueMiss c m)
      | .ok (b, s2) => match decode b with
        | .ok (i, _) => exec i (s1.afterFetch s2)
        | .error _ => execIllegalEncoding (BitVec.ofNat 32 (leNat b)) (s1.afterFetch s2)

/-! ## The moves that are due -/

/-- A string may issue: it runs, nothing holds it, and it belongs to no launch, or its VF is on the core; once SWITCH is told, only monitor
code goes on (R376, R380, R381). -/
def canIssue (co : Core) (k : Nat) (s : State) : Bool :=
  let t := co.str k
  t.run == .running && !t.held && (match t.launch.bind s.launch with
    | none => true
    | some l => co.vf == some l.vf && (match co.sw with | .none => true | .told _ _ _ => t.lvl != 0 | _ => false))

/-- A free string has a record to select (R165). -/
def canSelect (co : Core) (k : Nat) : Bool := (co.str k).run == .free && co.records.any (·.runnable) && co.sw == .none

/-- Moves of the accesses of string `k`. -/
def strMoves (c k : Nat) (co : Core) (t : Str) : List Turn :=
  let stores := (upTo t.sb.length).flatMap (fun i => match t.sb[i]? with
    | some x => (upTo x.evs.length).filterMap (fun j => if !storeReady c t i j then none else match x.evs[j]? with
      | some e => (match e.place with
        | .notice _ => some (Turn.noticePost c k i)
        | _ => some (Turn.storeAck c k i j))
      | none => none)
    | none => [])
  let loads := (upTo t.lds.length).flatMap (fun i => match t.lds[i]? with
    | some l => (upTo l.evs.length).filterMap (fun j => match l.evs[j]? with
      | some e => if ((placeFlat e.place).isSome || l.unsent.contains e) && !loadWaits c t i j l e then some (Turn.loadResponse c k i j) else none
      | none => none)
    | none => [])
  let streams := (upTo 4).flatMap (fun n => match t.st.toList[n]? with
    | some (some x) =>
      let mine := t.pushList.filter (fun p => p.1 == n)
      ((upTo 16).filter (fun i => eltWanted co k n x (x.pos + i))).map (Turn.streamElementRead c k n)
        ++ ((upTo mine.length).filter (fun ix => match mine[ix]? with
            | some (_, i, j) => (match x.pushes[i]?, x.pushes[i]?.bind (fun p => p.evs[j]?) with
              | some p, some e => pushReady c x i j p e && (t.releases x.after || t.wantsFlush x.after)
              | _, _ => false)
            | none => false)).map (Turn.streamPush c k n)
    | _ => [])
  let enq := match t.wait with
    | .enq _ _ _ => [Turn.enqAppend c k]
    | _ => []
  stores ++ loads ++ streams ++ enq

/-- Moves of an engine: the completion of the command at the head, and the accesses and the step that may come now. -/
def engMoves (c : Nat) (e : Engine) (run : Turn) (s : State) : List Turn :=
  (match s.engQueue c e with
    | cmd :: _ => if (s.core c).settledCmd e cmd then [.completion c e] else []
    | [] => []) ++ (if engineDue s c e then [run] else [])

/-- Moves of a core; the launch units, which stand behind the cores, have theirs elsewhere. -/
def coreMoves (c : Nat) (co : Core) (s : State) : List Turn :=
  if 4096 < c || (decide (c < 4096) && (!s.dev.powered || co.wear.state == .retired)) then []
  else
    (strNums.filter (fun k => canIssue co k s)).map (Turn.issue c)
      ++ (strNums.filter (canSelect co)).map (Turn.recordSelection c)
      ++ co.strs.flatMap (fun p => strMoves c p.1 co p.2)
      ++ (if c = 4096 then engMoves c .crypto .crypto s else engMoves c .mxu (.mxu c) s ++ engMoves c .bce (.bce c) s)
      ++ (if co.misses.any (fun m => match m with | .tlb _ _ => true | _ => false) then [.tlbWalk c] else [])
      ++ (if co.misses.any co.mayRead then [.plbSearch c] else []) ++ (if co.misses.any Miss.isWrite then [.writeAnswer c] else [])
      ++ (match co.hold with
          | some h => if !h.removed then [.hold c] else if !h.acked then [.holdAcknowledge c] else []
          | none => [])
      ++ (match co.sw with | .told _ _ _ => [.switch c] | .go _ => [.go c] | _ => [])
      ++ (if co.monFault.isSome then [.monitorFaultReport c] else [])

/-- Moves of a partition's units. -/
def partMoves (p : Nat) (q : Partition) (s : State) : List Turn :=
  (if q.rights.queue.isEmpty then []
    else if q.rights.written then [.release p] else if q.rights.validated then [.rightsTableWrite p] else [.rightsRequest p])
    ++ (upTo (s.endings p).length).map (Turn.launchEnd p)
    ++ (match q.rot with | .restoring _ => [.quantumStart p] | _ => [])
    ++ (if q.notices.isEmpty then [] else [.poisonNotice p])
    ++ (if q.noticeDue.isEmpty then [] else [.noticeTrap p])

/-- Moves of a launch: its decision goes on when the read that it waits for has been answered, and the blocks of a commit are switched one by
one before its record is written (R155, R170). -/
def launchMoves (i : Nat) (l : Launch) (s : State) : List Turn :=
  match l.phase with
  | .queued => if l.reading && !(s.core (4100 + l.part)).misses.any (fun m => m.str == 8 + l.vf) then [.decide l.vf] else []
  | .admitted => [.startMessage i]
  | .running => if l.replayDue then [.replay i] else []
  | .ending _ _ _ =>
    let blocks := if l.commitKey = 0 then [] else s.redirects.filter (fun r => r.1 == l.commitKey)
    if !s.mayComplete i l then []
    else if blocks.isEmpty then [.completionRecord i] else blocks.map (fun r => .commitBlock r.1 r.2)

/-- Every move that is due. -/
def moves (s : State) : List Turn :=
  (if s.inputs.isEmpty then [] else [.input])
    ++ s.cores.flatMap (fun c => coreMoves c.1 c.2 s) ++ s.switched.map (fun r => Turn.copyBack r.1 r.2)
    ++ s.parts.flatMap (fun p => partMoves p.1 p.2 s) ++ s.launches.flatMap (fun l => launchMoves l.1 l.2 s)
    ++ ((upTo s.net.length).filter (fun i => match s.net[i]? with | some f => s.arrives f | none => false)).map Turn.arrival
    ++ (s.vfs.filter (fun v => !v.2.entries.isEmpty)).map (fun v => Turn.eventEntryWrite v.1)

/-! ## Making a move -/

/-- The next event from outside is taken; an instruction word is no such event. -/
def takeInput (s : State) : Out1 :=
  match s.inputs with
  | [] => .next s
  | e :: rest =>
    let s1 := { s with inputs := rest }
    match encode e, e with
    | some _, _ => .next s1
    | none, .illegalEncoding _ => .next s1
    | none, e => exec e s1

/-- Makes a move. -/
def makeMove (t : Turn) (s : State) : Out1 :=
  match t with
  | .issue c k => issue c k s
  | .input => takeInput s
  | .enqAppend c k => execEnqAppend c k s
  | .mxu c => .next (engineMove c .mxu s)
  | .bce c => .next (engineMove c .bce s)
  | .crypto => .next (engineMove 4096 .crypto s)
  | .completion c e => execEngineCompletion c e s
  | .writeAnswer c => .next (s.writeAnswered c)
  | .storeAck c k ix ev => execStoreAcknowledgement c k ix ev s
  | .noticePost c k ix => execNoticePost c k ix s
  | .loadResponse c k ix ev => execLoadResponse c k ix ev .home s
  | .tlbWalk c => execTlbWalk c s
  | .plbSearch c => execPlbSearch c s
  | .rightsRequest p => execRightsRequest p s
  | .hold c => execHold c s
  | .holdAcknowledge c => execHoldAcknowledge c s
  | .rightsTableWrite p => execRightsTableWrite p s
  | .release p => execRelease p s
  | .arrival ix => match s.net[ix]? with
    | some f => if f.msg.arm.isSome then execArmArrival ix true s else execMessageArrival ix true s
    | none => .next s
  | .recordSelection c k => execRecordSelection c k s
  | .replay l => execReplay l s
  | .streamElementRead c k st ix => execStreamElementRead c k st ix s
  | .streamPush c k st ix => execStreamPushPerform c k st ix s
  | .decide f => .next (s.decideQueue f)
  | .commitBlock key b => .next (s.commitBlock key b)
  | .copyBack key b => .next (if s.switched.contains (key, b) then s.copyBack key b else s)
  | .startMessage l => execStartMessage l s
  | .launchEnd p ix => execLaunchEnd p ix s
  | .completionRecord l => execCompletionRecordWrite l s
  | .switch c => execSwitch c s
  | .go c => execGo c s
  | .quantumStart p => execQuantumStart p s
  | .eventEntryWrite f => execEventEntryWrite f true s
  | .poisonNotice p => execPoisonNotice p s
  | .noticeTrap p => execNoticeTrap p s
  | .monitorFaultReport c => execMonitorFaultReport c s

/-- The move that is made next: the one already chosen, or one of those that are due, which a free value picks where there are
several; none if nothing is due. -/
def nextMove (s : State) : Option Turn :=
  match s.turn with
  | some t => some t
  | none => match moves s with
    | [] => none
    | [t] => some t
    | l => l[Config.choice s.tick % l.length]?

/-- One step: the next move is made; with none due the package only waits. -/
def step (s : State) : Host.Outcome State Fault Refusal :=
  match nextMove s with
  | some t => makeMove t { s with turn := none, tick := s.tick + 1 }
  | none => .next { s with tick := s.tick + 1 }

/-! ## A given word as the next instruction -/

/-- Where `withFetchWord` lays the word: the monitor's first instruction, in a home granule at physical address 0 (R344). -/
def fetchFlat : Nat := 0x1000200

/-- The leaf of the home window, as the TLB holds it (R34, R43). -/
def fetchTlb : TlbEntry := { va := 0x1FFFFC000000, size := 0x4000000, target := 0, host := false, home := false, hcl := 0 }

/-- The string that fetches it: the start-up monitor string of R344. -/
def fetchStr (t : Str) (pkg : Nat) : Str :=
  { t with run := .running, lvl := 1, pc := firstEntry pkg, act := none, lds := [], wait := .none, inHand := [], routed := false }

/-- The core of that string: it belongs to partition 0 and holds the translation and the rights of the fetch. -/
def fetchCore (co : Core) (pkg : Nat) : Core :=
  { co.setStr 0 (fetchStr (co.str 0) pkg) with part := some 0, tlb := [fetchTlb], plb := [{ owner := 0, entry := ownerZero pkg }] }

/-- The state in which the very next step runs the instruction of word `w`: string 0 of core 0 stands at it in monitor mode, as the
monitor of partition 0 begins (R344; log 2). -/
def State.withFetchWord (s : State) (nbits w : Nat) : State :=
  let s1 := s.setCore 0 (fetchCore (s.core 0) s.pkg)
  let clean (q : Partition) : Partition := { q with spans := q.spans.filter (fun x => !overlaps x.pa x.len fetchFlat 4) }
  { s1 with turn := some (.issue 0 0), mem := s1.mem.putBytes fetchFlat (bytesOfWord (w % 2 ^ nbits)),
            bad := clearMarks s1.bad fetchFlat 4, switched := s1.switched.filter (fun r => r.2 != fetchFlat / 4096),
            parts := s1.parts.map (fun p => (p.1, clean p.2)) }

end Sys2Proof.Machine
end

