-- ==== Sys2Proof/Safety.lean ====
section
/-! DEFINITION. What a safe step is: it goes on, and the state keeps its form. -/

namespace Sys2Proof.Machine

/-- RDY and FAIL are never both 1 (R449). -/
def Device.sound (d : Device) : Bool := !(d.rdy && d.fail)

/-- The form of a state: its memory is in canonical form, and its device word is one that R449 allows. -/
structure State.Inv (s : State) : Prop where
  mem : s.mem.wf = true
  device : s.dev.sound = true

/-- Levels that a string may have: level 2 exists on the root core alone, and 3 nowhere (R338). -/
def Str.levelsOk (root : Bool) (t : Str) : Bool := decide (t.lvl.toNat ≤ 1 + b2n root) && decide (t.pp.toNat ≤ 1 + b2n root)

/-- Every string of a core, and every one that it has saved, has such a level. -/
def Core.levelsOk (c : Nat) (co : Core) : Bool :=
  co.strs.all (fun k => k.2.levelsOk (c == 4096)) && co.vfs.all (fun v => match v.2.saved with
    | some b => b.strs.all (fun k => k.2.levelsOk (c == 4096))
    | none => true)

/-- So it is on every core. -/
def State.LevelsOk (s : State) : Prop := ∀ x ∈ s.cores, x.2.levelsOk x.1 = true

/-- The package goes on: a step answers a next state. -/
def goesOn (s : State) : Prop := ∃ t, step s = .next t

/-- A step that keeps the form of the state. -/
def safeStep (s : State) : Prop := ∀ t, step s = .next t → t.Inv

end Sys2Proof.Machine
end

