-- ==== Sys2Proof/Certificates/Slice0/Obligations.lean ====
section
/-! DEFINITION. The statements about the model, one for each group of rules; the shared words they are said in come first. -/

open Sys2Proof Sys2Proof.Machine

namespace Sys2Proof.Claims

/-- The instruction completes: the executing string becomes `t` and the instruction retires (see `RegistersAndRetire` for
what retiring leaves alone). -/
def Gives (i : Instr) (s : State) (t : Str) : Prop := exec i s = .next (s.setCurStr t).retire

/-- The same, with control going to `pc`. -/
def GoesTo (i : Instr) (s : State) (t : Str) (pc : Word) : Prop := exec i s = .next ((s.setCurStr t).retireTo pc)

/-- The instruction takes a fault: code, detail and value. -/
def Faults (i : Instr) (s : State) (code detail : Nat) (val : Word) : Prop :=
  exec i s = .next (s.fault { code := code, detail := detail, val := val })

/-- No load of the executing string is outstanding (log 13). -/
def Quiet (s : State) : Prop := s.curStr.lds = []

/-- No outstanding load of the executing string will fault, and none writes one of the registers, X1 to X31 being 1 to 31 and V0 to
V31 being 32 to 63: an instruction that names no others runs behind them (R275; log 13). -/
def Ready (s : State) (regs : List Nat) : Prop := ∀ l ∈ s.curStr.lds, l.sure = true ∧ ∀ r ∈ regs, r ∉ l.dst.regs

end Sys2Proof.Claims

open Sys2Proof.Claims

/-! ## Encoding -/

/-- R231, R253: the six worked encodings of the specification and its three words that name no instruction. -/
def Obligations.WorkedEncodings : Prop :=
  decodeWord 0x6CA60010 = .ok (.ldD 5 6 0x10)
    ∧ decodeWord 0x90A63480 = .ok (.ldAcq 5 6 .d .pkg 0)
    ∧ decodeWord 0xD48110C0 = .ok (.vfmaF32 4 1 2 3 .dyn 0)
    ∧ decodeWord 0xC5002202 = .ok (.vaddFp .f32 8 0 4 2 .rtz)
    ∧ decodeWord 0x9C004200 = .ok (.fence 4 .die)
    ∧ decodeWord 0xB8A96003 = .ok (.enq .bce 10 11 3)
    ∧ (∀ i, decodeWord 0x00000000 ≠ .ok i) ∧ (∀ i, decodeWord 0x90000000 ≠ .ok i) ∧ (∀ i, decodeWord 0xFFFFFFFF ≠ .ok i)

/-- Every well-formed instruction that has a word is read back from it, with every operand. -/
def Obligations.DecodeOfEncode : Prop :=
  ∀ (i : Instr) (w : Nat), WellFormed i = true → encode i = some w → w < 2 ^ 32 ∧ decodeWord w = .ok i

/-- A word that names an instruction is the word of that instruction: no bit of it is dropped, and it is well formed; its opcode is
none of the two that R253 keeps free, and its memory kind or rounding field none of the values R253 reserves. -/
def Obligations.EncodeOfDecode : Prop :=
  ∀ (w : Nat) (i : Instr), w < 2 ^ 32 → decodeWord w = .ok i →
    encode i = some w ∧ WellFormed i = true ∧ bitsAt w 26 6 ≠ 0 ∧ bitsAt w 26 6 ≠ 0x1F
      ∧ (bitsAt w 26 6 = 0x0E → bitsAt w 3 3 ≤ 4) ∧ (0x34 ≤ bitsAt w 26 6 → bitsAt w 3 3 ≤ 4)
      ∧ (bitsAt w 26 6 = 0x27 → bitsAt w 9 3 ≤ 4)

/-! ## A step -/

/-- R253, R256, R281, R376: where string `k` of core `c` is chosen to issue, runs, and is held neither by the rights unit nor by an atomic to a
host page, and its fetch gives bytes: if they decode, the step is that instruction, executed by that string on the state the fetch leaves; if
they name no instruction, it raises ILLEGAL, with no load outstanding. What the step adds to the fetch: the string notes it as counted, so
that a fetch made again for the same instruction counts in MISROUTE no second time (R73). That the state names the agent that moves next
is the model's own (log 1). -/
def Obligations.StepRunsDecoded : Prop :=
  ∀ (s s2 : State) (c k : Nat) (b : List Byte),
    let s1 : State := { s with turn := none, tick := s.tick + 1, cur := (c, k) }
    s.turn = some (.issue c k) → c ≤ 4096 → k < 4 → (s.str c k).run = .running → (s.str c k).inRights = false →
    (s.str c k).hostAtomic = false → fetch s1 = .ok (b, s2) →
    ∃ u, (∀ i r, decode b = .ok (i, r) → step s = exec i u)
      ∧ (∀ e, decode b = .error e → s2.curStr.lds = [] → step s = .next (u.fault { code := 0x01, detail := 0, val := 0 }))
      ∧ ((s.str c k).routed = false → u = s2.setCurStr { s2.curStr with routed := true })
      ∧ ((s.str c k).routed = true → ∀ p, (s.core c).part = some p → (u.part p).meters[14] = (s.part p).meters[14]
          ∧ u = { s2 with parts := u.parts } ∧ (∀ q, q ≠ p → u.part q = s2.part q)
          ∧ ∃ m, u.part p = { s2.part p with meters := m })

/-- The state at power-on has the form of a state, and its strings have legal levels. -/
def Obligations.ResetHasForm : Prop := State.reset.Inv ∧ State.reset.LevelsOk

/-- R338: every step keeps the levels: level 2 stands in a string of the root core alone, as its level or as the one that a return restores,
and level 3 nowhere; the strings that a core has saved are no exception. -/
def Obligations.StepKeepsLevels : Prop := ∀ s t : State, s.LevelsOk → step s = .next t → t.LevelsOk

/-- Every step keeps the form: memory stays in canonical form, and RDY and FAIL are never both set (R449). -/
def Obligations.StepKeepsForm : Prop := ∀ s t : State, s.Inv → step s = .next t → t.Inv

/-- A step stops only where a chosen move names a core or a string that the package does not have (R13, R16). -/
def Obligations.StepGoesOn : Prop :=
  ∀ s : State, (∀ c k, s.turn = some (.issue c k) → c ≤ 4096 ∧ k < 4) → ∃ t, step s = .next t

/-- R255, R343: a register keeps what was written to it until it is written again, in the bank of the string's mode; X0 reads zero, and a
write to it changes nothing. What an instruction that retires leaves alone, beside what its own effect says: memory, marks, every other string, launches,
functions, messages in flight, the host link and the device; of its own string all but the pc, and of a partition all but its
meters (R255, R256, R337, R436). -/
def Obligations.RegistersAndRetire : Prop :=
  (∀ (t : Str) (r q : XReg) (v : Word),
    t.getX 0 = 0 ∧ t.setX 0 v = t ∧ (r ≠ 0 → (t.setX r v).getX r = v) ∧ (q ≠ r → (t.setX r v).getX q = t.getX q)
      ∧ (t.lvl = 0 → (t.setX r v).xm = t.xm) ∧ (t.lvl ≠ 0 → (t.setX r v).x = t.x))
  ∧ ∀ (s : State) (pc : Word),
    let t := s.retireTo pc
    t.curStr = { s.curStr with pc := pc, inHand := [], wait := .none, routed := false }
      ∧ (∀ c k, (c, k) ≠ s.cur → t.str c k = s.str c k)
      ∧ (∀ a, t.mem.get a = s.mem.get a) ∧ t.bad = s.bad ∧ t.badBanks = s.badBanks ∧ t.redirects = s.redirects ∧ t.copyAt = s.copyAt
      ∧ t.switched = s.switched ∧ t.rows = s.rows ∧ t.ctrs = s.ctrs ∧ t.seqs = s.seqs ∧ t.counts = s.counts
      ∧ t.vfs = s.vfs ∧ t.launches = s.launches ∧ t.net = s.net ∧ t.ats = s.ats ∧ t.hostReqs = s.hostReqs ∧ t.out = s.out
      ∧ t.dev = s.dev ∧ t.root = s.root ∧ t.inputs = s.inputs ∧ t.cur = s.cur
      ∧ (∀ c, let x := t.core c; let y := s.core c
          x.part = y.part ∧ x.vf = y.vf ∧ x.records = y.records ∧ x.rings = y.rings ∧ x.bce = y.bce ∧ x.mxu = y.mxu
            ∧ x.tlb = y.tlb ∧ x.plb = y.plb ∧ x.held = y.held ∧ x.icache = y.icache ∧ x.niStop = y.niStop ∧ x.hold = y.hold
            ∧ x.mentry = y.mentry ∧ x.sw = y.sw
            ∧ x.monFault = y.monFault)
      ∧ (∀ p, let x := t.part p; let y := s.part p
          x = { y with meters := x.meters, wearSub := x.wearSub })

/-! ## Integer registers -/

/-- R259, R260: what each integer register operation writes, said by what the result is and not by how it is computed; division by
zero and the quotient that overflows. -/
def Obligations.IntegerResults : Prop :=
  ∀ (s : State) (rd ra rb : XReg) (sh : BitVec 6), Ready s [rd.toNat, ra.toNat, rb.toNat] →
    let t := s.curStr
    let a := t.getX ra
    let b := t.getX rb
    let gives (i : Instr) (v : Word) : Prop := Gives i s (t.setX rd v)
    gives (.add rd ra rb) (a + b) ∧ gives (.sub rd ra rb) (a - b)
      ∧ gives (.and rd ra rb) (a &&& b) ∧ gives (.or rd ra rb) (a ||| b) ∧ gives (.xor rd ra rb) (a ^^^ b)
      ∧ gives (.andn rd ra rb) (a &&& ~~~b)
      ∧ gives (.sll rd ra rb) (a <<< (b.toNat % 64)) ∧ gives (.srl rd ra rb) (a >>> (b.toNat % 64))
      ∧ gives (.sra rd ra rb) (a.sshiftRight (b.toNat % 64))
      ∧ gives (.slli rd ra sh) (a <<< sh.toNat) ∧ gives (.srli rd ra sh) (a >>> sh.toNat)
      ∧ gives (.srai rd ra sh) (a.sshiftRight sh.toNat)
      ∧ gives (.slt rd ra rb) (if a.toInt < b.toInt then 1 else 0) ∧ gives (.sltu rd ra rb) (if a.toNat < b.toNat then 1 else 0)
      ∧ gives (.min rd ra rb) (if a.toInt ≤ b.toInt then a else b) ∧ gives (.max rd ra rb) (if a.toInt ≤ b.toInt then b else a)
      ∧ gives (.minu rd ra rb) (if a.toNat ≤ b.toNat then a else b) ∧ gives (.maxu rd ra rb) (if a.toNat ≤ b.toNat then b else a)
      ∧ gives (.mul rd ra rb) (BitVec.ofNat 64 (a.toNat * b.toNat))
      ∧ gives (.mulh rd ra rb) (BitVec.ofInt 64 (a.toInt * b.toInt / 2 ^ 64))
      ∧ gives (.mulhu rd ra rb) (BitVec.ofNat 64 (a.toNat * b.toNat / 2 ^ 64))
      ∧ (b ≠ 0 → ¬(a.toInt = -2 ^ 63 ∧ b.toInt = -1) →
          gives (.div rd ra rb) (BitVec.ofInt 64 (a.toInt.tdiv b.toInt))
            ∧ gives (.rem rd ra rb) (BitVec.ofInt 64 (a.toInt - b.toInt * a.toInt.tdiv b.toInt)))
      ∧ (b ≠ 0 → gives (.divu rd ra rb) (BitVec.ofNat 64 (a.toNat / b.toNat))
            ∧ gives (.remu rd ra rb) (BitVec.ofNat 64 (a.toNat - b.toNat * (a.toNat / b.toNat))))
      ∧ (∃ n ≤ 64, gives (.clz rd ra) (BitVec.ofNat 64 n) ∧ (∀ i < 64, 64 ≤ i + n → a.getLsbD i = false)
          ∧ (n < 64 → a.getLsbD (63 - n) = true))
      ∧ (∃ n ≤ 64, gives (.ctz rd ra) (BitVec.ofNat 64 n) ∧ (∀ i < n, a.getLsbD i = false) ∧ (n < 64 → a.getLsbD n = true))
      ∧ gives (.popc rd ra) (BitVec.ofNat 64 ((List.range 64).countP a.getLsbD))
      ∧ (b = 0 → gives (.rem rd ra rb) 0 ∧ gives (.remu rd ra rb) 0
        ∧ (a = 0 → gives (.div rd ra rb) 0 ∧ gives (.divu rd ra rb) 0)
        ∧ (a ≠ 0 → gives (.divu rd ra rb) 0xFFFFFFFFFFFFFFFF)
        ∧ (0 < a.toInt → gives (.div rd ra rb) 0x7FFFFFFFFFFFFFFF)
        ∧ (a.toInt < 0 → gives (.div rd ra rb) 0x8000000000000000))
      ∧ (a.toInt = -2 ^ 63 → b.toInt = -1 → gives (.div rd ra rb) 0x7FFFFFFFFFFFFFFF ∧ gives (.rem rd ra rb) 0)

/-- R261, R262, R263, R264: the immediate operations, constants, address arithmetic and colours. -/
def Obligations.ImmediateResults : Prop :=
  ∀ (s : State) (rd ra rb : XReg) (k : BitVec 2) (imm : BitVec 16), Ready s [rd.toNat, ra.toNat, rb.toNat] →
    let t := s.curStr
    let a := t.getX ra
    let gives (i : Instr) (v : Word) : Prop := Gives i s (t.setX rd v)
    gives (.addi rd ra imm) (a + BitVec.ofInt 64 imm.toInt)
      ∧ gives (.slti rd ra imm) (if a.toInt < imm.toInt then 1 else 0)
      ∧ gives (.sltiu rd ra imm) (if a.toNat < (imm.signExtend 64).toNat then 1 else 0)
      ∧ gives (.andi rd ra imm) (a &&& BitVec.ofNat 64 imm.toNat) ∧ gives (.ori rd ra imm) (a ||| BitVec.ofNat 64 imm.toNat)
      ∧ gives (.xori rd ra imm) (a ^^^ BitVec.ofNat 64 imm.toNat)
      ∧ gives (.lis rd k imm) (BitVec.ofInt 64 (imm.toInt * 2 ^ (16 * k.toNat)))
      ∧ (∃ v : Word, gives (.lih rd k imm) v
          ∧ (∀ i < 64, v.getLsbD i = if 16 * k.toNat ≤ i ∧ i < 16 * k.toNat + 16 then imm.getLsbD (i - 16 * k.toNat)
              else (t.getX rd).getLsbD i))
      ∧ (∃ v : Word, gives (.lea rd ra imm) v ∧ v.toNat / 2 ^ 46 = a.toNat / 2 ^ 46
          ∧ ((v.toNat % 2 ^ 46 : Nat) : Int) = (((a.toNat % 2 ^ 46 : Nat) : Int) + imm.toInt) % 2 ^ 46)
      ∧ gives (.colg rd ra) (BitVec.ofNat 64 (a.toNat / 2 ^ 56))
      ∧ gives (.cols rd ra rb) (BitVec.ofNat 64 ((t.getX rb).toNat % 256 * 2 ^ 56 + a.toNat % 2 ^ 56))

/-- R271, R272: where control goes, and the link. -/
def Obligations.ControlTransfers : Prop :=
  ∀ (s : State) (rd ra rb : XReg) (off : BitVec 16) (off21 : BitVec 21) (imm : BitVec 16), Ready s [rd.toNat, ra.toNat, rb.toNat] →
    let t := s.curStr
    let a := t.getX ra
    let b := t.getX rb
    let seq := nextPtr t.pc 4
    let far := nextPtr t.pc (off.toInt * 4)
    GoesTo (.beq ra rb off) s t (if a = b then far else seq) ∧ GoesTo (.bne ra rb off) s t (if a ≠ b then far else seq)
      ∧ GoesTo (.blt ra rb off) s t (if a.toInt < b.toInt then far else seq)
      ∧ GoesTo (.bge ra rb off) s t (if b.toInt ≤ a.toInt then far else seq)
      ∧ GoesTo (.bltu ra rb off) s t (if a.toNat < b.toNat then far else seq)
      ∧ GoesTo (.bgeu ra rb off) s t (if b.toNat ≤ a.toNat then far else seq)
      ∧ GoesTo (.jal rd off21) s (t.setX rd seq) (nextPtr t.pc (off21.toInt * 4))
      ∧ (let d := nextPtr a imm.toInt;
          (d.toNat % 4 = 0 → GoesTo (.jalr rd ra imm) s (t.setX rd seq) d)
            ∧ (d.toNat % 4 ≠ 0 → Quiet s → Faults (.jalr rd ra imm) s 0x03 0 0))

/-! ## Scalar floating point -/

namespace Sys2Proof.Claims

/-- Format of a scalar size (R236). -/
def fmtOf : FSz → Fmt
  | .s => fp32
  | .d => fp64

/-- The string with flags of coefficient 0 ORed into FFLG (R198). -/
def withFlags (t : Str) (f : Nat) : Str := { t with fflg := t.fflg ||| BitVec.ofNat 5 f }

/-- The string with a scalar floating-point result in `rd`, zero-extended, and its flags ORed into FFLG (R198, R266). -/
def withFp (t : Str) (rd : XReg) (r : Nat × Nat) : Str :=
  withFlags (t.setX rd (BitVec.ofNat 64 r.1)) r.2

/-- Rounding mode of an instruction: VRND where it says DYN (R194). -/
def modeOf (t : Str) : Rm → BitVec 2
  | .dyn => t.vrnd
  | .rne => 0
  | .rtz => 1
  | .rdn => 2
  | .rup => 3

end Sys2Proof.Claims

/-- R266, R267, R269, R270, R320: operands come from the low bits of their registers, the result is that of the one rounding function
of its operation, zero-extended, and its flags are ORed into FFLG. -/
def Obligations.ScalarFpResults : Prop :=
  ∀ (s : State) (rd ra rb rc : XReg) (rm : Rm) (sz : FSz),
    Ready s [rd.toNat, ra.toNat, rb.toNat, rc.toNat, (ra + 1).toNat, (ra + 2).toNat, (ra + 3).toNat] →
    let t := s.curStr
    let f := fmtOf sz
    let g := fmtOf (match sz with | .s => .d | .d => .s)
    let m := modeOf t rm
    let v (r : XReg) : Nat := (t.getX r).toNat % 2 ^ f.w
    let gives (i : Instr) (r : Nat × Nat) : Prop := Gives i s (withFp t rd r)
    gives (.fadd rd ra rb rm sz) (fpAdd f m (v ra) (v rb)) ∧ gives (.fsub rd ra rb rm sz) (fpSub f m (v ra) (v rb))
      ∧ gives (.fmul rd ra rb rm sz) (fpMul f m (v ra) (v rb)) ∧ gives (.fdiv rd ra rb rm sz) (fpDiv f m (v ra) (v rb))
      ∧ gives (.fsqrt rd ra rm sz) (fpSqrt f m (v ra)) ∧ gives (.ffma rd ra rb rc rm sz) (fpFma f m false false (v ra) (v rb) (v rc))
      ∧ gives (.fmin rd ra rb sz) (fpMin f (v ra) (v rb)) ∧ gives (.fmax rd ra rb sz) (fpMax f (v ra) (v rb))
      ∧ (let c (k : Cond) : Nat × Nat := (if (fpCmp f k (v ra) (v rb)).1 then 1 else 0, (fpCmp f k (v ra) (v rb)).2);
          gives (.feq rd ra rb sz) (c .eq) ∧ gives (.flt rd ra rb sz) (c .lt) ∧ gives (.fle rd ra rb sz) (c .le))
      ∧ Gives (.fclass rd ra sz) s (t.setX rd (BitVec.ofNat 64 (fpClass f (v ra))))
      ∧ gives (.fcvtFp rd ra rm sz) (fpConv g f m ((t.getX ra).toNat % 2 ^ g.w))
      ∧ gives (.fcvtFromI64 rd ra rm sz) (fpOfInt f m (t.getX ra).toInt)
      ∧ gives (.fcvtFromU64 rd ra rm sz) (fpOfInt f m (t.getX ra).toNat)
      ∧ (let r := fpToInt f m (-2 ^ 63) (2 ^ 63 - 1) (v ra);
          Gives (.fcvtToI64 rd ra rm sz) s (withFlags (t.setX rd (BitVec.ofInt 64 r.1)) r.2))
      ∧ (let r := fpToInt f m 0 (2 ^ 64 - 1) (v ra);
          Gives (.fcvtToU64 rd ra rm sz) s (withFlags (t.setX rd (BitVec.ofInt 64 r.1)) r.2))
      ∧ gives (.fxcvt rd ra rm) (fxToFp m (accInt t ra) (handlerW s))

/-- R193: an operation with a NaN operand returns the canonical NaN of its format, and sets NV where an operand is a signalling
NaN (for a fused product, 0 × ∞ sets it as well, R270); a comparison with a NaN is false, except "not equal". -/
def Obligations.NaNOperands : Prop :=
  ∀ (f : Fmt) (m : BitVec 2) (a b c : Nat), f = fp64 ∨ f = fp32 ∨ f = bf16 →
    let nv (l : List Nat) : Nat := if l.any f.isSig then 16 else 0
    (f.isNan a ∨ f.isNan b →
        fpAdd f m a b = (f.nan, nv [a, b]) ∧ fpSub f m a b = (f.nan, nv [a, b]) ∧ fpMul f m a b = (f.nan, nv [a, b])
          ∧ fpDiv f m a b = (f.nan, nv [a, b]) ∧ fpMin f a b = (f.nan, nv [a, b]) ∧ fpMax f a b = (f.nan, nv [a, b])
          ∧ fpCmp f .eq a b = (false, nv [a, b]) ∧ fpCmp f .lt a b = (false, nv [a, b]) ∧ fpCmp f .le a b = (false, nv [a, b])
          ∧ fpCmp f .ne a b = (true, nv [a, b])
          ∧ (fpFma f m false false a b c).1 = f.nan)
      ∧ (f.isNan a → fpSqrt f m a = (f.nan, nv [a]))
      ∧ (f.isNan c → (fpFma f m false false a b c).1 = f.nan)

/-- R194, R195: a positive value n / d rounded to a multiple of 2^e: to the nearest, ties to even; toward zero; down; up, where
`neg` is the sign of the result; and it is inexact exactly when it changes. -/
def Obligations.RoundingToAGrid : Prop :=
  ∀ (neg : Bool) (n d : Nat) (e : Int), 0 < d →
    let x : ℚ := (n : ℚ) / d / (2 : ℚ) ^ e
    let r (m : BitVec 2) : Nat × Bool := roundGrid m neg false n d 0 e
    (|((r 0).1 : ℚ) - x| ≤ 1 / 2 ∧ (|((r 0).1 : ℚ) - x| = 1 / 2 → (r 0).1 % 2 = 0))
      ∧ (((r 1).1 : ℚ) ≤ x ∧ x < (r 1).1 + 1)
      ∧ (if neg then x ≤ (r 2).1 ∧ ((r 2).1 : ℚ) < x + 1 else ((r 2).1 : ℚ) ≤ x ∧ x < (r 2).1 + 1)
      ∧ (if neg then ((r 3).1 : ℚ) ≤ x ∧ x < (r 3).1 + 1 else x ≤ (r 3).1 ∧ ((r 3).1 : ℚ) < x + 1)
      ∧ (∀ m, (r m).2 = true ↔ ((r 1).1 : ℚ) ≠ x)

/-! ## Faults, traps and returning -/

namespace Sys2Proof.Claims

/-- TRAPC by R341. -/
def trapWord (kind detail code : Nat) : BitVec 18 := BitVec.ofNat 18 (kind * 2 ^ 16 + detail * 2 ^ 8 + code)

/-- `u` is `t` as a trap to the monitor leaves it (R341, R343): cause, value and address are saved, the level becomes 1 and the old
one is kept in pp, control is at MENTRY, and every register, flag, accumulator, stream and store is as it was. -/
def Trapped (t u : Str) (mentry : Word) (kind detail code : Nat) (val pc : Word) : Prop :=
  u.trapc = trapWord kind detail code ∧ u.trapv = val ∧ u.trappc = pc ∧ u.pp = t.lvl ∧ u.lvl = 1 ∧ u.pc = mentry
    ∧ u.run = t.run ∧ u.x = t.x ∧ u.xm = t.xm ∧ u.v = t.v ∧ u.m = t.m ∧ u.st = t.st ∧ u.owner = t.owner ∧ u.jord = t.jord
    ∧ u.fflg = t.fflg ∧ u.jflg = t.jflg ∧ u.vrnd = t.vrnd ∧ u.amax = t.amax ∧ u.mfmt = t.mfmt ∧ u.mscla = t.mscla
    ∧ u.mxinj = t.mxinj ∧ u.sb = t.sb ∧ u.lds = t.lds ∧ u.seq = t.seq

/-- `u` has what the journal of an activation of the executing string restores (R166, R169, R387): every line that it holds reads as before the
activation, every other byte as the string's own stores leave it, and the handler mask is what it was if the activation had changed it. -/
def Restored (s u : State) (a : Activation) : Prop :=
  let c := s.cur.1
  let line (n : Nat) : Nat := sliceFlat c (64 * n)
  (∀ n v i, (n, v) ∈ a.journal → (∀ w, (n, w) ∈ a.journal → w = v) → i < 64 →
      u.mem.get (line n + i) = BitVec.extractLsb' (8 * i) 8 v)
    ∧ (∀ x, (∀ j ∈ a.journal, x < line j.1 ∨ line j.1 + 64 ≤ x) → u.mem.get x = (s.drainOwn c s.cur.2).mem.get x)
    ∧ (∀ w o, a.mask0 = some w → s.curCore.on a.launch = some o → ∃ p, (u.core c).on a.launch = some p ∧ p.mask = w)

end Sys2Proof.Claims

/-- R341, R343, R387, R393: a synchronous fault of a user-mode string whose activation is not restartable traps to the monitor; what the
outbox still holds is dropped. A restartable activation that is not rolled back, because the fault is no POISON or UNCORR or because it has
been returned twice, traps too, once the journal has been restored. A fault in monitor mode stops the string and is reported to the root
core; it is not delivered through MENTRY. Memory and every other string are as they were. -/
def Obligations.FaultsTrap : Prop :=
  ∀ (s : State) (f : FaultInfo), let t := s.curStr
    t.run = .running →
    let s1 := s.fault f
    ((t.lvl ≠ 0 ∨ ∃ a, t.act = some a ∧ a.rst = false) → s1.mem = s.mem ∧ ∀ c k, (c, k) ≠ s.cur → s1.str c k = s.str c k)
      ∧ (∀ a, t.lvl = 0 → t.act = some a → a.rst = false →
          Trapped t s1.curStr s.curCore.mentry 0 f.detail f.code f.val t.pc
            ∧ s1.curStr.act = some { a with outbox := [], journal := [], jmarks := [], mask0 := none } ∧ s1.net = s.net)
      ∧ (∀ a, t.lvl = 0 → t.act = some a → a.rst = true → (2 ≤ a.trig.redo ∨ f.code ≠ 0x20 ∧ f.code ≠ 0x21) →
          Trapped { t with sb := [], st := t.st.map (fun x => x.map (fun x => { x with pushes := [] })) } s1.curStr s.curCore.mentry 0
              f.detail f.code f.val t.pc
            ∧ s1.curStr.act = some { a with outbox := [], journal := [], jmarks := [], mask0 := none } ∧ s1.net = s.net
            ∧ Restored s s1 a)
      ∧ (t.lvl ≠ 0 → s1.curStr = { t with run := .stopped, wait := .none, inHand := [] } ∧ s1.curCore.monFault = some f)

/-- R169, R387: a restartable activation that meets POISON or UNCORR, and has been returned fewer than two times, is rolled back:
there is no trap, the string is free, and its record, that now matches nothing, is runnable again with its count of returns one
higher; memory and the handler mask are as the journal restores them, where the record finds a slot. -/
def Obligations.PoisonRollsBack : Prop :=
  ∀ (s : State) (f : FaultInfo) (a : Activation), let t := s.curStr
    t.run = .running → t.lvl = 0 → t.act = some a → a.rst = true → (f.code = 0x20 ∨ f.code = 0x21) → a.trig.redo < 2 →
    let s1 := s.fault f
    s1.curStr.run = .free ∧ s1.curStr.act = none ∧ s1.curStr.lvl = 0 ∧ s1.curStr.trapc = 0 ∧ s1.net = s.net
      ∧ (∃ r ∈ s1.curCore.records, r.launch = a.trig.launch ∧ r.hid = a.trig.hid ∧ r.key = a.trig.key ∧ r.payload = a.trig.payload
          ∧ r.redo = a.trig.redo + 1 ∧ r.nc = true)
      ∧ ((s.curCore.records.filter (fun r => r.spill.isNone)).length < 256 → Restored s s1 a)

/-- R242, R254, R335, R341, R343, R345 to R347: TRAP and MCALL retire and trap, with kind 1 and 2, the value of their register and the address of the next
instruction. ERET restores the level from pp and the pc from TRAPPC; a TRAPPC that is no multiple of 4 faults with ALIGN; a return to
user mode in a string that holds no activation frees it, once its stores have performed. IDLE stalls its string, goes on when a record
of a launch on the core is runnable, and changes nothing while none is; an event addressed to the monitor of the core (`State.wakeIdle`)
has every string of it in IDLE go on. In user mode the monitor's instructions fault with PRIV. -/
def Obligations.MonitorInstructions : Prop :=
  ∀ (s : State) (ra rb : XReg), Quiet s → let t := s.curStr
    (∃ u, exec (.trap ra) s = .next u ∧ Trapped t u.curStr s.curCore.mentry 1 0 0 (t.getX ra) (nextPtr t.pc 4)
        ∧ u.mem = s.mem ∧ (t.lvl = 0 → ∀ a, t.act = some a → u.curStr.act = some { a with outbox := [] }))
      ∧ (∃ u, exec (.mcall ra) s = .next u ∧ Trapped t u.curStr s.curCore.mentry 2 0 0 (t.getX ra) (nextPtr t.pc 4)
        ∧ u.mem = s.mem ∧ u.curStr.act = t.act)
      ∧ (t.lvl ≠ 0 → t.trappc.toNat % 4 ≠ 0 → Faults .eret s 0x03 0 0)
      ∧ (t.lvl ≠ 0 → t.trappc.toNat % 4 = 0 → (t.pp ≠ 0 ∨ t.act ≠ none) →
          ∃ u, exec .eret s = .next u ∧ u.curStr = { t with lvl := t.pp, pp := 0, pc := t.trappc, inHand := [], wait := .none, routed := false }
            ∧ u.mem = s.mem)
      ∧ (t.lvl ≠ 0 → t.trappc.toNat % 4 = 0 → t.pp = 0 → t.act = none → t.drained →
          ∃ u, exec .eret s = .next u ∧ u.curStr.run = .free ∧ u.curStr.xm = t.xm ∧ u.mem = s.mem)
      ∧ (t.lvl = 0 → ∀ i ∈ [Instr.plbinv ra, .plbinvAll, .tlbinv ra rb, .eret, .idle], Faults i s 0x02 0 0)
      ∧ (t.lvl ≠ 0 → t.wait ≠ .idle → exec .idle s = .next (s.setCurStr { t with wait := .idle }))
      ∧ (t.lvl ≠ 0 → t.wait = .idle →
          (s.curCore.records.any (·.runnable) = true → Gives .idle s t)
            ∧ (s.curCore.records.any (·.runnable) = false → exec .idle s = .next s))
      ∧ (∀ c k, k < 4 → (s.str c k).wait = .idle →
          (s.wakeIdle c).str c k
            = { s.str c k with pc := nextPtr (s.str c k).pc 4, inHand := [], wait := .none, routed := false })

/-! ## Control registers -/

/-- R336, R341: a number that names no register raises ILLEGAL; an access that user mode may not make faults with PRIV before anything is
read or written, which is so of CSRS and CSRC with X0, that are reads, as well: user mode has no access to 0x050 to 0x053; a read that it may
make returns the register. In monitor mode a CSRW, CSRS or CSRC of a register that is read-only there completes as a read. -/
def Obligations.ControlRegisterReads : Prop :=
  ∀ (s : State) (rd ra : XReg) (n : BitVec 12), Quiet s →
    let saved : Prop := 0x050 ≤ n.toNat ∧ n.toNat ≤ 0x053
    (csrDefined n = false → Faults (.csrr rd n) s 0x01 0 0 ∧ Faults (.csrw rd ra n) s 0x01 0 0 ∧ Faults (.csrs rd ra n) s 0x01 0 0
        ∧ Faults (.csrc rd ra n) s 0x01 0 0)
      ∧ (s.curStr.lvl = 0 → saved → Faults (.csrr rd n) s 0x02 0 0 ∧ Faults (.csrw rd ra n) s 0x02 0 0
          ∧ Faults (.csrs rd ra n) s 0x02 0 0 ∧ Faults (.csrc rd ra n) s 0x02 0 0)
      ∧ (s.curStr.lvl = 0 → csrDefined n = true →
          n.toNat ∉ [0x010, 0x011, 0x012, 0x013, 0x014, 0x020, 0x021, 0x023] →
          Faults (.csrw rd ra n) s 0x02 0 0
            ∧ (ra ≠ 0 → Faults (.csrs rd ra n) s 0x02 0 0 ∧ Faults (.csrc rd ra n) s 0x02 0 0))
      ∧ (csrDefined n = true → s.curStr.lvl ≠ 0 ∨ ¬saved →
          let t := s.curStr.setX rd (s.csr n.toNat)
          Gives (.csrr rd n) s t ∧ Gives (.csrs rd 0 n) s t ∧ Gives (.csrc rd 0 n) s t)
      ∧ (s.curStr.lvl ≠ 0 →
          n.toNat ∈ [0x002, 0x003, 0x004, 0x005, 0x006, 0x007, 0x030, 0x031, 0x032, 0x033, 0x034, 0x035, 0x036, 0x037, 0x038, 0x039,
            0x040, 0x041, 0x042, 0x049, 0x061, 0x070, 0x071] →
          let t := s.curStr.setX rd (s.csr n.toNat)
          Gives (.csrw rd ra n) s t ∧ Gives (.csrs rd ra n) s t ∧ Gives (.csrc rd ra n) s t)

/-- R194, R196, R205, R281, R336 to R340: a write of a control register: the new value, by field, and the old one in `rd`. A reserved bit
ignores it. Of PRIV, pp is written, to a level that exists: that a write of another leaves it is the model's own (log 20). The CSRW of OPCNT
counts in it as it retires. MXCORR and OPCNT are those of the string's launch, AMOFB that of the VF on the core. -/
def Obligations.ControlRegisterWrites : Prop :=
  ∀ (s : State) (rd ra : XReg), Quiet s → let t := s.curStr
    let a := t.getX ra
    Gives (.csrw rd ra 0x010) s ({ t with jord := a.extractLsb' 0 2 }.setX rd (t.jord.zeroExtend 64))
      ∧ Gives (.csrw rd ra 0x011) s ({ t with fflg := a.extractLsb' 0 5 }.setX rd (t.fflg.zeroExtend 64))
      ∧ Gives (.csrw rd ra 0x012) s ({ t with jflg := a.extractLsb' 0 15 }.setX rd (t.jflg.zeroExtend 64))
      ∧ Gives (.csrw rd ra 0x013) s ({ t with vrnd := a.extractLsb' 0 2 }.setX rd (t.vrnd.zeroExtend 64))
      ∧ Gives (.csrw rd ra 0x014) s ({ t with amax := a.extractLsb' 0 33 }.setX rd (t.amax.zeroExtend 64))
      ∧ Gives (.csrw rd ra 0x020) s ({ t with mfmt := a.getLsbD 0 }.setX rd (if t.mfmt then 1 else 0))
      ∧ Gives (.csrw rd ra 0x021) s ({ t with mscla := a }.setX rd t.mscla)
      ∧ Gives (.csrw rd ra 0x023) s ({ t with mxinj := a &&& 0xBF7FFFFFFFFFFFFF }.setX rd t.mxinj)
      ∧ (ra ≠ 0 → Gives (.csrs rd ra 0x011) s ({ t with fflg := t.fflg ||| a.extractLsb' 0 5 }.setX rd (t.fflg.zeroExtend 64))
          ∧ Gives (.csrc rd ra 0x011) s ({ t with fflg := t.fflg &&& ~~~(a.extractLsb' 0 5) }.setX rd (t.fflg.zeroExtend 64)))
      ∧ (t.lvl ≠ 0 →
          (let w := a.extractLsb' 8 2;
            Gives (.csrw rd ra 0x001) s ({ t with pp := if w = 3 ∨ w = 2 ∧ s.cur.1 ≠ 4096 then t.pp else w }.setX rd
              (BitVec.ofNat 64 (t.pp.toNat * 256 + t.lvl.toNat))))
            ∧ (∀ l o, t.launch = some l → s.curCore.on l = some o →
                (∃ u p, exec (.csrw rd ra 0x022) s = .next u ∧ u.curCore.on l = some p ∧ p.mxcorr = a.extractLsb' 0 32
                  ∧ p.opcnt = o.opcnt + 1 ∧ u.mem = s.mem)
                ∧ (∃ u p, exec (.csrw rd ra 0x048) s = .next u ∧ u.curCore.on l = some p ∧ p.opcnt = a + 1
                  ∧ p.mxcorr = o.mxcorr ∧ u.mem = s.mem))
            ∧ (∃ u, exec (.csrw rd ra 0x060) s = .next u ∧ (u.curCore.vfc s.curCore.fn).amofb = a.getLsbD 0 ∧ u.mem = s.mem
                ∧ u.curStr.getX rd = if rd = 0 then 0 else if (s.curCore.vfc s.curCore.fn).amofb then 1 else 0)
            ∧ Gives (.csrw rd ra 0x050) s ({ t with trapc := a.extractLsb' 0 18 }.setX rd (t.trapc.zeroExtend 64))
            ∧ Gives (.csrw rd ra 0x051) s ({ t with trapv := a }.setX rd t.trapv)
            ∧ Gives (.csrw rd ra 0x052) s ({ t with trappc := a }.setX rd t.trappc)
            ∧ (s.ownLimit s.cur.1 ≤ a.toNat → Faults (.csrw rd ra 0x000) s 0x01 0 0)
            ∧ (a.toNat < s.ownLimit s.cur.1 →
                Gives (.csrw rd ra 0x000) s ({ t with owner := a.extractLsb' 0 14 }.setX rd (t.owner.zeroExtend 64)))
            ∧ (∃ u, exec (.csrw rd ra 0x053) s = .next u ∧ u.curCore.mentry.toNat = a.toNat / 64 * 64 ∧ u.mem = s.mem
                ∧ u.curStr.getX rd = if rd = 0 then 0 else s.curCore.mentry))

/-! ## Memory -/

namespace Sys2Proof.Claims

/-- Number held by the `n` bytes at a flat address, as a launch sees them (R3, R170). -/
def numAt (s : State) (l : Option Nat) (a n : Nat) : Nat :=
  leNat ((List.range n).map (fun j => s.mem.get (s.version (s.shadowOf l) (a + j))))

/-- A data access of kind `k` of `n` bytes at `p` passes every check of R39, with home `pl`; `s1` is the state that the checks leave. -/
def Passes (s : State) (k : Acc) (p : Word) (n : Nat) (pl : Place) (s1 : State) : Prop :=
  (check (dataWho s) k p n n).run s = .ok (pl, s1)

/-- The string after an instruction that completes, `t` being what the instruction's own effect makes of it. -/
def retired (t : Str) : Str := { t with pc := nextPtr t.pc 4, inHand := [], wait := .none, routed := false }

/-- Every string but the executing one is as it was, but that its activation may have committed early (R166, R167). -/
def OthersKeep (s u : State) : Prop :=
  ∀ c k, (c, k) ≠ s.cur → u.str c k = { s.str c k with act := (u.str c k).act }

/-- Launches, functions, the root core and the device are as they were, and so is what every core holds beside its strings: its matrix
unit, its copy engine, its rings, its records, its entry to the monitor, and the partition and the function that it runs. -/
def SameUnits (s u : State) : Prop :=
  u.launches = s.launches ∧ u.vfs = s.vfs ∧ u.root = s.root ∧ u.dev = s.dev
    ∧ ∀ c, let x := u.core c
      let y := s.core c
      x.mxu = y.mxu ∧ x.bce = y.bce ∧ x.rings = y.rings ∧ x.records = y.records ∧ x.mentry = y.mentry ∧ x.part = y.part ∧ x.vf = y.vf

/-- The executing string completes as `t`; memory, every other string, and all that `SameUnits` names are as they were. -/
def Completes (i : Instr) (s : State) (t : Str) : Prop :=
  ∃ u, exec i s = .next u ∧ u.curStr = retired t ∧ u.mem = s.mem ∧ (∀ c k, (c, k) ≠ s.cur → u.str c k = s.str c k) ∧ SameUnits s u

/-- The scalar loads: the instruction, the kind, the byte offset and the scope of the acquire. -/
def scalarLoads (rd ra : XReg) (imm : BitVec 16) (imm7 : BitVec 7) (sc : Scope) : List (Instr × LdKind × Int × Option Scope) :=
  [(.ldB rd ra imm, .b, imm.toInt, none), (.ldH rd ra imm, .h, imm.toInt, none), (.ldW rd ra imm, .w, imm.toInt, none),
   (.ldD rd ra imm, .d, imm.toInt, none), (.ldBu rd ra imm, .bu, imm.toInt, none), (.ldHu rd ra imm, .hu, imm.toInt, none),
   (.ldWu rd ra imm, .wu, imm.toInt, none), (.ldAcq rd ra .b sc imm7, .b, imm7.toInt, some sc),
   (.ldAcq rd ra .h sc imm7, .h, imm7.toInt * 2, some sc), (.ldAcq rd ra .w sc imm7, .w, imm7.toInt * 4, some sc),
   (.ldAcq rd ra .d sc imm7, .d, imm7.toInt * 8, some sc), (.ldAcq rd ra .bu sc imm7, .bu, imm7.toInt, some sc),
   (.ldAcq rd ra .hu sc imm7, .hu, imm7.toInt * 2, some sc), (.ldAcq rd ra .wu sc imm7, .wu, imm7.toInt * 4, some sc)]

/-- Bytes of a load kind, and the value it writes from the number in memory (R274). -/
def loadSpec (v : Nat) : LdKind → Nat × Word
  | .b => (1, BitVec.signExtend 64 (BitVec.ofNat 8 v))
  | .h => (2, BitVec.signExtend 64 (BitVec.ofNat 16 v))
  | .w => (4, BitVec.signExtend 64 (BitVec.ofNat 32 v))
  | .d => (8, BitVec.ofNat 64 v)
  | .bu => (1, BitVec.ofNat 64 (v % 2 ^ 8))
  | .hu => (2, BitVec.ofNat 64 (v % 2 ^ 16))
  | .wu => (4, BitVec.ofNat 64 (v % 2 ^ 32))

/-- The scalar stores: the instruction, its bytes, the byte offset and the scope of the release. -/
def scalarStores (rd ra : XReg) (imm : BitVec 16) (imm7 : BitVec 7) (sc : Scope) : List (Instr × Nat × Int × Option Scope) :=
  [(.stB rd ra imm, 1, imm.toInt, none), (.stH rd ra imm, 2, imm.toInt, none), (.stW rd ra imm, 4, imm.toInt, none),
   (.stD rd ra imm, 8, imm.toInt, none), (.stRel rd ra .b sc imm7, 1, imm7.toInt, some sc),
   (.stRel rd ra .h sc imm7, 2, imm7.toInt * 2, some sc), (.stRel rd ra .w sc imm7, 4, imm7.toInt * 4, some sc),
   (.stRel rd ra .d sc imm7, 8, imm7.toInt * 8, some sc)]

/-- Everything of a string but its pc, its activation's journal and outbox, its store buffer and what an instruction in progress
holds, and its outstanding loads, is the same. -/
def SameRegs (t u : Str) : Prop :=
  u.x = t.x ∧ u.xm = t.xm ∧ u.v = t.v ∧ u.m = t.m ∧ u.st = t.st ∧ u.owner = t.owner ∧ u.lvl = t.lvl ∧ u.pp = t.pp ∧ u.jord = t.jord
    ∧ u.fflg = t.fflg ∧ u.jflg = t.jflg ∧ u.vrnd = t.vrnd ∧ u.amax = t.amax ∧ u.mfmt = t.mfmt ∧ u.mscla = t.mscla
    ∧ u.mxinj = t.mxinj ∧ u.trapc = t.trapc ∧ u.trapv = t.trapv ∧ u.trappc = t.trappc ∧ u.run = t.run

/-- Event `e` of `l`, the only entry outstanding in a string, may perform: its activation has not been rolled back, it does not wait to be sent,
and no earlier store holds it back (R104, R107, R108, R147, R380). -/
def Due (c : Nat) (t : Str) (l : Load) (e : SectorEv) : Prop :=
  l.dead = false ∧ e ∉ l.unsent ∧ blocked c t [] l e = false ∧ flushFirst t l.rel (some e.place) = false

end Sys2Proof.Claims

/-- R99, R100, R102, R274, R276: a scalar load whose access passes the checks, with nothing of its string outstanding, enters the table of
outstanding loads with the event of its home, its pointer and its pc, and with its scope if it is an acquire; it writes no register
before its bytes come (see `Obligations.OutstandingPerform`). One whose bytes a buffered store of its string holds takes them from
there, and completes. -/
def Obligations.ScalarLoads : Prop :=
  ∀ (s s1 : State) (rd ra : XReg) (imm : BitVec 16) (imm7 : BitVec 7) (sc : Scope) (pl : Place),
    Quiet s → ∀ x ∈ scalarLoads rd ra imm imm7 sc,
    let t := s.curStr
    let n := (loadSpec 0 x.2.1).1
    let p := t.getX ra + BitVec.ofInt 64 x.2.2.1
    Passes s .r p n pl s1 →
    (t.sb = [] →
        ∃ u l, exec x.1 s = .next u ∧ u.curStr.lds = [l] ∧ l.dst = .x rd x.2.1 ∧ l.evs = [evOf pl n 0] ∧ l.got = [] ∧ l.bad = none
          ∧ l.acq = x.2.2.2 ∧ l.rel = none ∧ l.ptr = p ∧ l.ptrs = [] ∧ l.pc = t.pc ∧ l.seq = t.seq ∧ l.owner = t.owner ∧ l.sure = false
          ∧ l.mon = (t.lvl != 0) ∧ l.undo = none ∧ u.curStr.sb = [] ∧ u.curStr.pc = nextPtr t.pc 4 ∧ SameRegs t u.curStr
          ∧ u.mem = s.mem ∧ (∀ c k, (c, k) ≠ s.cur → u.str c k = s.str c k) ∧ SameUnits s u)
      ∧ (∀ got, forward t (evOf pl n 0) = some got →
        Completes x.1 s { t.setX rd (loadSpec (gotNum got n) x.2.1).2 with seq := t.seq + 1 })

/-- R274, R275, R276: a scalar store whose access passes the checks is put in the store buffer with its low bytes, its scope if it is
a release, and the event of its home; no register and no byte of memory changes yet. One to another package that has not translated its
offset stays out of the store buffer (R390, R414). -/
def Obligations.ScalarStores : Prop :=
  ∀ (s s1 : State) (rd ra : XReg) (imm : BitVec 16) (imm7 : BitVec 7) (sc : Scope) (pl : Place),
    Quiet s → s.curStr.sb.length < 32 → ∀ x ∈ scalarStores rd ra imm imm7 sc,
    let t := s.curStr
    let p := t.getX ra + BitVec.ofInt 64 x.2.2.1
    Passes s .w p x.2.1 pl s1 →
    (t.refusedEv (evOf pl x.2.1 0) = true →
      ∃ u, exec x.1 s = .next u ∧ u.curStr.sb = t.sb ∧ u.curStr.pc = nextPtr t.pc 4 ∧ SameRegs t u.curStr ∧ u.mem = s.mem ∧ OthersKeep s u
        ∧ SameUnits s u)
    ∧ (t.refusedEv (evOf pl x.2.1 0) = false →
    ∃ u e, exec x.1 s = .next u ∧ u.curStr.sb = t.sb ++ [e] ∧ e.evs = [evOf pl x.2.1 0]
      ∧ e.data = (t.getX rd).zeroExtend 4096 ∧ e.rel = x.2.2.2 ∧ e.ptr = p ∧ e.seq = t.seq ∧ u.curStr.pc = nextPtr t.pc 4
      ∧ SameRegs t u.curStr ∧ u.mem = s.mem ∧ OthersKeep s u ∧ SameUnits s u)

/-- R84, R99, R103, R169, R275, R282, R341, R343, R386, R387, R393, R395: what is outstanding performs. STORE_ACKNOWLEDGEMENT: the event of
a store that its string's order lets perform, whose home is package memory or a slice, in no poisoned span and no fenced partition, for a
launch that is no shadow, writes exactly its bytes, in the version that its address has, and leaves the store buffer. LOAD_RESPONSE: the
last event of the one outstanding load performs at its home: the register of a scalar load gets its value, in the bank of the mode in which
it issued, and in those of a vector load the loaded bytes replace the old ones. A load or an atomic that meets a marked sector writes
nothing at the home, and the sector is poisoned. It faults with POISON or UNCORR, with its pointer and its pc, and its registers are as they
were: a user-mode string traps; one whose restartable activation has been returned fewer than two times is rolled back; one in monitor mode
stops, and the core notes the fault. A monitor-mode load whose owner holds D over every byte does not fault: it reads zero, and POISONRD
counts it. That a load that is known not to fault lets later instructions go first is the model's own (log 13). -/
def Obligations.OutstandingPerform : Prop :=
  ∀ (s : State) (c k : Nat) (e : SectorEv) (a : Nat), placeFlat e.place = some a → s.refuses c e.place = false →
    let t := s.str c k
    (∀ (ix ev : Nat) (x : Store), t.sb[ix]? = some x → x.evs[ev]? = some e → storeReady c t ix ev = true →
        needsFlush t x e = false → s.shadowOf x.launch = 0 → s.inSpan (s.version 0 a) = false →
        (∀ b ∈ e.bytes, a / 4096 = (a + b.1) / 4096) → (e.bytes.map (·.1)).Nodup →
        ∃ u, exec (.storeAcknowledgement c k ix ev) s = .next u
          ∧ (∀ b ∈ e.bytes, u.mem.get (s.version 0 (a + b.1)) = BitVec.extractLsb' (8 * b.2) 8 x.data)
          ∧ (∀ y, (∀ b ∈ e.bytes, y ≠ s.version 0 (a + b.1)) → u.mem.get y = s.mem.get y)
          ∧ (u.str c k).sb = (t.dropEv ix ev).sb ∧ SameRegs t (u.str c k)
          ∧ (∀ d j, (d, j) ≠ (c, k) → u.str d j = s.str d j) ∧ SameUnits s u)
      ∧ (∀ l : Load, t.lds = [l] → Due c t l e → l.evs = [e] → l.bad = none → l.got = [] → s.mark t.launch a = none →
        let got : List (Nat × Byte) := e.bytes.map (fun b => (b.2, s.mem.get (s.version (s.shadowOf t.launch) (a + b.1))))
        (∀ rd q, l.dst = .x rd q →
            ∃ u, exec (.loadResponse c k 0 0 .home) s = .next u ∧ u.mem = s.mem
              ∧ u.str c k = { t.inBank l.mon (fun y => y.setX rd (loadSpec (gotNum got (loadSpec 0 q).1) q).2) with lds := [] })
          ∧ (∀ rd n, l.dst = .v rd n → n ≤ 4 →
            ∃ u, exec (.loadResponse c k 0 0 .home) s = .next u ∧ u.mem = s.mem
              ∧ u.str c k = { t with v := (u.str c k).v, lds := [] }
              ∧ (∀ j < n, (u.str c k).rawV (rd + BitVec.ofNat 5 j)
                  = if got.any (fun g => g.1 / 64 == j) then mergeBytes got j (t.rawV (rd + BitVec.ofNat 5 j))
                    else t.rawV (rd + BitVec.ofNat 5 j))
              ∧ (∀ r, (∀ j < n, r ≠ rd + BitVec.ofNat 5 j) → (u.str c k).rawV r = t.rawV r)))
      ∧ (∀ (l : Load) (m : Poison), t.lds = [l] → Due c t l e → l.evs = [e] → l.bad = none → l.undo = none → (l.isAtomic = true → l.ptrs = []) →
        s.mark t.launch a = some m → t.run = .running →
        let code := if m = .poisoned then 0x20 else 0x21
        ∃ u, exec (.loadResponse c k 0 0 .home) s = .next u
          ∧ (t.lvl = 0 → l.mon = false → (∀ b, t.act = some b → b.rst = false) →
              u.mem = s.mem ∧ u.mark t.launch a = some .poisoned
                ∧ Trapped { t with lds := [] } (u.str c k) (s.core c).mentry 0 0 code (l.ptrAt e) l.pc)
          ∧ (t.lvl = 0 → l.mon = false → ∀ b, t.act = some b → b.rst = true → b.trig.redo < 2 →
              u.str c k = { t with lds := [] }.freed
                ∧ ∃ r ∈ (u.core c).records, r.launch = b.trig.launch ∧ r.hid = b.trig.hid ∧ r.key = b.trig.key
                    ∧ r.payload = b.trig.payload ∧ r.redo = b.trig.redo + 1 ∧ r.nc = true)
          ∧ (t.lvl ≠ 0 → l.isAtomic = true ∨ s.diagnostic c k l = false →
              u.mem = s.mem ∧ u.mark t.launch a = some .poisoned
                ∧ u.str c k = { t with lds := [], pc := l.pc, run := .stopped, wait := .none, inHand := [] }
                ∧ (u.core c).monFault = some { code := code, detail := 0, val := l.ptrAt e })
          ∧ (∀ rd q, l.dst = .x rd q → l.got = [] → s.diagnostic c k l = true →
              u.mem = s.mem ∧ u.mark t.launch a = some .poisoned
                ∧ u.str c k = { t.inBank l.mon (fun y => y.setX rd 0) with lds := [] }
                ∧ ∀ p, (s.core c).part = some p → (u.part p).meters[15] = satAdd (s.part p).meters[15] 1))

/-- R273: a literal read: the bytes at the literal's address, fetched as an instruction is. -/
def Obligations.LiteralReads : Prop :=
  ∀ (s s1 : State) (rd : XReg) (vd : VReg) (off : BitVec 19) (b : List Byte), Quiet s →
    let t := s.curStr
    let p := nextPtr (t.pc &&& ~~~(7 : Word)) (off.toInt * 8)
    ((fetchBytes p 4).run s = .ok (b, s1) →
        Completes (.ldlW rd off) s (t.setX rd (BitVec.signExtend 64 (BitVec.ofNat 32 (leNat b)))))
      ∧ ((fetchBytes p 8).run s = .ok (b, s1) → Completes (.ldlD rd off) s (t.setX rd (BitVec.ofNat 64 (leNat b))))
      ∧ (t.streamOf vd = none → p.toNat % 64 = 0 → (fetchBytes p 64).run s = .ok (b, s1) →
          Completes (.ldlv vd off) s (t.setV vd (BitVec.ofNat 512 (leNat b))))
      ∧ (t.streamOf vd = none → p.toNat % 64 ≠ 0 → Faults (.ldlv vd off) s 0x03 0 p)

namespace Sys2Proof.Claims

/-- An atomic: the instruction, its function, its bytes, the operand and, for a CAS, the new value (R278 to R280). -/
structure Atomic where
  instr : Instr
  fn : AtomFn
  bytes : Nat
  opnd : Nat
  new : Nat

/-- The atomics. -/
def atomics (t : Str) (rd ra : XReg) (sc : Scope) (o : Ord) (imm : BitVec 7) : List Atomic :=
  let x := (t.getX rd).toNat
  let y := (t.getX (rd + 1)).toNat
  let d (i : Instr) (f : AtomFn) : Atomic := ⟨i, f, 8, x, 0⟩
  let w (i : Instr) (f : AtomFn) : Atomic := ⟨i, f, 4, x % 2 ^ 32, 0⟩
  [d (.amoAddD rd ra sc o imm) .add, d (.amoAndD rd ra sc o imm) .and, d (.amoOrD rd ra sc o imm) .or,
   d (.amoXorD rd ra sc o imm) .xor, d (.amoMinD rd ra sc o imm) .min, d (.amoMaxD rd ra sc o imm) .max,
   d (.amoMinuD rd ra sc o imm) .minu, d (.amoMaxuD rd ra sc o imm) .maxu, d (.amoSwapD rd ra sc o imm) .swap,
   w (.amoAddW rd ra sc o imm) .add, w (.amoAndW rd ra sc o imm) .and, w (.amoOrW rd ra sc o imm) .or,
   w (.amoXorW rd ra sc o imm) .xor, w (.amoMinW rd ra sc o imm) .min, w (.amoMaxW rd ra sc o imm) .max,
   w (.amoMinuW rd ra sc o imm) .minu, w (.amoMaxuW rd ra sc o imm) .maxu, w (.amoSwapW rd ra sc o imm) .swap,
   ⟨.casW rd ra sc o imm, .cas, 4, x % 2 ^ 32, y % 2 ^ 32⟩, ⟨.casD rd ra sc o imm, .cas, 8, x, y⟩,
   ⟨.casQ rd ra sc o imm, .cas, 16, x + y * 2 ^ 64, (t.getX (rd + 2)).toNat + (t.getX (rd + 3)).toNat * 2 ^ 64⟩,
   w (.famoAddS rd ra sc o imm) .fadd, d (.famoAddD rd ra sc o imm) .fadd]

/-- What an atomic leaves at its home, from the old value there (R278 to R280). -/
def Atomic.after (x : Atomic) (old : Nat) (mode : BitVec 2) : Nat :=
  let n := 8 * x.bytes
  match x.fn with
  | .add => (old + x.opnd) % 2 ^ n
  | .and => old &&& x.opnd
  | .or => old ||| x.opnd
  | .xor => old ^^^ x.opnd
  | .min => if sfield x.opnd n < sfield old n then x.opnd else old
  | .max => if sfield old n < sfield x.opnd n then x.opnd else old
  | .minu => Nat.min old x.opnd
  | .maxu => Nat.max old x.opnd
  | .swap => x.opnd
  | .cas => if old = x.opnd then x.new else old
  | .fadd => (fpAdd (if x.bytes = 4 then fp32 else fp64) mode old x.opnd).1

/-- What an atomic leaves in its registers: the old value, sign-extended for the 32-bit integer forms, in two registers for CAS.Q;
and FFLG with the flags of a floating-point addition. -/
def Atomic.regs (x : Atomic) (t : Str) (rd : XReg) (old : Nat) (mode : BitVec 2) : Str :=
  match x.fn with
  | .fadd => withFlags (t.setX rd (BitVec.ofNat 64 old)) (fpAdd (if x.bytes = 4 then fp32 else fp64) mode old x.opnd).2
  | _ =>
    if x.bytes = 4 then t.setX rd (BitVec.signExtend 64 (BitVec.ofNat 32 old))
    else if x.bytes = 8 then t.setX rd (BitVec.ofNat 64 old)
    else (t.setX rd (BitVec.ofNat 64 old)).setX (rd + 1) (BitVec.ofNat 64 (old / 2 ^ 64))

end Sys2Proof.Claims

/-- R102, R108, R278, R279, R280, R281, R285, R411: an atomic whose access passes the checks, with nothing of its string outstanding and its
home in the packages, enters the table of outstanding accesses with its operands, the rounding mode of VRND and its scope, and writes
nothing yet. It performs as one event at its home: its home gets the new value, its registers the old one, in the bank of the mode in which
it issued, and no other byte of memory changes. One to a host page is sent as an AtomicOp, and its string issues nothing until the answer;
where there is no AtomicOp for it, or the function may send none, AMOFB decides: the instruction faults with HOST_AMO_UNSUPPORTED, or an
entry asks the host agent. -/
def Obligations.Atomics : Prop :=
  ∀ (s s1 : State) (rd ra : XReg) (sc : Scope) (o : Ord) (imm : BitVec 7), let t := s.curStr
    ∀ x ∈ atomics t rd ra sc o imm,
    (∀ pl : Place, Quiet s → t.sb = [] → t.hostDirty = false → t.flush = none →
        let p := t.getX ra + BitVec.ofInt 64 (imm.toInt * x.bytes)
        Passes s .a p x.bytes pl s1 → (∀ f b y, pl ≠ .host f b y) →
        ∃ u l, exec x.instr s = .next u ∧ u.curStr.lds = [l]
          ∧ l.dst = .amo rd x.fn x.bytes (BitVec.ofNat 128 x.opnd) (BitVec.ofNat 128 x.new) t.vrnd ∧ l.evs = [evOf pl x.bytes 0]
          ∧ l.acq = (if o = .acq ∨ o = .ar then some sc else none) ∧ l.rel = (if o = .rel ∨ o = .ar then some sc else none)
          ∧ l.got = [] ∧ l.bad = none ∧ l.sure = false ∧ l.mon = (t.lvl != 0) ∧ l.ptr = p ∧ l.ptrs = [] ∧ l.pc = t.pc ∧ l.seq = t.seq
          ∧ u.curStr.sb = [] ∧ u.curStr.pc = nextPtr t.pc 4 ∧ SameRegs t u.curStr ∧ u.mem = s.mem ∧ OthersKeep s u ∧ SameUnits s u)
      ∧ (∀ f y b : Nat, Quiet s → t.sb = [] → t.hostDirty = false → t.flush = none →
        let p := t.getX ra + BitVec.ofInt 64 (imm.toInt * x.bytes)
        Passes s .a p x.bytes (.host f y b) s1 →
        let v := s.vf f
        let opnd := BitVec.ofNat 128 x.opnd
        let new := BitVec.ofNat 128 x.new
        let sent := hasAtomicOp x.fn x.bytes && v.atomicReq
        let agent := (s.curCore.vfc f).amofb
        let iova := y / 32 * 32 + b % 32
        let asked := agentBits x.fn x.bytes opnd new t.vrnd v.pasid.toNat iova v.nextAgent.toNat (s.lcoreOf s.cur.1 t.launch)
        ∃ u, exec x.instr s = .next u ∧ u.mem = s.mem ∧ OthersKeep s u
          ∧ (sent = true → u.curStr.hostAtomic = true ∧ SameRegs t u.curStr
              ∧ u.out = s.out ++ [.hostAtomic f b x.bytes x.fn opnd new s.nextId (o = .plain)])
          ∧ (sent = false → agent = false → t.run = .running → t.lvl = 0 → (∀ b, t.act = some b → b.ec = true → b.rst = false) →
              Trapped { t with seq := t.seq + 1 } u.curStr s.curCore.mentry 0 0 0x40 p t.pc)
          ∧ (sent = false → agent = true → u.curStr.hostAtomic = true ∧ SameRegs t u.curStr
              ∧ (u.vf f).entries = v.entries ++ [{ bits := asked, notify := true, msgOf := none }]
              ∧ (u.vf f).agents = v.agents ++ [{ id := v.nextAgent.toNat, core := s.cur.1, str := s.cur.2, seq := t.seq }]))
      ∧ (∀ (c k a i : Nat) (e : SectorEv) (l : Load) (mode : BitVec 2), let q := s.str c k
        placeFlat e.place = some a → a % 32 = 0 → i + x.bytes ≤ 32 → e.bytes = (List.range x.bytes).map (fun j => (i + j, j)) →
        q.lds = [l] → Due c q l e → l.evs = [e] → l.bad = none →
        l.dst = .amo rd x.fn x.bytes (BitVec.ofNat 128 x.opnd) (BitVec.ofNat 128 x.new) mode →
        s.refuses c e.place = false → s.shadowOf q.launch = 0 → s.mark q.launch a = none →
        let old := numAt s q.launch (a + i) x.bytes
        let new := x.after old mode
        ∃ u, exec (.loadResponse c k 0 0 .home) s = .next u ∧ u.str c k = { q.inBank l.mon (fun y => x.regs y rd old mode) with lds := [] }
          ∧ (∀ j < x.bytes, u.mem.get (s.version 0 (a + i + j)) = BitVec.ofNat 8 (new / 256 ^ j))
          ∧ (∀ y, (∀ j < x.bytes, y ≠ s.version 0 (a + i + j)) → u.mem.get y = s.mem.get y)
          ∧ (∀ d j, (d, j) ≠ (c, k) → u.str d j = s.str d j) ∧ SameUnits s u)

/-- R109, R110, R134, R283, R284, R286: the order instructions. FENCE completes when no earlier load, store or stream push of its string,
and no access of an engine command of it, of a side that its kind names, has yet to perform within its scope, atomics counting on both
sides, and waits while one has; of the engine commands it counts what R134 and R283 leave open, as the model reads them (`cmdsOpen`, log
16). WAIT completes when every counter is at or below its field, and waits while one is above it. Each changes nothing but the pc, and notes
in the last outstanding load that it has retired behind it. -/
def Obligations.FenceAndWait : Prop :=
  ∀ (s : State) (kind : BitVec 4) (sc : Scope) (ld st cp mx : BitVec 6), let t := s.curStr
    let loads := kind.getLsbD 0 || kind.getLsbD 1
    let stores := kind.getLsbD 2 || kind.getLsbD 3
    let hit (e : SectorEv) : Bool := inScope s.cur.1 sc e.place
    let loadLeft : Prop := ∃ l ∈ t.lds, (loads = true ∨ l.isAtomic = true) ∧ ∃ e ∈ l.evs, hit e = true
    let storeLeft : Prop := stores = true ∧ ((∃ x ∈ t.sb, ∃ e ∈ x.evs, hit e = true) ∨ t.pushAny hit = true)
    let cmdLeft : Bool := cmdsOpen s s.cur.1 s.cur.2 sc loads stores
    (¬loadLeft → ¬storeLeft → cmdLeft = false → Gives (.fence kind sc) s t.passLoads)
      ∧ (loadLeft ∨ storeLeft ∨ cmdLeft = true → exec (.fence kind sc) s = .next s)
      ∧ (let n := counters s.curCore s.cur.2
        let above (m : Nat) (f : BitVec 6) : Prop := f ≠ 63 ∧ f.toNat < m
        (¬above n.1 ld → ¬above n.2.1 st → ¬above n.2.2.1 cp → ¬above n.2.2.2 mx → Gives (.wait ld st cp mx) s t.passLoads)
          ∧ (above n.1 ld ∨ above n.2.1 st ∨ above n.2.2.1 cp ∨ above n.2.2.2 mx → exec (.wait ld st cp mx) s = .next s))
      ∧ SameRegs t t.passLoads ∧ t.passLoads.sb = t.sb ∧ t.passLoads.lds.map (·.evs) = t.lds.map (·.evs)

/-- R111, R159, R166, R286: BAR of a string that has not committed early commits it; one whose core is the last of its quire to arrive goes
on, far stores or not; any other waits, and goes on once the barrier has moved to the next generation. While a store or a push to a home on its
die has yet to perform it does not arrive; that it counts the pushes of its streams is the model's own (log 74). In a string that holds no
activation BAR faults with NOLAUNCH (R453). -/
def Obligations.BarrierCompletes : Prop :=
  (∀ s : State, Quiet s → s.curStr.act = none → Faults .bar s 0x35 0 0)
  ∧ ∀ (s : State) (a : Activation) (l : Launch), Quiet s → s.curStr.act = some a → s.launch a.launch = some l → let t := s.curStr
    let n := l.f 320 8 * 16
    let q := s.lcoreOf s.cur.1 (some a.launch) / n
    let b := mget { gen := 0, arrived := [] } l.barriers q
    let nearLeft : Prop := (∃ x ∈ t.sb, ∃ e ∈ x.evs, nearTo s.cur.1 e.place = true) ∨ t.pushAny (fun e => nearTo s.cur.1 e.place) = true
    ((∀ g, t.wait ≠ .bar g) → a.ec = false → exec .bar s = .next (s.commitEarly s.cur.1 s.cur.2))
      ∧ ((∀ g, t.wait ≠ .bar g) → a.ec = true → ¬nearLeft → (b.arrive s.cur.1 n).gen = b.gen →
          ∃ u v, exec .bar s = .next u ∧ u.curStr = { t with wait := .bar b.gen } ∧ u.mem = s.mem ∧ u.launch a.launch = some v
            ∧ v.barriers = mset l.barriers q (b.arrive s.cur.1 n))
      ∧ ((∀ g, t.wait ≠ .bar g) → a.ec = true → ¬nearLeft → (b.arrive s.cur.1 n).gen ≠ b.gen →
          ∃ u v, exec .bar s = .next u ∧ u.curStr = retired t ∧ u.mem = s.mem ∧ u.launch a.launch = some v
            ∧ v.barriers = mset l.barriers q (b.arrive s.cur.1 n))
      ∧ ((∀ g, t.wait ≠ .bar g) → a.ec = true → nearLeft → exec .bar s = .next s)
      ∧ (t.wait = .bar b.gen → exec .bar s = .next s)
      ∧ (∀ g, t.wait = .bar g → g ≠ b.gen → Gives .bar s t)

namespace Sys2Proof.Claims

/-- Bytes of an element. -/
def sizeOf8 : Sz → Nat
  | .b => 1
  | .h => 2
  | .w => 4
  | .d => 8

/-- The vector loads with the events and the pointers of their active elements, and the registers they load (R309). -/
def vectorLoads (t : Str) (rd rb : VReg) (ra rx : XReg) (mk : MReg) (e : Sz) :
    List (Instr × M (List SectorEv) × List (Nat × Word) × Nat) :=
  let p := t.getX ra
  let act := activeIdx t mk e
  let n := sizeOf8 e
  [(.vld rd ra mk e, unitAccess .r p 1 n act, unitPtrs p 1 n act, 1),
   (.vldj rd ra mk e, unitAccess .r p (t.jord.toNat + 1) n act, unitPtrs p (t.jord.toNat + 1) n act, t.jord.toNat + 1),
   (.vlds rd ra rx mk e, elemAccess .r n (stridePtrs p (t.getX rx).toInt n act), stridePtrs p (t.getX rx).toInt n act, 1),
   (.vgath rd ra rb mk e, elemAccess .r n (indexPtrs p (t.rawV rb) (8 * n) n act), indexPtrs p (t.rawV rb) (8 * n) n act, 1)]

/-- The vector stores with the events of their active elements and the registers they store. -/
def vectorStores (t : Str) (rd rb : VReg) (ra rx : XReg) (mk : MReg) (e : Sz) : List (Instr × M (List SectorEv) × Nat) :=
  let p := t.getX ra
  let act := activeIdx t mk e
  let n := sizeOf8 e
  [(.vst rd ra mk e, unitAccess .w p 1 n act, 1), (.vstj rd ra mk e, unitAccess .w p (t.jord.toNat + 1) n act, t.jord.toNat + 1),
   (.vsts rd ra rx mk e, elemAccess .w n (stridePtrs p (t.getX rx).toInt n act), 1),
   (.vscat rd ra rb mk e, elemAccess .w n (indexPtrs p (t.rawV rb) (8 * n) n act), 1)]

/-- No stream is bound, so every V field names a register (R233). -/
def NoStreams (t : Str) : Prop := ∀ r, t.streamOf r = none

/-- The groups of a jet instruction are aligned for JORD (R211). -/
def Aligned (t : Str) (rs : List VReg) : Prop := ∀ r ∈ rs, (t.jord = 0) ∨ (t.jord = 1 ∧ r.toNat % 2 = 0) ∨ (2 ≤ t.jord.toNat ∧ r.toNat % 4 = 0)

end Sys2Proof.Claims

/-- R309, R310, R311: a vector load whose elements pass the checks enters the table of outstanding loads with the events of its active
elements (a load with no active element is over at once); no register changes before its bytes come. A vector store whose elements
pass the checks is put in the store buffer with the events of its active elements; with no active element it changes nothing but the
pc. -/
def Obligations.VectorMemory : Prop :=
  ∀ (s s1 : State) (rd rb : VReg) (ra rx : XReg) (mk : MReg) (e : Sz) (es : List SectorEv), Quiet s →
    let t := s.curStr
    NoStreams t →
    (∀ x ∈ vectorLoads t rd rb ra rx mk e, t.sb = [] → (∀ y ∈ es, t.refusedEv y = false) → (x.1 = .vldj rd ra mk e → Aligned t [rd]) → x.2.1.run s = .ok (es, s1) →
        ∃ u l, exec x.1 s = .next u ∧ SameUnits s u ∧ SameRegs t u.curStr ∧ u.curStr.pc = nextPtr t.pc 4 ∧ u.mem = s.mem
          ∧ l.dst = .v rd x.2.2.2 ∧ l.evs = es ∧ l.ptr = t.getX ra ∧ l.ptrs = x.2.2.1 ∧ l.pc = t.pc ∧ l.bad = none ∧ l.got = []
          ∧ u.curStr.lds = (if es = [] then [] else [l]))
      ∧ (∀ x ∈ vectorStores t rd rb ra rx mk e, t.sb.length < 32 → (x.1 = .vstj rd ra mk e → Aligned t [rd]) →
        (x.1 = .vst rd ra mk e ∨ x.1 = .vstj rd ra mk e → noticeStore s (t.getX ra) (sizeOf8 e) (activeIdx t mk e) = none) →
        x.2.1.run s = .ok (es, s1) → (∀ y ∈ es, t.refusedEv y = false) →
        ∃ u y, exec x.1 s = .next u ∧ SameUnits s u ∧ SameRegs t u.curStr ∧ u.curStr.pc = nextPtr t.pc 4 ∧ u.mem = s.mem
          ∧ u.curStr.sb = (if es = [] then t.sb else t.sb ++ [y]) ∧ y.evs = es
          ∧ (∀ k < x.2.2, BitVec.extractLsb' (512 * k) 512 y.data = t.rawV (rd + BitVec.ofNat 5 k)))


/-! ## Vectors -/

namespace Sys2Proof.Claims

/-- Element `j` of a V register seen as elements of `w` bits (R287). -/
def el (w : Nat) (v : Vec) (j : Nat) : Nat := (BitVec.extractLsb' (w * j) w v).toNat

/-- Its signed value. -/
def sel (w : Nat) (v : Vec) (j : Nat) : Int := (BitVec.extractLsb' (w * j) w v).toInt

/-- Element `j` is active under a mask register (R288). -/
def on (t : Str) (mk : MReg) (j : Nat) : Bool := (t.getM mk).getLsbD j

/-- The instruction completes by writing one V register, whose element `j` is `f j` modulo 2^w where it is active, and is kept
elsewhere (R288). -/
def WritesElems (i : Instr) (s : State) (rd : VReg) (mk : MReg) (e : Sz) (f : Nat → Int) : Prop :=
  let t := s.curStr
  let w := 8 * sizeOf8 e
  ∃ v : Vec, Completes i s (t.setV rd v)
    ∧ ∀ j < 512 / w, ((el w v j : Nat) : Int) = if on t mk j then f j % 2 ^ w else el w (t.rawV rd) j

/-- The instruction completes by writing element 0 of one V register, and zero to the others (R294). -/
def WritesFirst (i : Instr) (s : State) (rd : VReg) (e : Sz) (r : Int) : Prop :=
  let w := 8 * sizeOf8 e
  ∃ v : Vec, Completes i s (s.curStr.setV rd v)
    ∧ ∀ j < 512 / w, ((el w v j : Nat) : Int) = if j = 0 then r % 2 ^ w else 0

/-- The instruction completes by writing a mask register, whose bit `j` is set where `j` is active and passes the test (R293). -/
def WritesMask (i : Instr) (s : State) (rd : MReg) (mk : MReg) (n : Nat) (f : Nat → Bool) : Prop :=
  let t := s.curStr
  ∃ m : BitVec 64, Completes i s (t.setM rd m) ∧ ∀ j < 64, m.getLsbD j = (decide (j < n) && on t mk j && f j)

end Sys2Proof.Claims

/-- R300: integer arithmetic, element by element; masked elements keep their value. -/
def Obligations.VectorIntegerResults : Prop :=
  ∀ (s : State) (rd ra rb : VReg) (mk : MReg) (e : Sz), Quiet s → NoStreams s.curStr →
    let t := s.curStr
    let w := 8 * sizeOf8 e
    let a (j : Nat) : Int := sel w (t.rawV ra) j
    let b (j : Nat) : Int := sel w (t.rawV rb) j
    let ua := el w (t.rawV ra)
    let ub := el w (t.rawV rb)
    let gives (i : Instr) (f : Nat → Int) : Prop := WritesElems i s rd mk e f
    gives (.vaddInt rd ra rb mk e) (fun j => a j + b j) ∧ gives (.vsubInt rd ra rb mk e) (fun j => a j - b j)
      ∧ gives (.vmulInt rd ra rb mk e) (fun j => a j * b j)
      ∧ gives (.vminInt rd ra rb mk e) (fun j => min (a j) (b j)) ∧ gives (.vmaxInt rd ra rb mk e) (fun j => max (a j) (b j))
      ∧ gives (.vabsInt rd ra mk e) (fun j => |a j|) ∧ gives (.vnegInt rd ra mk e) (fun j => - a j)
      ∧ gives (.vand rd ra rb mk e) (fun j => ((ua j &&& ub j : Nat) : Int)) ∧ gives (.vor rd ra rb mk e) (fun j => ((ua j ||| ub j : Nat) : Int))
      ∧ gives (.vxor rd ra rb mk e) (fun j => ((ua j ^^^ ub j : Nat) : Int))
      ∧ gives (.vshl rd ra rb mk e) (fun j => a j * 2 ^ (ub j % w)) ∧ gives (.vshr rd ra rb mk e) (fun j => ((ua j / 2 ^ (ub j % w) : Nat) : Int))
      ∧ gives (.vsra rd ra rb mk e) (fun j => a j / 2 ^ (ub j % w))

/-- R293, R294, R300: integer compares to a mask and reductions of the active elements. -/
def Obligations.VectorIntegerTests : Prop :=
  ∀ (s : State) (md : MReg) (rd ra rb : VReg) (mk : MReg) (e : Sz), Quiet s → NoStreams s.curStr →
    let t := s.curStr
    let w := 8 * sizeOf8 e
    let a (j : Nat) : Int := sel w (t.rawV ra) j
    let b (j : Nat) : Int := sel w (t.rawV rb) j
    let ua := el w (t.rawV ra)
    let ub := el w (t.rawV rb)
    let act := (List.range (512 / w)).filter (on t mk)
    let test (i : Instr) (f : Nat → Bool) : Prop := WritesMask i s md mk (512 / w) f
    test (.vcmpEq md ra rb mk e) (fun j => ua j == ub j) ∧ test (.vcmpNe md ra rb mk e) (fun j => ua j != ub j)
      ∧ test (.vcmpLt md ra rb mk e) (fun j => decide (a j < b j)) ∧ test (.vcmpLe md ra rb mk e) (fun j => decide (a j ≤ b j))
      ∧ test (.vcmpLtu md ra rb mk e) (fun j => decide (ua j < ub j)) ∧ test (.vcmpLeu md ra rb mk e) (fun j => decide (ua j ≤ ub j))
      ∧ WritesFirst (.vredsumInt rd ra mk e) s rd e (act.map a).sum
      ∧ WritesFirst (.vredmaxInt rd ra mk e) s rd e ((act.map a).foldl max (-2 ^ (w - 1)))
      ∧ WritesFirst (.vredminInt rd ra mk e) s rd e ((act.map a).foldl min (2 ^ (w - 1) - 1))

namespace Sys2Proof.Claims

/-- The instruction completes by writing the `n` registers from `rd` on: element `j` of the register of coefficient `k` is
`f k j` modulo 2^w where `keep j` is false, and is kept where it is true. -/
def WritesGroup (i : Instr) (s : State) (rd : VReg) (n w : Nat) (keep : Nat → Bool) (f : Nat → Nat → Nat) : Prop :=
  let t := s.curStr
  ∃ vs : List Vec, vs.length = n ∧ Completes i s (t.setVs rd vs 0)
    ∧ ∀ k < n, ∀ j < 512 / w, el w (vs.getD k 0) j
        = if keep j then el w (t.rawV (rd + BitVec.ofNat 5 k)) j else f k j % 2 ^ w

end Sys2Proof.Claims

/-- R211, R290, R301, R303: moves of whole groups: JORD + 1 registers, the same elements in each; a jet instruction that names a misaligned
group faults with JETGRP before any effect. -/
def Obligations.VectorMoves : Prop :=
  ∀ (s : State) (rd ra rb rc : VReg) (rx : XReg) (mk : MReg) (e : Sz) (ty : FTy) (rm : Rm), Quiet s → NoStreams s.curStr →
    let t := s.curStr
    let w := 8 * sizeOf8 e
    let n := t.jord.toNat + 1
    let a (k j : Nat) : Nat := el w (t.rawV (ra + BitVec.ofNat 5 k)) j
    let off (j : Nat) : Bool := !on t mk j
    (Aligned t [rd, ra] → WritesGroup (.vmov rd ra mk e) s rd n w off a)
      ∧ (Aligned t [rd, ra, rb] → WritesGroup (.vsel rd ra rb mk e) s rd n w (fun _ => false)
          (fun k j => if on t mk j then a k j else el w (t.rawV (rb + BitVec.ofNat 5 k)) j))
      ∧ (Aligned t [rd] → WritesGroup (.vbcast rd rx mk e) s rd n w off (fun k _ => if k = 0 then (t.getX rx).toNat else 0))
      ∧ (Aligned t [rd, ra] → WritesGroup (.vperm rd ra rb mk e) s rd n w off
          (fun k j => let i := el w (t.rawV rb) j; if i < 512 / w then a k i else 0))
      ∧ (Aligned t [rd, ra] → WritesGroup (.vslide rd ra rx mk e) s rd n w off
          (fun k j => let i := (j : Int) + (t.getX rx).toInt; if 0 ≤ i ∧ i < (512 / w : Nat) then a k i.toNat else 0))
      ∧ ((t.jord = 1 ∧ rd.toNat % 2 = 1) ∨ (2 ≤ t.jord.toNat ∧ rd.toNat % 4 ≠ 0) →
          ∀ i ∈ [Instr.vaddFp ty rd ra rb mk rm, .vmulFp ty rd ra rb mk rm, .vdiv ty rd ra rb mk rm, .vexp ty rd ra mk rm,
                 .vminFp ty rd ra rb mk, .vredsumFp ty rd ra mk rm, .vfmaF32 rd ra rb rc rm mk, .jseed ty rd ra mk, .vmov rd ra mk e,
                 .vperm rd ra rb mk e], Faults i s 0x50 0 0)

/-- R302, R304: single elements, indices, and the mask registers. -/
def Obligations.ElementsAndMasks : Prop :=
  ∀ (s : State) (xd ra rb : XReg) (vd va : VReg) (md ma mb : MReg) (mk : MReg) (e : Sz), Quiet s → NoStreams s.curStr →
    let t := s.curStr
    let w := 8 * sizeOf8 e
    Completes (.vext xd va rb e) s (t.setX xd (BitVec.ofNat 64 (if (t.getX rb).toNat < 512 / w then el w (t.rawV va) (t.getX rb).toNat else 0)))
      ∧ WritesGroup (.vins vd ra rb e) s vd 1 w (fun j => decide (j ≠ (t.getX rb).toNat)) (fun _ _ => (t.getX ra).toNat)
      ∧ WritesGroup (.viota vd mk e) s vd 1 w (fun j => !on t mk j) (fun _ j => (List.range j).countP (on t mk))
      ∧ Gives (.mand md ma mb) s (t.setM md (t.getM ma &&& t.getM mb)) ∧ Gives (.mor md ma mb) s (t.setM md (t.getM ma ||| t.getM mb))
      ∧ Gives (.mnot md ma) s (t.setM md (~~~ t.getM ma))
      ∧ Gives (.mpop xd ma) s (t.setX xd (BitVec.ofNat 64 ((List.range 64).countP (t.getM ma).getLsbD)))

namespace Sys2Proof.Claims

/-- Format of a vector type (R287). -/
def vfmt : FTy → Fmt
  | .f64 => fp64
  | .f32 => fp32
  | .bf16 => bf16

/-- The jet of element `j` of the group at `r`, of order JORD (R211). -/
def jetOf (t : Str) (w : Nat) (r : VReg) (j : Nat) : List Nat :=
  (List.range (t.jord.toNat + 1)).map (fun k => el w (t.rawV (r + BitVec.ofNat 5 k)) j)

/-- A floating-point vector instruction completes: coefficient `k` of active element `j` is that of `h j`, every other element and every
other register is kept, and the flags of the active elements are ORed into FFLG, for coefficient 0, and into field ck of JFLG (R198,
R211, R212, R288, R292). -/
def WritesJets (i : Instr) (s : State) (rd : VReg) (ty : FTy) (mk : MReg) (h : Nat → List (Nat × Nat)) : Prop :=
  let t := s.curStr
  let w := (vfmt ty).w
  let n := t.jord.toNat
  ∃ (vs : List Vec) (ff : BitVec 5) (jf : BitVec 15), vs.length = n + 1 ∧ Completes i s { t.setVs rd vs 0 with fflg := ff, jflg := jf }
    ∧ (∀ k ≤ n, ∀ j < 512 / w, el w (vs.getD k 0) j
        = if on t mk j then ((h j).getD k (0, 0)).1 % 2 ^ w else el w (t.rawV (rd + BitVec.ofNat 5 k)) j)
    ∧ (∀ b < 5, ff.getLsbD b = (t.fflg.getLsbD b
        || (List.range (512 / w)).any (fun j => on t mk j && ((h j).getD 0 (0, 0)).2.testBit b)))
    ∧ (∀ b < 15, jf.getLsbD b = (t.jflg.getLsbD b
        || (List.range (512 / w)).any (fun j => on t mk j && (jetFlags (h j)).2.testBit b)))

end Sys2Proof.Claims

/-- R213, R292, R295: floating-point arithmetic on whole jets, by the formula of each operation; the fused forms, with the sign of the
product and of the addend by form. -/
def Obligations.VectorFpResults : Prop :=
  ∀ (s : State) (ty : FTy) (rd ra rb rc : VReg) (mk : MReg) (rm : Rm), Quiet s → NoStreams s.curStr → Aligned s.curStr [rd, ra] →
    let t := s.curStr
    let f := vfmt ty
    let m := modeOf t rm
    let n := t.jord.toNat
    let a := jetOf t f.w ra
    let b := jetOf t f.w rb
    let gives (i : Instr) (h : Nat → List (Nat × Nat)) : Prop := WritesJets i s rd ty mk h
    let fused (i : Instr) (ty : FTy) (np nc : Bool) : Prop := WritesJets i s rd ty mk (fun j =>
      let w := (vfmt ty).w
      jetFma (vfmt ty) m n np nc (jetOf t w ra j) (jetOf t w rb j) (jetOf t w rc j))
    (Aligned t [rb] →
        gives (.vaddFp ty rd ra rb mk rm) (fun j => jetAdd f m n false (a j) (b j))
          ∧ gives (.vsubFp ty rd ra rb mk rm) (fun j => jetAdd f m n true (a j) (b j))
          ∧ gives (.vmulFp ty rd ra rb mk rm) (fun j => jetMul f m n (a j) (b j))
          ∧ gives (.vdiv ty rd ra rb mk rm) (fun j => jetDiv f m n (a j) (b j))
          ∧ gives (.vminFp ty rd ra rb mk) (fun j => jetMinMax f false n (a j) (b j))
          ∧ gives (.vmaxFp ty rd ra rb mk) (fun j => jetMinMax f true n (a j) (b j)))
      ∧ gives (.vsqrt ty rd ra mk rm) (fun j => jetSqrt f m n (a j)) ∧ gives (.vrsq ty rd ra mk rm) (fun j => jetRsqrt f m n (a j))
      ∧ gives (.vexp ty rd ra mk rm) (fun j => jetExp f m n (a j)) ∧ gives (.vlog ty rd ra mk rm) (fun j => jetLog f m n (a j))
      ∧ gives (.vsin ty rd ra mk rm) (fun j => jetTrig f m n false (a j)) ∧ gives (.vcos ty rd ra mk rm) (fun j => jetTrig f m n true (a j))
      ∧ gives (.vtanh ty rd ra mk rm) (fun j => jetTanh f m n (a j))
      ∧ gives (.vabsFp ty rd ra mk) (fun j => jetAbs f (a j)) ∧ gives (.vnegFp ty rd ra mk) (fun j => jetNeg f (a j))
      ∧ (Aligned t [rb, rc] →
        fused (.vfmaF64 rd ra rb rc rm mk) .f64 false false ∧ fused (.vfmaF32 rd ra rb rc rm mk) .f32 false false
          ∧ fused (.vfmaBf16 rd ra rb rc rm mk) .bf16 false false
          ∧ fused (.vfmsF64 rd ra rb rc rm mk) .f64 false true ∧ fused (.vfmsF32 rd ra rb rc rm mk) .f32 false true
          ∧ fused (.vfmsBf16 rd ra rb rc rm mk) .bf16 false true
          ∧ fused (.vfnmaF64 rd ra rb rc rm mk) .f64 true false ∧ fused (.vfnmaF32 rd ra rb rc rm mk) .f32 true false
          ∧ fused (.vfnmaBf16 rd ra rb rc rm mk) .bf16 true false
          ∧ fused (.vfnmsF64 rd ra rb rc rm mk) .f64 true true ∧ fused (.vfnmsF32 rd ra rb rc rm mk) .f32 true true
          ∧ fused (.vfnmsBf16 rd ra rb rc rm mk) .bf16 true true)

/-- R193, R199, R212, R213: coefficient 0 of a jet is the operation on the coefficients 0, and the jets of sums and products are
those of R213: a sum adds coefficient by coefficient; coefficient 1 of a product is a_0 b_1 + a_1 b_0, evaluated exactly and rounded
once; a jet whose coefficient 0 is a NaN is NaN in every coefficient (R214). -/
def Obligations.JetFormulas : Prop :=
  ∀ (f : Fmt) (m : BitVec 2) (a b : List Nat), let a0 := a.getD 0 0
    let b0 := b.getD 0 0
    jetAdd f m 0 false a b = [fpAdd f m a0 b0] ∧ jetAdd f m 0 true a b = [fpSub f m a0 b0] ∧ jetMul f m 0 a b = [fpMul f m a0 b0]
      ∧ jetDiv f m 0 a b = [fpDiv f m a0 b0] ∧ jetSqrt f m 0 a = [fpSqrt f m a0]
      ∧ (∀ n, (jetAdd f m n false a b).length = n + 1 ∧ (jetMul f m n a b).length = n + 1 ∧ (jetDiv f m n a b).length = n + 1)
      ∧ (f.isNan (fpMul f m a0 b0).1 = false →
          let x := f.decode a0
          let x1 := f.decode (a.getD 1 0)
          let y := f.decode b0
          let y1 := f.decode (b.getD 1 0)
          (x.mul y1).2 = 0 → (x1.mul y).2 = 0 → x ≠ .nan → x1 ≠ .nan → y ≠ .nan → y1 ≠ .nan →
          ((jetMul f m 1 a b).getD 1 (0, 0)).1 = ((Ex.sum m [(x.mul y1).1, (x1.mul y).1]).1.round f m).1)
      ∧ (∀ n k, f.isNan (fpAdd f m a0 b0).1 = true → 1 ≤ k → k ≤ n → (jetAdd f m n false a b).getD k (0, 0) = (f.nan, 0))

namespace Sys2Proof.Claims

/-- The OR of flags over some elements (R198). -/
def orOf (act : List Nat) (fl : Nat → Nat) : Nat := act.foldl (fun x j => x ||| fl j) 0

end Sys2Proof.Claims

/-- R198, R201, R293, R294: floating-point compares and reductions. VREDSUM sums and rounds each coefficient by itself, whose flags
go to FFLG or to its field of JFLG; VREDMAX and VREDMIN deliver the jet of the active element that R201 selects against every other,
the lowest index of equal ones. -/
def Obligations.VectorFpTests : Prop :=
  ∀ (s : State) (ty : FTy) (md : MReg) (rd ra rb : VReg) (mk : MReg) (c : Cond) (rm : Rm), Quiet s → NoStreams s.curStr →
    let t := s.curStr
    let f := vfmt ty
    let n := t.jord.toNat
    let act := (List.range (512 / f.w)).filter (on t mk)
    let a (k j : Nat) : Nat := el f.w (t.rawV (ra + BitVec.ofNat 5 k)) j
    let r (j : Nat) : Bool × Nat := fpCmp f c (a 0 j) (el f.w (t.rawV rb) j)
    let first (v : Vec) (x : Nat) : Prop := ∀ j < 512 / f.w, el f.w v j = if j = 0 then x % 2 ^ f.w else 0
    (∃ m : BitVec 64, Completes (.vcmpFp ty md ra rb mk c) s (withFlags (t.setM md m) (orOf act (fun j => (r j).2)))
        ∧ ∀ j < 64, m.getLsbD j = (decide (j < 512 / f.w) && on t mk j && (r j).1))
      ∧ (Aligned t [rd, ra] →
          (let sum (k : Nat) : Nat × Nat := fpSum f (modeOf t rm) (act.map (a k))
            ∃ vs : List Vec, vs.length = n + 1
              ∧ Completes (.vredsumFp ty rd ra mk rm) s { t.setVs rd vs 0 with
                  fflg := t.fflg ||| BitVec.ofNat 5 (sum 0).2,
                  jflg := t.jflg ||| BitVec.ofNat 15 (jetFlags ((List.range (n + 1)).map sum)).2 }
              ∧ ∀ k ≤ n, first (vs.getD k 0) (sum k).1)
            ∧ (∀ mx : Bool, let i := if mx then Instr.vredmaxFp ty rd ra mk else .vredminFp ty rd ra mk
                let chosen (x y : Nat) : Nat := (if mx then fpMax f x y else fpMin f x y).1
                (act = [] → ∃ vs, vs.length = n + 1 ∧ Completes i s (t.setVs rd vs 0)
                    ∧ ∀ k ≤ n, first (vs.getD k 0) (if k = 0 then f.inf mx else 0))
                  ∧ ((∃ j ∈ act, f.isNan (a 0 j)) → ∃ vs, vs.length = n + 1
                      ∧ Completes i s (withFlags (t.setVs rd vs 0) (if (act.map (a 0)).any f.isSig then 16 else 0))
                      ∧ ∀ k ≤ n, first (vs.getD k 0) f.nan)
                  ∧ (act ≠ [] → (∀ j ∈ act, f.isNan (a 0 j) = false) →
                      ∃ vs, ∃ j ∈ act, (∀ i ∈ act, chosen (a 0 j) (a 0 i) = a 0 j) ∧ (∀ i ∈ act, i < j → a 0 i ≠ a 0 j)
                        ∧ vs.length = n + 1 ∧ Completes i s (t.setVs rd vs 0) ∧ ∀ k ≤ n, first (vs.getD k 0) (a k j))))

/-- R198, R296, R297, R298: building jets, and taking coefficients and derivatives from them; the flags of a derivative go to FFLG. -/
def Obligations.JetParts : Prop :=
  ∀ (s : State) (ty : FTy) (rd ra : VReg) (kk : BitVec 2) (mk : MReg) (rm : Rm), Quiet s → NoStreams s.curStr →
    let t := s.curStr
    let f := vfmt ty
    let n := t.jord.toNat + 1
    let off (j : Nat) : Bool := !on t mk j
    let a (k j : Nat) : Nat := el f.w (t.rawV (ra + BitVec.ofNat 5 k)) j
    (Aligned t [rd] →
        WritesGroup (.jseed ty rd ra mk) s rd n f.w off (fun k j => if k = 0 then a 0 j else if k = 1 then f.one else 0)
          ∧ WritesGroup (.jconst ty rd ra mk) s rd n f.w off (fun k j => if k = 0 then a 0 j else 0)
          ∧ WritesGroup (.jset ty rd ra kk mk) s rd n f.w off
              (fun k j => if k = kk.toNat then a 0 j else el f.w (t.rawV (rd + BitVec.ofNat 5 k)) j))
      ∧ (Aligned t [ra] →
          WritesGroup (.jget ty rd ra kk mk) s rd 1 f.w off (fun _ j => if kk.toNat < n then a kk.toNat j else 0)
            ∧ (let der (j : Nat) : Nat × Nat := if kk.toNat < n then derElem f (modeOf t rm) kk.toNat (a kk.toNat j) else (0, 0)
              ∃ v : Vec, Completes (.jder ty rd ra kk mk rm) s
                  (withFlags (t.setV rd v) (orOf ((List.range (512 / f.w)).filter (on t mk)) (fun j => (der j).2)))
                ∧ ∀ j < 512 / f.w, el f.w v j = if on t mk j then (der j).1 % 2 ^ f.w else el f.w (t.rawV rd) j))

namespace Sys2Proof.Claims

/-- Format of a conversion type (R305). -/
def vfmt8 : FTy8 → Fmt
  | .f64 => fp64
  | .f32 => fp32
  | .bf16 => bf16
  | .fp8 => fp8

/-- What a conversion writes: the low N elements, N being that of the wider type, convert where they are active, and the elements
from N on are zero (R306). -/
def Converts (t : Str) (mk : MReg) (ws wd : Nat) (h : Nat → Nat × Nat) (v old new : Vec) : Prop :=
  ∀ j < 512 / wd, el wd new j = if j < 512 / max ws wd then (if on t mk j then (h (el ws v j)).1 % 2 ^ wd else el wd old j) else 0

end Sys2Proof.Claims

/-- R198, R203, R204, R205, R306, R307: conversions; the flags of the active elements are ORed into FFLG, and those of coefficients 1
to 3 into JFLG. -/
def Obligations.Conversions : Prop :=
  ∀ (s : State) (rd ra : VReg) (rb : XReg) (mk : MReg) (dst src : FTy8) (ity : Sz) (fty : FTy) (rm : Rm), Quiet s → NoStreams s.curStr →
    let t := s.curStr
    let m := modeOf t rm
    let w := 8 * sizeOf8 ity
    let f := vfmt fty
    let fs := vfmt8 src
    let fd := vfmt8 dst
    let am := ((List.range (512 / max 8 fs.w)).filter (on t mk)).foldl (fun x j => amaxStep fs x (el fs.w (t.rawV ra) j)) t.amax
    let flags (ws wd : Nat) (h : Nat → Nat × Nat) (v : Vec) : Nat :=
      orOf ((List.range (512 / max ws wd)).filter (on t mk)) (fun j => (h (el ws v j)).2)
    let ofInt (x : Nat) := fpOfInt f m (sfield x w)
    let toInt (x : Nat) := let y := fpToInt f m (-(2 ^ (w - 1))) (2 ^ (w - 1) - 1) x
      ((y.1 % 2 ^ w).toNat, y.2)
    let toFp8 (x : Nat) := fpToFp8 fs m x ((t.getX rb).toNat % 2 ^ 32)
    (∃ v, Completes (.vcvtIntToFp rd ra mk ity fty rm) s (withFlags (t.setV rd v) (flags w f.w ofInt (t.rawV ra)))
        ∧ Converts t mk w f.w ofInt (t.rawV ra) (t.rawV rd) v)
      ∧ (∃ v, Completes (.vcvtFpToInt rd ra mk ity fty rm) s (withFlags (t.setV rd v) (flags f.w w toInt (t.rawV ra)))
        ∧ Converts t mk f.w w toInt (t.rawV ra) (t.rawV rd) v)
      ∧ (dst = .fp8 → ∃ v, Completes (.vcvtFpFp rd ra rb mk dst src rm) s
          { withFlags (t.setV rd v) (flags fs.w 8 toFp8 (t.rawV ra)) with amax := am }
          ∧ Converts t mk fs.w 8 toFp8 (t.rawV ra) (t.rawV rd) v)
      ∧ (dst ≠ .fp8 → Aligned t [rd, ra] → let plane (k : Nat) : Nat := flags fs.w fd.w (fpConv fs fd m) (t.rawV (ra + BitVec.ofNat 5 k))
          ∃ vs, vs.length = t.jord.toNat + 1
          ∧ Completes (.vcvtFpFp rd ra rb mk dst src rm) s { t.setVs rd vs 0 with
              fflg := t.fflg ||| BitVec.ofNat 5 (plane 0),
              jflg := t.jflg ||| BitVec.ofNat 15 (jetFlags ((List.range (t.jord.toNat + 1)).map (fun k => (0, plane k)))).2 }
          ∧ ∀ k ≤ t.jord.toNat, Converts t mk fs.w fd.w (fpConv fs fd m) (t.rawV (ra + BitVec.ofNat 5 k)) (t.rawV (rd + BitVec.ofNat 5 k)) (vs.getD k 0))

/-! ## Streams -/

/-- R233, R328: a source field that names a stream bound for reading takes its next element and moves the stream on by one; it waits
for an element that has not been read, which it asks for, takes the fault held with it, and faults with STREAM past the end or for a stream bound for
writing. A destination field that names a stream bound for writing puts the result at its end, to be written where the next element
stands, and moves the stream on; no V register changes; a stream bound for reading faults with STREAM. Said of VADD on integers,
whose operands every vector instruction reads and writes in the same way. -/
def Obligations.StreamOperands : Prop :=
  ∀ (s s1 : State) (rd ra rb : VReg) (mk : MReg) (e : Sz) (i : Fin 4) (x : Stream) (pl : Place), Quiet s →
    let t := s.curStr
    let w := 8 * sizeOf8 e
    let go := exec (.vaddInt rd ra rb mk e) s
    let faults (c : Nat) : Prop := Faults (.vaddInt rd ra rb mk e) s c 0 0
    t.streamOf rb = none →
    (t.streamOf ra = some (i, x) → t.streamOf rd = none →
        (x.dst = true → faults 0x32) ∧ (x.dst = false → x.total ≤ x.pos → faults 0x32)
          ∧ (x.dst = false → x.pos < x.total → mfind x.fetched x.pos = none →
              ∃ u, go = .next u ∧ u.curStr = t ∧ u.mem = s.mem ∧ OthersKeep s u ∧ Miss.elts s.cur.2 i.val x.pos ∈ u.curCore.misses)
          ∧ (∀ f, x.dst = false → x.pos < x.total → mfind x.fetched x.pos = some (.bad f) → go = .next (s.fault f))
          ∧ (∀ v, x.dst = false → x.pos < x.total → mfind x.fetched x.pos = some (.data v) →
              ∃ u : Vec, Completes (.vaddInt rd ra rb mk e) s
                  ({ t with st := t.st.set i (some { x with pos := x.pos + 1, fetched := x.fetched.filter (fun e => decide (x.pos + 1 ≤ e.1)) }) i.isLt }.setV rd u)
                ∧ ∀ j < 512 / w, el w u j = if on t mk j then (el w v j + el w (t.rawV rb) j) % 2 ^ w else el w (t.rawV rd) j))
      ∧ (t.streamOf rd = some (i, x) → t.streamOf ra = none →
        (x.dst = false → faults 0x32) ∧ (x.dst = true → x.total ≤ x.pos → faults 0x32)
          ∧ (x.dst = true → x.pos < x.total → (check { dataWho s with owner := x.owner.toNat } .w (x.ptr x.pos) 64 64).run s = .ok (pl, s1) →
              (∀ z ∈ [evOf pl 32 0, evOf (placeAdd pl 32) 32 32], t.refusedEv z = false) →
              ∃ u y, go = .next u ∧ u.mem = s.mem ∧ u.curStr.v = t.v ∧ u.curStr.pc = nextPtr t.pc 4
                ∧ u.curStr.st.toList[i.val]? = some (some { x with pos := x.pos + 1, pushes := x.pushes ++ [y] })
                ∧ y.evs = [evOf pl 32 0, evOf (placeAdd pl 32) 32 32] ∧ y.ptr = x.ptr x.pos ∧ y.seq = t.seq
                ∧ ∀ j < 512 / w, el w y.data j = if on t mk j then (el w (t.rawV ra) j + el w (t.rawV rb) j) % 2 ^ w else el w (t.rawV rd) j))

/-! ## Messages, the end of an activation and of a launch -/

namespace Sys2Proof.Claims

/-- The header checks of R314 pass: the operator, the unused bits of the two header registers, the destination and the key. -/
def HeaderOk (l : Launch) (isArm c : Bool) (op : BitVec 4) (dest key : Word) : Prop :=
  op.toNat < 12 ∧ (op = 0 → isArm = false ∧ c = false) ∧ dest.toNat < 2 ^ 16 ∧ key.toNat < 2 ^ 40
    ∧ (dest.toNat < l.nlcore ∧ dest.toNat ≠ 0xFFFF ∨ dest.toNat = 0xFFFF ∧ isArm = false ∧ c = false ∧ op = 0)

/-- The message of the executing string (R161, R315). -/
def message (s : State) (a : Activation) (c : Bool) (op : BitVec 4) (hid : BitVec 6) (dest key : Word) (pay : BitVec 256)
    (arm : Option (BitVec 32)) : Msg :=
  { launch := a.launch, dest := if dest.toNat = 0xFFFF then .host else .core dest.toNat, hid := hid.toNat,
    key := BitVec.extractLsb' 0 40 key, op := op.toNat, cnt := c, src := s.lcoreOf s.cur.1 (some a.launch), payload := pay,
    arm := arm, mon := decide (s.curStr.lvl ≠ 0) }

/-- No store and no push of the string has yet to perform. -/
def NothingDue (t : Str) : Prop := t.sb = [] ∧ ∀ i (h : i < 4), ∀ x, t.st[i] = some x → x.pushes = []

end Sys2Proof.Claims

/-- R141, R161, R181, R314, R315: SEND, SENDV and ARM. With a header that is not in order, or in a string that holds no activation, they
fault with SEND_BAD; else the message is put in the activation's outbox, or, after early commit, goes to the network at once; for want of a
slot the activations of the core that hold messages commit early first, and one that has committed waits. -/
def Obligations.Messages : Prop :=
  ∀ (s : State) (rd ra rb : XReg) (vd : VReg) (c : Bool) (op : BitVec 4) (hid : BitVec 6), Quiet s → NoStreams s.curStr →
    (s.curStr.act = none → ∀ i ∈ [Instr.send rd ra rb c op hid, .sendv vd ra rb c op hid, .arm rd ra rb op hid], Faults i s 0x34 0 0)
    ∧ ∀ (a : Activation) (l : Launch), s.curStr.act = some a → s.launch a.launch = some l →
    let t := s.curStr
    let w (k : Nat) : Nat := (t.getX (rd + BitVec.ofNat 5 k)).toNat
    let msg := message s a
    let d := t.getX ra
    let key := t.getX rb
    let v := BitVec.ofNat 256 (w 0 + w 1 * 2 ^ 64 + w 2 * 2 ^ 128 + w 3 * 2 ^ 192)
    ∀ x ∈ [(Instr.send rd ra rb c op hid, false, msg c op hid d key v none),
        (.sendv vd ra rb c op hid, false, msg c op hid d key (BitVec.extractLsb' 0 256 (t.rawV vd)) none),
        (.arm rd ra rb op hid, true, msg false op hid d key 0 (some (BitVec.extractLsb' 0 32 (t.getX rd))))],
    (¬HeaderOk l x.2.1 (x.2.2.cnt) op d key → Faults x.1 s 0x34 0 0)
      ∧ (HeaderOk l x.2.1 (x.2.2.cnt) op d key → s.slotsUsed s.cur.1 < 32 →
          (a.ec = false → a.outbox.length < 32 → Gives x.1 s { t with act := some { a with outbox := a.outbox ++ [x.2.2] } })
            ∧ (a.ec = true → ∃ u f, exec x.1 s = .next u ∧ u.net = s.net ++ [f] ∧ f.msg = x.2.2 ∧ f.slot = true ∧ f.nacked = false
                ∧ u.curStr = retired t ∧ u.mem = s.mem))
      ∧ (HeaderOk l x.2.1 (x.2.2.cnt) op d key →
          (a.ec = false → 32 ≤ a.outbox.length ∨ 32 ≤ s.slotsUsed s.cur.1 →
            exec x.1 s = .next (s.commitForSlot s.cur.1 s.cur.2))
          ∧ (a.ec = true → 32 ≤ s.slotsUsed s.cur.1 → exec x.1 s = .next s))

/-- R141, R162, R165, R316, R317, R318, R453: DONE, once every access of the string has performed, sends what the outbox holds and frees the
string; outside an activation it frees the string as well. ENDL commits early first; when its string's accesses have performed and its
messages have arrived, its status goes to the launch unit and the string stops. MSK returns the handler mask and sets and clears bits of it,
and a restartable activation keeps the mask it found. Outside an activation these two fault with NOLAUNCH. -/
def Obligations.LaunchInstructions : Prop :=
  ∀ (s : State) (rd ra rb : XReg) (st : EndStatus), Quiet s → let t := s.curStr
    (NothingDue t → ∃ u, exec .done s = .next u ∧ u.curStr.run = .free ∧ u.curStr.act = none ∧ u.curStr.xm = t.xm
        ∧ u.net.map (·.msg) = s.net.map (·.msg) ++ (match t.act with | some a => a.outbox | none => [])
        ∧ u.mem = s.mem ∧ ∀ c k, (c, k) ≠ s.cur → u.str c k = s.str c k)
      ∧ (t.act = none → Faults (.endl ra st) s 0x35 0 0 ∧ Faults (.msk rd ra rb) s 0x35 0 0)
      ∧ ∀ (a : Activation) (l : Launch) (o : OnCore), t.act = some a → s.launch a.launch = some l → s.curCore.on a.launch = some o →
        (a.ec = false → exec (.endl ra st) s = .next (s.commitEarly s.cur.1 s.cur.2))
          ∧ (a.ec = true → NothingDue t → s.sentOpen s.cur.1 a.id = false →
              ∃ u v, exec (.endl ra st) s = .next u ∧ u.curStr.run = .stopped ∧ u.mem = s.mem ∧ u.launch a.launch = some v
                ∧ v = { l with ends := l.ends ++ [match st with
                    | .ok => (0, 0, true)
                    | .fault => (3, (t.getX ra).toNat % 2 ^ 8, true)
                    | .user => (6, (t.getX ra).toNat % 2 ^ 32, true)] })
          ∧ (let m := if a.rst = true ∧ a.mask0 = none then (some o.mask) else a.mask0;
              ∃ u v, exec (.msk rd ra rb) s = .next u ∧ u.mem = s.mem
              ∧ u.curStr = retired ({ t with act := some { a with mask0 := m } }.setX rd o.mask)
              ∧ u.curCore.on a.launch = some v ∧ v.mask = (o.mask &&& ~~~(t.getX ra)) ||| t.getX rb)

/-- R155, R162, R319: LNCH, after early commit and with every earlier store performed, copies the record; with room in the launch unit it puts a
launch with the partition's next serial number in the queue of its function, under the issuing owner, and the serial number is its
result; without, the string waits with its copy, and goes on from it once there is room. The launch notes the core of its parent that the record's plcore
names, if the parent has one, for the message that R162 sends there. Where the read that shows the string's stores to the host to have arrived
has failed, it ends with HOST_ABORT (R412); in a string that holds no activation it faults with NOLAUNCH (R453). -/
def Obligations.LaunchIsQueued : Prop :=
  (∀ (s : State) (rd ra : XReg), Quiet s → s.curStr.act = none → Faults (.lnch rd ra) s 0x35 0 0)
  ∧ ∀ (s s1 s2 : State) (rd ra : XReg) (a : Activation) (l : Launch) (secs : List (Word × Place)) (b : List Byte),
    Quiet s → s.curStr.act = some a → s.launch a.launch = some l → let t := s.curStr
    let queued (r : BitVec 1024) : Prop := ∃ s3 : State, exec (.lnch rd ra) s = .next (s3.enterQueue { Launch.init with
        serial := (s.part l.part).serial, vf := l.vf, part := l.part, record := r, issuer := some t.owner, parent := some a.launch,
        pcore := l.place[r.toNat / 2 ^ 704 % 2 ^ 12]? })
      ∧ s3.curStr = retired (t.setX rd (s.part l.part).serial) ∧ s3.mem = s.mem ∧ s3.launches = s.launches
      ∧ (s3.part l.part).serial.toNat = ((s.part l.part).serial.toNat + 1) % 2 ^ 63
    let waits (r : BitVec 1024) : Prop := ∃ u : State, exec (.lnch rd ra) s = .next u ∧ u.curStr.wait = .lnch r ∧ u.curStr.pc = t.pc
      ∧ SameRegs t u.curStr ∧ u.mem = s.mem ∧ u.launches = s.launches
    ((∀ r, t.wait ≠ .lnch r) → (checkSectors (t.getX ra) 4).run s = .ok (secs, s1) → a.ec = false →
        exec (.lnch rd ra) s = .next (s.commitEarly s.cur.1 s.cur.2))
      ∧ ((∀ r, t.wait ≠ .lnch r) → (checkSectors (t.getX ra) 4).run s = .ok (secs, s1) → a.ec = true → NothingDue t →
          Hand.noFlush ∈ t.inHand → Faults (.lnch rd ra) s 0x41 0 0)
      ∧ ((∀ r, t.wait ≠ .lnch r) → (checkSectors (t.getX ra) 4).run s = .ok (secs, s1) → a.ec = true → NothingDue t →
          Hand.noFlush ∉ t.inHand → t.hostDirty = false → t.flush = none → (readSectors secs).run s1 = .ok (b, s2) →
          (s.lnchHeld l.part < 64 → queued (BitVec.ofNat 1024 (leNat b)))
            ∧ (64 ≤ s.lnchHeld l.part → waits (BitVec.ofNat 1024 (leNat b))))
      ∧ (∀ r, t.wait = .lnch r → (s.lnchHeld l.part < 64 → queued r) ∧ (64 ≤ s.lnchHeld l.part → waits r))

/-! ## Rings, streams and queries -/

/-- R138, R166, R321, R322, R323: the ring instructions on a ring of the launch: RINIT and RFREE, which end with RING_RANGE the RWAITs of
other strings of the launch that are stalled on it; RWAIT, which checks its window once and goes on when its slot has been filled, though
the release index has passed it since; RREL, after early commit; RSTAT. In a string that holds no activation each of them faults with
NOLAUNCH (R453), and an RREL whose read that shows the string's stores to the host to have arrived has failed ends with HOST_ABORT (R412). -/
def Obligations.Rings : Prop :=
  (∀ (s : State) (rd ra rb : XReg), Quiet s → s.curStr.act = none →
    ∀ i ∈ [Instr.rinit ra rb, .rfree ra, .rwait ra rb, .rrel ra rb, .rstat rd ra], Faults i s 0x35 0 0)
  ∧ ∀ (s : State) (rd ra rb : XReg) (a : Activation) (l : Launch) (o : OnCore), Quiet s →
    s.curStr.act = some a → s.launch a.launch = some l → s.curCore.on a.launch = some o →
    let t := s.curStr
    let g := (t.getX ra).toNat
    let c := (t.getX rb).toNat
    let r := s.curCore.ring g
    let gets (i : Instr) (x : Ring) (f : Str → Str) : Prop := ∃ u, exec i s = .next u ∧ u.curStr = retired t ∧ u.curCore.ring g = x
      ∧ u.mem = s.mem ∧ (∀ h, h ≠ g → u.curCore.ring h = s.curCore.ring h)
      ∧ ∀ k < 4, k ≠ s.cur.2 → u.str s.cur.1 k = f (s.str s.cur.1 k)
    let loses (y : Str) : Str := match y.wait with
      | .ring h _ => if h = g ∧ y.launch = some a.launch then { y with wait := .ringLost } else y
      | _ => y
    let known : Prop := g < 64 ∧ g / 16 ∈ o.strs
    let stalled : Prop := ∃ h j, t.wait = .ring h j
    let fresh : Prop := ¬stalled ∧ t.wait ≠ .ringLost
    let j : BitVec 32 := BitVec.ofNat 32 c
    let came : Prop := ((j - r.l).toNat < (r.a - r.l).toNat ∧ j.toNat % 2 ^ r.s ∈ r.filled) ∨ (r.l ≠ j ∧ (r.l - j).toNat < 2 ^ 31)
    (¬known → ∀ i ∈ [Instr.rinit ra rb, .rfree ra, .rwait ra rb, .rrel ra rb, .rstat rd ra], Faults i s 0x31 0 0)
      ∧ (known → (c % 2 ^ 32 / 32 ≠ 0 ∨ 12 < c % 32) → Faults (.rinit ra rb) s 0x31 0 0)
      ∧ (known → c % 2 ^ 32 ≤ 12 → 0 < r.pend → Faults (.rinit ra rb) s 0x30 0 0)
      ∧ (known → c % 2 ^ 32 ≤ 12 → r.pend = 0 → gets (.rinit ra rb)
          { v := true, s := c % 32, l := BitVec.ofNat 32 (c / 2 ^ 32), a := BitVec.ofNat 32 (c / 2 ^ 32), filled := [], pend := 0 } loses)
      ∧ (known → 0 < r.pend → Faults (.rfree ra) s 0x30 0 0)
      ∧ (known → r.pend = 0 → gets (.rfree ra) { r with v := false } loses)
      ∧ (known → fresh → (r.v = false ∨ 2 ^ 32 ≤ c ∨ 2 ^ r.s ≤ (BitVec.ofNat 32 c - r.l).toNat) → Faults (.rwait ra rb) s 0x31 0 0)
      ∧ (known → fresh → r.v = true → c < 2 ^ 32 → (BitVec.ofNat 32 c - r.l).toNat < 2 ^ r.s →
          (came → Gives (.rwait ra rb) s t) ∧ (¬came → exec (.rwait ra rb) s = .next (s.setCurStr { t with wait := .ring g c })))
      ∧ (known → t.wait = .ringLost → Faults (.rwait ra rb) s 0x31 0 0)
      ∧ (known → stalled → (came → Gives (.rwait ra rb) s t) ∧ (¬came → exec (.rwait ra rb) s = .next s))
      ∧ (known → (r.v = false ∨ r.ready < c) → Faults (.rrel ra rb) s 0x31 0 0)
      ∧ (known → r.v = true → c ≤ r.ready → a.ec = false → exec (.rrel ra rb) s = .next (s.commitEarly s.cur.1 s.cur.2))
      ∧ (known → r.v = true → c ≤ r.ready → a.ec = true → NothingDue t → Hand.noFlush ∈ t.inHand → Faults (.rrel ra rb) s 0x41 0 0)
      ∧ (known → r.v = true → c ≤ r.ready → a.ec = true → NothingDue t → Hand.noFlush ∉ t.inHand → t.hostDirty = false → t.flush = none →
          gets (.rrel ra rb) { r with l := r.l + BitVec.ofNat 32 c, filled := r.filled.filter (fun x =>
            (List.range c).all (fun i => x != (r.l + BitVec.ofNat 32 i).toNat % 2 ^ r.s)) } id)
      ∧ (known → Gives (.rstat rd ra) s (t.setX rd (if r.v then
          BitVec.ofNat 64 (r.l.toNat * 2 ^ 32 + 2 ^ 31 + r.s * 2 ^ 27 + r.pend * 2 ^ 13 + (r.a - r.l).toNat) else 0)))

/-- R140, R326, R327, R329, R330: binding a stream, whose accesses wait for those before SBIND while SBIND itself does not (log 13), taking it
away, with what has been read for it and not used, and asking for its state. -/
def Obligations.StreamBinding : Prop :=
  ∀ (s s1 : State) (sd : SReg) (rd ra : XReg) (pl : Place) (a : Nat) (x : Stream), Quiet s → let t := s.curStr
    let p := t.getX ra
    (t.sreg sd = some x → Faults (.sbind sd ra) s 0x32 0 0)
      ∧ (t.sreg sd = none → Passes s .r p 64 pl s1 → placeFlat pl = some a → Hand.lost ∉ t.inHand →
          (∀ y ∈ t.sb, ∀ e ∈ y.evs, evSame (evOf pl 32 0) e = false ∧ evSame (evOf (placeAdd pl 32) 32 32) e = false) →
          s1.refuses s.cur.1 pl = false → s1.refuses s.cur.1 (placeAdd pl 32) = false → s.shadowOf t.launch = 0 → badAt s1 t.launch a p = none → badAt s1 t.launch (a + 32) (p + 32) = none →
          let d := numAt s t.launch a 64
          ((d / 2 ^ 305 ≠ 0 ∨ ∃ i < 5, d / 2 ^ (224 + 16 * i) % 2 ^ 16 = 0) → Faults (.sbind sd ra) s 0x32 0 0)
            ∧ (d < 2 ^ 305 → (∀ i < 5, d / 2 ^ (224 + 16 * i) % 2 ^ 16 ≠ 0) →
                ∃ u y, exec (.sbind sd ra) s = .next u ∧ u.curStr.sreg sd = some y ∧ (∀ q, q ≠ sd → u.curStr.sreg q = t.sreg q)
                  ∧ u.mem = s.mem ∧ u.curStr.x = t.x ∧ u.curStr.v = t.v ∧ u.curStr.pc = nextPtr t.pc 4
                  ∧ (∀ b, u.curStr.act = some b → b.ec = true)
                  ∧ (∀ b, t.act = some b → b.ec = false → ∃ b2, u.curStr.act = some b2 ∧ b2.outbox = [])
                  ∧ y.dst = d.testBit 304 ∧ y.base = BitVec.ofNat 64 (d % 2 ^ 64) ∧ y.owner = t.owner ∧ y.pos = 0 ∧ y.fetched = [] ∧ y.pushes = []
                  ∧ y.after = some t.seq
                  ∧ (∀ i (h : i < 5), (y.strides[i]).toNat = d / 2 ^ (64 + 32 * i) % 2 ^ 32
                      ∧ (y.extents[i]).toNat = d / 2 ^ (224 + 16 * i) % 2 ^ 16)))
      ∧ (t.sreg sd = none → Gives (.sunb sd) s t)
      ∧ (t.sreg sd = some x → x.pushes = [] → ∃ u, exec (.sunb sd) s = .next u ∧ u.curStr = retired (t.setSreg sd none) ∧ u.mem = s.mem
          ∧ ∀ h, h ∈ u.curCore.held ↔ h ∈ s.curCore.held ∧ h.1 ≠ x.asks s.cur.2)
      ∧ (t.sreg sd = some x → x.pushes ≠ [] → exec (.sunb sd) s = .next s)
      ∧ (t.sreg sd = none → Gives (.sstat rd sd) s (t.setX rd 0))
      ∧ (t.sreg sd = some x → x.fetched.length ≤ 8 → x.total - x.pos < 2 ^ 48 → ∃ flt : Nat,
          Gives (.sstat rd sd) s (t.setX rd (BitVec.ofNat 64 (2 ^ 63 + (if x.dst then 2 ^ 62 else 0) + flt * 2 ^ 61
            + x.fetched.length * 2 ^ 57 + (x.total - x.pos)))) ∧ (flt = 1 ∧ (∃ i f, (i, Elt.bad f) ∈ x.fetched) ∨ flt = 0 ∧ ∀ i f, (i, Elt.bad f) ∉ x.fetched))

/-- R54, R67, R332, R334, R335: the queries, and the invalidations of the PLB and of the TLB, on every core of the partition, once the
string's stores, pushes and the writes of its commands have performed; until then they wait. -/
def Obligations.QueriesAndInvalidations : Prop :=
  ∀ (s : State) (rd ra rb : XReg) (n : Nat), Quiet s → s.curCore.part = some n → let t := s.curStr
    let p := t.getX ra
    let o := (t.getX rb).toNat % 2 ^ 14
    let q := s.part n
    (s.curCore.hold = none → ptrSpace p < 2 →
        (∀ e, search s.seen q o (ptrPkg p) (ptrOff p) = some e →
            (o = t.owner.toNat ∨ ∃ d, search s.seen q t.owner.toNat (ptrPkg p) (ptrOff p) = some d ∧ d.rights.testBit 5 = true) →
            Gives (.rqry rd ra rb) s (t.setX rd (BitVec.ofNat 64 (e.grantor * 2 ^ 16 + 2 ^ 15 + (if e.q then 2 ^ 14 else 0) + e.rights * 2 ^ 8 + e.colour))))
          ∧ (search s.seen q o (ptrPkg p) (ptrOff p) = none → Gives (.rqry rd ra rb) s (t.setX rd 0))
          ∧ (o ≠ t.owner.toNat → search s.seen q t.owner.toNat (ptrPkg p) (ptrOff p) = none → Gives (.rqry rd ra rb) s (t.setX rd 0)))
      ∧ (t.launch = none → Gives (.mxst rd) s (t.setX rd 0))
      ∧ (∀ l, t.launch = some l → ∃ u v, exec (.mxst rd) s = .next u ∧ u.curStr = retired (t.setX rd v) ∧ u.mem = s.mem
          ∧ v.toNat % 2 ^ 8 = (s.curCore.mxu.queue.filter (fun c => c.launch == some l)).length % 2 ^ 8
          ∧ v.toNat / 2 ^ 24 = (if s.curCore.mxu.holder = some l then s.curCore.mxu.err.toNat else 0)
          ∧ (s.curCore.mxu.holder = some l → u.curCore.mxu.err = 0))
      ∧ (t.lvl ≠ 0 → NothingDue t → cmdsOpen s s.cur.1 s.cur.2 .sys false true = false → s.cur.1 ∈ q.cores →
          let done (i : Instr) (f : Core → Core → Prop) : Prop := ∃ u, exec i s = .next u ∧ u.curStr.pc = nextPtr t.pc 4 ∧ SameRegs t u.curStr
            ∧ u.mem = s.mem ∧ (∀ c ∈ q.cores, f (s.core c) (u.core c)) ∧ ∀ c ∉ q.cores, u.core c = s.core c
          done (.plbinv ra) (fun x y => y.tlb = x.tlb ∧ y.plb = x.plb.filter (fun e => e.owner != p.toNat % 2 ^ 14))
            ∧ done .plbinvAll (fun x y => y.tlb = x.tlb ∧ y.plb = [])
            ∧ (s.peersQuiet = true →
                (t.getX rb = 0 → (∀ c ∈ q.cores, ∀ e ∈ (s.core c).tlb, e.va < 2 ^ 46 ∧ 0 < e.size) →
                    done (.tlbinv ra rb) (fun x y => y.plb = x.plb ∧ y.tlb = []))
                  ∧ (t.getX rb ≠ 0 → ptrSpace p < 2 → ptrPkg p = s.pkg → done (.tlbinv ra rb) (fun x y => y.plb = x.plb
                      ∧ y.tlb = x.tlb.filter (fun e => !(decide (e.va < ptrOff p + (t.getX rb).toNat) && decide (ptrOff p < e.va + e.size)))))
                  ∧ (t.getX rb ≠ 0 → ptrPkg p ≠ s.pkg → Gives (.tlbinv ra rb) s t)))
      ∧ (t.lvl ≠ 0 → (t.sb.any (fun x => !x.evs.isEmpty) = true ∨ t.pushAny (fun _ => true) = true
            ∨ cmdsOpen s s.cur.1 s.cur.2 .sys false true = true) →
          ∀ i ∈ [Instr.plbinv ra, .plbinvAll, .tlbinv ra rb], exec i s = .next s)

/-! ## Engine commands -/

namespace Sys2Proof.Claims

/-- The command at the head of a queue works now: it has not ended, its launch runs on the core, it waits for no ring and for no access before
it, its writes to other packages have performed, none of its packets has been lost, and it has read the pieces `ps` that its next step needs. -/
def Heads (s : State) (c : Nat) (e : Engine) (op : Nat) (ps : List (Word × Nat)) (cmd : Cmd) (rest : List Cmd) : Prop :=
  s.engQueue c e = cmd :: rest ∧ cmdOp cmd.word.toNat = op ∧ cmd.fin = none ∧ s.engineLive c cmd (cmd.mustFinish ps) = true
    ∧ waitOver (s.core c) cmd = true ∧ s.cmdReleased c cmd = true ∧ (s.core c).awaitsWrite (engId e cmd) = false
    ∧ Hand.lost ∉ (s.core c).hands (engId e cmd) ∧ cmd.unread ps = []

/-- The event answers a state in which the head of the queue has become `new`, and `p` holds. -/
def Works (i : Instr) (s : State) (c : Nat) (e : Engine) (new : Cmd) (rest : List Cmd) (p : State → Prop) : Prop :=
  ∃ u, exec i s = .next u ∧ u.engQueue c e = new :: rest ∧ p u

/-- A command under way; one that has ended well; one that has ended in error. -/
def under (cmd : Cmd) (n : Nat) : Cmd := { cmd with waited := true, after := none, done := n }
/-- See `under`. -/
def fine (cmd : Cmd) : Cmd := { cmd with waited := true, after := none, fin := some none }
/-- See `under`. -/
def failed (cmd : Cmd) (f : FaultInfo) : Cmd := { cmd with waited := true, after := none, fin := some (some f) }

/-- Bytes of memory from `a` on are those of a list, and all others are as they were. -/
def Writes (s u : State) (a : Nat) (bs : List Byte) : Prop :=
  (∀ j < bs.length, u.mem.get (a + j) = bs.getD j 0) ∧ ∀ y, y < a ∨ a + bs.length ≤ y → u.mem.get y = s.mem.get y

/-- No outstanding access is one that is known not to fault; one that is and reads a sector performs before the sector is poisoned (log 13). -/
def NoneSure (s : State) : Prop := ∀ c k, ∀ l ∈ (s.str c k).lds, l.sure = false

end Sys2Proof.Claims

/-- R134, R252, R324, R340, R349, R361: ENQ. The checks fault with ENGINE_BAD and a detail, in their order, those of a ring with RING_RANGE;
a command that passes them all, of an activation that has committed early, joins a queue that has room, with what is sampled and the number of the
accesses that its own wait for (that MXINJ is 0 for any command but MX.ROWS is the model's own, log 84), and takes the slot of its completion
ring; with a full queue, or no free slot in its completion ring, the string waits, and ENQ_APPEND appends the command and retires the
instruction when there is room. -/
def Obligations.Enqueue : Prop :=
  ∀ (s s1 s2 s3 s4 : State) (e : Engine) (ra rb : XReg) (off : BitVec 13) (b : List Byte) (shape : BitVec 512)
    (wait : Option (Nat × BitVec 32)) (ring : Option Nat), Quiet s →
    let t := s.curStr
    let c := s.cur.1
    let k := s.cur.2
    let tp := nextPtr (t.pc &&& ~~~(31 : Word)) (off.toInt * 32)
    let w0 := leNat b
    let w := (if ra = 0 then w0 % 2 ^ 64 else (t.getX ra).toNat) + (if rb = 0 then w0 / 2 ^ 64 % 2 ^ 64 else (t.getX rb).toNat) * 2 ^ 64
      + w0 / 2 ^ 128 % 2 ^ 128 * 2 ^ 128
    let bad (d : Nat) : Prop := Faults (.enq e ra rb off) s 0x51 d 0
    let room (d : Nat) (e : Engine) (ring : Option Nat) : Prop := (s.engQueue d e).length < engCap e
      ∧ ∀ g, ring = some g → (((s.core d).ring g).a - ((s.core d).ring g).l).toNat < 2 ^ ((s.core d).ring g).s
    let placed (d : Nat) (cmd : Cmd) (ring : Option Nat) : Cmd := match ring with
      | none => cmd
      | some g => { cmd with ring := some (g, ((s.core d).ring g).a) }
    let pends (u : State) (d : Nat) (ring : Option Nat) : Prop := ∀ g, ring = some g → let r := (s.core d).ring g
      (u.core d).ring g = { r with a := r.a + 1, pend := r.pend + 1 }
    (t.act = none → c ≠ 4096 → Faults (.enq e ra rb off) s 0x35 0 0)
      ∧ ((enqAllowed e).run s = .ok ((), s) → (∀ x y z, t.wait ≠ .enq x y z) → (fetchBytes tp 32).run s = .ok (b, s1) →
        ((opcodeOk e w0 = false ∨ e = .crypto ∧ c ≠ 4096) → bad 1)
          ∧ (opcodeOk e w0 = true → (e = .crypto → c = 4096) →
            (mxuFree s.curCore e t.launch = false → bad 5)
              ∧ (mxuFree s.curCore e t.launch = true →
                (cmdFieldsOk w = false → bad 2)
                  ∧ (cmdFieldsOk w = true → cmdAligned w t.mscla = false → bad 3)
                  ∧ (cmdFieldsOk w = true → cmdAligned w t.mscla = true → cmdSpaceOk w t.mscla = false → bad 4)
                  ∧ (cmdFieldsOk w = true → cmdAligned w t.mscla = true → cmdSpaceOk w t.mscla = true →
                    let sp := nextPtr tp (32 * (w / 2 ^ 193 % 2 ^ 16 : Nat) : Int)
                    let copies : Prop := cmdOp w = 0x11 ∨ cmdOp w = 0x12
                    ∀ (s5 s6 : State) (b1 b2 : List Byte), let v := leNat (b1 ++ b2)
                    (copies → (fetchBytes sp 32).run s1 = .ok (b1, s5) → (fetchBytes (nextPtr sp 32) 32).run s5 = .ok (b2, s6) →
                        (shapeOk (cmdOp w == 0x11) v = false → bad 6)
                          ∧ (shapeOk (cmdOp w == 0x11) v = true → shapeAligned (elemSize w) v = false → bad 3)
                          ∧ (shapeOk (cmdOp w == 0x11) v = true → shapeAligned (elemSize w) v = true →
                              (fetchShape tp w).run s1 = .ok (BitVec.ofNat 512 v, s6)))
                      ∧ (¬copies → (fetchShape tp w).run s1 = .ok (0, s1))
                      ∧ ((fetchShape tp w).run s1 = .ok (shape, s2) →
                        let x := s.curCore.ring (w / 2 ^ 228 % 2 ^ 6)
                        let mine (g : Nat) : Prop := ringOwned s.curCore (t.launch.getD 0) g = true ∧ (s.curCore.ring g).v = true
                        (w.testBit 246 = true → (¬mine (w / 2 ^ 228 % 2 ^ 6)
                            ∨ ∀ j < 2 ^ x.s, (x.l + BitVec.ofNat 32 j).toNat % 2 ^ 16 ≠ w / 2 ^ 212 % 2 ^ 16) →
                              Faults (.enq e ra rb off) s 0x31 0 0)
                          ∧ ((waitIndex s.curCore (t.launch.getD 0) w).run s2 = .ok (wait, s3) → w.testBit 247 = true →
                              ¬mine (w / 2 ^ 234 % 2 ^ 6) → Faults (.enq e ra rb off) s 0x31 0 0))
                      ∧
                    ((fetchShape tp w).run s1 = .ok (shape, s2) → (waitIndex s.curCore (t.launch.getD 0) w).run s2 = .ok (wait, s3) →
                    (completionRing s.curCore (t.launch.getD 0) w).run s3 = .ok (ring, s4) → (∀ a, t.act = some a → a.ec = true) →
                    let cmd : Cmd :=
                      { word := BitVec.ofNat 256 w, shape := shape, owner := t.owner, ity := t.mfmt, mscla := t.mscla,
                        mxinj := if cmdOp w = 2 then t.mxinj else 0, launch := t.launch, str := k,
                        actId := match t.act with | some a => a.id | none => 0,
                        tmpl := tp, ring := none, waitOn := wait, waited := false, done := 0, fin := none, num := s.nextId + 1,
                        after := some t.seq }
                    let t1 := { t with mxinj := if cmdOp w = 2 then t.mxinj &&& 0x7FFFFFFFFFFFFFFF else t.mxinj }
                    (room c e ring →
                        ∃ u, exec (.enq e ra rb off) s = .next u ∧ u.engQueue c e = s.engQueue c e ++ [placed c cmd ring]
                          ∧ u.curStr = retired t1 ∧ u.mem = s.mem ∧ pends u c ring ∧ (e = .mxu → u.curCore.mxu.holder = t.launch))
                      ∧ (¬room c e ring →
                        ∃ u, exec (.enq e ra rb off) s = .next u
                          ∧ u.curStr = { t with wait := .enq e cmd ring, routed := u.curStr.routed }
                          ∧ u.engQueue c e = s.engQueue c e))))))
      ∧ (∀ (d j : Nat) (cmd : Cmd), let v := s.str d j
        v.wait = .enq e cmd ring → ((s.core d).sw = .none ∨ v.lvl ≠ 0) → room d e ring →
        ∃ u, exec (.enqAppend d j) s = .next u ∧ u.engQueue d e = s.engQueue d e ++ [placed d cmd ring] ∧ u.cur = s.cur ∧ u.mem = s.mem
          ∧ pends u d ring
          ∧ u.str d j = retired { v with mxinj := if cmdOp cmd.word.toNat = 2 then v.mxinj &&& 0x7FFFFFFFFFFFFFFF else v.mxinj })

/-- R354 to R359: the commands of the matrix unit, a step at a time, once what the step needs has been read (see
`Obligations.EngineReadsAndCompletions`). -/
def Obligations.MatrixCommands : Prop :=
  ∀ (s s1 : State) (c : Nat) (cmd : Cmd) (rest : List Cmd) (b : List Byte) (f : FaultInfo),
    let w := cmd.word.toNat
    let m := w / 2 ^ 205 % 2 ^ 7
    let who := engWho s c .mxu cmd
    let badRow (r : Nat) : Prop := ∃ i ∈ (s.core c).mxu.accBad, i / 16 = r
    let mx (x : State) : Mxu := (x.core c).mxu
    (Heads s c .mxu 0x01 (loadbPieces w) cmd rest →
        let i := w / 2 ^ 210 % 4
        let get := (cmd.bytes who (loadbPieces w)).run s
        (get = .ok (b, s) → Works (.mxLoadb c) s c .mxu (fine cmd) rest (fun u => u.mem = s.mem
            ∧ (u.core c).mac i =
                { tile := tileOf (b.take 16384), sb := BitVec.ofNat 32 (leNat (b.drop 16384)), ity := cmd.ity,
                  csum := tileSums cmd.ity (tileOf (b.take 16384)), poison := false, cleared := false }
            ∧ (∀ j < 4, j ≠ i → (u.core c).mac j = (s.core c).mac j) ∧ (mx u).acc = (mx s).acc))
          ∧ (get = .error (.fault f) → Works (.mxLoadb c) s c .mxu (failed cmd f) rest (fun u => u.mem = s.mem
            ∧ ((u.core c).mac i).poison = true ∧ ∀ j < 4, j ≠ i → (u.core c).mac j = (s.core c).mac j)))
      ∧ (Heads s c .mxu 0x02 (rowsPieces w cmd.mscla cmd.done) cmd rest → cmd.done < 4 →
        let k := w / 2 ^ 202 % 2 ^ 3
        let mb := w / 2 ^ 200 % 4
        let ab := w / 2 ^ 194 % 2 ^ 6
        let mac := (s.core c).mac (mb + cmd.done)
        let rows := (List.range m).map (fun r => (b.drop (128 * r)).take 128)
        let sas := (List.range m).map (fun r => leNat ((b.drop (128 * m + 4 * r)).take 4))
        let agree : Prop := ∀ i < k, ((s.core c).mac (mb + i)).cleared = true ∨ ((s.core c).mac (mb + i)).ity = cmd.ity
        (cmd.done = 0 → ¬agree → Works (.mxRows c) s c .mxu (failed cmd ⟨0x51, 7, 0⟩) rest (fun u => mx u = { mx s with queue := (mx u).queue } ∧ u.mem = s.mem))
          ∧ ((0 < cmd.done ∨ agree) → mac.poison = true → Works (.mxRows c) s c .mxu (failed cmd ⟨0x20, 0, 0⟩) rest (fun u =>
            (mx u).acc = (mx s).acc ∧ ∀ r, r ∈ (mx u).accBad ↔ r ∈ (mx s).accBad ∨ ab ≤ r / 16 ∧ r / 16 < ab + m))
          ∧ ((0 < cmd.done ∨ agree) → mac.poison = false → (cmd.bytes who (rowsPieces w cmd.mscla cmd.done)).run s = .error (.fault f) →
            Works (.mxRows c) s c .mxu (failed cmd f) rest (fun u =>
              (mx u).acc = (mx s).acc ∧ ∀ r, r ∈ (mx u).accBad ↔ r ∈ (mx s).accBad ∨ ab ≤ r / 16 ∧ r / 16 < ab + m))
          ∧ ((0 < cmd.done ∨ agree) → mac.poison = false → (cmd.bytes who (rowsPieces w cmd.mscla cmd.done)).run s = .ok (b, s) →
            (kStep mac cmd.ity cmd.mxinj cmd.done rows = none → Works (.mxRows c) s c .mxu (failed cmd ⟨0x22, 0, 0⟩) rest (fun u =>
                (mx u).acc = (mx s).acc ∧ ∀ r, r ∈ (mx u).accBad ↔ r ∈ (mx s).accBad ∨ ab ≤ r / 16 ∧ r / 16 < ab + m))
              ∧ (∀ g fixed, kStep mac cmd.ity cmd.mxinj cmd.done rows = some (g, fixed) →
                Works (.mxRows c) s c .mxu (if cmd.done + 1 = k then fine { cmd with done := k } else under cmd (cmd.done + 1)) rest (fun u =>
                  (mx u).acc = promoteRows mac cmd.ity ab rows sas g (mx s).acc ∧ (mx u).accBad = (mx s).accBad
                    ∧ (mx u).macros = (mx s).macros ∧ u.mem = s.mem))))
      ∧ (Heads s c .mxu 0x03 [] cmd rest → ∀ (d o : Nat),
        let ab := w / 2 ^ 199 % 2 ^ 6
        let fmt := w / 2 ^ 197 % 4
        let per := rowBytes w / 32
        let r := cmd.done / per
        let h := cmd.done % per
        let row := (List.range 128).map (fun j => (mget 0 (mx s).acc ((ab + r) * 128 + j)).toNat)
        let out := ((row.flatMap (drainElem fmt (w / 2 ^ 135 % 2 ^ 32))).drop (32 * h)).take 32
        let p := nextPtr (BitVec.ofNat 64 (w % 2 ^ 64)) ((r * (w / 2 ^ 177 % 2 ^ 20) + 32 * h : Nat) : Int)
        ∀ s0 : State, ((h = 0 ∧ fmt = 2 ∧ ¬badRow (ab + r)) → s0 = s.drainAmax c cmd row) →
        (¬(h = 0 ∧ fmt = 2 ∧ ¬badRow (ab + r)) → s0 = s) →
        (check who .w p 32 1).run s0 = .ok (.slice d o, s1) → o % 32 = 0 →
        Works (.mxDrain c) s c .mxu (if cmd.done + 1 = per * m then fine { cmd with done := per * m } else under cmd (cmd.done + 1)) rest (fun u =>
          (∀ j < 32, u.mem.get (sliceFlat d o + j) = out.getD j 0)
            ∧ ((badRow (ab + r) → NoneSure s) → ∀ y, y < sliceFlat d o ∨ sliceFlat d o + 32 ≤ y → u.mem.get y = s.mem.get y)
            ∧ (badRow (ab + r) → mfind u.bad (sliceFlat d o / 32) = some .poisoned)
            ∧ (w.testBit 243 = false → (mx u).acc = (mx s).acc)
            ∧ (w.testBit 243 = true → h + 1 = per → ∀ j < 128, mget 0 (mx u).acc ((ab + r) * 128 + j) = 0)))
      ∧ (Heads s c .mxu 0x04 [] cmd rest →
        let ab := w / 2 ^ 199 % 2 ^ 6
        Works (.mxZero c) s c .mxu (fine cmd) rest (fun u => u.mem = s.mem
          ∧ (∀ i, mget 0 (mx u).acc i = if ab * 128 ≤ i ∧ i < (ab + m) * 128 then 0 else mget 0 (mx s).acc i)
          ∧ ∀ r, r ∈ (mx u).accBad ↔ r ∈ (mx s).accBad ∧ ¬(ab ≤ r / 16 ∧ r / 16 < ab + m)))
      ∧ (Heads s c .mxu 0x05 [] cmd rest → ∀ (pl : Place) (a : Nat),
        let i := w / 2 ^ 210 % 4
        (check who .w (BitVec.ofNat 64 (w % 2 ^ 64)) 32 1).run s = .ok (pl, s1) → placeFlat pl = some a → a % 32 = 0 →
        s.inSpan (s.version 0 a) = false → s.shadowOf cmd.launch = 0 →
        Works (.mxChkrd c) s c .mxu (fine cmd) rest (fun u => mx u = { mx s with queue := (mx u).queue }
          ∧ Writes s u (s.version 0 a) (leBytes 32 (chkReport i ((s.core c).mac i)))))

/-- R361, R362: the copy engine, one gathered write at a time, of the elements from the next one on whose destination lies in one sector: a
fill repeats its pattern in each of them; a copy writes what it has gathered of the pieces that it has read, and poisons the sector if a
poisoned sector fed it; no other byte changes; that every sector that it had read stays to be used by the elements that follow is the model's
choice (log 54). R364 to R366, R432: the commands of the crypto engine, whose results go to root-private memory one sector at a time; where that memory lies among the
addresses is the model's choice (log 14), and the bytes of CR.RNG are free values (log 9). -/
def Obligations.CopyAndCrypto : Prop :=
  (∀ (s s1 : State) (c : Nat) (cmd : Cmd) (rest : List Cmd) (pl : Place) (a : Nat),
    let w := cmd.word.toNat
    let total := shapeTotal cmd.shape.toNat
    let p := cmd.dst cmd.done
    let n := cmd.runLen p (total - cmd.done) cmd.done
    let e := elemSize w
    let who := engWho s c .bce cmd
    let new (g : List SectorRead) : Cmd :=
      if total ≤ cmd.done + n then fine { cmd with done := cmd.done + n, got := g } else under { cmd with got := g } (cmd.done + n)
    let moves (i : Instr) (q : State → Prop) : Prop := ∃ g, (∀ x ∈ cmd.got, x ∈ g) ∧ Works i s c .bce (new g) rest q
    placeFlat pl = some a → a % 32 = p.toNat % 32 → s.inSpan (s.version 0 (a - a % 32)) = false → s.shadowOf cmd.launch = 0 →
    (∀ i, (cmd.dst i).toNat % e = 0) →
    (check who .w p e 1).run s = .ok (pl, s1) →
    let base := s.version 0 (a - a % 32)
    (Heads s c .bce 0x12 [] cmd rest →
        moves (.bcFill c) (fun u =>
          (∀ i, cmd.done ≤ i → i < cmd.done + n → ∀ j < e, u.mem.get (base + (cmd.dst i).toNat % 32 + j)
              = BitVec.ofNat 8 (w / 2 ^ (64 + 8 * (j % 8))))
            ∧ (∀ y, (∀ i, cmd.done ≤ i → i < cmd.done + n → ∀ j < e, y ≠ base + (cmd.dst i).toNat % 32 + j) → u.mem.get y = s.mem.get y)))
      ∧ (Heads s c .bce 0x11 (bcPieces cmd) cmd rest → ∀ (bs : Map Byte) (bad : Bool),
        (gather who cmd ((List.range n).map (fun j => cmd.done + j)) ([], false)).run s = .ok ((bs, bad), s) →
        (bs.map (·.1)).Nodup → (∀ b ∈ bs, b.1 < 32) →
        moves (.bcCopy c) (fun u =>
          (∀ b ∈ bs, u.mem.get (base + b.1) = b.2) ∧ ((bad = true → NoneSure s) → ∀ y, (∀ b ∈ bs, y ≠ base + b.1) → u.mem.get y = s.mem.get y)
            ∧ (bad = true → mfind u.bad (base / 32) = some .poisoned))))
    ∧ (∀ (s : State) (cmd : Cmd) (rest : List Cmd) (b : List Byte) (p : Word) (k : Nat),
    let w := cmd.word.toNat
    let i := w / 2 ^ 208 % 4
    let mode := w / 2 ^ 210 % 4
    let q0 : Word := BitVec.ofNat 64 (w % 2 ^ 64)
    let q1 : Word := BitVec.ofNat 64 (w / 2 ^ 64 % 2 ^ 64)
    let noCtx := failed cmd ⟨0x51, 8, 0⟩
    let at_ (p : Word) : Nat := sliceFlat 4096 (ptrOff p)
    let next (ps : List (Word × Nat)) : Cmd := if ps.length ≤ cmd.done + 1 then fine cmd else under cmd (cmd.done + 1)
    (Heads s 4096 .crypto 0x21 [] cmd rest → mode = 0 →
        Works .crShaInit s 4096 .crypto (fine cmd) rest (fun u => u.shaCtx i = some ShaCtx.init ∧ u.mem = s.mem
            ∧ ∀ j < 4, j ≠ i → u.shaCtx j = s.shaCtx j))
      ∧ (Heads s 4096 .crypto 0x21 (updatePieces cmd) cmd rest → mode = 1 →
            (s.shaCtx i = none → Works .crShaUpdate s 4096 .crypto noCtx rest (fun u => u.mem = s.mem))
              ∧ (∀ x, s.shaCtx i = some x → (cmd.bytes (engWho s 4096 .crypto cmd) (updatePieces cmd)).run s = .ok (b, s) →
                Works .crShaUpdate s 4096 .crypto (fine cmd) rest (fun u => u.shaCtx i = some (x.update b) ∧ u.mem = s.mem)))
      ∧ (Heads s 4096 .crypto 0x21 [] cmd rest → mode = 2 → let ps := pieces 3 q0 48
            (s.shaCtx i = none → Works .crShaFinal s 4096 .crypto noCtx rest (fun u => u.mem = s.mem))
              ∧ (∀ x, s.shaCtx i = some x → ps[cmd.done]? = some (p, k) → ptrOff p + k ≤ 2 ^ 21 →
                Works .crShaFinal s 4096 .crypto (next ps) rest (fun u => u.shaCtx i = (if ps.length ≤ cmd.done + 1 then none else some x)
                  ∧ Writes s u (at_ p) ((x.final.drop ((ps.take cmd.done).map (·.2)).sum).take k))))
      ∧ (Heads s 4096 .crypto 0x22 (ecvPieces cmd) cmd rest → (cmd.bytes (engWho s 4096 .crypto cmd) (ecvPieces cmd)).run s = .ok (b, s) →
        let v (i : Nat) : Nat := beNat ((b.drop (48 * i)).take 48)
        cmd.done = 0 → q1.toNat % 8 = 0 → ptrOff q1 + 8 ≤ 2 ^ 21 →
        Works .crEcv s 4096 .crypto (fine cmd) rest (fun u => Writes s u (at_ q1) (leBytes 8 (ecVerify (v 0) (v 1) (v 2) (v 3) (v 4)))))
      ∧ (Heads s 4096 .crypto 0x23 [] cmd rest → let m := w / 2 ^ 205 % 2 ^ 7
        let ps := pieces m q0 (32 * m)
        (cmd.done = 0 → s.root.drbgFailed = true →
            ∀ h, Works (.crRng h) s 4096 .crypto (failed cmd ⟨0x51, 9, 0⟩) rest (fun u => u.mem = s.mem))
          ∧ (cmd.done = 0 → s.root.drbgFailed = false → Works (.crRng false) s 4096 .crypto (failed cmd ⟨0x51, 9, 0⟩) rest (fun u =>
              u.mem = s.mem ∧ u.root.drbgFailed = true ∧ u.root.drbgFailures = s.root.drbgFailures + 1))
          ∧ (∀ h, (cmd.done = 0 → s.root.drbgFailed = false ∧ h = true) → q0.toNat % 32 = 0 → ps[cmd.done]? = some (p, k) →
              ptrOff p + k ≤ 2 ^ 21 →
              Works (.crRng h) s 4096 .crypto (next ps) rest (fun u =>
                Writes s u (at_ p) ((List.range 32).map (fun i => Config.random (s.root.drawn + i))) ∧ u.root.drawn = s.root.drawn + 32))))

/-- R84, R133, R135, R350: a read of a command of a sector of this package is one access: the command keeps its 32 bytes, with POISON if the
sector is bad, which is then poisoned in place (that a command reads a sector once for all that it needs of it is the model's choice, log
54; that an uncorrectable sector too ends its command with POISON is the model's reading, log 22). R136, R285, R324, R351, R357: ENGINE_COMPLETION: the command that has ended leaves its queue; its ring slot is filled and pends no
longer; one that ended in error sends a fault record of its launch to the core itself, and an MX.DRAIN that asks for it its wake-up message.
-/
def Obligations.EngineReadsAndCompletions : Prop :=
  (∀ (s s1 : State) (c : Nat) (e : Engine) (j n a : Nat) (p : Word) (cmd : Cmd) (pl : Place),
    (s.engQueue c e)[j]? = some cmd → let w := engWho s c e cmd
    (check w .r p n 1).run s = .ok (pl, s1) → placeFlat pl = some a → s.lost w pl = false →
    let u := s.readPiece c e j p n
    let b := a / 32 * 32
    let bad : Option FaultInfo := if s.mark cmd.launch b = none then none else some { code := 0x20, detail := 0, val := p }
    let read : SectorRead := { sec := p.toNat / 32, place := (sectorBase pl).1, bytes := bytesAt s cmd.launch b 32, bad := bad }
    (u.engQueue c e)[j]? = some { cmd with waited := true, after := none, got := cmd.got ++ [read] }
      ∧ u.mem = s.mem ∧ (s.mark cmd.launch b ≠ none → u.mark cmd.launch b = some .poisoned)) ∧
  ∀ (s : State) (c : Nat) (e : Engine) (cmd : Cmd) (rest : List Cmd) (r : Option FaultInfo),
    s.engQueue c e = cmd :: rest → cmd.fin = some r → (s.core c).awaits (· == engId e cmd) = false →
    ∃ u, exec (.engineCompletion c e) s = .next u ∧ u.engQueue c e = rest ∧ u.mem = s.mem
      ∧ (∀ g j, cmd.ring = some (g, j) → let x := (s.core c).ring g
          let y := (u.core c).ring g
          y.pend = x.pend - 1 ∧ (∀ q, q ∈ y.filled ↔ q ∈ x.filled ∨ q = j.toNat % 2 ^ x.s) ∧ y.l = x.l ∧ y.a = x.a ∧ y.s = x.s ∧ y.v = x.v)
      ∧ (r = none → (cmdOp cmd.word.toNat ≠ 3 ∨ cmd.word.getLsbD 245 = false) → u.net = s.net)
      ∧ (∀ l, r = none → cmd.launch = some l → cmdOp cmd.word.toNat = 3 → cmd.word.getLsbD 245 = true → ∃ f, u.net = s.net ++ [f]
          ∧ f.msg.launch = l ∧ f.msg.dest = .core (cmd.word.toNat / 2 ^ 32 % 2 ^ 12) ∧ f.msg.hid = cmd.word.toNat / 2 ^ 171 % 2 ^ 6
          ∧ f.msg.key.toNat = cmd.word.toNat / 2 ^ 64 % 2 ^ 40 ∧ f.msg.op = cmd.word.toNat / 2 ^ 167 % 2 ^ 4
          ∧ f.msg.payload.toNat % 2 ^ 64 = cmd.word.toNat % 2 ^ 64)
      ∧ (∀ l o x, r = some x → cmd.launch = some l → (s.core c).on l = some o → ∃ f, u.net = s.net ++ [f]
          ∧ f.msg.launch = l ∧ f.msg.dest = .core o.lcore ∧ f.msg.hid = 63 ∧ f.msg.mon = true
          ∧ (x.code < 256 → x.detail < 256 → f.msg.payload.toNat % 2 ^ 64 = (match e with | .mxu => 0 | .bce => 1 | .crypto => 2) * 2 ^ 26
              + 2 ^ 20 + x.detail * 2 ^ 8 + x.code))
      ∧ (∀ x, r = some x → e = .mxu → (u.core c).mxu.err.toNat = x.code % 256)

/-! ## The combining queue -/

namespace Sys2Proof.Claims

/-- What an operator makes of one lane of a record and of a message (R177), floating point and FIRST apart. -/
def foldOf (op : Nat) (a b : Nat) : Option Nat :=
  match op with
  | 1 => some ((a + b) % 2 ^ 64)
  | 3 => some (if sfield b 64 < sfield a 64 then b else a)
  | 4 => some (if sfield a 64 < sfield b 64 then b else a)
  | 5 => some (min a b)
  | 6 => some (max a b)
  | 9 => some (a ||| b)
  | 10 => some (a &&& b)
  | 11 => some (a ^^^ b)
  | _ => none

/-- The record is the one that a message folds into (R174): the same launch, handler, key and operator, for an operator that combines,
and not one that a rollback returned. -/
def isRecordOf (m : Msg) (r : Rec) : Bool :=
  decide (m.op ≠ 0 ∧ r.nc = false ∧ r.launch = m.launch ∧ r.hid = m.hid ∧ r.key = m.key ∧ r.op = m.op)

end Sys2Proof.Claims

/-- R76, R77, R95, R174, R175, R177, R180, R181, R188: arrival. A message or an ARM of a running launch that its core accepts, and that no
fault record is, makes a new record where none has its identity, else it folds into that record; each counted message takes one from
the count, an ARM adds its argument. One for which there is no room stays, and the core accepts no more for its launch; one for a
launch whose state departs is discarded and counted. A message whose tag fails counts in TAGFAIL and is sent again under a new sequence
number, up to the fourth failure, which is reported; its origin in that report is the model's reading (log 17). One that a unit sends to itself
crosses no mesh, and its tag cannot fail. -/
def Obligations.Arrivals : Prop :=
  ∀ (s : State) (ix : Nat) (f : Flight) (l : Launch) (o : OnCore) (n : Nat), s.net[ix]? = some f → f.msg.dest = .core n →
    s.launch f.msg.launch = some l →
    let m := f.msg
    let c := l.phys n
    let co := s.core c
    let ev (ok : Bool) : Instr := if m.arm.isSome then .armArrival ix ok else .messageArrival ix ok
    let arg : Int := match m.arm with
      | some a => a.toInt
      | none => if m.cnt then -1 else 0
    let counts : Bool := m.arm.isSome || m.cnt
    (s.arrives f = true → l.phase = .running → co.on m.launch = some o → l.handlerV m.hid = true → (m.mon = false ∨ m.hid ≠ 63) →
        (co.records.filter (fun x => x.spill.isNone)).length < 256 →
        ((∀ r ∈ co.records, isRecordOf m r = false) → m.op ∉ [2, 7, 8] → ∃ u r, exec (ev true) s = .next u
            ∧ u.net = dropAt s.net ix ∧ (u.core c).records = co.records ++ [r] ∧ u.mem = s.mem
            ∧ r.launch = m.launch ∧ r.hid = m.hid ∧ r.key = m.key ∧ r.op = m.op ∧ r.src = m.src ∧ r.nc = false ∧ r.redo = 0
            ∧ r.count.toInt = arg ∧ r.c = counts ∧ r.armed = m.arm.isSome ∧ r.flags = 0 ∧ r.wrap = 0 ∧ r.spill = none
            ∧ (m.arm = none → r.payload = m.payload))
          ∧ (∀ r, co.records.find? (isRecordOf m) = some r → r.spill = none → -2 ^ 31 ≤ r.count.toInt + arg →
            r.count.toInt + arg < 2 ^ 31 → ∃ u q, exec (ev true) s = .next u
              ∧ u.net = dropAt s.net ix ∧ (u.core c).records = co.records.map (fun x => if x = r then q else x) ∧ u.mem = s.mem
              ∧ q.launch = r.launch ∧ q.hid = r.hid ∧ q.key = r.key ∧ q.op = r.op ∧ q.src = r.src ∧ q.redo = r.redo
              ∧ q.count.toInt = r.count.toInt + arg ∧ q.c = (r.c || counts) ∧ q.armed = (r.armed || m.arm.isSome)
              ∧ (q.flags.getLsbD 7 = (r.flags.getLsbD 7 || (r.c != counts)))
              ∧ (m.arm.isSome = true → q.payload = r.payload)
              ∧ (m.arm = none → ∀ i < 4, ∀ v, foldOf m.op (lane r.payload i) (lane m.payload i) = some v → lane q.payload i = v)))
      ∧ (s.arrives f = true → l.phase = .running → co.on m.launch = some o → l.handlerV m.hid = true → (m.mon = false ∨ m.hid ≠ 63) →
        256 ≤ (co.records.filter (fun x => x.spill.isNone)).length → l.qspn = 0 → (∀ r ∈ co.records, isRecordOf m r = false) →
        ∃ u, exec (ev true) s = .next u ∧ u.net = s.net ∧ (u.core c).records = co.records ∧ u.mem = s.mem ∧ u.arrives f = false)
      ∧ (s.arrives f = true → (∃ a b k, l.phase = .ending a b k) → ∃ u, exec (ev true) s = .next u ∧ u.net = dropAt s.net ix
        ∧ (u.core c).records = co.records ∧ u.mem = s.mem ∧ mget 0 u.counts f.unit = mget 0 s.counts f.unit + 1)
      ∧ (∀ p, s.arrives f = true → f.unit ≠ f.sender → (s.vf f.vf).part = some p →
          ∃ u, exec (ev false) s = .next u ∧ u.net = setAt s.net ix { f with nacked := true } ∧ u.mem = s.mem
          ∧ (u.core c).records = co.records
          ∧ ((u.part p).meters[13]).toNat = min (((s.part p).meters[13]).toNat + 1) (2 ^ 64 - 1))
      ∧ (∀ p, f.nacked = true → f.nacks < 3 → (s.vf f.vf).part = some p → let q := s.seqOf f.sender p
          ∃ u, exec (.nack ix) s = .next u
          ∧ u.net = setAt s.net ix { f with nacked := false, nacks := f.nacks + 1, seq := q.toNat } ∧ u.mem = s.mem
          ∧ u.seqOf f.sender p = q + 1)
      ∧ (f.nacked = true → 3 ≤ f.nacks → ∀ q, (s.core f.fromCore).on m.launch = some q → ∃ u x, exec (.nack ix) s = .next u
          ∧ u.net = dropAt s.net ix ++ [x] ∧ x.msg.hid = 63 ∧ x.msg.dest = .core q.lcore ∧ x.msg.payload.toNat % 2 ^ 64 = 2 * 2 ^ 20 + 0x21)

/-- R161, R163, R165, R168: a free string takes the record to select of the launch it serves: its registers hold the key, the source, the
count, the payload, the parameter pointer and the logical core, it runs the record's handler under the launch's owner, and the record
has left the queue. Ageing lets cycles pass until the record has gained a level. -/
def Obligations.Selection : Prop :=
  ∀ (s : State) (c k : Nat), let co := s.core c
    (∀ (i : Nat) (o : OnCore) (l : Launch) (r : Rec), s.launchAt c k = some (i, o) → s.launch i = some l → s.delivers c l = true →
        (co.str k).run = .free → pickRec l o co.cycle (co.records.filter (fun r => r.launch == i)) = some r → r.spill = none →
        ∃ u a, exec (.recordSelection c k) s = .next u ∧ (u.core c).records = co.records.filter (fun x => x != r) ∧ u.mem = s.mem
          ∧ (let t := u.str c k
            t.run = .running ∧ t.lvl = 0 ∧ t.act = some a ∧ t.owner = BitVec.ofNat 14 l.owner
              ∧ t.pc = nextPtr (BitVec.ofNat 64 (l.f 64 64)) ((field (l.handler r.hid) 0 32 : Nat) : Int)
              ∧ t.getX 1 = r.key.zeroExtend 64 ∧ t.getX 2 = BitVec.ofNat 64 r.src
              ∧ (r.flags = 0 → r.wrap = 0 → r.armed = false → t.getX 3 = r.count.signExtend 64)
              ∧ (∀ j < 4, t.getX (4 + BitVec.ofNat 5 j) = BitVec.ofNat 64 (lane r.payload j))
              ∧ t.getX 8 = slicePtr s.pkg 0 0xC0000000 ∧ t.getX 9 = BitVec.ofNat 64 o.lcore
              ∧ (∀ q : XReg, 10 ≤ q.toNat → t.getX q = 0) ∧ t.xm = (co.str k).xm ∧ t.trapc = 0 ∧ t.trapv = 0 ∧ t.trappc = 0
              ∧ (∀ q, t.rawV q = 0) ∧ t.st = Vector.replicate 4 none ∧ t.fflg = 0 ∧ t.jflg = 0 ∧ t.amax = 0 ∧ t.sb = [] ∧ t.lds = [])
          ∧ a.launch = r.launch ∧ a.trig = r ∧ a.ec = false ∧ a.rst = (l.handler r.hid).testBit 37 ∧ a.outbox = [] ∧ a.journal = [] ∧ a.jmarks = [])
      ∧ (∀ (ix : Nat) (r : Rec), co.records[ix]? = some r → r.runnable = true →
        ∃ u, exec (.recordAgeing c ix) s = .next u ∧ ((u.core c).cycle - r.since).toNat % 2 ^ 16 = 0 ∧ u.mem = s.mem
          ∧ (u.core c).records = co.records)

/-! ## The life of a launch -/

/-- R146, R155, R156, R161, R162, R169, R170, R382, R405: the record of a launch is read from the launch ring; START goes to its cores, whose
instruction caches are emptied, when they all run its function; the first status that arrives decides and stops its strings; when nothing of
it is outstanding its windows are cleared, it leaves, and its completion becomes an entry of the event ring, and with PV a message to the core
of its parent that its record names, which is discarded and counted there if the parent has gone; a commit switches block by block to the
copy, which is then copied back, poison with it, but for what lies in a listed span; a replay clears its cores and sends START again. The
model's own are that START empties the instruction caches (log 55), that the entry is queued with PV too and no message is sent where the record
names no core of the parent (log 29), what a replay keeps of the messages to HOST (log 17), and that the queues of other functions are decided
again when a shadow launch completes (log 87). -/
def Obligations.LaunchLife : Prop :=
  ∀ (s : State) (i : Nat) (l : Launch), s.launch i = some l →
    let starts (fs : List Flight) : Prop := fs.length = l.place.length ∧ ∀ j (h : j < fs.length), let m := (fs[j]).msg
      m.launch = i ∧ m.dest = .core j ∧ m.hid = 0 ∧ m.op = 0 ∧ m.cnt = false ∧ m.src = 0xFFFF ∧ m.payload = 0 ∧ m.arm = none
    let scheduled : Prop := ∀ c ∈ l.place, (s.core c).vf = some l.vf ∧ (s.core c).sw = .none
    (l.phase = .admitted → scheduled → ∃ u fs, exec (.startMessage i) s = .next u ∧ u.launch i = some { l with phase := .running }
        ∧ u.net = s.net ++ fs ∧ starts fs ∧ u.mem = s.mem
        ∧ ∀ c ∈ l.place, ∀ o, (s.core c).on i = some o → ∃ p, (u.core c).on i = some p
            ∧ (∀ h < 64, p.mask.getLsbD h = (l.handler h).testBit 36) ∧ (u.core c).icache = [])
      ∧ (∀ (p ix st v : Nat) (keep : Bool) (rest : List (Nat × Nat × Bool)), (s.part p).pstate ≠ .fenced → s.ended p ix = some (i, l) →
        l.ends = (st, v, keep) :: rest → ∃ u, exec (.launchEnd p ix) s = .next u
          ∧ u.launch i = some { l with phase := .ending st v keep, ends := [] } ∧ u.mem = s.mem
          ∧ (∀ c ∈ l.place, (∀ k ∈ s.stringsOf i l c, (u.str c k).run ≠ .running) ∧ ∀ r ∈ (u.core c).records, r.launch ≠ i))
      ∧ (∀ (st v : Nat) (keep : Bool), l.phase = .ending st v keep → s.launchIdle i l = true → (s.part l.part).pstate ≠ .fenced →
        (l.shadow = 0 ∨ ∀ r ∈ s.redirects, r.1 ≠ shadowKey l.part l.shadow) → st < 256 →
        (NoneSure s ∧ (∀ r ∈ s.switched, r.2 < 2 ^ 30) ∨ ∀ r ∈ s.switched, r.1 ≠ shadowKey l.part l.shadow) →
        let w := l.serial.toNat * 2 ^ 192 + v % 2 ^ 32 * 2 ^ 160 + l.f 32 32 * 2 ^ 128 + st * 2 ^ 40 + 16
        ∃ s1, exec (.completionRecordWrite i) s = .next ((State.decideQueue s1 l.vf).decideShadows l) ∧ s1.launch i = none
          ∧ (l.shadow ≠ 0 → ∀ r ∈ s1.switched, r.1 ≠ shadowKey l.part l.shadow)
          ∧ (∀ c ∈ l.place, ∀ o, (s.core c).on i = some o → (s.core c).vf = some l.vf → ∀ j < l.winBytes,
              s1.mem.get (sliceFlat c o.wbase + j) = 0)
          ∧ (∃ e : EventEntry, (s1.vf l.vf).entries = (s.vf l.vf).entries ++ [e] ∧ e.notify = l.record.getLsbD 9 ∧ e.bits.toNat = w)
          ∧ (l.record.getLsbD 722 = false ∨ l.pcore = none → s1.net = s.net)
          ∧ (∀ d, l.record.getLsbD 722 = true → l.pcore = some d → l.parent.bind s.launch = none →
              s1.net = s.net ∧ mget 0 s1.counts (coreUnit d) = mget 0 s.counts (coreUnit d) + 1)
          ∧ (∀ d j x, l.record.getLsbD 722 = true → l.pcore = some d → l.parent = some j → s.launch j = some x →
              ∃ f, s1.net = s.net ++ [f] ∧ f.msg.launch = j ∧ f.msg.dest = .core (l.f 704 12) ∧ f.msg.hid = l.f 716 6 ∧ f.msg.op = 0
                ∧ f.msg.payload.toNat = w))
      ∧ (∀ (key b : Nat), l.commitKey = key → key ≠ 0 → (key, b) ∈ s.redirects → (key, b) ∉ s.switched → s.mayComplete i l = true →
        ∃ u, makeMove (.commitBlock key b) s = .next u ∧ (key, b) ∉ u.redirects ∧ (∀ r ∈ s.redirects, r ≠ (key, b) → r ∈ u.redirects)
          ∧ (∀ y, y / 4096 = b → y < 2 ^ 42 → u.version 0 y = s.copyPa key y) ∧ (NoneSure s → u.mem = s.mem ∧ u.bad = s.bad))
      ∧ (∀ (key b : Nat), (key, b) ∈ s.switched → ∃ u, makeMove (.copyBack key b) s = .next u ∧ (key, b) ∉ u.switched
          ∧ (NoneSure s → ((∀ x ∈ s.allSpans, overlaps x.pa x.len (b * 4096) 4096 = false) → ∀ y, y < 2 ^ 42 → u.mem.get y = (if y / 4096 = b then s.mem.get (s.copyPa key y) else s.mem.get y))
              ∧ ∀ j < 128, s.markAt (s.copyPa key (b * 4096) + 32 * j) ≠ none → mfind u.bad (b * 128 + j) = some .poisoned))
      ∧ (l.phase = .running → l.replayDue = true → scheduled → (∀ c ∈ l.place, ∀ k ∈ s.stringsOf i l c, (s.str c k).run ≠ .running) →
        s.launchIdle i l = true → ∃ u fs, exec (.replay i) s = .next u
          ∧ u.launch i = some { l with replays := l.replays + 1, replayDue := false, barriers := [], ends := [] }
          ∧ (∃ old, u.net = old ++ fs ∧ ∀ f ∈ old, f.msg.launch ≠ i ∨ f.msg.dest = .host) ∧ starts fs)
      ∧ (∀ (f p : Nat) (r : BitVec 1024), let v := s.vf f
        v.part = some p → (s.part p).pstate = .running → (s.part p).stopping = false → v.le = false → bitAt v.lrcfg.toNat 5 = true →
        v.lh ≠ v.lp → ∃ s1, exec (.launchRecordRead f (some r)) s = .next (State.enterQueue s1 { Launch.init with
            serial := BitVec.ofNat 64 (2 ^ 63 + f * 2 ^ 48 + v.lcount.toNat), vf := f, part := p, record := r })
          ∧ s1.mem = s.mem ∧ (s1.vf f).lh = v.lh + 1 ∧ (s1.vf f).lcount = v.lcount + 1)

/-- R95, R96, R367 to R370, R377 to R384: a quantum that is over makes the next step of the walk; a core that is told to switch saves the
function, when nothing of it is outstanding on any core of the partition, to its block of the save area, the slice with it, and clears
it; a core that is told to go restores the next one from its block, slice windows and MXU included; when every core that is not
retired has, its quantum starts; what a block holds of a launch that has ended since is not restored. A write to the quantum table keeps the
reserved bits zero. That the end of a quantum is an event from outside is the model's choice (log 3); that a core saves once nothing of the
function is outstanding on any core of the partition, and that cores which have been retired take no part, are its readings (logs 23, 37);
the places within a block are its own where the specification gives none (log 18). Of the slice, the windows of the launches that have not ended
are saved. -/
def Obligations.Rotation : Prop :=
  ∀ (s : State) (p c : Nat), let q := s.part p
    let co := s.core c
    let a (f : Nat) : Nat := s.blockBase c f
    let sorted : Prop := (co.res.map (·.1)).Pairwise (· < ·)
    let sameBut (u : State) (r : Partition) : Prop := u.part p = { r with meters := (u.part p).meters, wearSub := (u.part p).wearSub }
    (∀ i, q.rot = .steady true → q.pstate = .running → s.walkTable p = some i → let f := field (q.qent i) 32 9
        (q.sched = some f → ∃ u, exec (.quantumExpiry p) s = .next u ∧ sameBut u { q with qpos := (i + 1) % 32, rot := .steady true }
            ∧ u.mem = s.mem)
          ∧ (∀ o, q.sched = some o → o ≠ f → ∃ u, exec (.quantumExpiry p) s = .next u
            ∧ sameBut u { q with qpos := (i + 1) % 32, rot := .saving o f } ∧ u.mem = s.mem
            ∧ ∀ c ∈ s.liveCores p, (u.core c).sw = .told o f (u.core c).cycle))
      ∧ (∀ (f g n : Nat) (since : Word), co.sw = .told f g since → co.part = some n → (∀ k ∈ s.vfStrs c f, (co.str k).holdsSwitch = false) →
        (∀ k ∈ s.vfStrs c f, ∀ a, (co.str k).act = some a → a.rst = false) → (∀ d ∈ s.liveCores n, s.coreQuiet d f = true) → sorted →
        ∃ u, exec (.switch c) s = .next u ∧ (u.core c).vf = none ∧ ((u.core c).sw = .saved ∨ ∃ h, (u.core c).sw = .go h)
          ∧ ((u.core c).vfc f).saved = some (s.saveBlock c f)
          ∧ (∀ k ∈ s.vfStrs c f, ((u.core c).str k).act = none) ∧ (∀ j < 524288, u.mem.get (sliceFlat c 0 + j) = 0)
          ∧ (s.Inv → s.switched = [] → a f + 0xA8000 ≤ 2 ^ 42 → (∀ x ∈ s.allSpans, overlaps x.pa x.len (a f) 0xA8000 = false) → ∀ j < 524288,
              let live : Prop := ∃ r ∈ s.vfLive c f, ∃ l, s.launch r.1 = some l ∧ r.2.wbase ≤ j ∧ j < r.2.wbase + l.winBytes
              (live → u.mem.get (a f + 0x28000 + j) = s.mem.get (sliceFlat c 0 + j)) ∧ (¬live → u.mem.get (a f + 0x28000 + j) = 0))
          ∧ (s.switched = [] → ∀ y, (y < sliceFlat c 0 ∨ sliceFlat c 0 + 524288 ≤ y) → (y < a f ∨ a f + 0xA8000 ≤ y) → u.mem.get y = s.mem.get y))
      ∧ (∀ (f g n d : Nat) (since : Word), co.sw = .told f g since → co.part = some n → (∀ k ∈ s.vfStrs c f, (co.str k).holdsSwitch = false) →
        (∀ k ∈ s.vfStrs c f, ∀ a, (co.str k).act = some a → a.rst = false) → d ∈ s.liveCores n → s.coreQuiet d f = false →
        exec (.switch c) s = .next s)
      ∧ (∀ f, co.sw = .go f → (co.vfc f).saved = none → ∃ u, exec (.go c) s = .next u ∧ (u.core c).vf = some f ∧ (u.core c).sw = .restored
          ∧ u.mem = s.mem)
      ∧ (∀ f b, co.sw = .go f → (co.vfc f).saved = some b → (∀ x ∈ b.strs, (co.str x.1).run = .free) →
        (b.strs.map (·.1)).Nodup → (∀ r ∈ b.records, r.spill = none) → sorted → s.switched = [] →
        let kept := s.kept c f b
        let has (i : Nat) : Prop := ∃ o, (i, o) ∈ kept
        ∃ u, exec (.go c) s = .next u ∧ (u.core c).vf = some f ∧ (u.core c).sw = .restored
          ∧ (∀ x ∈ b.strs, let t := u.str c x.1
              let y := readStr s.mem (a f + 0x1000 + 0x2000 * x.1) x.2
              ((∀ r ∈ kept, x.1 ∉ r.2.strs) → t = s.str c x.1)
                ∧ (∀ r ∈ kept, x.1 ∈ r.2.strs → let z := co.str x.1
                    x.2.seq ≤ t.seq ∧ t = { y with xm := z.xm, trapc := z.trapc, trapv := z.trapv, trappc := z.trappc, seq := t.seq }))
          ∧ (∀ r ∈ (u.core c).records, r ∈ co.records ∨ has r.launch)
          ∧ ((u.core c).vfc f).saved = none
          ∧ (s.Inv → ∀ j < 524288,
              let inWindow : Prop := ∃ r ∈ kept, ∃ l, s.launch r.1 = some l ∧ r.2.wbase ≤ j ∧ j < r.2.wbase + l.winBytes
              (inWindow → u.mem.get (sliceFlat c 0 + j) = s.mem.get (a f + 0x28000 + j))
                ∧ (¬inWindow → u.mem.get (sliceFlat c 0 + j) = 0))
          ∧ ((∀ i, b.mxu.holder = some i → ¬has i) → (u.core c).mxu = Mxu.init)
          ∧ (∀ q, b.mxu.holder = some q → has q → let m := (u.core c).mxu
            m.holder = b.mxu.holder ∧ m.err = s.mem.get (a f + 0xE007) ∧ m.queue.length = b.mxu.queue.length
              ∧ ∀ i (h : i < 4), (∀ j < 0x4000, (m.macros[i]).tile.get j = s.mem.get (a f + 0x17000 + 0x4000 * i + j))
                ∧ (m.macros[i]).csum = tileSums (m.macros[i]).ity (m.macros[i]).tile))
      ∧ (∀ f, q.rot = .restoring f → (∀ c ∈ s.liveCores p, (s.core c).sw = .restored) → ∃ u, exec (.quantumStart p) s = .next u
          ∧ sameBut u { q with sched := some f, rot := .steady true } ∧ u.mem = s.mem ∧ ∀ c ∈ s.liveCores p, (u.core c).sw = .none)
      ∧ (∀ (i : Nat) (h : i < 32) (v : Word), s.dev.rdy = true → ∃ u, exec (.quantumTableWrite p i v) s = .next u ∧ u.mem = s.mem
          ∧ ((u.part p).qt[i]'h).toNat = v.toNat % 2 ^ 40 + (if v.getLsbD 40 then 2 ^ 40 else 0) + (if v.getLsbD 48 then 2 ^ 48 else 0)
          ∧ ∀ j (g : j < 32), j ≠ i → (u.part p).qt[j]'g = q.qt[j]'g)

/-! ## Walks, searches, errors and the stream unit -/

/-- R33, R34, R53, R77, R89, R113, R140, R390, R414: the walker and the searcher serve the oldest miss of their kind, and give the string what
they found; a load that ends with an error response traps at its own address and counts, a store is reported to its core; the stream unit
reads the elements ahead, each whole, and writes those pushed, once the accesses before the SBIND have performed. That what a walk or a search finds goes to the access that waits for it, and the
pointer of an error response to a vector store, are the model's readings (logs 12, 53). -/
def Obligations.UnitEvents : Prop :=
  ∀ (s s1 : State) (c k : Nat), k < 4 → let co := s.core c
    let t := s.str c k
    (∀ (p va j : Nat) (e : TlbEntry), j < 4 → co.part = some p → co.misses.find? (fun m => match m with | .tlb _ _ => true | _ => false) = some (.tlb j va) →
        walk s.seen (s.part p) va = .ok e → ∃ u, exec (.tlbWalk c) s = .next u ∧ u.mem = s.mem ∧ (u.core c).tlb = tlbInstall co.tlb e
          ∧ (u.core c).misses = co.misses.filter (fun x => x != .tlb j va)
          ∧ u.str c j = { s.str c j with inHand := (s.str c j).inHand ++ [.page va e] })
      ∧ (∀ (p va j x : Nat), j < 4 → co.part = some p → co.misses.find? (fun m => match m with | .tlb _ _ => true | _ => false) = some (.tlb j va) →
        walk s.seen (s.part p) va = .error x → ∃ u, exec (.tlbWalk c) s = .next u ∧ u.mem = s.mem ∧ (u.core c).tlb = co.tlb
          ∧ u.str c j = { s.str c j with inHand := (s.str c j).inHand ++ [.noPage va x] })
      ∧ (∀ (p j o pkg off : Nat), j < 4 → co.part = some p → co.misses.find? co.mayRead = some (.plb j o pkg off) →
        ∃ u, exec (.plbSearch c) s = .next u ∧ u.mem = s.mem ∧ (u.core c).misses = co.misses.filter (fun x => x != .plb j o pkg off)
          ∧ (∀ e, search s.seen (s.part p) o pkg off = some e → (u.core c).plb = plbInstall co.plb { owner := o, entry := e }
              ∧ u.str c j = { s.str c j with inHand := (s.str c j).inHand ++ [.range o pkg off e] })
          ∧ (search s.seen (s.part p) o pkg off = none → (u.core c).plb = co.plb
              ∧ u.str c j = { s.str c j with inHand := (s.str c j).inHand ++ [.noRange o pkg off] }))
      ∧ (∀ (l : Load) (e : SectorEv) (w : Bool), t.lds = [l] → Due c t l e → l.evs = [e] → l.bad = none → l.sure = false →
        l.isAtomic = false → l.undo = none → t.run = .running → t.lvl = 0 → (∀ a, t.act = some a → a.rst = false) →
        (∀ f a b, e.place ≠ .host f a b) → (∀ f, e.place ≠ .notice f) → crosses c e.place = true →
        let code := match e.place with | .remote _ _ => 0x41 | _ => if w then 0x16 else 0x21
        ∃ u v, exec (.errorResponse c k 0 true w) s = .next u ∧ exec (.responseTimeout c k 0 true) s = .next v ∧ u.mem = s.mem
          ∧ Trapped { t with lds := [] } (u.str c k) co.mentry 0 0 code (l.ptrAt e) l.pc
          ∧ (w = false → (∀ r ∈ s.hostReqs, reqOf c k l.seq e r.2 = false) → v = u)
          ∧ (w = false → ∀ p, s.partOf c = some p → placeFlat e.place ≠ none →
              ((u.part p).meters[13]).toNat = min (((s.part p).meters[13]).toNat + 1) (2 ^ 64 - 1)))
      ∧ (∀ (x : Store) (e : SectorEv) (w : Bool) (l : Nat) (o : OnCore), t.sb = [x] → x.evs = [e] → x.launch = some l → co.on l = some o →
        (∀ f a b, e.place ≠ .host f a b) → (∀ f, e.place ≠ .notice f) → crosses c e.place = true → storeReady c t 0 0 = true →
        ∃ u f, exec (.errorResponse c k 0 false w) s = .next u ∧ u.mem = s.mem ∧ (u.str c k).sb = [] ∧ u.net = s.net ++ [f]
          ∧ f.msg.hid = 63 ∧ f.msg.dest = .core o.lcore ∧ f.msg.payload.toNat % 2 ^ 64 = 3 * 2 ^ 20 + (if w then 0x16 else 0x21)
          ∧ f.msg.payload.toNat / 2 ^ 64 % 2 ^ 64 = (x.ptrAt e).toNat)
      ∧ (∀ (j : Nat) (x : Stream) (pl : Place) (a ix : Nat), t.st.toList[j]? = some (some x) → eltWanted co k j x (x.pos + ix) = true →
        s.lost (streamWho s c k x) pl = false → s.lost (streamWho s c k x) (placeAdd pl 32) = false → s.halfWritten pl = false →
        t.releases x.after = true → s.refuses c pl = false → s.refuses c (placeAdd pl 32) = false →
        (check (streamWho s c k x) .r (x.ptr (x.pos + ix)) 64 64).run s = .ok (pl, s1) → placeFlat pl = some a → a % 64 = 0 →
        (∀ n < ix, (mfind x.fetched (x.pos + n)).isSome) → s.shadowOf t.launch = 0 → s1.mark t.launch a = none → s1.mark t.launch (a + 32) = none →
        ∃ u, exec (.streamElementRead c k j ix) s = .next u ∧ u.mem = s.mem
          ∧ (u.str c k).st.toList[j]? = some (some { x with fetched := mset x.fetched (x.pos + ix) (.data (BitVec.ofNat 512 (numAt s t.launch a 64))),
                                                              after := none }))
      ∧ (∀ (j : Nat) (x : Stream) (y : Push) (e : SectorEv) (a : Nat), t.st.toList[j]? = some (some x) → x.pushes = [y] → y.evs = [e] →
        placeFlat e.place = some a → s.shadowOf t.launch = 0 → s.refuses c e.place = false → t.releases x.after = true →
        (∀ b, e.place = .phys b → s.inSpan (s.version 0 b) = false) → (e.bytes.map (fun b => s.version 0 (a + b.1))).Nodup → (∀ b ∈ e.bytes, b.2 < 64) →
        ∃ u, exec (.streamPushPerform c k j 0) s = .next u ∧ (u.str c k).st.toList[j]? = some (some { x with pushes := [], after := none })
          ∧ (∀ b ∈ e.bytes, u.mem.get (s.version 0 (a + b.1)) = BitVec.extractLsb' (8 * b.2) 8 y.data)
          ∧ (∀ z, (∀ b ∈ e.bytes, z ≠ s.version 0 (a + b.1)) → u.mem.get z = s.mem.get z))

/-! ## Rights -/

/-- R57 to R61, R63, R66, R333: GRANT and REVOKE put a request in the rights unit of their partition and wait; the unit refuses it with its
status, or has every core hold, drop the entries it touches and acknowledge; then it writes the tables and the request's status is 0;
the instruction then writes the status and retires. SW faults with PRIV outside monitor mode with OWNER = 0, which the model has before
every status (log 51); cores that have been retired take no part (log 37). What of the tables lies in a listed span is not written (R89). -/
def Obligations.RightsChanges : Prop :=
  ∀ (s : State) (rd ra rb rc : XReg) (n : Nat), Quiet s → s.curCore.part = some n → let t := s.curStr
    let req (g : Bool) : RightsReq :=
      { core := s.cur.1, str := s.cur.2, isGrant := g, xa := t.getX ra, xb := t.getX rb, xc := t.getX rc, owner := t.owner }
    let q := s.part n
    let forms := [(Instr.grant rd ra rb rc, true), (.revoke rd ra rb rc, false)]
    ((t.getX rc).getLsbD 25 = true → (t.lvl = 0 ∨ t.owner ≠ 0) → ∀ x ∈ forms, Faults x.1 s 0x02 0 0)
      ∧ (∀ x ∈ forms, ((t.getX rc).getLsbD 25 = false ∨ t.lvl ≠ 0 ∧ t.owner = 0) →
        ((∀ r, t.wait ≠ .rights r) → ∃ u, exec x.1 s = .next u ∧ u.curStr = { t with wait := .rights rd } ∧ u.mem = s.mem
            ∧ (u.part n).rights.queue = q.rights.queue ++ [req x.2])
          ∧ (∀ r, t.wait = .rights r → exec x.1 s = .next s))
      ∧ (∀ (r : RightsReq) (rest : List RightsReq), q.rights.queue = r :: rest →
        let y := s.str r.core r.str
        let ends (u : State) (st : Nat) : Prop := ∀ d, y.wait = .rights d → u.str r.core r.str = retired (y.setX d (BitVec.ofNat 64 st))
        (q.rights.validated = false → rightsStatus s.seen q r ≠ 0 → ∃ u, exec (.rightsRequest n) s = .next u ∧ u.mem = s.mem
            ∧ (u.part n).rights = { queue := rest, validated := false, written := false } ∧ ends u (rightsStatus s.seen q r))
          ∧ (q.rights.validated = false → rightsStatus s.seen q r = 0 → ∃ u, exec (.rightsRequest n) s = .next u ∧ u.mem = s.mem
            ∧ (u.part n).rights = { q.rights with validated := true } ∧ (u.str r.core r.str).wait = y.wait
            ∧ (∀ a, y.act = some a → a.ec = false → ∃ b, (u.str r.core r.str).act = some b ∧ b.ec = true ∧ b.outbox = [] ∧ b.journal = [])
            ∧ ∀ c ∈ s.liveCores n, ∃ h, (u.core c).hold = some h
              ∧ h.lo = (r.xa.toNat % 2 ^ 46) ∧ h.hi = r.xa.toNat % 2 ^ 46 + r.xb.toNat ∧ h.drain = !r.isGrant ∧ h.removed = false ∧ h.acked = false)
          ∧ (q.rights.validated = true → q.rights.written = false → s.switched = [] → (∀ c ∈ s.liveCores n, ∃ h, (s.core c).hold = some h ∧ h.acked = true) →
            ∃ u, exec (.rightsTableWrite n) s = .next u ∧ (u.part n).rights = { q.rights with written := true }
              ∧ (s.allSpans = [] → u.mem = (newTables s.mem q r.args).foldl (fun m x => putTable m q x.1 x.2) s.mem)
              ∧ (s.Inv → ∀ x ∈ s.allSpans, ∀ y, x.pa ≤ y → y < x.pa + x.len → y < 2 ^ 42 → u.mem.get y = s.mem.get y))
          ∧ (q.rights.written = true → ∃ u, exec (.release n) s = .next u ∧ u.mem = s.mem ∧ ends u 0
            ∧ (u.part n).rights = { queue := rest, validated := false, written := false } ∧ ∀ c ∈ q.cores, (u.core c).hold = none))
      ∧ (∀ (c : Nat) (h : HoldReq), (s.core c).hold = some h →
        (h.removed = false → ∃ u, exec (.hold c) s = .next u ∧ u.mem = s.mem ∧ (u.core c).hold = some { h with removed := true }
            ∧ (u.core c).plb = (s.core c).plb.filter (fun e => !h.takes e.owner e.entry) ∧ (u.core c).tlb = (s.core c).tlb)
          ∧ (h.removed = true → h.acked = false → (h.drain = true → (s.core c).drainedFor h = true) →
            exec (.holdAcknowledge c) s = .next (s.modCore c (fun co => { co with hold := some { h with acked := true } })))
          ∧ (h.removed = true → h.drain = true → (s.core c).drainedFor h = false → exec (.holdAcknowledge c) s = .next s))

/-! ## Entries, notices and the reset of a partition -/

/-- R27, R81 to R84, R87, R89, R90, R92, R347, R393, R394, R396, R405, R406: a notice store becomes an entry of type 4, waits while the ring
is full, or is discarded and counted (where the ring fails the check before its first entry, the ring is in error); the oldest waiting entry
goes to its slot of the event ring and raises its vector, or the ring is in error; a scrub marks what it finds in a line or a node that has
been written, and reports a bank that has failed; a notice goes to the ring of the home granule and its trap to the monitor; a core's report
of a monitor fault fences its partition; a partition that has drained is created again, or freed. Which string of a core takes the trap of a
notice, and how a bank is scrubbed, are the model's choice (logs 25, 39); so are that a notice store has the ring's due check made first, that
the phase bit of the first pass is 1 and that the first write of an entry has Relaxed Ordering set (log 48), what a reset begins anew
(logs 31, 40), that the dies lose their power after the last reset of a thermal trip (log 82), and that a full list of spans grows by the
whole-granule entry (log 88). -/
def Obligations.NoticesAndReset : Prop :=
  ∀ (s : State),
    (∀ (c k ix f : Nat) (x : Store) (e : SectorEv), (s.str c k).sb[ix]? = some x → x.evs = [e] → e.place = .notice f →
        storeReady c (s.str c k) ix 0 = true → let v := s.vf f
        let go := exec (.noticePost c k ix) s
        let ok : Prop := v.erchk = false ∨ ringCode v v.ercfg v.erbase 64 = 0
        (v.ercfg.getLsbD 5 = true → v.ee = false → ok → v.ringFull = false →
            ∃ u, go = .next u ∧ (u.str c k).sb = dropAt (s.str c k).sb ix ∧ u.mem = s.mem ∧ (u.vf f).entries = v.entries
              ++ [{ bits := BitVec.ofNat 512 (x.data.toNat % 2 ^ 256 * 2 ^ 256 + 64), notify := true, msgOf := none }])
          ∧ (v.ercfg.getLsbD 5 = true → v.ee = false → ok → v.ringFull = true → go = .next s)
          ∧ (v.ercfg.getLsbD 5 = false ∨ v.ee = true → ∃ u, go = .next u ∧ (u.str c k).sb = dropAt (s.str c k).sb ix
            ∧ (u.vf f).entries = v.entries ∧ (u.vf f).stale = if v.stale = BitVec.allOnes 32 then v.stale else v.stale + 1)
          ∧ (v.ercfg.getLsbD 5 = true → v.ee = false → ¬ok → ∃ u, go = .next u ∧ (u.str c k).sb = dropAt (s.str c k).sb ix
            ∧ (u.vf f).entries = v.entries ∧ (u.vf f).stale = (if v.stale = BitVec.allOnes 32 then v.stale else v.stale + 1)
            ∧ (u.vf f).ee = true ∧ (u.vf f).ecode = BitVec.ofNat 4 (ringCode v v.ercfg v.erbase 64) ∧ u.out = s.out ++ [.msix f 0 false]))
      ∧ (∀ (f : Nat) (e : EventEntry) (rest : List EventEntry), let v := s.vf f
        let n := v.ercfg.toNat % 16
        v.entries = e :: rest → s.dev.rdy = true → v.ercfg.getLsbD 5 = true → v.ee = false →
        (v.erchk = true → ringCode v v.ercfg v.erbase 64 ≠ 0 → ∃ u, exec (.eventEntryWrite f true) s = .next u
            ∧ (u.vf f).ee = true ∧ (u.vf f).ecode = BitVec.ofNat 4 (ringCode v v.ercfg v.erbase 64) ∧ u.out = s.out ++ [.msix f 0 false])
          ∧ ((v.erchk = false ∨ ringCode v v.ercfg v.erbase 64 = 0) → (v.ed - v.ep).toNat < 2 ^ n →
            (v.busMaster = true → s.isInsecure f = false → ∃ u, exec (.eventEntryWrite f true) s = .next u ∧ u.mem = s.mem
                ∧ u.vf f = { v with entries := rest, ed := v.ed + 1, erchk := false }
                ∧ u.out = s.out ++ (let slot := v.ed.toNat % 2 ^ n
                    let bits := if v.ed.getLsbD n then e.bits else e.bits ||| 1
                    [.eventEntry f slot 1 63 bits true, .eventEntry f slot 0 1 bits false]) ++ (if e.notify then [.msix f 1 false] else []))
              ∧ (v.busMaster = false → ∃ u, exec (.eventEntryWrite f true) s = .next u ∧ (u.vf f).ee = true ∧ (u.vf f).ecode = 5)
              ∧ (∃ u, exec (.eventEntryWrite f false) s = .next u ∧ (u.vf f).ee = true ∧ (u.vf f).ecode = 5)))
      ∧ (∀ (a lvl b : Nat),
        (∀ x ∈ [(Scrub.sector, Poison.poisoned), (.line, .uncorrectable)],
              (s.written a = true → ∃ u, exec (.patrolScrub (.phys a) x.1) s = .next u ∧ mfind u.bad (a / 64 * 2) = some x.2
                  ∧ mfind u.bad (a / 64 * 2 + 1) = some x.2
                  ∧ (NoneSure s → u.mem = s.mem ∧ ∀ k, k / 2 ≠ a / 64 → mfind u.bad k = mfind s.bad k))
                ∧ (s.written a = false → exec (.patrolScrub (.phys a) x.1) s = .next s))
          ∧ (isSram a = true → b < 18 → (shareOf a, b) ∉ s.badBanks → ∃ u, exec (.patrolScrub (.phys a) (.bank b)) s = .next u
            ∧ u.badBanks = s.badBanks ++ [(shareOf a, b)] ∧ u.root.bankReports = s.root.bankReports ++ [(shareOf a, b)] ∧ (NoneSure s → u.mem = s.mem))
          ∧ (s.nodeRead a lvl = false → exec (.patrolScrub (.phys a) (.node lvl)) s = .next s)
          ∧ (∀ p, isDram a = true → s.holderOf a = some p → s.nodeRead a lvl = true → 1 ≤ lvl → lvl ≤ 7 →
            let lv := if ((s.part p).spans.filter (fun x => x.die == paDie a)).length < 32 then lvl else 7
            let x : Span := { die := paDie a, pa := a / spanLen lv * spanLen lv, len := spanLen lv, lvl := lv }
            x ∉ (s.part p).spans → ∃ u, exec (.patrolScrub (.phys a) (.node lvl)) s = .next u
              ∧ (u.part p).spans = (s.part p).spans ++ [x] ∧ (u.part p).notices = (s.part p).notices ++ [x] ∧ (NoneSure s → u.mem = s.mem)))
      ∧ (∀ (p : Nat) (x : Span) (rest : List Span), let q := s.part p
        let w := s.mem.num (q.home + 0x20) 4
        let r := s.mem.num (q.home + 0x24) 4
        let a := q.home + 0x41000 + 32 * (w % 64)
        q.notices = x :: rest → s.switched = [] → (q.pstate = .stopped ∨ q.pstate = .running) → (w + 1 + 2 ^ 32 - r) % 2 ^ 32 < 64 →
        ∃ u, exec (.poisonNotice p) s = .next u ∧ u.part p = { q with notices := rest, noticeDue := q.noticeDue ++ [devicePtr s.pkg a] }
          ∧ ((∀ y ∈ s.allSpans, overlaps y.pa y.len a 32 = false ∧ overlaps y.pa y.len (q.home + 0x20) 4 = false) →
            (∀ j < 32, u.mem.get (a + j) = BitVec.ofNat 8 ((0x20 * 2 ^ 96 + x.pa * 2 ^ 48 + x.lvl * 2 ^ 40 + x.len) / 256 ^ j))
              ∧ ∀ j < 4, u.mem.get (q.home + 0x20 + j) = BitVec.ofNat 8 ((w + 1) / 256 ^ j))
          ∧ (∀ y, (y < a ∨ a + 32 ≤ y) → (y < q.home + 0x20 ∨ q.home + 0x24 ≤ y) → u.mem.get y = s.mem.get y))
      ∧ (∀ (p c k : Nat) (v pc : Word) (rest : List Word) (l : List Nat), let q := s.part p
        s.dev.powered = true → q.noticeDue = v :: rest → s.liveCores p = c :: l → (q.pstate = .stopped ∨ q.pstate = .running) → (s.core c).noticeStr = some (k, pc) →
        ∃ u, exec (.noticeTrap p) s = .next u ∧ u.mem = s.mem ∧ (u.part p).noticeDue = rest
          ∧ Trapped { s.str c k with run := .running } (u.str c k) (s.core c).mentry 0 1 0x20 v pc
          ∧ ∀ j < 4, j ≠ k → (s.str c j).wait = .idle → (u.str c j).wait = .none ∧ (u.str c j).pc = nextPtr (s.str c j).pc 4)
      ∧ (∀ (c p : Nat) (f : FaultInfo), (s.core c).monFault = some f → (s.core c).part = some p → ∃ u, exec (.monitorFaultReport c) s = .next u
          ∧ u.mem = s.mem ∧ (u.part p).pstate = .fenced ∧ (u.core c).monFault = none
          ∧ ∀ d ∈ (s.part p).cores, ∀ k, (u.str d k).run ≠ .running)
      ∧ (∀ (p : Nat), s.drainedPart p = true → let last : Prop := s.dev.tripped = true ∧ ∀ r ∈ s.parts, r.1 ≠ p → r.2.resetKind = none
        ((s.part p).resetKind = some true → ∃ u, exec (.resetDrainComplete p none) s = .next u ∧ (u.part p).pstate = .free
            ∧ (u.part p).clusters = [] ∧ (u.part p).granules = [] ∧ (∀ c ∈ (s.part p).cores, (u.core c).part = none)
            ∧ (last → u.dev.powered = false))
          ∧ (∀ b, (s.part p).resetKind = some false → b.length = (s.part p).imageLen → ∃ u, exec (.resetDrainComplete p (some b)) s = .next u
            ∧ (u.part p).pstate = .stopped ∧ (u.part p).clusters = (s.part p).clusters ∧ (u.part p).monMeas = monitorMeasure b
            ∧ (u.part p).keyGen = (s.part p).keyGen + 1 ∧ (u.part p).spans = [] ∧ (u.part p).serial = 0
            ∧ (∀ c ∈ (s.part p).cores, (u.core c).mentry = firstEntry s.pkg ∧ (u.core c).part = some p) ∧ (last → u.dev.powered = false)))

/-! ## The command mailbox -/

namespace Sys2Proof.Claims

/-- The command in the mailbox completes with a status and a result (R404). -/
def Ends (i : Instr) (s : State) (st : Nat) (res : Word) (p : State → Prop) : Prop :=
  ∃ u, exec i s = .next u ∧ u.root.mbox.go = false ∧ u.root.mbox.begun = false
    ∧ u.root.mbox.stat = BitVec.ofNat 64 (s.root.mbox.op * 256 + st) ∧ u.root.mbox.res = res ∧ p u

/-- Nothing but the mailbox and the interrupt that it raises has changed. -/
def Unchanged (s u : State) : Prop :=
  u.mem = s.mem ∧ u.parts = s.parts ∧ u.vfs = s.vfs ∧ u.launches = s.launches ∧ u.cores = s.cores ∧ u.out = s.out ++ [.msix 0 0 false]

end Sys2Proof.Claims

/-- R28, R94, R157, R170, R383, R396, R398, R403, R404, R407: the commands of the physical function, by the state of the partition that they
allow, their failures, and their effects. The order of the checks of CREATE is the model's choice (log 26), and cores that have been retired
start no monitor (log 37), and PMRES stays as it is when a member becomes active after its command has completed (log 90). -/
def Obligations.MailboxCommands : Prop :=
  ∀ (s : State), let m := s.root.mbox
    let p := m.p
    let q := s.part p
    let f := m.f
    let fresh (gs : List Nat) (u : State) : Prop := ∀ g ∈ gs, ∀ j < 0x4000000, let a := granuleBase g + j
      (a < q.home ∨ q.home + 0x1000 ≤ a) → u.mem.get a = 0
    (m.go = true → m.begun = false → (m.op = 0 ∨ 11 < m.op) → Ends .pmcmdUnknownOp s 1 0 (Unchanged s))
      ∧ (q.pstate ≠ .stopped → ∀ x ∈ [(3, Instr.bindvf), (4, .unbindvf), (5, .shadowpool), (7, .start)], s.waiting x.1 = true →
        Ends x.2 s 3 0 (Unchanged s))
      ∧ (s.waiting 1 = true →
        (q.pstate ≠ .free → Ends (.create none) s 3 0 (Unchanged s))
          ∧ (∀ st, q.pstate = .free → s.createFails = some st → Ends (.create none) s st 0 (Unchanged s))
          ∧ (∀ b, q.pstate = .free → s.createFails = none → b.length = s.arg 7 % 2 ^ 24 → Ends (.create (some b)) s 0 0 (fun u =>
            let r := u.part p
            r.pstate = .stopped ∧ r.clusters = s.argClusters ∧ r.home = s.arg 5 ∧ r.granules = (granuleAt (s.arg 5)).toList ∧ r.ownlim = s.arg 4 % 16
              ∧ r.members = [] ∧ r.pool = [] ∧ r.monMeas = monitorMeasure b ∧ r.wseq = 1 ∧ r.meters = Vector.replicate 16 0
              ∧ (∀ c ∈ r.cores, (u.core c).part = some p ∧ (u.core c).mentry = firstEntry s.pkg)
              ∧ (s.dev.powered = true → ∀ c l, u.liveCores p = c :: l → u.str c 0 = monitorStr s.pkg (s.arg 5))
              ∧ (∀ j < b.length, u.mem.get (s.arg 5 + 0x1000000 + j) = b.getD j 0))))
      ∧ (∀ gs, q.pstate = .stopped → s.argGranules = some gs →
        (s.waiting 2 = true → bitAt (s.arg 2) 0 = true → (∀ g ∈ gs, s.granuleFree g = true) →
            Ends .granuleGive s 0 0 (fun u => (u.part p).granules = q.granules ++ gs ∧ fresh gs u
              ∧ (s.switched = [] → u.part p = { q with granules := q.granules ++ gs, spans := (u.part p).spans })))
          ∧ (s.waiting 2 = true → bitAt (s.arg 2) 0 = false → (∀ g ∈ gs, g ∈ q.granules ∧ s.unused p g = true) →
            Ends .granuleTake s 0 0 (fun u => (u.part p).granules = q.granules.filter (fun g => !gs.contains g) ∧ fresh gs u))
          ∧ (s.waiting 5 = true → (∀ g ∈ gs, g ∈ q.granules ∧ granuleBase g ≠ q.home ∧ s.inAreas p (granuleBase g) 0x4000000 = false) →
            Ends .shadowpool s 0 0 (fun u => (u.part p).pool = gs ∧ (s.switched = [] → u.part p = { q with pool := gs }))))
      ∧ (q.pstate = .stopped → s.waiting 3 = true → let n := q.cores.length * 0xA8000
        let len := s.arg 2 * 0x10000
        1 ≤ f → f ≤ 256 → (s.vf f).part = none → s.arg 0 % 4096 = 0 → s.arg 1 % 0x10000 = 0 → 1 ≤ s.arg 2 → s.arg 2 ≤ 65535 →
        s.areaOk p (s.arg 0) n = true → s.areaOk p (s.arg 1) len = true → (s.arg 0 + n ≤ s.arg 1 ∨ s.arg 1 + len ≤ s.arg 0) → isDram (s.arg 0) = true → isDram (s.arg 1) = true →
        Ends .bindvf s 0 0 (fun u => let v := u.vf f
          v.part = some p ∧ v.save = s.arg 0 ∧ v.parea = s.arg 1 ∧ v.pareaLen = len ∧ v.incarn = (s.vf f).incarn + 1 ∧ v.lcount = 0
            ∧ v.pfree.length = 16 * s.arg 2))
      ∧ (q.pstate = .stopped → s.waiting 4 = true → (s.vf f).part = some p → (∀ l ∈ s.launches, l.2.vf ≠ f) →
        Ends .unbindvf s 0 0 (fun u => (u.vf f).part = none ∧ (u.vf f).pfree = [] ∧ (s.switched = [] → u.mem = s.mem)))
      ∧ (q.pstate = .stopped → s.waiting 4 = true → ((s.vf f).part ≠ some p ∨ ∃ l ∈ s.launches, l.2.vf = f) → Ends .unbindvf s 5 0 (Unchanged s))
      ∧ (q.pstate = .stopped → s.waiting 3 = true → isDram (s.arg 0) = false → Ends .bindvf s 5 0 (Unchanged s))
      ∧ (q.pstate = .stopped → s.waiting 6 = true → let k := s.arg 0 % 2 ^ 10
        (∀ y, bitAt (s.arg 0) 32 = true → k ≠ s.pkg → (∀ x ∈ q.members, x.pkg ≠ k) → Ends (.domainAdd y) s 0 (if y then 1 else 0) (fun u =>
            (u.part p).members = q.members ++ [{ pkg := k, part := s.arg 0 / 2 ^ 16 % 16, weAdded := true, peerAdded := y, rekeys := 0 }]))
          ∧ (bitAt (s.arg 0) 32 = false → (∃ x ∈ q.members, x.pkg = k) →
            Ends .domainRemove s 0 0 (fun u => (u.part p).members = q.members.filter (fun x => x.pkg != k))))
      ∧ (∀ n k x, (s.part n).pstate = .stopped → x ∈ (s.part n).members → x.pkg = k → x.weAdded = true → x.peerAdded = false →
        ∃ u, exec (.domainMemberActive n k) s = .next u ∧ u.root.mbox.res = m.res
          ∧ (u.part n).members = (s.part n).members.map (fun y => if y.pkg = k then { y with peerAdded := true } else y))
      ∧ (q.pstate = .stopped → s.waiting 7 = true → Ends .start s 0 0 (fun u => (u.part p).pstate = .running))
      ∧ (s.waiting 8 = true → q.pstate = .running →
        ((∀ l ∈ s.launches, l.2.part = p → l.2.place = []) → Ends .stop s 0 0 (fun u => u.mem = s.mem ∧ (u.part p).pstate = .stopped
            ∧ (u.part p).sched = none ∧ ∀ c ∈ q.cores, (u.core c).vf = none))
          ∧ ((∃ l ∈ s.launches, l.2.part = p ∧ l.2.place ≠ []) → ∃ u, exec .stop s = .next u ∧ u.root.mbox.begun = true ∧ u.root.mbox.go = true
            ∧ (u.part p).stopping = true ∧ (u.part p).pstate = .running ∧ u.mem = s.mem))
      ∧ (q.pstate ≠ .free → ∀ x ∈ [(9, Instr.reset, some false), (10, .teardown, some true)], s.waiting x.1 = true → q.resetKind = none →
        ∃ u, exec x.2.1 s = .next u ∧ u.mem = s.mem ∧ u.root.mbox.begun = true ∧ (u.part p).pstate = .fenced ∧ (u.part p).resetKind = x.2.2
          ∧ (∀ c ∈ q.cores, ∀ k, (u.str c k).run ≠ .running)
          ∧ ∀ i l, s.launch i = some l → l.part = p → l.decided = false → u.launch i = some { l with phase := .ending 5 0 false, ends := [] })
      ∧ (s.waiting 11 = true → (q.pstate = .stopped ∨ q.pstate = .running) → (s.vf f).part = some p → (∀ l ∈ s.launches, l.2.vf ≠ f) →
        Ends .resetvf s 0 0 (fun u => (u.vf f).incarn = (s.vf f).incarn + 1 ∧ (u.vf f).lcount = 0 ∧ u.mem = s.mem))

/-! ## Registers that the host sees -/

/-- R7, R397, R400 to R403, R405, R410 to R413: doorbells, ring configurations, register and configuration writes, register reads, where what may
only be written and what is reserved reads zero, an AtomicOp of the host, messages from the host and writes of another size to their register, replies of its agent, the states of a trusted
interface, and a stream that fails its integrity checks, for every function that it carries. What the specification does not say is the
model's reading: which stream carries a function's traffic (log 35), that a doorbell of more than 16 bits breaks the ring (log 34), that an
AtomicOp is a read and a write of each register touched (log 68), what counts of the writes to a function that is shut out (log 33), and a
write of PMCMD with GO = 0 while a command runs (log 26). -/
def Obligations.HostRegisters : Prop :=
  ∀ (s : State) (f : Nat) (w : Word), let v := s.vf f
    let x := w.extractLsb' 0 16
    let k := v.lrcfg.toNat % 16
    let e := v.ercfg.toNat % 16
    let runs : Prop := ∃ p, v.part = some p ∧ (s.part p).pstate = .running
    let vfIs (i : Instr) (r : Vf) : Prop := ∃ u, exec i s = .next u ∧ u.vf f = r ∧ u.mem = s.mem
    (s.hears f = true →
        (v.le = false → runs →
            ((2 ^ 16 ≤ w.toNat ∨ ringCode v v.lrcfg v.lrbase 128 = 1) → vfIs (.lrdbWrite f w) { v with le := true, lcode := 1 })
              ∧ (w.toNat < 2 ^ 16 → ringCode v v.lrcfg v.lrbase 128 = 2 → vfIs (.lrdbWrite f w) { v with le := true, lcode := 2 })
              ∧ (w.toNat < 2 ^ 16 → ringCode v v.lrcfg v.lrbase 128 = 0 →
                ((2 ^ k < (x - v.lp).toNat ∨ 2 ^ k < (x - v.lh).toNat) → vfIs (.lrdbWrite f w) { v with le := true, lcode := 3 })
                  ∧ ((x - v.lp).toNat ≤ 2 ^ k → (x - v.lh).toNat ≤ 2 ^ k → vfIs (.lrdbWrite f w) { v with lp := x })))
          ∧ (v.ee = false → ringCode v v.ercfg v.erbase 64 = 0 → (x - v.ep).toNat ≤ 2 ^ e → (v.ed - x).toNat ≤ 2 ^ e →
            vfIs (.erdbWrite f w) { v with ep := x })
          ∧ (v.ee = false → ringCode v v.ercfg v.erbase 64 = 0 → 2 ^ e < (x - v.ep).toNat →
            vfIs (.erdbWrite f w) { v with ee := true, ecode := 3, erchk := false })
          ∧ (v.tdi = .unlocked → w.getLsbD 5 = true → vfIs (.lrcfgWrite f w) { v with lrcfg := w &&& 0x2F } ∧ vfIs (.ercfgWrite f w) { v with ercfg := w &&& 0x2F, erchk := true })
          ∧ (v.tdi = .unlocked → w.getLsbD 5 = false →
            vfIs (.lrcfgWrite f w) { v with lrcfg := w &&& 0x2F, le := false, lcode := 0, lh := 0, lp := 0 }
              ∧ vfIs (.ercfgWrite f w) { v with ercfg := w &&& 0x2F, ee := false, ecode := 0, ed := 0, ep := 0, erchk := false })
          ∧ (f ≠ 0 → v.tdi = .unlocked → vfIs (.registerWrite f 0x000 (.write w)) { v with lrbase := w } ∧ vfIs (.registerWrite f 0x018 (.write w)) { v with erbase := w }
            ∧ vfIs (.configurationWrite f .busMaster w) { v with busMaster := w.getLsbD 0 })
          ∧ (f ≠ 0 → (v.tdi = .locked ∨ v.tdi = .run) → ∃ u, exec (.registerWrite f 0x000 (.write w)) s = .next u ∧ (u.vf f).tdi = .error
            ∧ (u.vf f).ideKeyed = [] ∧ (u.vf f).incarn = v.incarn + 1 ∧ u.mem = s.mem)
          ∧ (∀ (d : BitVec 512) (i : Nat) (l : Launch), s.knownSerial f (d.toNat / 2 ^ 308 % 2 ^ 64) = some (i, l) → d.toNat / 2 ^ 296 % 2 ^ 12 < l.nlcore →
            ∃ u g, exec (.hmsgPost f 64 d) s = .next u ∧ u.net = s.net ++ [g] ∧ g.msg.launch = i ∧ g.msg.dest = .core (d.toNat / 2 ^ 296 % 2 ^ 12)
              ∧ g.msg.hid = 62 ∧ g.msg.key.toNat = d.toNat / 2 ^ 256 % 2 ^ 40 ∧ g.msg.payload = d.extractLsb' 0 256 ∧ u.mem = s.mem)
          ∧ (∀ (d : BitVec 512), s.knownSerial f (d.toNat / 2 ^ 308 % 2 ^ 64) = none →
            vfIs (.hmsgPost f 64 d) { v with stale := if v.stale = BitVec.allOnes 32 then v.stale else v.stale + 1 })
          ∧ (∀ o, f ≠ 0 → 0x100 ≤ o → o < 0x140 →
            vfIs (.registerWrite f o (.write w)) { v with stale := if v.stale = BitVec.allOnes 32 then v.stale else v.stale + 1 })
          ∧ (∀ (d : BitVec 256) (a : AgentReq) (l : Load) (rd : XReg) (g : AtomFn) (o1 o2 : BitVec 128) (md : BitVec 2), let t := s.str a.core a.str
            v.agents = [a] → a.id = d.toNat % 2 ^ 16 → t.lds = [l] → l.seq = a.seq → l.bad = none → l.dead = false → l.dst = .amo rd g 8 o1 o2 md → d.getLsbD 16 = true →
            ∃ u, exec (.agreplyWrite f d) s = .next u ∧ u.mem = s.mem ∧ (u.vf f).agents = []
              ∧ u.str a.core a.str = { t.inBank l.mon (fun y => y.setX rd (d.extractLsb' 128 64)) with lds := [], fflg := t.fflg ||| d.extractLsb' 17 5 })
          ∧ (∀ (d : BitVec 256), v.agents = [] →
            vfIs (.agreplyWrite f d) { v with stale := if v.stale = BitVec.allOnes 32 then v.stale else v.stale + 1 }))
      ∧ (∀ (a : AgentReq) (l : Load), let t := s.str a.core a.str
        v.agents = [a] → t.lds = [l] → l.seq = a.seq → l.bad = none → l.dead = false → l.undo = none → t.run = .running → t.lvl = 0 → (∀ b, t.act = some b → b.rst = false) →
        ∃ u, exec (.agentTimeout f a.id) s = .next u ∧ u.mem = s.mem ∧ (u.vf f).agents = []
          ∧ Trapped { t with lds := [] } (u.str a.core a.str) (s.core a.core).mentry 0 0 0x41 l.ptr l.pc)
      ∧ (s.dev.rdy = true → s.root.mbox.go = false → ∃ u, exec (.registerWrite 0 0x40000 (.write w)) s = .next u
          ∧ u.root.mbox.cmd = w &&& 0x8000000001FF0FFF ∧ u.root.mbox.run = u.root.mbox.cmd ∧ u.mem = s.mem ∧ u.parts = s.parts)
      ∧ (s.dev.rdy = true → s.root.mbox.go = true → ∃ u, exec (.registerWrite 0 0x40000 (.write w)) s = .next u
          ∧ u.root.mbox.run = s.root.mbox.run ∧ u.root.mbox.go = true ∧ (w.getLsbD 63 = true → u = s))
      ∧ (v.tdi = .unlocked → vfIs (.lockInterface f) { v with tdi := .locked })
      ∧ (v.tdi = .locked → vfIs (.startInterface f) { v with tdi := .run })
      ∧ (v.tdi ≠ .locked → exec (.startInterface f) s = .next s)
      ∧ vfIs (.stopInterface f) { v with tdi := .unlocked }
      ∧ (∀ n, (∀ r ∈ s.hostReqs, (s.vf (s.reqFn r.2)).stream ≠ n) →
          ∃ u, exec (.ideIntegrityFailure f n) s = .next u ∧ u.mem = s.mem ∧ u.vfs = s.vfs ∧ n ∈ u.dev.insecure
            ∧ ∀ k, k ≠ n → (k ∈ u.dev.insecure ↔ k ∈ s.dev.insecure))
      ∧ (∀ n g, (∀ r ∈ s.hostReqs, (s.vf (s.reqFn r.2)).stream ≠ n) → (s.vf g).stream = n →
          ∃ u, exec (.ideIntegrityFailure f n) s = .next u ∧ u.isInsecure g = true
            ∧ ∀ c j page wr st, j < 4 → Miss.host j g page wr st ∈ (s.core c).misses → Hand.hostAbort g page ∈ (u.str c j).inHand)
      ∧ (s.dev.rdy = true → f ≠ 0 → s.shut f = false →
          (∀ x ∈ [(0x000, v.lrbase), (0x008, v.lrcfg &&& 0x2F), (0x010, 0), (0x018, v.erbase), (0x020, v.ercfg &&& 0x2F), (0x028, 0), (0x038, v.lcount.zeroExtend 64),
              (0x040, v.hwlo), (0x048, v.hwhi), (0x100, 0), (0x140, 0), (0x160, v.agto), (0x800, 0)],
            exec (.registerWrite f x.1 .read) s = .next (s.emit (.regReply f x.2)))
          ∧ (∀ a b : BitVec 128, ∃ u, exec (.registerWrite f 0x160 (.atomic .add 8 a b)) s = .next u ∧ u.out = s.out ++ [.hostReply f (v.agto.zeroExtend 128)]
            ∧ u.vf f = { v with agto := v.agto + a.extractLsb' 0 64 } ∧ u.mem = s.mem))
      ∧ (s.shut f = true → (∀ o, exec (.registerWrite f o .read) s = .next (s.emit (.unsupported f)))
          ∧ exec (.configurationWrite f .busMaster w) s = .next (s.emit (.unsupported f))
          ∧ (s.dev.rdy = true → exec (.configurationWrite f .lrbase w) s = .next (s.countAt hostUnit)))
      ∧ (s.dev.rdy = true → s.hears f = false → f ≠ 0 → ∃ u, exec (.registerWrite f 0x000 (.write w)) s = .next u ∧ u.vf f = v ∧ u.mem = s.mem
          ∧ mget 0 u.counts hostUnit = mget 0 s.counts hostUnit + 1)

/-- R36, R37, R62, R147, R281, R397, R409, R414, R415: translations and pages that the host answers, its completions and their absence, requests of a
member package, keys and links. That what a walk or a search finds is handed to the access that waits (`held`, `inHand`: log 12), what a NACK's
reason tells its requester and what the home of a refused request does (log 36), when an invalidation completes (log 42), and what becomes of
the writes that wait for a flush read that fails (log 35), are the model's readings. -/
def Obligations.HostLinkEvents : Prop :=
  ∀ s : State,
    (∀ (f iova c k page st : Nat) (wr : Bool), let m := Miss.host k f page wr st
        page = iova / 4096 →
        (s.pageMiss f page (fun st => st == 0 || st == 2) = some (c, m) →
            (∀ g, ∃ u, exec (.atsTranslationCompletion f ⟨iova, g⟩ true true) s = .next u ∧ u.mem = s.mem
                ∧ (u.core c).misses = (s.core c).misses.filter (fun x => x != m)
                ∧ ({ vf := f, pasid := (s.vf f).pasid, page := page, target := g, reads := true, writes := true } : AtsEntry) ∈ u.ats
                ∧ ∀ e ∈ u.ats, e.vf = f → e.page = page → e.pasid = (s.vf f).pasid → e.target = g)
              ∧ (∀ i < 256, st = 0 → s.shut f = false → (∀ x ∈ (s.vf f).pri, x.1 ≠ i) → (∀ j < i, ∃ x ∈ (s.vf f).pri, x.1 = j) →
                ∃ u, exec (.atsTranslationCompletion f ⟨iova, 0⟩ false false) s = .next u ∧ u.mem = s.mem
                  ∧ (u.vf f).pri = (s.vf f).pri ++ [(i, (s.vf f).incarn, page, wr)]
                  ∧ u.out = s.out ++ [.pageRequest f page i (s.vf f).incarn wr]))
          ∧ (∀ i n, s.pageMiss f page (· == 1) = some (c, m) → (s.vf f).pri = [(i, n, page, wr)] → n = (s.vf f).incarn →
            (∃ u, exec (.pageRequestGroupResponse f i n true) s = .next u ∧ u.mem = s.mem ∧ (u.vf f).pri = []
                ∧ u.out = s.out ++ [.atsRequest f page])
              ∧ (k < 4 → ∃ u, exec (.pageRequestGroupResponse f i n false) s = .next u ∧ (u.vf f).pri = [] ∧ u.out = s.out
                ∧ (u.core c).misses = (s.core c).misses.filter (fun x => x != m)
                ∧ (u.str c k).inHand = (s.str c k).inHand ++ [.noHost f page])))
      ∧ (∀ (f iova n : Nat), (s.vf f).inval = [] → (∀ c ∈ s.cores, ∀ t ∈ c.2.strs, hostPending f iova (iova + n) t.2 = false) →
        ∃ u, exec (.atsInvalidateRequest f iova n) s = .next u ∧ u.mem = s.mem ∧ u.out = s.out ++ [.invalidateDone f (iova / 4096) n]
          ∧ ∀ e, e ∈ u.ats ↔ e ∈ s.ats ∧ ¬(e.vf = f ∧ e.page * 4096 < iova + n ∧ iova < e.page * 4096 + 4096))
      ∧ (∀ (id c k : Nat) (e : SectorEv) (l : Load) (rd : XReg) (d : BitVec 256), let t := s.str c k
        mfind s.hostReqs id = some (.load c k l.seq e) → t.lds = [l] → l.evs = [e] → l.bad = none → l.dead = false → l.got = [] → l.sure = false → l.undo = none →
        (l.dst = .x rd .d → e.bytes = (List.range 8).map (fun j => (j, j)) →
            ∃ u, exec (.hostCompletion id .ok d) s = .next u ∧ u.mem = s.mem ∧ mfind u.hostReqs id = none
              ∧ u.str c k = { t.inBank l.mon (fun y => y.setX rd (d.extractLsb' 0 64)) with lds := [] })
          ∧ (t.run = .running → t.lvl = 0 → (∀ a, t.act = some a → a.rst = false) →
            ∃ u, exec (.completionTimeout id) s = .next u ∧ u.mem = s.mem ∧ mfind u.hostReqs id = none
              ∧ Trapped { t with lds := [] } (u.str c k) (s.core c).mentry 0 0 0x41 (l.ptrAt e) l.pc))
      ∧ (∀ (id c k : Nat) (d : BitVec 256), let t := s.str c k
        mfind s.hostReqs id = some (.flush c k) → t.flush = some id →
        (∃ u, exec (.hostCompletion id .ok d) s = .next u ∧ u.str c k = { t with flush := none } ∧ u.mem = s.mem)
          ∧ (t.lds = [] → ∀ i : Instr, (i = .completionTimeout id ∨ ∃ st, st ≠ .ok ∧ i = .hostCompletion id st d) →
            ∃ u, exec i s = .next u ∧ u.mem = s.mem ∧ (u.str c k).flush = none ∧ (u.str c k).sb = t.sb.filter (fun x => !x.flushes)
              ∧ (t.run = .running → Hand.noFlush ∈ (u.str c k).inHand) ∧ (u.str c k).x = t.x ∧ (u.str c k).v = t.v ∧ (u.str c k).pc = t.pc))
      ∧ (∀ (id : Nat) (st : CplStatus) (d : BitVec 256), mfind s.hostReqs id = none → ∃ u, exec (.hostCompletion id st d) s = .next u ∧ u.mem = s.mem
          ∧ u.cores = s.cores ∧ mget 0 u.counts hostUnit = mget 0 s.counts hostUnit + 1)
      ∧ (∀ (id c w : Nat) (pl : Place) (d : BitVec 256), mfind s.hostReqs id = some (.read c w pl) → Miss.data w pl ∈ (s.core c).misses → 4 ≤ w →
        let gets (i : Instr) (h : Hand) : Prop := ∃ u, exec i s = .next u ∧ u.mem = s.mem ∧ mfind u.hostReqs id = none
          ∧ (u.core c).held = (s.core c).held ++ [(w, h)] ∧ (u.core c).misses = (s.core c).misses.filter (fun x => x != .data w pl)
        gets (.hostCompletion id .ok d) (.sector pl d) ∧ gets (.hostCompletion id .abort d) (.failed pl 0x41 0) ∧ gets (.completionTimeout id) (.failed pl 0x41 0))
      ∧ (∀ (p q off n : Nat) (e : TlbEntry) (d : BitVec 256), let r := s.part p
        let a := e.target + (off - e.va)
        (∀ k, (r.pstate = .fenced ∨ r.member q = false) → ∃ u, exec (.novinoRequest p q off n k d) s = .next u ∧ u.out = s.out ++ [.novinoNack q (r.pstate == .fenced)] ∧ u.mem = s.mem)
          ∧ (r.pstate ≠ .fenced → r.member q = true → off < 2 ^ 45 → walk s.seen r off = .ok e → e.host = false → n ≤ 32 - off % 32 →
            (badAt s none a 0 = none → ∃ u, exec (.novinoRequest p q off n .read d) s = .next u ∧ u.mem = s.mem
                ∧ u.out = s.out ++ [.novinoReply q ((List.range n).map (fun i => (i, s.mem.get (s.version 0 (a + i))))) none])
              ∧ (∀ f, badAt s none a 0 = some f → (∀ x ∈ s.walkOf p off, s.version 0 x / 32 ≠ s.version 0 a / 32) → ∃ u, exec (.novinoRequest p q off n .read d) s = .next u ∧ u.mem = s.mem
                ∧ u.out = s.out ++ [.novinoReply q [] (some (f.code, 0))])
              ∧ (∀ pz : Bool, s.inSpan (s.version 0 a) = false → ∃ u, exec (.novinoRequest p q off n (.write pz) d) s = .next u
                ∧ (pz = true → mfind u.bad (s.version 0 a / 32) = some .poisoned)
                ∧ ((pz = true → NoneSure s) → u.out = s.out ++ [.novinoReply q [] none] ∧ (∀ j < n, u.mem.get (s.version 0 (a + j)) = BitVec.extractLsb' (8 * j) 8 d)
                  ∧ ∀ y, (∀ j < n, y ≠ s.version 0 (a + j)) → u.mem.get y = s.mem.get y))
              ∧ (badAt s none a 0 = none → n = 8 → ∃ u b, exec (.novinoRequest p q off n (.atomic .add) d) s = .next u
                ∧ u.out = s.out ++ [.novinoReply q b none] ∧ leNat (b.map (·.2)) = numAt s none a 8
                ∧ numAt u none a 8 = (numAt s none a 8 + d.toNat % 2 ^ 64) % 2 ^ 64)))
      ∧ (∀ p q, ∃ u, exec (.rekey p q) s = .next u ∧ u.mem = s.mem
          ∧ (u.part p).members = (s.part p).members.map (fun m => if m.pkg = q then { m with rekeys := m.rekeys + 1 } else m))
      ∧ (∀ p v, p < 36 → v ≠ 0 → ∃ u, exec (.linkTraining p v) s = .next u ∧ mfind u.dev.ports p = some 1 ∧ u.mem = s.mem)
      ∧ (∀ v, ∃ u, exec (.linkTraining 36 v) s = .next u ∧ mfind u.dev.ports 36 = some v ∧ u.mem = s.mem)

/-! ## SPDM -/

namespace Sys2Proof.Claims

/-- The signature of the alias key over the SHA-384 hash of a transcript, in two halves (R433, R434). -/
def signed (s : State) (t : List Byte) : List Byte :=
  [false, true].flatMap (fun h => leBytes 48 (Config.sign s.root.aliasKey (digestNum (sha384 t)) h).toNat)

/-- The root core answers with a code, a parameter and a body of which `is` holds, followed by `sg`; the connection of the function becomes `x`,
and no other, no partition and no byte of memory changes (R433, R434). -/
def Replies (i : Instr) (s : State) (f rsp param : Nat) (sg : List Byte → List Byte) (x : List Byte → Spdm) (is : List Byte → Prop) : Prop :=
  ∃ u b, is b ∧ exec i s = .next u ∧ u.out = s.out ++ [.spdm f rsp param (b ++ sg b)] ∧ u.spdmOf f = x b
    ∧ u.mem = s.mem ∧ u.parts = s.parts ∧ ∀ g, g ≠ f → u.spdmOf g = s.spdmOf g

end Sys2Proof.Claims

/-- R400, R412, R433 to R435, R450: the SPDM responder: the states of the connection and of its session; the replies, of which some are signed, each
over the transcript that is its own: the set-up with the certificate exchange and the challenge, with the messages of the session, or with those
of the measurements; the verification of a FINISH; the errors, which change no state; and the measurements. The numbers of the codes and how a
message stands as bytes are the model's choice (log 27), and whether the data of a FINISH verify is a free value (log 9); that the indices of a FREE partition are answered with InvalidRequest, and
that the reported sequence is that of the last record, is the model's reading (log 41). -/
def Obligations.SpdmReplies : Prop :=
  ∀ (s : State) (f ver : Nat) (d : BitVec 256), s.dev.rdy = true → let x := s.spdmOf f
    let agreed : Prop := x.state = .algorithms ∧ x.version = ver
    let errs (i : Instr) (c : Nat) : Prop := ∃ u, exec i s = .next u ∧ u.out = s.out ++ [.spdm f 0x7F c []] ∧ u.root = s.root ∧ u.mem = s.mem
    let n := leBytes 32 d.toNat
    let chain := Config.chain s.root.aliasKey
    let msg := msgBytes x.version
    let un (_ : List Byte) : List Byte := []
    (∃ y : List Byte → Spdm, Replies (.getVersion f) s f 0x04 0x1312 un y (fun b => b = [])
        ∧ y [] = { state := .version, version := 0, setup := msgBytes 0 0x84 0 [] ++ msgBytes 0 0x04 0x1312 [], certs := [], keys := [], session := .none })
      ∧ (x.state = .version → (ver = 0x12 ∨ ver = 0x13) → Replies (.getCapabilities f ver) s f 0x61 ver un
          (fun b => { x with state := .capabilities, version := ver, setup := x.setup ++ (msgBytes ver 0xE1 0 [] ++ msgBytes ver 0x61 ver b) }) (fun b => b = []))
      ∧ (x.state = .version → ver ≠ 0x12 → ver ≠ 0x13 → errs (.getCapabilities f ver) 0x41)
      ∧ (x.state ≠ .version → errs (.getCapabilities f ver) 0x04)
      ∧ (x.state = .capabilities → x.version = ver → Replies (.negotiateAlgorithms f ver) s f 0x63 0 un
          (fun b => { x with state := .algorithms, setup := x.setup ++ (msg 0xE3 0 [] ++ msg 0x63 0 b) })
          (fun b => b = leBytes 48 (0x80 + 0x02 * 2 ^ 32 + 0x10 * 2 ^ 64 + 0x02 * 2 ^ 80)))
      ∧ (x.state ≠ .capabilities → errs (.negotiateAlgorithms f ver) 0x04)
      ∧ (agreed → Replies (.getDigests f ver) s f 0x01 0 un (fun b => { x with certs := x.certs ++ (msg 0x81 0 [] ++ msg 0x01 0 b) })
            (fun b => b = sha384 chain)
          ∧ Replies (.challenge f ver d) s f 0x03 0 (fun b => signed s (x.setup ++ x.certs ++ (msg 0x83 0 n ++ msg 0x03 0 b)))
            (fun _ => { x with certs := [] }) (fun b => b.take 48 = sha384 chain ∧ b.length = 96)
          ∧ ∀ a k, let c := (chain.drop a).take k
            let m := c.length + (chain.length - a - c.length) * 2 ^ 16
            Replies (.getCertificate f ver a k) s f 0x02 m un
              (fun b => { x with certs := x.certs ++ (msg 0x82 (a + k * 2 ^ 16) [] ++ msg 0x02 m b) }) (fun b => b = c))
      ∧ (x.state ≠ .algorithms → ∀ i ∈ [Instr.getDigests f ver, .challenge f ver d, .getCertificate f ver 0 0, .getMeasurements f ver 1 d,
          .keyExchange f ver d, .finish f ver d, .endSession f ver], errs i 0x04)
      ∧ (x.state = .algorithms → x.version ≠ ver → ∀ i ∈ [Instr.getDigests f ver, .challenge f ver d, .getCertificate f ver 0 0, .getMeasurements f ver 1 d],
          errs i 0x41)
      ∧ (agreed → x.session = .none → Replies (.keyExchange f ver d) s f 0x64 0 (fun b => signed s (x.setup ++ sha384 chain ++ (msg 0xE4 0 n ++ msg 0x64 0 b)))
          (fun b => { x with session := .exchanged, certs := [],
                             keys := msg 0xE4 0 n ++ msg 0x64 0 b ++ signed s (x.setup ++ sha384 chain ++ (msg 0xE4 0 n ++ msg 0x64 0 b)) })
          (fun b => b.length = 96))
      ∧ (agreed → x.session = .exchanged → let ok := Config.verified (digestNum (sha384 (x.setup ++ sha384 chain ++ x.keys ++ msg 0xE5 0 []))) d
          (ok = true → Replies (.finish f ver d) s f 0x65 0 un
              (fun b => { x with session := .open, certs := [], keys := x.keys ++ (msg 0xE5 0 n ++ msg 0x65 0 b) }) (fun b => b.length = 48))
            ∧ (ok = false → errs (.finish f ver d) 0x06))
      ∧ (agreed → x.session = .open → Replies (.endSession f ver) s f 0x6C 0 un (fun _ => { x with session := .none, certs := [], keys := [] }) (fun b => b = []))
      ∧ (agreed → let measures (i : Nat) (v : BitVec 384) : Prop := (Replies (.getMeasurements f ver i d) s f 0x60 i
            (fun b => signed s (x.setup ++ (msg 0xE0 i n ++ msg 0x60 i b))) (fun _ => { x with certs := [] }) (fun b => b = leBytes 48 v.toNat))
          (∀ i (h : i < 16), measures (i + 1) (s.root.meas[i]'h))
            ∧ (∀ p, p ∈ s.readable f → p < 16 → measures (0x40 + p) (s.part p).monMeas)
            ∧ (∀ p, p ∈ s.readable f → p < 16 → let i := 0x50 + p
                ∃ u l, let b := leBytes 8 (s.part p).wseq.toNat ++ leBytes 48 (u.part p).whead.toNat
                exec (.getMeasurements f ver i d) s = .next u ∧ (u.part p).wseq = (s.part p).wseq + 1 ∧ u.mem = s.mem
                  ∧ u.out = s.out ++ l ++ [.spdm f 0x60 i (b ++ signed s (x.setup ++ (msg 0xE0 i n ++ msg 0x60 i b)))])
            ∧ (∀ i, (i = 0 ∨ 16 < i ∧ i < 0x40 ∨ 0x60 ≤ i ∧ i ≠ 0xFF ∨ ∃ p < 16, p ∉ s.readable f ∧ (i = 0x40 + p ∨ i = 0x50 + p)) →
                errs (.getMeasurements f ver i d) 0x01))
      ∧ (∀ c, c ∉ [0x81, 0x82, 0x83, 0x84, 0xE0, 0xE1, 0xE3, 0xE4, 0xE5, 0xEC] → errs (.unsupportedSpdmRequest f c) 0x07)
      ∧ (∀ n ≤ 64, x.session = .open → ∃ u, exec (.ideKmKeyProg f n) s = .next u ∧ n ∈ (u.vf f).ideKeyed ∧ n ∉ u.dev.insecure ∧ u.mem = s.mem)

/-! ## Wear, power and bring-up -/

/-- R253, R391, R428, R429, R440 to R449, R452: wear samples, each reading against its baseline, move a core through its states, in the core
map too; a core that is drained with no launch on it is retired, at bring-up as well; the lifetime records go to flash and come back from
it; a thermal trip fences every partition, and the compute dies lose their power once all are reset; power-on runs the boot chain to RDY or
to the failing step or phase; what a reset and a loss of power leave; a word that names no instruction raises ILLEGAL. Where stage 1 stands
in the root core's memory and where it is entered is the model's choice (log 14), and so are a stress factor of 0 acting as 1 (log 46), an
increase against a baseline of 0 (log 7), that a fundamental reset is followed by a POWER_ON (log 30) and that power stays after a thermal
trip until the last reset is drained (log 82). -/
def Obligations.WearAndPower : Prop :=
  ∀ (s : State) (c : Nat), let w := (s.core c).wear
    (∀ period res : Nat, c < 4096 → w.state = .service →
        let bti := if w.btib = 0 then Config.reading c 2 period else (period - w.btib.toNat) * 1024 / w.btib.toNat
        let em := if w.emb = 0 then Config.reading c 3 res else (res - w.emb.toNat) * 1024 / w.emb.toNat
        let sample := Instr.wearSample [(c, period, res)]
        let same (u : State) : Prop := ∀ y < 2 ^ 42, u.mem.get y = s.mem.get y
        let derates : Prop := 64 ≤ bti ∨ 128 ≤ em
        let drains : Prop := 96 ≤ bti ∨ 192 ≤ em
        (¬derates → ∃ u, exec sample s = .next u ∧ same u
            ∧ (u.core c).wear = { w with bti := bti, em := em, cntDerated := 0, cntDrained := 0 })
          ∧ (derates → ¬drains → w.cntDerated < 3 → ∃ u, exec sample s = .next u ∧ same u
            ∧ (u.core c).wear = { w with bti := bti, em := em, cntDerated := w.cntDerated + 1, cntDrained := 0 })
          ∧ (derates → ¬drains → w.cntDerated = 3 → ∃ u, exec sample s = .next u ∧ same u
            ∧ (u.core c).wear.state = .derated ∧ (u.core c).wear.cntDerated = 0)
          ∧ (drains → w.cntDrained = 3 → (s.core c).res ≠ [] → ∃ u a fs b, exec sample s = .next u ∧ same u
            ∧ (u.core c).wear.state = .drained ∧ mfind u.dev.coreMap c = some .drained ∧ u.net = s.net ++ a ++ fs ++ b ∧ fs.map (·.msg.launch) = (s.core c).res.map (·.1)
            ∧ ∀ f ∈ fs, f.msg.hid = 63 ∧ f.msg.payload.toNat % 2 ^ 64 = 4 * 2 ^ 20 + 0x60)
          ∧ (drains → w.cntDrained = 3 → (s.core c).res = [] → ∃ u, exec sample s = .next u
            ∧ (u.core c).wear.state = .retired ∧ mfind u.dev.coreMap c = some .retired))
      ∧ (∀ x : BitVec 16, ∃ u, exec (.stressFactorUpdate c x) s = .next u ∧ u.mem = s.mem
          ∧ (u.core c).wear = { w with stress := if x = 0 then 1 else x })
      ∧ (∀ x : Bool, ∃ u, exec (.throttle c x) s = .next u ∧ u.mem = s.mem ∧ (u.core c).wear = { w with throttled := x })
      ∧ ((s.cores.map (·.1)).Nodup → ∀ i ∈ [Instr.lifetimeRecordWrite, .orderlyShutdown], ∃ u, exec i s = .next u ∧ u.mem = s.mem
          ∧ ∀ x ∈ s.cores, x.1 < 4096 → mfind u.root.flash x.1 = some x.2.wear.record)
      ∧ (∃ u, exec (.thermalTrip c) s = .next u
          ∧ (∀ p, (s.part p).pstate ≠ .free → (u.part p).pstate = .fenced ∧ (u.part p).resetKind.isSome = true)
          ∧ ((∃ p, (s.part p).pstate ≠ .free) → u.mem = s.mem ∧ u.dev.powered = s.dev.powered ∧ u.dev.tripped = s.dev.powered)
          ∧ ((∀ p ∈ s.parts, p.2.pstate = .free ∧ p.2.resetKind = none) → s.dev.powered = true →
              u.dev.powered = false ∧ ∀ d < 4096, ∀ k, (u.str d k).run = .free))
      ∧ (∀ x, ∃ u, exec (.powerOn x) s = .next u
          ∧ (s.root.bootFails ≠ 0 → u.dev.rdy = false ∧ u.dev.fail = true ∧ u.dev.bstep = BitVec.ofNat 4 s.root.bootFails ∧ u.cores = [] ∧ u.mem = [])
          ∧ (s.root.bootFails = 0 → x = none → (∀ r ∈ s.root.flash, r.1 < 4096) → u.dev.rdy = true ∧ u.dev.fail = false ∧ u.dev.phase = 6
            ∧ (u.str 4096 0).run = .running ∧ (u.str 4096 0).lvl = 2 ∧ (u.str 4096 0).pc = 0x200
            ∧ (∀ r, mfind s.root.flash c = some r → (s.root.flash.map (·.1)).Nodup →
                let y := Wear.ofRecord r
                (u.core c).wear = if y.state = .drained then { y with state := .retired } else y)
            ∧ (∀ j < s.root.stage1.length, j < 2 ^ 21 → u.mem.get (sliceFlat 4096 0 + j) = s.root.stage1.getD j 0))
          ∧ (∀ a b, s.root.bootFails = 0 → x = some (a, b) → 1 ≤ a → a ≤ 5 → u.dev.rdy = false ∧ u.dev.fail = true
            ∧ u.dev.phase = BitVec.ofNat 4 a ∧ u.dev.unit = BitVec.ofNat 16 (unitField b) ∧ (a ≤ 4 → u.dev.refPoint = Device.init.refPoint)))
      ∧ (∃ u f r, exec .fundamentalReset s = .next u ∧ u.dev.rdy = false ∧ u.mem = [] ∧ u.cores = [] ∧ u.parts = [] ∧ u.inputs = .powerOn f :: r
          ∧ u.root.flash = s.root.flash ∧ u.root.stage1 = s.root.stage1)
      ∧ (∃ u, exec .powerLoss s = .next u ∧ u.dev.rdy = false ∧ u.dev.powered = false ∧ u.mem = [] ∧ u.cores = [] ∧ u.parts = []
          ∧ u.root.flash = s.root.flash)
      ∧ (∀ x, Quiet s → Faults (.illegalEncoding x) s 0x01 0 0)
end

