-- ==== Sys2Proof/Laws/Assoc.lean ====
section
/-! SUPPORT. Laws of the tables and of the memory: what is read after a write, and that every operation on the memory keeps its
canonical form. -/

namespace Sys2Proof.Laws

open Sys2Proof.Machine

/-! ## Tables -/

theorem mfind_mins_self {α : Type} (m : Map α) (k : Nat) (v : α) : mfind (mins (mdel m k) k v) k = some v := by
  induction m with
  | nil => simp [mdel, mins, mfind]
  | cons p t ih =>
    obtain ⟨i, w⟩ := p
    by_cases h : i = k
    · simpa [mdel, h] using ih
    · have hd : mdel ((i, w) :: t) k = (i, w) :: mdel t k := by simp [mdel, h]
      rw [hd]
      by_cases hk : k < i
      · simp [mins, hk, mfind]
      · simp [mins, hk, mfind, h, ih]

theorem mfind_mins_ne {α : Type} (m : Map α) {k j : Nat} (v : α) (h : j ≠ k) : mfind (mins m k v) j = mfind m j := by
  induction m with
  | nil => simp [mins, mfind, Ne.symm h]
  | cons p t ih =>
    obtain ⟨i, w⟩ := p
    by_cases hk : k < i
    · simp [mins, hk, mfind, Ne.symm h]
    · simp [mins, hk, mfind, ih]

theorem mfind_mdel_ne {α : Type} (m : Map α) {k j : Nat} (h : j ≠ k) : mfind (mdel m k) j = mfind m j := by
  induction m with
  | nil => rfl
  | cons p t ih =>
    obtain ⟨i, w⟩ := p
    by_cases hi : i = k
    · have hd : mdel ((i, w) :: t) k = mdel t k := by simp [mdel, hi]
      rw [hd, ih]
      simp [mfind, hi, Ne.symm h]
    · have hd : mdel ((i, w) :: t) k = (i, w) :: mdel t k := by simp [mdel, hi]
      simp [hd, mfind, ih]

theorem mfind_mdel_self {α : Type} (m : Map α) (k : Nat) : mfind (mdel m k) k = none := by
  induction m with
  | nil => rfl
  | cons p t ih =>
    obtain ⟨i, w⟩ := p
    by_cases hi : i = k
    · simpa [mdel, hi] using ih
    · have hd : mdel ((i, w) :: t) k = (i, w) :: mdel t k := by simp [mdel, hi]
      simp [hd, mfind, hi, ih]

@[simp] theorem mfind_mset_self {α : Type} (m : Map α) (k : Nat) (v : α) : mfind (mset m k v) k = some v :=
  mfind_mins_self m k v

theorem mfind_mset_ne {α : Type} (m : Map α) {k j : Nat} (v : α) (h : j ≠ k) : mfind (mset m k v) j = mfind m j := by
  rw [mset, mfind_mins_ne _ _ h, mfind_mdel_ne _ h]

@[simp] theorem mget_mset_self {α : Type} (d : α) (m : Map α) (k : Nat) (v : α) : mget d (mset m k v) k = v := by
  simp [mget]

theorem mget_mset_ne {α : Type} (d : α) (m : Map α) {k j : Nat} (v : α) (h : j ≠ k) :
    mget d (mset m k v) j = mget d m j := by
  simp [mget, mfind_mset_ne m v h]

/-- What an entry reads after another is set. -/
theorem mget_mset {α : Type} (d : α) (m : Map α) (k j : Nat) (v : α) :
    mget d (mset m k v) j = if j = k then v else mget d m j := by
  by_cases h : j = k
  · simp [h]
  · simp [h, mget_mset_ne d m v h]

/-! ## Reading memory after a write -/

@[simp] theorem get_put_self (m : Memory) (a : Nat) (b : Byte) : (m.put a b).get a = b := by
  by_cases h : b = 0
  · rw [Memory.put, if_pos h, Memory.get, mget, mfind_mdel_self, h]; rfl
  · rw [Memory.put, if_neg h, Memory.get, mget_mset_self]

theorem get_put_ne (m : Memory) {a x : Nat} (b : Byte) (h : x ≠ a) : (m.put a b).get x = m.get x := by
  by_cases hb : b = 0
  · rw [Memory.put, if_pos hb, Memory.get, mget, mfind_mdel_ne m h]; rfl
  · rw [Memory.put, if_neg hb, Memory.get, mget_mset_ne _ _ _ h]; rfl

/-- Writing bytes changes nothing outside them. -/
theorem get_putBytes_out (bs : List Byte) (m : Memory) (a x : Nat) (h : x < a ∨ a + bs.length ≤ x) :
    (m.putBytes a bs).get x = m.get x := by
  induction bs generalizing m a with
  | nil => rfl
  | cons b t ih =>
    simp only [List.length_cons] at h
    rw [Memory.putBytes, ih _ _ (by omega), get_put_ne _ _ (by omega)]

/-- Writing bytes puts each at its place. -/
theorem get_putBytes_in (bs : List Byte) (m : Memory) (a i : Nat) (h : i < bs.length) :
    (m.putBytes a bs).get (a + i) = bs[i] := by
  induction bs generalizing m a i with
  | nil => simp at h
  | cons b t ih =>
    rw [Memory.putBytes]
    cases i with
    | zero => rw [get_putBytes_out _ _ _ _ (by omega)]; simp
    | succ i =>
      have e : a + (i + 1) = (a + 1) + i := by omega
      simp only [e, List.getElem_cons_succ]
      exact ih _ _ _ (by simpa using h)

theorem leBytes_length (n v : Nat) : (leBytes n v).length = n := by
  induction n generalizing v with
  | zero => rfl
  | succ n ih => simp [leBytes, ih]

theorem mfind_filter_in (m : Memory) (p : Nat → Bool) (x : Nat) (h : p x = false) :
    mfind (m.filter (fun c => p c.1)) x = none := by
  induction m with
  | nil => rfl
  | cons c t ih =>
    by_cases hc : p c.1 = true
    · have hx : c.1 ≠ x := by intro e; rw [e, h] at hc; exact absurd hc (by decide)
      simp [hc, mfind, hx, ih]
    · simp [hc, ih]

theorem mfind_filter_out (m : Memory) (p : Nat → Bool) (x : Nat) (h : p x = true) :
    mfind (m.filter (fun c => p c.1)) x = mfind m x := by
  induction m with
  | nil => rfl
  | cons c t ih =>
    by_cases hc : p c.1 = true
    · simp [hc, mfind, ih]
    · have hx : c.1 ≠ x := by intro e; rw [e, h] at hc; exact hc rfl
      simp [hc, mfind, hx, ih]

/-- A cleared byte reads zero, and the others are unchanged (R92, R94). -/
theorem get_clear (m : Memory) (a n x : Nat) : (m.clear a n).get x = if a ≤ x ∧ x < a + n then 0 else m.get x := by
  by_cases h : a ≤ x ∧ x < a + n
  · have := mfind_filter_in m (fun c => !(decide (a ≤ c) && decide (c < a + n))) x (by simp [h.1, h.2])
    rw [if_pos h, Memory.clear, Memory.get, mget, this]; rfl
  · have := mfind_filter_out m (fun c => !(decide (a ≤ c) && decide (c < a + n))) x (by
      simp only [not_and] at h
      by_cases h1 : a ≤ x <;> simp [h1]; have := h h1; omega)
    rw [if_neg h, Memory.clear, Memory.get, mget, this]; rfl

/-! ## The canonical form -/

/-- The canonical form as a property of every entry and of neighbours. -/
theorem wf_iff (m : Memory) : m.wf = true ↔ (∀ c ∈ m, c.2 ≠ 0) ∧ m.Pairwise (fun a b => a.1 < b.1) := by
  induction m with
  | nil => simp [Memory.wf]
  | cons c t ih =>
    obtain ⟨a, b⟩ := c
    cases t with
    | nil => simp [Memory.wf]
    | cons c' t =>
      obtain ⟨a', b'⟩ := c'
      rw [Memory.wf, Bool.and_eq_true, Bool.and_eq_true, ih]
      simp only [bne_iff_ne, ne_eq, decide_eq_true_eq, List.mem_cons, forall_eq_or_imp, List.pairwise_cons]
      constructor
      · rintro ⟨⟨hb, ha⟩, ⟨hb', hn⟩, hr, hp⟩
        refine ⟨⟨hb, hb', hn⟩, ⟨ha, fun x hx => Nat.lt_trans ha (hr x hx)⟩, hr, hp⟩
      · rintro ⟨⟨hb, hb', hn⟩, ⟨ha, _⟩, hr, hp⟩
        exact ⟨⟨hb, ha⟩, ⟨hb', hn⟩, hr, hp⟩

theorem wf_filter (m : Memory) (p : Host.Cell → Bool) (h : m.wf = true) : Memory.wf (m.filter p) = true := by
  rw [wf_iff] at *
  exact ⟨fun c hc => h.1 c (List.mem_of_mem_filter hc), h.2.filter p⟩

theorem mem_mins {α : Type} (m : Map α) (k : Nat) (v : α) (c : Nat × α) : c ∈ mins m k v → c = (k, v) ∨ c ∈ m := by
  induction m with
  | nil => simp [mins]
  | cons p t ih =>
    obtain ⟨i, w⟩ := p
    intro h
    by_cases hk : k < i
    · simpa [mins, hk] using h
    · simp only [mins, hk, if_false, List.mem_cons] at h ⊢
      rcases h with h | h
      · exact .inr (.inl h)
      · exact (ih h).imp id .inr

theorem pairwise_mins {α : Type} (m : Map α) (k : Nat) (v : α) (hk : ∀ c ∈ m, c.1 ≠ k)
    (h : m.Pairwise (fun a b => a.1 < b.1)) : (mins m k v).Pairwise (fun a b => a.1 < b.1) := by
  induction m with
  | nil => simp [mins]
  | cons p t ih =>
    obtain ⟨i, w⟩ := p
    rw [List.pairwise_cons] at h
    by_cases hi : k < i
    · rw [mins, if_pos hi]
      simp only [List.pairwise_cons, List.mem_cons, forall_eq_or_imp]
      exact ⟨⟨hi, fun c hc => Nat.lt_trans hi (h.1 c hc)⟩, h.1, h.2⟩
    · rw [mins, if_neg hi]
      simp only [List.pairwise_cons]
      refine ⟨fun c hc => ?_, ih (fun c hc => hk c (List.mem_cons_of_mem _ hc)) h.2⟩
      rcases mem_mins t k v c hc with e | e
      · have := hk (i, w) List.mem_cons_self
        simp only [e] at *
        omega
      · exact h.1 c e

theorem wf_mdel (m : Memory) (k : Nat) (h : m.wf = true) : Memory.wf (mdel m k) = true := wf_filter m _ h

/-- Writing a byte keeps the canonical form. -/
theorem wf_put (m : Memory) (a : Nat) (b : Byte) (h : m.wf = true) : (m.put a b).wf = true := by
  by_cases hb : b = 0
  · simpa [Memory.put, hb] using wf_mdel m a h
  · have hd := wf_mdel m a h
    rw [wf_iff] at hd
    simp only [Memory.put, hb, if_false]
    rw [wf_iff]
    refine ⟨fun c hc => ?_, pairwise_mins _ _ _ (fun c hc => ?_) hd.2⟩
    · rcases mem_mins _ _ _ c hc with e | e
      · rw [e]; exact hb
      · exact hd.1 c e
    · have := List.of_mem_filter hc
      simpa using this

/-- Writing bytes keeps the canonical form. -/
theorem wf_putBytes (bs : List Byte) (m : Memory) (a : Nat) (h : m.wf = true) : (m.putBytes a bs).wf = true := by
  induction bs generalizing m a with
  | nil => exact h
  | cons b t ih => exact ih _ _ (wf_put m a b h)

/-- Writing a number keeps the canonical form. -/
theorem wf_putNum (m : Memory) (a n v : Nat) (h : m.wf = true) : (m.putNum a n v).wf = true := wf_putBytes _ m a h

/-- Clearing keeps the canonical form. -/
theorem wf_clear (m : Memory) (a n : Nat) (h : m.wf = true) : (m.clear a n).wf = true := wf_filter m _ h

/-- What `rising` keeps starts at its bound, rises and holds no zero byte. -/
theorem rising_form (m : Memory) (lo : Nat) :
    (∀ c ∈ Memory.rising lo m, lo ≤ c.1 ∧ c.2 ≠ 0) ∧ (Memory.rising lo m).Pairwise (fun a b => a.1 < b.1) := by
  induction m generalizing lo with
  | nil => simp [Memory.rising]
  | cons c t ih =>
    obtain ⟨a, b⟩ := c
    by_cases h : lo ≤ a ∧ b ≠ 0
    · rw [Memory.rising, if_pos h]
      obtain ⟨h1, h2⟩ := ih (a + 1)
      refine ⟨fun c hc => ?_, List.pairwise_cons.mpr ⟨fun c hc => (h1 c hc).1, h2⟩⟩
      rcases List.mem_cons.mp hc with e | e
      · rw [e]; exact h
      · have := h1 c e
        exact ⟨by omega, this.2⟩
    · rw [Memory.rising, if_neg h]
      exact ih lo

/-- Replacing a range by the bytes of another memory keeps the canonical form, whatever that other one is. -/
theorem wf_splice (m x : Memory) (a n : Nat) (h : m.wf = true) : (m.splice a n x).wf = true := by
  rw [wf_iff] at *
  obtain ⟨r1, r2⟩ := rising_form x a
  have low : ∀ c ∈ m.filter (fun c => decide (c.1 < a)), c.1 < a ∧ c.2 ≠ 0 := fun c hc =>
    ⟨by simpa using List.of_mem_filter hc, h.1 c (List.mem_of_mem_filter hc)⟩
  have high : ∀ c ∈ m.filter (fun c => decide (a + n ≤ c.1)), a + n ≤ c.1 ∧ c.2 ≠ 0 := fun c hc =>
    ⟨by simpa using List.of_mem_filter hc, h.1 c (List.mem_of_mem_filter hc)⟩
  have mid : ∀ c ∈ (Memory.rising a x).filter (fun c => decide (c.1 < a + n)), a ≤ c.1 ∧ c.1 < a + n ∧ c.2 ≠ 0 := fun c hc => by
    have := r1 c (List.mem_of_mem_filter hc)
    exact ⟨this.1, by simpa using List.of_mem_filter hc, this.2⟩
  refine ⟨fun c hc => ?_, ?_⟩
  · rcases List.mem_append.mp hc with e | e
    · rcases List.mem_append.mp e with e | e
      · exact (low c e).2
      · exact (mid c e).2.2
    · exact (high c e).2
  · refine List.pairwise_append.mpr ⟨List.pairwise_append.mpr ⟨h.2.filter _, r2.filter _, fun c hc d hd => ?_⟩, h.2.filter _,
      fun c hc d hd => ?_⟩
    · have := low c hc; have := mid d hd; omega
    · have hd' := high d hd
      rcases List.mem_append.mp hc with e | e
      · have := low c e; omega
      · have := mid c e; omega

/-- The bytes of a range by offset keep the canonical form. -/
theorem wf_part (m : Memory) (a n : Nat) (h : m.wf = true) : (m.part a n).wf = true := by
  have hf := wf_filter m (fun c => decide (a ≤ c.1) && decide (c.1 < a + n)) h
  rw [wf_iff] at *
  refine ⟨fun c hc => ?_, List.pairwise_map.mpr (hf.2.imp_of_mem (fun {c d} hc hd hlt => ?_))⟩
  · obtain ⟨d, hd, rfl⟩ := List.mem_map.mp hc
    exact hf.1 d hd
  · have h1 := List.of_mem_filter hc
    have h2 := List.of_mem_filter hd
    simp only [Bool.and_eq_true, decide_eq_true_eq] at h1 h2
    show c.1 - a < d.1 - a
    omega

/-- Moving bytes to another place keeps the canonical form. -/
theorem wf_shift (m : Memory) (a : Nat) (h : m.wf = true) : (m.shift a).wf = true := by
  rw [wf_iff] at *
  refine ⟨fun c hc => ?_, List.pairwise_map.mpr (h.2.imp (fun {c d} hlt => by show c.1 + a < d.1 + a; omega))⟩
  obtain ⟨d, hd, rfl⟩ := List.mem_map.mp hc
  exact h.1 d hd

/-- Outside the range that `splice` replaces, every byte is as it was. -/
theorem get_splice_out (m x : Memory) (a n i : Nat) (hi : i < a ∨ a + n ≤ i) : (m.splice a n x).get i = m.get i := by
  have app (u v : Memory) (j : Nat) : mfind (u ++ v) j = (mfind u j).or (mfind v j) := by
    induction u with
    | nil => simp [mfind]
    | cons c t ih => by_cases h : c.1 = j <;> simp [mfind, h, ih]
  have none_of (u : Memory) (hu : ∀ c ∈ u, c.1 ≠ i) : mfind u i = none := by
    induction u with
    | nil => rfl
    | cons c t ih => simp [mfind, hu c List.mem_cons_self, ih (fun d hd => hu d (List.mem_cons_of_mem _ hd))]
  have mid : mfind ((Memory.rising a x).filter (fun c => decide (c.1 < a + n))) i = none := none_of _ (fun c hc => by
    have h1 := ((rising_form x a).1 c (List.mem_of_mem_filter hc)).1
    have h2 : c.1 < a + n := by simpa using List.of_mem_filter hc
    omega)
  have key : mfind (m.splice a n x) i = mfind m i := by
    rw [Memory.splice, app, app, mid]
    rcases hi with h | h
    · rw [mfind_filter_out m (fun c => decide (c < a)) i (by simpa using h),
        mfind_filter_in m (fun c => decide (a + n ≤ c)) i (by simp; omega)]
      simp
    · rw [mfind_filter_in m (fun c => decide (c < a)) i (by simp; omega),
        mfind_filter_out m (fun c => decide (a + n ≤ c)) i (by simpa using h)]
      simp
  rw [Memory.get, mget, key]; rfl

/-- A sequence of steps each of which keeps the canonical form keeps it. -/
theorem wf_foldl {β : Type} (l : List β) (f : Memory → β → Memory) (hf : ∀ m x, Memory.wf m = true → (f m x).wf = true) (m : Memory)
    (h : m.wf = true) : (l.foldl f m).wf = true := by
  induction l generalizing m with
  | nil => exact h
  | cons x t ih => exact ih _ (hf m x h)

/-- Memories in canonical form that read alike are equal. -/
theorem wf_ext (m n : Memory) (hm : m.wf = true) (hn : n.wf = true) (h : ∀ a, m.get a = n.get a) : m = n := by
  induction m generalizing n with
  | nil =>
    cases n with
    | nil => rfl
    | cons c t =>
      have h1 := h c.1
      simp only [Memory.get, mget, mfind, if_true, Option.getD_none, Option.getD_some] at h1
      exact absurd h1.symm (((wf_iff _).mp hn).1 c List.mem_cons_self)
  | cons c t ih =>
    cases n with
    | nil =>
      have h1 := h c.1
      simp only [Memory.get, mget, mfind, if_true, Option.getD_none, Option.getD_some] at h1
      exact absurd h1 (((wf_iff _).mp hm).1 c List.mem_cons_self)
    | cons d u =>
      have wm := (wf_iff _).mp hm
      have wn := (wf_iff _).mp hn
      rw [List.pairwise_cons] at wm wn
      have none_of (l : Memory) (x : Nat) (hl : ∀ e ∈ l, x < e.1) : mfind l x = none := by
        induction l with
        | nil => rfl
        | cons e l ih =>
          have := hl e List.mem_cons_self
          simp only [mfind]
          rw [if_neg (by omega)]
          exact ih (fun e' he => hl e' (List.mem_cons_of_mem _ he))
      have hcd : c.1 = d.1 := by
        rcases Nat.lt_trichotomy c.1 d.1 with hl | he | hl
        · have h1 := h c.1
          have h2 := none_of (d :: u) c.1 (by
            intro e he
            rcases List.mem_cons.mp he with e1 | e1
            · rw [e1]; exact hl
            · exact Nat.lt_trans hl (wn.2.1 e e1))
          simp only [Memory.get, mget, h2, Option.getD_none] at h1
          simp only [mfind, if_true, Option.getD_some] at h1
          exact absurd h1 (wm.1 c List.mem_cons_self)
        · exact he
        · have h1 := h d.1
          have h2 := none_of (c :: t) d.1 (by
            intro e he
            rcases List.mem_cons.mp he with e1 | e1
            · rw [e1]; exact hl
            · exact Nat.lt_trans hl (wm.2.1 e e1))
          simp only [Memory.get, mget, h2, Option.getD_none] at h1
          simp only [mfind, if_true, Option.getD_some] at h1
          exact absurd h1.symm (wn.1 d List.mem_cons_self)
      have hv : c.2 = d.2 := by
        have h1 := h c.1
        simpa [Memory.get, mget, mfind, hcd] using h1
      have hc : c = d := Prod.ext hcd hv
      have ht : t = u := by
        apply ih
        · exact (wf_iff _).mpr ⟨fun e he => wm.1 e (List.mem_cons_of_mem _ he), wm.2.2⟩
        · exact (wf_iff _).mpr ⟨fun e he => wn.1 e (List.mem_cons_of_mem _ he), wn.2.2⟩
        · intro a
          by_cases ha : c.1 = a
          · have h2 := none_of t a (fun e he => ha ▸ wm.2.1 e he)
            have h3 := none_of u a (fun e he => by rw [← ha, hcd]; exact wn.2.1 e he)
            simp [Memory.get, mget, h2, h3]
          · have h1 := h a
            have hd' : d.1 ≠ a := by rw [← hcd]; exact ha
            simpa [Memory.get, mget, mfind, ha, hd'] using h1
      rw [hc, ht]

end Sys2Proof.Laws
end

