-- ==== Sys2Proof/Laws/State.lean ====
section
/-! SUPPORT. Laws of the state: what each update leaves unchanged, and what is read after it. -/

namespace Sys2Proof.Laws

open Sys2Proof.Machine

/-! ## setCore -/

@[simp] theorem setCore_turn (s : State) (c : Nat) (v : Core) : (s.setCore c v).turn = s.turn := rfl
@[simp] theorem setCore_tick (s : State) (c : Nat) (v : Core) : (s.setCore c v).tick = s.tick := rfl
@[simp] theorem setCore_cur (s : State) (c : Nat) (v : Core) : (s.setCore c v).cur = s.cur := rfl
@[simp] theorem setCore_inputs (s : State) (c : Nat) (v : Core) : (s.setCore c v).inputs = s.inputs := rfl
@[simp] theorem setCore_pkg (s : State) (c : Nat) (v : Core) : (s.setCore c v).pkg = s.pkg := rfl
@[simp] theorem setCore_mem (s : State) (c : Nat) (v : Core) : (s.setCore c v).mem = s.mem := rfl
@[simp] theorem setCore_bad (s : State) (c : Nat) (v : Core) : (s.setCore c v).bad = s.bad := rfl
@[simp] theorem setCore_badBanks (s : State) (c : Nat) (v : Core) : (s.setCore c v).badBanks = s.badBanks := rfl
@[simp] theorem setCore_redirects (s : State) (c : Nat) (v : Core) : (s.setCore c v).redirects = s.redirects := rfl
@[simp] theorem setCore_copyAt (s : State) (c : Nat) (v : Core) : (s.setCore c v).copyAt = s.copyAt := rfl
@[simp] theorem setCore_switched (s : State) (c : Nat) (v : Core) : (s.setCore c v).switched = s.switched := rfl
@[simp] theorem setCore_rows (s : State) (c : Nat) (v : Core) : (s.setCore c v).rows = s.rows := rfl
@[simp] theorem setCore_ctrs (s : State) (c : Nat) (v : Core) : (s.setCore c v).ctrs = s.ctrs := rfl
@[simp] theorem setCore_seqs (s : State) (c : Nat) (v : Core) : (s.setCore c v).seqs = s.seqs := rfl
@[simp] theorem setCore_counts (s : State) (c : Nat) (v : Core) : (s.setCore c v).counts = s.counts := rfl
@[simp] theorem setCore_parts (s : State) (c : Nat) (v : Core) : (s.setCore c v).parts = s.parts := rfl
@[simp] theorem setCore_vfs (s : State) (c : Nat) (v : Core) : (s.setCore c v).vfs = s.vfs := rfl
@[simp] theorem setCore_launches (s : State) (c : Nat) (v : Core) : (s.setCore c v).launches = s.launches := rfl
@[simp] theorem setCore_nextId (s : State) (c : Nat) (v : Core) : (s.setCore c v).nextId = s.nextId := rfl
@[simp] theorem setCore_net (s : State) (c : Nat) (v : Core) : (s.setCore c v).net = s.net := rfl
@[simp] theorem setCore_ats (s : State) (c : Nat) (v : Core) : (s.setCore c v).ats = s.ats := rfl
@[simp] theorem setCore_hostReqs (s : State) (c : Nat) (v : Core) : (s.setCore c v).hostReqs = s.hostReqs := rfl
@[simp] theorem setCore_out (s : State) (c : Nat) (v : Core) : (s.setCore c v).out = s.out := rfl
@[simp] theorem setCore_dev (s : State) (c : Nat) (v : Core) : (s.setCore c v).dev = s.dev := rfl
@[simp] theorem setCore_root (s : State) (c : Nat) (v : Core) : (s.setCore c v).root = s.root := rfl

/-! ## modCore -/

@[simp] theorem modCore_turn (s : State) (c : Nat) (f : Core → Core) : (s.modCore c f).turn = s.turn := rfl
@[simp] theorem modCore_tick (s : State) (c : Nat) (f : Core → Core) : (s.modCore c f).tick = s.tick := rfl
@[simp] theorem modCore_cur (s : State) (c : Nat) (f : Core → Core) : (s.modCore c f).cur = s.cur := rfl
@[simp] theorem modCore_inputs (s : State) (c : Nat) (f : Core → Core) : (s.modCore c f).inputs = s.inputs := rfl
@[simp] theorem modCore_pkg (s : State) (c : Nat) (f : Core → Core) : (s.modCore c f).pkg = s.pkg := rfl
@[simp] theorem modCore_mem (s : State) (c : Nat) (f : Core → Core) : (s.modCore c f).mem = s.mem := rfl
@[simp] theorem modCore_bad (s : State) (c : Nat) (f : Core → Core) : (s.modCore c f).bad = s.bad := rfl
@[simp] theorem modCore_badBanks (s : State) (c : Nat) (f : Core → Core) : (s.modCore c f).badBanks = s.badBanks := rfl
@[simp] theorem modCore_redirects (s : State) (c : Nat) (f : Core → Core) : (s.modCore c f).redirects = s.redirects := rfl
@[simp] theorem modCore_copyAt (s : State) (c : Nat) (f : Core → Core) : (s.modCore c f).copyAt = s.copyAt := rfl
@[simp] theorem modCore_switched (s : State) (c : Nat) (f : Core → Core) : (s.modCore c f).switched = s.switched := rfl
@[simp] theorem modCore_rows (s : State) (c : Nat) (f : Core → Core) : (s.modCore c f).rows = s.rows := rfl
@[simp] theorem modCore_ctrs (s : State) (c : Nat) (f : Core → Core) : (s.modCore c f).ctrs = s.ctrs := rfl
@[simp] theorem modCore_seqs (s : State) (c : Nat) (f : Core → Core) : (s.modCore c f).seqs = s.seqs := rfl
@[simp] theorem modCore_counts (s : State) (c : Nat) (f : Core → Core) : (s.modCore c f).counts = s.counts := rfl
@[simp] theorem modCore_parts (s : State) (c : Nat) (f : Core → Core) : (s.modCore c f).parts = s.parts := rfl
@[simp] theorem modCore_vfs (s : State) (c : Nat) (f : Core → Core) : (s.modCore c f).vfs = s.vfs := rfl
@[simp] theorem modCore_launches (s : State) (c : Nat) (f : Core → Core) : (s.modCore c f).launches = s.launches := rfl
@[simp] theorem modCore_nextId (s : State) (c : Nat) (f : Core → Core) : (s.modCore c f).nextId = s.nextId := rfl
@[simp] theorem modCore_net (s : State) (c : Nat) (f : Core → Core) : (s.modCore c f).net = s.net := rfl
@[simp] theorem modCore_ats (s : State) (c : Nat) (f : Core → Core) : (s.modCore c f).ats = s.ats := rfl
@[simp] theorem modCore_hostReqs (s : State) (c : Nat) (f : Core → Core) : (s.modCore c f).hostReqs = s.hostReqs := rfl
@[simp] theorem modCore_out (s : State) (c : Nat) (f : Core → Core) : (s.modCore c f).out = s.out := rfl
@[simp] theorem modCore_dev (s : State) (c : Nat) (f : Core → Core) : (s.modCore c f).dev = s.dev := rfl
@[simp] theorem modCore_root (s : State) (c : Nat) (f : Core → Core) : (s.modCore c f).root = s.root := rfl

/-! ## setStr -/

@[simp] theorem setStr_turn (s : State) (c k : Nat) (v : Str) : (s.setStr c k v).turn = s.turn := rfl
@[simp] theorem setStr_tick (s : State) (c k : Nat) (v : Str) : (s.setStr c k v).tick = s.tick := rfl
@[simp] theorem setStr_cur (s : State) (c k : Nat) (v : Str) : (s.setStr c k v).cur = s.cur := rfl
@[simp] theorem setStr_inputs (s : State) (c k : Nat) (v : Str) : (s.setStr c k v).inputs = s.inputs := rfl
@[simp] theorem setStr_pkg (s : State) (c k : Nat) (v : Str) : (s.setStr c k v).pkg = s.pkg := rfl
@[simp] theorem setStr_mem (s : State) (c k : Nat) (v : Str) : (s.setStr c k v).mem = s.mem := rfl
@[simp] theorem setStr_bad (s : State) (c k : Nat) (v : Str) : (s.setStr c k v).bad = s.bad := rfl
@[simp] theorem setStr_badBanks (s : State) (c k : Nat) (v : Str) : (s.setStr c k v).badBanks = s.badBanks := rfl
@[simp] theorem setStr_redirects (s : State) (c k : Nat) (v : Str) : (s.setStr c k v).redirects = s.redirects := rfl
@[simp] theorem setStr_copyAt (s : State) (c k : Nat) (v : Str) : (s.setStr c k v).copyAt = s.copyAt := rfl
@[simp] theorem setStr_switched (s : State) (c k : Nat) (v : Str) : (s.setStr c k v).switched = s.switched := rfl
@[simp] theorem setStr_rows (s : State) (c k : Nat) (v : Str) : (s.setStr c k v).rows = s.rows := rfl
@[simp] theorem setStr_ctrs (s : State) (c k : Nat) (v : Str) : (s.setStr c k v).ctrs = s.ctrs := rfl
@[simp] theorem setStr_seqs (s : State) (c k : Nat) (v : Str) : (s.setStr c k v).seqs = s.seqs := rfl
@[simp] theorem setStr_counts (s : State) (c k : Nat) (v : Str) : (s.setStr c k v).counts = s.counts := rfl
@[simp] theorem setStr_parts (s : State) (c k : Nat) (v : Str) : (s.setStr c k v).parts = s.parts := rfl
@[simp] theorem setStr_vfs (s : State) (c k : Nat) (v : Str) : (s.setStr c k v).vfs = s.vfs := rfl
@[simp] theorem setStr_launches (s : State) (c k : Nat) (v : Str) : (s.setStr c k v).launches = s.launches := rfl
@[simp] theorem setStr_nextId (s : State) (c k : Nat) (v : Str) : (s.setStr c k v).nextId = s.nextId := rfl
@[simp] theorem setStr_net (s : State) (c k : Nat) (v : Str) : (s.setStr c k v).net = s.net := rfl
@[simp] theorem setStr_ats (s : State) (c k : Nat) (v : Str) : (s.setStr c k v).ats = s.ats := rfl
@[simp] theorem setStr_hostReqs (s : State) (c k : Nat) (v : Str) : (s.setStr c k v).hostReqs = s.hostReqs := rfl
@[simp] theorem setStr_out (s : State) (c k : Nat) (v : Str) : (s.setStr c k v).out = s.out := rfl
@[simp] theorem setStr_dev (s : State) (c k : Nat) (v : Str) : (s.setStr c k v).dev = s.dev := rfl
@[simp] theorem setStr_root (s : State) (c k : Nat) (v : Str) : (s.setStr c k v).root = s.root := rfl

/-! ## modStr -/

@[simp] theorem modStr_turn (s : State) (c k : Nat) (f : Str → Str) : (s.modStr c k f).turn = s.turn := rfl
@[simp] theorem modStr_tick (s : State) (c k : Nat) (f : Str → Str) : (s.modStr c k f).tick = s.tick := rfl
@[simp] theorem modStr_cur (s : State) (c k : Nat) (f : Str → Str) : (s.modStr c k f).cur = s.cur := rfl
@[simp] theorem modStr_inputs (s : State) (c k : Nat) (f : Str → Str) : (s.modStr c k f).inputs = s.inputs := rfl
@[simp] theorem modStr_pkg (s : State) (c k : Nat) (f : Str → Str) : (s.modStr c k f).pkg = s.pkg := rfl
@[simp] theorem modStr_mem (s : State) (c k : Nat) (f : Str → Str) : (s.modStr c k f).mem = s.mem := rfl
@[simp] theorem modStr_bad (s : State) (c k : Nat) (f : Str → Str) : (s.modStr c k f).bad = s.bad := rfl
@[simp] theorem modStr_badBanks (s : State) (c k : Nat) (f : Str → Str) : (s.modStr c k f).badBanks = s.badBanks := rfl
@[simp] theorem modStr_redirects (s : State) (c k : Nat) (f : Str → Str) : (s.modStr c k f).redirects = s.redirects := rfl
@[simp] theorem modStr_copyAt (s : State) (c k : Nat) (f : Str → Str) : (s.modStr c k f).copyAt = s.copyAt := rfl
@[simp] theorem modStr_switched (s : State) (c k : Nat) (f : Str → Str) : (s.modStr c k f).switched = s.switched := rfl
@[simp] theorem modStr_rows (s : State) (c k : Nat) (f : Str → Str) : (s.modStr c k f).rows = s.rows := rfl
@[simp] theorem modStr_ctrs (s : State) (c k : Nat) (f : Str → Str) : (s.modStr c k f).ctrs = s.ctrs := rfl
@[simp] theorem modStr_seqs (s : State) (c k : Nat) (f : Str → Str) : (s.modStr c k f).seqs = s.seqs := rfl
@[simp] theorem modStr_counts (s : State) (c k : Nat) (f : Str → Str) : (s.modStr c k f).counts = s.counts := rfl
@[simp] theorem modStr_parts (s : State) (c k : Nat) (f : Str → Str) : (s.modStr c k f).parts = s.parts := rfl
@[simp] theorem modStr_vfs (s : State) (c k : Nat) (f : Str → Str) : (s.modStr c k f).vfs = s.vfs := rfl
@[simp] theorem modStr_launches (s : State) (c k : Nat) (f : Str → Str) : (s.modStr c k f).launches = s.launches := rfl
@[simp] theorem modStr_nextId (s : State) (c k : Nat) (f : Str → Str) : (s.modStr c k f).nextId = s.nextId := rfl
@[simp] theorem modStr_net (s : State) (c k : Nat) (f : Str → Str) : (s.modStr c k f).net = s.net := rfl
@[simp] theorem modStr_ats (s : State) (c k : Nat) (f : Str → Str) : (s.modStr c k f).ats = s.ats := rfl
@[simp] theorem modStr_hostReqs (s : State) (c k : Nat) (f : Str → Str) : (s.modStr c k f).hostReqs = s.hostReqs := rfl
@[simp] theorem modStr_out (s : State) (c k : Nat) (f : Str → Str) : (s.modStr c k f).out = s.out := rfl
@[simp] theorem modStr_dev (s : State) (c k : Nat) (f : Str → Str) : (s.modStr c k f).dev = s.dev := rfl
@[simp] theorem modStr_root (s : State) (c k : Nat) (f : Str → Str) : (s.modStr c k f).root = s.root := rfl

/-! ## setCurStr -/

@[simp] theorem setCurStr_turn (s : State) (t : Str) : (s.setCurStr t).turn = s.turn := rfl
@[simp] theorem setCurStr_tick (s : State) (t : Str) : (s.setCurStr t).tick = s.tick := rfl
@[simp] theorem setCurStr_cur (s : State) (t : Str) : (s.setCurStr t).cur = s.cur := rfl
@[simp] theorem setCurStr_inputs (s : State) (t : Str) : (s.setCurStr t).inputs = s.inputs := rfl
@[simp] theorem setCurStr_pkg (s : State) (t : Str) : (s.setCurStr t).pkg = s.pkg := rfl
@[simp] theorem setCurStr_mem (s : State) (t : Str) : (s.setCurStr t).mem = s.mem := rfl
@[simp] theorem setCurStr_bad (s : State) (t : Str) : (s.setCurStr t).bad = s.bad := rfl
@[simp] theorem setCurStr_badBanks (s : State) (t : Str) : (s.setCurStr t).badBanks = s.badBanks := rfl
@[simp] theorem setCurStr_redirects (s : State) (t : Str) : (s.setCurStr t).redirects = s.redirects := rfl
@[simp] theorem setCurStr_copyAt (s : State) (t : Str) : (s.setCurStr t).copyAt = s.copyAt := rfl
@[simp] theorem setCurStr_switched (s : State) (t : Str) : (s.setCurStr t).switched = s.switched := rfl
@[simp] theorem setCurStr_rows (s : State) (t : Str) : (s.setCurStr t).rows = s.rows := rfl
@[simp] theorem setCurStr_ctrs (s : State) (t : Str) : (s.setCurStr t).ctrs = s.ctrs := rfl
@[simp] theorem setCurStr_seqs (s : State) (t : Str) : (s.setCurStr t).seqs = s.seqs := rfl
@[simp] theorem setCurStr_counts (s : State) (t : Str) : (s.setCurStr t).counts = s.counts := rfl
@[simp] theorem setCurStr_parts (s : State) (t : Str) : (s.setCurStr t).parts = s.parts := rfl
@[simp] theorem setCurStr_vfs (s : State) (t : Str) : (s.setCurStr t).vfs = s.vfs := rfl
@[simp] theorem setCurStr_launches (s : State) (t : Str) : (s.setCurStr t).launches = s.launches := rfl
@[simp] theorem setCurStr_nextId (s : State) (t : Str) : (s.setCurStr t).nextId = s.nextId := rfl
@[simp] theorem setCurStr_net (s : State) (t : Str) : (s.setCurStr t).net = s.net := rfl
@[simp] theorem setCurStr_ats (s : State) (t : Str) : (s.setCurStr t).ats = s.ats := rfl
@[simp] theorem setCurStr_hostReqs (s : State) (t : Str) : (s.setCurStr t).hostReqs = s.hostReqs := rfl
@[simp] theorem setCurStr_out (s : State) (t : Str) : (s.setCurStr t).out = s.out := rfl
@[simp] theorem setCurStr_dev (s : State) (t : Str) : (s.setCurStr t).dev = s.dev := rfl
@[simp] theorem setCurStr_root (s : State) (t : Str) : (s.setCurStr t).root = s.root := rfl

/-! ## modPart -/

@[simp] theorem modPart_turn (s : State) (p : Nat) (f : Partition → Partition) : (s.modPart p f).turn = s.turn := rfl
@[simp] theorem modPart_tick (s : State) (p : Nat) (f : Partition → Partition) : (s.modPart p f).tick = s.tick := rfl
@[simp] theorem modPart_cur (s : State) (p : Nat) (f : Partition → Partition) : (s.modPart p f).cur = s.cur := rfl
@[simp] theorem modPart_inputs (s : State) (p : Nat) (f : Partition → Partition) : (s.modPart p f).inputs = s.inputs := rfl
@[simp] theorem modPart_pkg (s : State) (p : Nat) (f : Partition → Partition) : (s.modPart p f).pkg = s.pkg := rfl
@[simp] theorem modPart_cores (s : State) (p : Nat) (f : Partition → Partition) : (s.modPart p f).cores = s.cores := rfl
@[simp] theorem modPart_mem (s : State) (p : Nat) (f : Partition → Partition) : (s.modPart p f).mem = s.mem := rfl
@[simp] theorem modPart_bad (s : State) (p : Nat) (f : Partition → Partition) : (s.modPart p f).bad = s.bad := rfl
@[simp] theorem modPart_badBanks (s : State) (p : Nat) (f : Partition → Partition) : (s.modPart p f).badBanks = s.badBanks := rfl
@[simp] theorem modPart_redirects (s : State) (p : Nat) (f : Partition → Partition) : (s.modPart p f).redirects = s.redirects := rfl
@[simp] theorem modPart_copyAt (s : State) (p : Nat) (f : Partition → Partition) : (s.modPart p f).copyAt = s.copyAt := rfl
@[simp] theorem modPart_switched (s : State) (p : Nat) (f : Partition → Partition) : (s.modPart p f).switched = s.switched := rfl
@[simp] theorem modPart_rows (s : State) (p : Nat) (f : Partition → Partition) : (s.modPart p f).rows = s.rows := rfl
@[simp] theorem modPart_ctrs (s : State) (p : Nat) (f : Partition → Partition) : (s.modPart p f).ctrs = s.ctrs := rfl
@[simp] theorem modPart_seqs (s : State) (p : Nat) (f : Partition → Partition) : (s.modPart p f).seqs = s.seqs := rfl
@[simp] theorem modPart_counts (s : State) (p : Nat) (f : Partition → Partition) : (s.modPart p f).counts = s.counts := rfl
@[simp] theorem modPart_vfs (s : State) (p : Nat) (f : Partition → Partition) : (s.modPart p f).vfs = s.vfs := rfl
@[simp] theorem modPart_launches (s : State) (p : Nat) (f : Partition → Partition) : (s.modPart p f).launches = s.launches := rfl
@[simp] theorem modPart_nextId (s : State) (p : Nat) (f : Partition → Partition) : (s.modPart p f).nextId = s.nextId := rfl
@[simp] theorem modPart_net (s : State) (p : Nat) (f : Partition → Partition) : (s.modPart p f).net = s.net := rfl
@[simp] theorem modPart_ats (s : State) (p : Nat) (f : Partition → Partition) : (s.modPart p f).ats = s.ats := rfl
@[simp] theorem modPart_hostReqs (s : State) (p : Nat) (f : Partition → Partition) : (s.modPart p f).hostReqs = s.hostReqs := rfl
@[simp] theorem modPart_out (s : State) (p : Nat) (f : Partition → Partition) : (s.modPart p f).out = s.out := rfl
@[simp] theorem modPart_dev (s : State) (p : Nat) (f : Partition → Partition) : (s.modPart p f).dev = s.dev := rfl
@[simp] theorem modPart_root (s : State) (p : Nat) (f : Partition → Partition) : (s.modPart p f).root = s.root := rfl

/-! ## modVf -/

@[simp] theorem modVf_turn (s : State) (f : Nat) (g : Vf → Vf) : (s.modVf f g).turn = s.turn := rfl
@[simp] theorem modVf_tick (s : State) (f : Nat) (g : Vf → Vf) : (s.modVf f g).tick = s.tick := rfl
@[simp] theorem modVf_cur (s : State) (f : Nat) (g : Vf → Vf) : (s.modVf f g).cur = s.cur := rfl
@[simp] theorem modVf_inputs (s : State) (f : Nat) (g : Vf → Vf) : (s.modVf f g).inputs = s.inputs := rfl
@[simp] theorem modVf_pkg (s : State) (f : Nat) (g : Vf → Vf) : (s.modVf f g).pkg = s.pkg := rfl
@[simp] theorem modVf_cores (s : State) (f : Nat) (g : Vf → Vf) : (s.modVf f g).cores = s.cores := rfl
@[simp] theorem modVf_mem (s : State) (f : Nat) (g : Vf → Vf) : (s.modVf f g).mem = s.mem := rfl
@[simp] theorem modVf_bad (s : State) (f : Nat) (g : Vf → Vf) : (s.modVf f g).bad = s.bad := rfl
@[simp] theorem modVf_badBanks (s : State) (f : Nat) (g : Vf → Vf) : (s.modVf f g).badBanks = s.badBanks := rfl
@[simp] theorem modVf_redirects (s : State) (f : Nat) (g : Vf → Vf) : (s.modVf f g).redirects = s.redirects := rfl
@[simp] theorem modVf_copyAt (s : State) (f : Nat) (g : Vf → Vf) : (s.modVf f g).copyAt = s.copyAt := rfl
@[simp] theorem modVf_switched (s : State) (f : Nat) (g : Vf → Vf) : (s.modVf f g).switched = s.switched := rfl
@[simp] theorem modVf_rows (s : State) (f : Nat) (g : Vf → Vf) : (s.modVf f g).rows = s.rows := rfl
@[simp] theorem modVf_ctrs (s : State) (f : Nat) (g : Vf → Vf) : (s.modVf f g).ctrs = s.ctrs := rfl
@[simp] theorem modVf_seqs (s : State) (f : Nat) (g : Vf → Vf) : (s.modVf f g).seqs = s.seqs := rfl
@[simp] theorem modVf_counts (s : State) (f : Nat) (g : Vf → Vf) : (s.modVf f g).counts = s.counts := rfl
@[simp] theorem modVf_parts (s : State) (f : Nat) (g : Vf → Vf) : (s.modVf f g).parts = s.parts := rfl
@[simp] theorem modVf_launches (s : State) (f : Nat) (g : Vf → Vf) : (s.modVf f g).launches = s.launches := rfl
@[simp] theorem modVf_nextId (s : State) (f : Nat) (g : Vf → Vf) : (s.modVf f g).nextId = s.nextId := rfl
@[simp] theorem modVf_net (s : State) (f : Nat) (g : Vf → Vf) : (s.modVf f g).net = s.net := rfl
@[simp] theorem modVf_ats (s : State) (f : Nat) (g : Vf → Vf) : (s.modVf f g).ats = s.ats := rfl
@[simp] theorem modVf_hostReqs (s : State) (f : Nat) (g : Vf → Vf) : (s.modVf f g).hostReqs = s.hostReqs := rfl
@[simp] theorem modVf_out (s : State) (f : Nat) (g : Vf → Vf) : (s.modVf f g).out = s.out := rfl
@[simp] theorem modVf_dev (s : State) (f : Nat) (g : Vf → Vf) : (s.modVf f g).dev = s.dev := rfl
@[simp] theorem modVf_root (s : State) (f : Nat) (g : Vf → Vf) : (s.modVf f g).root = s.root := rfl

/-! ## emit -/

@[simp] theorem emit_turn (s : State) (o : Out) : (s.emit o).turn = s.turn := rfl
@[simp] theorem emit_tick (s : State) (o : Out) : (s.emit o).tick = s.tick := rfl
@[simp] theorem emit_cur (s : State) (o : Out) : (s.emit o).cur = s.cur := rfl
@[simp] theorem emit_inputs (s : State) (o : Out) : (s.emit o).inputs = s.inputs := rfl
@[simp] theorem emit_pkg (s : State) (o : Out) : (s.emit o).pkg = s.pkg := rfl
@[simp] theorem emit_cores (s : State) (o : Out) : (s.emit o).cores = s.cores := rfl
@[simp] theorem emit_mem (s : State) (o : Out) : (s.emit o).mem = s.mem := rfl
@[simp] theorem emit_bad (s : State) (o : Out) : (s.emit o).bad = s.bad := rfl
@[simp] theorem emit_badBanks (s : State) (o : Out) : (s.emit o).badBanks = s.badBanks := rfl
@[simp] theorem emit_redirects (s : State) (o : Out) : (s.emit o).redirects = s.redirects := rfl
@[simp] theorem emit_copyAt (s : State) (o : Out) : (s.emit o).copyAt = s.copyAt := rfl
@[simp] theorem emit_switched (s : State) (o : Out) : (s.emit o).switched = s.switched := rfl
@[simp] theorem emit_rows (s : State) (o : Out) : (s.emit o).rows = s.rows := rfl
@[simp] theorem emit_ctrs (s : State) (o : Out) : (s.emit o).ctrs = s.ctrs := rfl
@[simp] theorem emit_seqs (s : State) (o : Out) : (s.emit o).seqs = s.seqs := rfl
@[simp] theorem emit_counts (s : State) (o : Out) : (s.emit o).counts = s.counts := rfl
@[simp] theorem emit_parts (s : State) (o : Out) : (s.emit o).parts = s.parts := rfl
@[simp] theorem emit_vfs (s : State) (o : Out) : (s.emit o).vfs = s.vfs := rfl
@[simp] theorem emit_launches (s : State) (o : Out) : (s.emit o).launches = s.launches := rfl
@[simp] theorem emit_nextId (s : State) (o : Out) : (s.emit o).nextId = s.nextId := rfl
@[simp] theorem emit_net (s : State) (o : Out) : (s.emit o).net = s.net := rfl
@[simp] theorem emit_ats (s : State) (o : Out) : (s.emit o).ats = s.ats := rfl
@[simp] theorem emit_hostReqs (s : State) (o : Out) : (s.emit o).hostReqs = s.hostReqs := rfl
@[simp] theorem emit_dev (s : State) (o : Out) : (s.emit o).dev = s.dev := rfl
@[simp] theorem emit_root (s : State) (o : Out) : (s.emit o).root = s.root := rfl

/-! ## bump -/

@[simp] theorem bump_turn (s : State) : (s.bump).turn = s.turn := rfl
@[simp] theorem bump_cur (s : State) : (s.bump).cur = s.cur := rfl
@[simp] theorem bump_inputs (s : State) : (s.bump).inputs = s.inputs := rfl
@[simp] theorem bump_pkg (s : State) : (s.bump).pkg = s.pkg := rfl
@[simp] theorem bump_cores (s : State) : (s.bump).cores = s.cores := rfl
@[simp] theorem bump_mem (s : State) : (s.bump).mem = s.mem := rfl
@[simp] theorem bump_bad (s : State) : (s.bump).bad = s.bad := rfl
@[simp] theorem bump_badBanks (s : State) : (s.bump).badBanks = s.badBanks := rfl
@[simp] theorem bump_redirects (s : State) : (s.bump).redirects = s.redirects := rfl
@[simp] theorem bump_copyAt (s : State) : (s.bump).copyAt = s.copyAt := rfl
@[simp] theorem bump_switched (s : State) : (s.bump).switched = s.switched := rfl
@[simp] theorem bump_rows (s : State) : (s.bump).rows = s.rows := rfl
@[simp] theorem bump_ctrs (s : State) : (s.bump).ctrs = s.ctrs := rfl
@[simp] theorem bump_seqs (s : State) : (s.bump).seqs = s.seqs := rfl
@[simp] theorem bump_counts (s : State) : (s.bump).counts = s.counts := rfl
@[simp] theorem bump_parts (s : State) : (s.bump).parts = s.parts := rfl
@[simp] theorem bump_vfs (s : State) : (s.bump).vfs = s.vfs := rfl
@[simp] theorem bump_launches (s : State) : (s.bump).launches = s.launches := rfl
@[simp] theorem bump_nextId (s : State) : (s.bump).nextId = s.nextId := rfl
@[simp] theorem bump_net (s : State) : (s.bump).net = s.net := rfl
@[simp] theorem bump_ats (s : State) : (s.bump).ats = s.ats := rfl
@[simp] theorem bump_hostReqs (s : State) : (s.bump).hostReqs = s.hostReqs := rfl
@[simp] theorem bump_out (s : State) : (s.bump).out = s.out := rfl
@[simp] theorem bump_dev (s : State) : (s.bump).dev = s.dev := rfl
@[simp] theorem bump_root (s : State) : (s.bump).root = s.root := rfl

/-! ## Cores -/

@[simp] theorem core_setStr_part (co : Core) (k : Nat) (v : Str) : (co.setStr k v).part = co.part := rfl
@[simp] theorem core_setStr_vf (co : Core) (k : Nat) (v : Str) : (co.setStr k v).vf = co.vf := rfl
@[simp] theorem core_setStr_res (co : Core) (k : Nat) (v : Str) : (co.setStr k v).res = co.res := rfl
@[simp] theorem core_setStr_records (co : Core) (k : Nat) (v : Str) : (co.setStr k v).records = co.records := rfl
@[simp] theorem core_setStr_stamp (co : Core) (k : Nat) (v : Str) : (co.setStr k v).stamp = co.stamp := rfl
@[simp] theorem core_setStr_rings (co : Core) (k : Nat) (v : Str) : (co.setStr k v).rings = co.rings := rfl
@[simp] theorem core_setStr_bce (co : Core) (k : Nat) (v : Str) : (co.setStr k v).bce = co.bce := rfl
@[simp] theorem core_setStr_mxu (co : Core) (k : Nat) (v : Str) : (co.setStr k v).mxu = co.mxu := rfl
@[simp] theorem core_setStr_tlb (co : Core) (k : Nat) (v : Str) : (co.setStr k v).tlb = co.tlb := rfl
@[simp] theorem core_setStr_held (co : Core) (k : Nat) (v : Str) : (co.setStr k v).held = co.held := rfl
@[simp] theorem core_setStr_icache (co : Core) (k : Nat) (v : Str) : (co.setStr k v).icache = co.icache := rfl
@[simp] theorem core_setStr_niStop (co : Core) (k : Nat) (v : Str) : (co.setStr k v).niStop = co.niStop := rfl
@[simp] theorem core_setStr_plb (co : Core) (k : Nat) (v : Str) : (co.setStr k v).plb = co.plb := rfl
@[simp] theorem core_setStr_misses (co : Core) (k : Nat) (v : Str) : (co.setStr k v).misses = co.misses := rfl
@[simp] theorem core_setStr_hold (co : Core) (k : Nat) (v : Str) : (co.setStr k v).hold = co.hold := rfl
@[simp] theorem core_setStr_cycle (co : Core) (k : Nat) (v : Str) : (co.setStr k v).cycle = co.cycle := rfl
@[simp] theorem core_setStr_mentry (co : Core) (k : Nat) (v : Str) : (co.setStr k v).mentry = co.mentry := rfl
@[simp] theorem core_setStr_vfs (co : Core) (k : Nat) (v : Str) : (co.setStr k v).vfs = co.vfs := rfl
@[simp] theorem core_setStr_sw (co : Core) (k : Nat) (v : Str) : (co.setStr k v).sw = co.sw := rfl
@[simp] theorem core_setStr_monFault (co : Core) (k : Nat) (v : Str) : (co.setStr k v).monFault = co.monFault := rfl
@[simp] theorem core_setStr_wear (co : Core) (k : Nat) (v : Str) : (co.setStr k v).wear = co.wear := rfl

@[simp] theorem core_dropMisses_part (co : Core) (k : Nat) : (co.dropMisses k).part = co.part := rfl
@[simp] theorem core_dropMisses_vf (co : Core) (k : Nat) : (co.dropMisses k).vf = co.vf := rfl
@[simp] theorem core_dropMisses_strs (co : Core) (k : Nat) : (co.dropMisses k).strs = co.strs := rfl
@[simp] theorem core_dropMisses_res (co : Core) (k : Nat) : (co.dropMisses k).res = co.res := rfl
@[simp] theorem core_dropMisses_records (co : Core) (k : Nat) : (co.dropMisses k).records = co.records := rfl
@[simp] theorem core_dropMisses_stamp (co : Core) (k : Nat) : (co.dropMisses k).stamp = co.stamp := rfl
@[simp] theorem core_dropMisses_rings (co : Core) (k : Nat) : (co.dropMisses k).rings = co.rings := rfl
@[simp] theorem core_dropMisses_bce (co : Core) (k : Nat) : (co.dropMisses k).bce = co.bce := rfl
@[simp] theorem core_dropMisses_mxu (co : Core) (k : Nat) : (co.dropMisses k).mxu = co.mxu := rfl
@[simp] theorem core_dropMisses_tlb (co : Core) (k : Nat) : (co.dropMisses k).tlb = co.tlb := rfl
@[simp] theorem core_dropMisses_held (co : Core) (k : Nat) : (co.dropMisses k).held = co.held := rfl
@[simp] theorem core_dropMisses_icache (co : Core) (k : Nat) : (co.dropMisses k).icache = co.icache := rfl
@[simp] theorem core_dropMisses_niStop (co : Core) (k : Nat) : (co.dropMisses k).niStop = co.niStop := rfl
@[simp] theorem core_dropMisses_plb (co : Core) (k : Nat) : (co.dropMisses k).plb = co.plb := rfl
@[simp] theorem core_dropMisses_hold (co : Core) (k : Nat) : (co.dropMisses k).hold = co.hold := rfl
@[simp] theorem core_dropMisses_cycle (co : Core) (k : Nat) : (co.dropMisses k).cycle = co.cycle := rfl
@[simp] theorem core_dropMisses_mentry (co : Core) (k : Nat) : (co.dropMisses k).mentry = co.mentry := rfl
@[simp] theorem core_dropMisses_vfs (co : Core) (k : Nat) : (co.dropMisses k).vfs = co.vfs := rfl
@[simp] theorem core_dropMisses_sw (co : Core) (k : Nat) : (co.dropMisses k).sw = co.sw := rfl
@[simp] theorem core_dropMisses_monFault (co : Core) (k : Nat) : (co.dropMisses k).monFault = co.monFault := rfl
@[simp] theorem core_dropMisses_wear (co : Core) (k : Nat) : (co.dropMisses k).wear = co.wear := rfl

@[simp] theorem core_pass_part (co : Core) (live : List Nat) (i : Bool) (l : Option Nat) (n : Nat) : (co.pass live i l n).part = co.part := rfl
@[simp] theorem core_pass_vf (co : Core) (live : List Nat) (i : Bool) (l : Option Nat) (n : Nat) : (co.pass live i l n).vf = co.vf := rfl
@[simp] theorem core_pass_strs (co : Core) (live : List Nat) (i : Bool) (l : Option Nat) (n : Nat) : (co.pass live i l n).strs = co.strs := rfl
@[simp] theorem core_pass_records (co : Core) (live : List Nat) (i : Bool) (l : Option Nat) (n : Nat) : (co.pass live i l n).records = co.records := rfl
@[simp] theorem core_pass_stamp (co : Core) (live : List Nat) (i : Bool) (l : Option Nat) (n : Nat) : (co.pass live i l n).stamp = co.stamp := rfl
@[simp] theorem core_pass_rings (co : Core) (live : List Nat) (i : Bool) (l : Option Nat) (n : Nat) : (co.pass live i l n).rings = co.rings := rfl
@[simp] theorem core_pass_bce (co : Core) (live : List Nat) (i : Bool) (l : Option Nat) (n : Nat) : (co.pass live i l n).bce = co.bce := rfl
@[simp] theorem core_pass_mxu (co : Core) (live : List Nat) (i : Bool) (l : Option Nat) (n : Nat) : (co.pass live i l n).mxu = co.mxu := rfl
@[simp] theorem core_pass_tlb (co : Core) (live : List Nat) (i : Bool) (l : Option Nat) (n : Nat) : (co.pass live i l n).tlb = co.tlb := rfl
@[simp] theorem core_pass_held (co : Core) (live : List Nat) (i : Bool) (l : Option Nat) (n : Nat) : (co.pass live i l n).held = co.held := rfl
@[simp] theorem core_pass_icache (co : Core) (live : List Nat) (i : Bool) (l : Option Nat) (n : Nat) : (co.pass live i l n).icache = co.icache := rfl
@[simp] theorem core_pass_niStop (co : Core) (live : List Nat) (i : Bool) (l : Option Nat) (n : Nat) : (co.pass live i l n).niStop = co.niStop := rfl
@[simp] theorem core_pass_plb (co : Core) (live : List Nat) (i : Bool) (l : Option Nat) (n : Nat) : (co.pass live i l n).plb = co.plb := rfl
@[simp] theorem core_pass_misses (co : Core) (live : List Nat) (i : Bool) (l : Option Nat) (n : Nat) : (co.pass live i l n).misses = co.misses := rfl
@[simp] theorem core_pass_hold (co : Core) (live : List Nat) (i : Bool) (l : Option Nat) (n : Nat) : (co.pass live i l n).hold = co.hold := rfl
@[simp] theorem core_pass_mentry (co : Core) (live : List Nat) (i : Bool) (l : Option Nat) (n : Nat) : (co.pass live i l n).mentry = co.mentry := rfl
@[simp] theorem core_pass_sw (co : Core) (live : List Nat) (i : Bool) (l : Option Nat) (n : Nat) : (co.pass live i l n).sw = co.sw := rfl
@[simp] theorem core_pass_monFault (co : Core) (live : List Nat) (i : Bool) (l : Option Nat) (n : Nat) : (co.pass live i l n).monFault = co.monFault := rfl

/-! ## Strings -/

@[simp] theorem setX_run (t : Str) (r : XReg) (v : Word) : (t.setX r v).run = t.run := by
  unfold Str.setX; split <;> [rfl; (split <;> rfl)]
@[simp] theorem setX_pc (t : Str) (r : XReg) (v : Word) : (t.setX r v).pc = t.pc := by
  unfold Str.setX; split <;> [rfl; (split <;> rfl)]
@[simp] theorem setX_v (t : Str) (r : XReg) (v : Word) : (t.setX r v).v = t.v := by
  unfold Str.setX; split <;> [rfl; (split <;> rfl)]
@[simp] theorem setX_m (t : Str) (r : XReg) (v : Word) : (t.setX r v).m = t.m := by
  unfold Str.setX; split <;> [rfl; (split <;> rfl)]
@[simp] theorem setX_st (t : Str) (r : XReg) (v : Word) : (t.setX r v).st = t.st := by
  unfold Str.setX; split <;> [rfl; (split <;> rfl)]
@[simp] theorem setX_owner (t : Str) (r : XReg) (v : Word) : (t.setX r v).owner = t.owner := by
  unfold Str.setX; split <;> [rfl; (split <;> rfl)]
@[simp] theorem setX_lvl (t : Str) (r : XReg) (v : Word) : (t.setX r v).lvl = t.lvl := by
  unfold Str.setX; split <;> [rfl; (split <;> rfl)]
@[simp] theorem setX_pp (t : Str) (r : XReg) (v : Word) : (t.setX r v).pp = t.pp := by
  unfold Str.setX; split <;> [rfl; (split <;> rfl)]
@[simp] theorem setX_jord (t : Str) (r : XReg) (v : Word) : (t.setX r v).jord = t.jord := by
  unfold Str.setX; split <;> [rfl; (split <;> rfl)]
@[simp] theorem setX_fflg (t : Str) (r : XReg) (v : Word) : (t.setX r v).fflg = t.fflg := by
  unfold Str.setX; split <;> [rfl; (split <;> rfl)]
@[simp] theorem setX_jflg (t : Str) (r : XReg) (v : Word) : (t.setX r v).jflg = t.jflg := by
  unfold Str.setX; split <;> [rfl; (split <;> rfl)]
@[simp] theorem setX_vrnd (t : Str) (r : XReg) (v : Word) : (t.setX r v).vrnd = t.vrnd := by
  unfold Str.setX; split <;> [rfl; (split <;> rfl)]
@[simp] theorem setX_amax (t : Str) (r : XReg) (v : Word) : (t.setX r v).amax = t.amax := by
  unfold Str.setX; split <;> [rfl; (split <;> rfl)]
@[simp] theorem setX_mfmt (t : Str) (r : XReg) (v : Word) : (t.setX r v).mfmt = t.mfmt := by
  unfold Str.setX; split <;> [rfl; (split <;> rfl)]
@[simp] theorem setX_mscla (t : Str) (r : XReg) (v : Word) : (t.setX r v).mscla = t.mscla := by
  unfold Str.setX; split <;> [rfl; (split <;> rfl)]
@[simp] theorem setX_mxinj (t : Str) (r : XReg) (v : Word) : (t.setX r v).mxinj = t.mxinj := by
  unfold Str.setX; split <;> [rfl; (split <;> rfl)]
@[simp] theorem setX_trapc (t : Str) (r : XReg) (v : Word) : (t.setX r v).trapc = t.trapc := by
  unfold Str.setX; split <;> [rfl; (split <;> rfl)]
@[simp] theorem setX_trapv (t : Str) (r : XReg) (v : Word) : (t.setX r v).trapv = t.trapv := by
  unfold Str.setX; split <;> [rfl; (split <;> rfl)]
@[simp] theorem setX_trappc (t : Str) (r : XReg) (v : Word) : (t.setX r v).trappc = t.trappc := by
  unfold Str.setX; split <;> [rfl; (split <;> rfl)]
@[simp] theorem setX_act (t : Str) (r : XReg) (v : Word) : (t.setX r v).act = t.act := by
  unfold Str.setX; split <;> [rfl; (split <;> rfl)]
@[simp] theorem setX_sb (t : Str) (r : XReg) (v : Word) : (t.setX r v).sb = t.sb := by
  unfold Str.setX; split <;> [rfl; (split <;> rfl)]
@[simp] theorem setX_lds (t : Str) (r : XReg) (v : Word) : (t.setX r v).lds = t.lds := by
  unfold Str.setX; split <;> [rfl; (split <;> rfl)]
@[simp] theorem setX_seq (t : Str) (r : XReg) (v : Word) : (t.setX r v).seq = t.seq := by
  unfold Str.setX; split <;> [rfl; (split <;> rfl)]
@[simp] theorem setX_hostDirty (t : Str) (r : XReg) (v : Word) : (t.setX r v).hostDirty = t.hostDirty := by
  unfold Str.setX; split <;> [rfl; (split <;> rfl)]
@[simp] theorem setX_flush (t : Str) (r : XReg) (v : Word) : (t.setX r v).flush = t.flush := by
  unfold Str.setX; split <;> [rfl; (split <;> rfl)]
@[simp] theorem setX_wait (t : Str) (r : XReg) (v : Word) : (t.setX r v).wait = t.wait := by
  unfold Str.setX; split <;> [rfl; (split <;> rfl)]
@[simp] theorem setX_inHand (t : Str) (r : XReg) (v : Word) : (t.setX r v).inHand = t.inHand := by
  unfold Str.setX; split <;> [rfl; (split <;> rfl)]
@[simp] theorem setX_routed (t : Str) (r : XReg) (v : Word) : (t.setX r v).routed = t.routed := by
  unfold Str.setX; split <;> [rfl; (split <;> rfl)]
@[simp] theorem setM_run (t : Str) (r : MReg) (v : BitVec 64) : (t.setM r v).run = t.run := by
  unfold Str.setM; split <;> rfl
@[simp] theorem setM_pc (t : Str) (r : MReg) (v : BitVec 64) : (t.setM r v).pc = t.pc := by
  unfold Str.setM; split <;> rfl
@[simp] theorem setM_x (t : Str) (r : MReg) (v : BitVec 64) : (t.setM r v).x = t.x := by
  unfold Str.setM; split <;> rfl
@[simp] theorem setM_xm (t : Str) (r : MReg) (v : BitVec 64) : (t.setM r v).xm = t.xm := by
  unfold Str.setM; split <;> rfl
@[simp] theorem setM_v (t : Str) (r : MReg) (v : BitVec 64) : (t.setM r v).v = t.v := by
  unfold Str.setM; split <;> rfl
@[simp] theorem setM_st (t : Str) (r : MReg) (v : BitVec 64) : (t.setM r v).st = t.st := by
  unfold Str.setM; split <;> rfl
@[simp] theorem setM_owner (t : Str) (r : MReg) (v : BitVec 64) : (t.setM r v).owner = t.owner := by
  unfold Str.setM; split <;> rfl
@[simp] theorem setM_lvl (t : Str) (r : MReg) (v : BitVec 64) : (t.setM r v).lvl = t.lvl := by
  unfold Str.setM; split <;> rfl
@[simp] theorem setM_pp (t : Str) (r : MReg) (v : BitVec 64) : (t.setM r v).pp = t.pp := by
  unfold Str.setM; split <;> rfl
@[simp] theorem setM_jord (t : Str) (r : MReg) (v : BitVec 64) : (t.setM r v).jord = t.jord := by
  unfold Str.setM; split <;> rfl
@[simp] theorem setM_fflg (t : Str) (r : MReg) (v : BitVec 64) : (t.setM r v).fflg = t.fflg := by
  unfold Str.setM; split <;> rfl
@[simp] theorem setM_jflg (t : Str) (r : MReg) (v : BitVec 64) : (t.setM r v).jflg = t.jflg := by
  unfold Str.setM; split <;> rfl
@[simp] theorem setM_vrnd (t : Str) (r : MReg) (v : BitVec 64) : (t.setM r v).vrnd = t.vrnd := by
  unfold Str.setM; split <;> rfl
@[simp] theorem setM_amax (t : Str) (r : MReg) (v : BitVec 64) : (t.setM r v).amax = t.amax := by
  unfold Str.setM; split <;> rfl
@[simp] theorem setM_mfmt (t : Str) (r : MReg) (v : BitVec 64) : (t.setM r v).mfmt = t.mfmt := by
  unfold Str.setM; split <;> rfl
@[simp] theorem setM_mscla (t : Str) (r : MReg) (v : BitVec 64) : (t.setM r v).mscla = t.mscla := by
  unfold Str.setM; split <;> rfl
@[simp] theorem setM_mxinj (t : Str) (r : MReg) (v : BitVec 64) : (t.setM r v).mxinj = t.mxinj := by
  unfold Str.setM; split <;> rfl
@[simp] theorem setM_trapc (t : Str) (r : MReg) (v : BitVec 64) : (t.setM r v).trapc = t.trapc := by
  unfold Str.setM; split <;> rfl
@[simp] theorem setM_trapv (t : Str) (r : MReg) (v : BitVec 64) : (t.setM r v).trapv = t.trapv := by
  unfold Str.setM; split <;> rfl
@[simp] theorem setM_trappc (t : Str) (r : MReg) (v : BitVec 64) : (t.setM r v).trappc = t.trappc := by
  unfold Str.setM; split <;> rfl
@[simp] theorem setM_act (t : Str) (r : MReg) (v : BitVec 64) : (t.setM r v).act = t.act := by
  unfold Str.setM; split <;> rfl
@[simp] theorem setM_sb (t : Str) (r : MReg) (v : BitVec 64) : (t.setM r v).sb = t.sb := by
  unfold Str.setM; split <;> rfl
@[simp] theorem setM_lds (t : Str) (r : MReg) (v : BitVec 64) : (t.setM r v).lds = t.lds := by
  unfold Str.setM; split <;> rfl
@[simp] theorem setM_seq (t : Str) (r : MReg) (v : BitVec 64) : (t.setM r v).seq = t.seq := by
  unfold Str.setM; split <;> rfl
@[simp] theorem setM_hostDirty (t : Str) (r : MReg) (v : BitVec 64) : (t.setM r v).hostDirty = t.hostDirty := by
  unfold Str.setM; split <;> rfl
@[simp] theorem setM_flush (t : Str) (r : MReg) (v : BitVec 64) : (t.setM r v).flush = t.flush := by
  unfold Str.setM; split <;> rfl
@[simp] theorem setM_wait (t : Str) (r : MReg) (v : BitVec 64) : (t.setM r v).wait = t.wait := by
  unfold Str.setM; split <;> rfl
@[simp] theorem setM_inHand (t : Str) (r : MReg) (v : BitVec 64) : (t.setM r v).inHand = t.inHand := by
  unfold Str.setM; split <;> rfl
@[simp] theorem setM_routed (t : Str) (r : MReg) (v : BitVec 64) : (t.setM r v).routed = t.routed := by
  unfold Str.setM; split <;> rfl
@[simp] theorem setV_run (t : Str) (r : VReg) (v : Vec) : (t.setV r v).run = t.run := rfl
@[simp] theorem setV_pc (t : Str) (r : VReg) (v : Vec) : (t.setV r v).pc = t.pc := rfl
@[simp] theorem setV_x (t : Str) (r : VReg) (v : Vec) : (t.setV r v).x = t.x := rfl
@[simp] theorem setV_xm (t : Str) (r : VReg) (v : Vec) : (t.setV r v).xm = t.xm := rfl
@[simp] theorem setV_m (t : Str) (r : VReg) (v : Vec) : (t.setV r v).m = t.m := rfl
@[simp] theorem setV_st (t : Str) (r : VReg) (v : Vec) : (t.setV r v).st = t.st := rfl
@[simp] theorem setV_owner (t : Str) (r : VReg) (v : Vec) : (t.setV r v).owner = t.owner := rfl
@[simp] theorem setV_lvl (t : Str) (r : VReg) (v : Vec) : (t.setV r v).lvl = t.lvl := rfl
@[simp] theorem setV_pp (t : Str) (r : VReg) (v : Vec) : (t.setV r v).pp = t.pp := rfl
@[simp] theorem setV_jord (t : Str) (r : VReg) (v : Vec) : (t.setV r v).jord = t.jord := rfl
@[simp] theorem setV_fflg (t : Str) (r : VReg) (v : Vec) : (t.setV r v).fflg = t.fflg := rfl
@[simp] theorem setV_jflg (t : Str) (r : VReg) (v : Vec) : (t.setV r v).jflg = t.jflg := rfl
@[simp] theorem setV_vrnd (t : Str) (r : VReg) (v : Vec) : (t.setV r v).vrnd = t.vrnd := rfl
@[simp] theorem setV_amax (t : Str) (r : VReg) (v : Vec) : (t.setV r v).amax = t.amax := rfl
@[simp] theorem setV_mfmt (t : Str) (r : VReg) (v : Vec) : (t.setV r v).mfmt = t.mfmt := rfl
@[simp] theorem setV_mscla (t : Str) (r : VReg) (v : Vec) : (t.setV r v).mscla = t.mscla := rfl
@[simp] theorem setV_mxinj (t : Str) (r : VReg) (v : Vec) : (t.setV r v).mxinj = t.mxinj := rfl
@[simp] theorem setV_trapc (t : Str) (r : VReg) (v : Vec) : (t.setV r v).trapc = t.trapc := rfl
@[simp] theorem setV_trapv (t : Str) (r : VReg) (v : Vec) : (t.setV r v).trapv = t.trapv := rfl
@[simp] theorem setV_trappc (t : Str) (r : VReg) (v : Vec) : (t.setV r v).trappc = t.trappc := rfl
@[simp] theorem setV_act (t : Str) (r : VReg) (v : Vec) : (t.setV r v).act = t.act := rfl
@[simp] theorem setV_sb (t : Str) (r : VReg) (v : Vec) : (t.setV r v).sb = t.sb := rfl
@[simp] theorem setV_lds (t : Str) (r : VReg) (v : Vec) : (t.setV r v).lds = t.lds := rfl
@[simp] theorem setV_seq (t : Str) (r : VReg) (v : Vec) : (t.setV r v).seq = t.seq := rfl
@[simp] theorem setV_hostDirty (t : Str) (r : VReg) (v : Vec) : (t.setV r v).hostDirty = t.hostDirty := rfl
@[simp] theorem setV_flush (t : Str) (r : VReg) (v : Vec) : (t.setV r v).flush = t.flush := rfl
@[simp] theorem setV_wait (t : Str) (r : VReg) (v : Vec) : (t.setV r v).wait = t.wait := rfl
@[simp] theorem setV_inHand (t : Str) (r : VReg) (v : Vec) : (t.setV r v).inHand = t.inHand := rfl
@[simp] theorem setV_routed (t : Str) (r : VReg) (v : Vec) : (t.setV r v).routed = t.routed := rfl

/-- X0 reads zero (R255). -/
@[simp] theorem getX_zero (t : Str) : t.getX 0 = 0 := rfl

/-- A write to X0 is discarded (R255). -/
@[simp] theorem setX_zero (t : Str) (v : Word) : t.setX 0 v = t := rfl

/-- A register reads what was written to it (R255, R343). -/
theorem getX_setX_self (t : Str) (r : XReg) (v : Word) (h : r ≠ 0) : (t.setX r v).getX r = v := by
  simp only [Str.getX, Str.setX, if_neg h]
  split <;> simp_all

/-- Another register is unchanged. -/
theorem getX_setX_ne (t : Str) (r q : XReg) (v : Word) (h : q ≠ r) : (t.setX r v).getX q = t.getX q := by
  by_cases hr : r = 0
  · rw [hr]; rfl
  · unfold Str.getX Str.setX
    have hn : r.toNat ≠ q.toNat := fun e => h (BitVec.eq_of_toNat_eq e.symm)
    simp only [if_neg hr]
    repeat (any_goals (first | rfl | split))
    all_goals simp_all

/-- M0 reads all ones (R163). -/
@[simp] theorem getM_zero (t : Str) : t.getM 0 = BitVec.allOnes 64 := rfl

/-- A write to M0 is discarded. -/
@[simp] theorem setM_zero (t : Str) (v : BitVec 64) : t.setM 0 v = t := rfl

theorem getM_setM_self (t : Str) (r : MReg) (v : BitVec 64) (h : r ≠ 0) : (t.setM r v).getM r = v := by
  simp only [Str.getM, Str.setM, if_neg h]; simp

theorem getM_setM_ne (t : Str) (r q : MReg) (v : BitVec 64) (h : q ≠ r) : (t.setM r v).getM q = t.getM q := by
  by_cases hr : r = 0
  · rw [hr]; rfl
  · unfold Str.getM Str.setM
    have hn : r.toNat ≠ q.toNat := fun e => h (BitVec.eq_of_toNat_eq e.symm)
    simp only [if_neg hr]; simp [hn]

@[simp] theorem rawV_setV_self (t : Str) (r : VReg) (v : Vec) : (t.setV r v).rawV r = v := by
  unfold Str.rawV Str.setV; simp

theorem rawV_setV_ne (t : Str) (r q : VReg) (v : Vec) (h : q ≠ r) : (t.setV r v).rawV q = t.rawV q := by
  have hn : r.toNat ≠ q.toNat := fun e => h (BitVec.eq_of_toNat_eq e.symm)
  unfold Str.rawV Str.setV; simp [hn]

/-! ## What is read after an update -/

@[simp] theorem core_setCore_self (s : State) (c : Nat) (v : Core) : (s.setCore c v).core c = v := by
  simp [State.core, State.setCore]

theorem core_setCore_ne (s : State) {c d : Nat} (v : Core) (h : d ≠ c) : (s.setCore c v).core d = s.core d := by
  simp [State.core, State.setCore, mget_mset_ne _ _ _ h]

@[simp] theorem core_modCore_self (s : State) (c : Nat) (f : Core → Core) : (s.modCore c f).core c = f (s.core c) :=
  core_setCore_self s c _

theorem core_modCore_ne (s : State) {c d : Nat} (f : Core → Core) (h : d ≠ c) : (s.modCore c f).core d = s.core d :=
  core_setCore_ne s _ h

@[simp] theorem str_core_setStr_self (co : Core) (k : Nat) (v : Str) : (co.setStr k v).str k = v := by
  simp [Core.str, Core.setStr]

theorem str_core_setStr_ne (co : Core) {k j : Nat} (v : Str) (h : j ≠ k) : (co.setStr k v).str j = co.str j := by
  simp [Core.str, Core.setStr, mget_mset_ne _ _ _ h]

@[simp] theorem str_setStr_self (s : State) (c k : Nat) (v : Str) : (s.setStr c k v).str c k = v := by
  simp [State.str, State.setStr]

/-- Another string is unchanged. -/
theorem str_setStr_ne (s : State) {c k d j : Nat} (v : Str) (h : (d, j) ≠ (c, k)) : (s.setStr c k v).str d j = s.str d j := by
  unfold State.str State.setStr
  by_cases hd : d = c
  · subst hd
    have hj : j ≠ k := fun e => h (by rw [e])
    simp [str_core_setStr_ne _ _ hj]
  · rw [core_modCore_ne s _ hd]

/-- A change of a core that leaves its strings alone leaves every string alone. -/
theorem str_modCore (s : State) (c : Nat) (f : Core → Core) (hf : (f (s.core c)).strs = (s.core c).strs) (d j : Nat) :
    (s.modCore c f).str d j = s.str d j := by
  unfold State.str
  by_cases hd : d = c
  · subst hd; simp [Core.str, hf]
  · rw [core_modCore_ne s f hd]

/-- The last change of a numbered thing is the one that counts. -/
theorem mset_mset {α : Type} (m : Map α) (k : Nat) (v w : α) : mset (mset m k v) k w = mset m k w := by
  have h (l : Map α) (hl : ∀ c ∈ l, c.1 ≠ k) : mdel (mins l k v) k = l := by
    induction l with
    | nil => simp [mins, mdel]
    | cons c t ih =>
      have hc : c.1 ≠ k := hl c List.mem_cons_self
      have ht : mdel t k = t := by
        unfold mdel; rw [List.filter_eq_self]; intro x hx; simpa using hl x (List.mem_cons_of_mem _ hx)
      unfold mins
      split
      · simp only [mdel] at ht ⊢; simp [hc, ht]
      · have := ih (fun x hx => hl x (List.mem_cons_of_mem _ hx))
        simp only [mdel] at this ⊢; simp [hc, this]
  unfold mset
  rw [h]
  intro c hc; unfold mdel at hc; simpa using (List.mem_filter.mp hc).2

@[simp] theorem setStr_setStr (s : State) (c k : Nat) (v w : Str) : (s.setStr c k v).setStr c k w = s.setStr c k w := by
  simp [State.setStr, State.modCore, State.setCore, State.core, Core.setStr, mset_mset]

@[simp] theorem setCurStr_setCurStr (s : State) (v w : Str) : (s.setCurStr v).setCurStr w = s.setCurStr w :=
  setStr_setStr s _ _ v w

@[simp] theorem curStr_setCurStr (s : State) (t : Str) : (s.setCurStr t).curStr = t := by
  simp [State.curStr, State.setCurStr]

@[simp] theorem setCore_part (s : State) (c : Nat) (v : Core) (p : Nat) : (s.setCore c v).part p = s.part p := rfl
@[simp] theorem setCurStr_part (s : State) (t : Str) (p : Nat) : (s.setCurStr t).part p = s.part p := rfl
@[simp] theorem setCurStr_launch (s : State) (t : Str) (l : Nat) : (s.setCurStr t).launch l = s.launch l := rfl
@[simp] theorem setCurStr_vf (s : State) (t : Str) (f : Nat) : (s.setCurStr t).vf f = s.vf f := rfl
@[simp] theorem str_modPart (s : State) (p : Nat) (f : Partition → Partition) (d j : Nat) : (s.modPart p f).str d j = s.str d j := rfl
@[simp] theorem core_modPart (s : State) (p : Nat) (f : Partition → Partition) (d : Nat) : (s.modPart p f).core d = s.core d := rfl

@[simp] theorem part_modPart_self (s : State) (p : Nat) (f : Partition → Partition) : (s.modPart p f).part p = f (s.part p) := by
  simp [State.part, State.modPart]

theorem part_modPart_ne (s : State) {p q : Nat} (f : Partition → Partition) (h : q ≠ p) : (s.modPart p f).part q = s.part q := by
  simp [State.part, State.modPart, mget_mset_ne _ _ _ h]

@[simp] theorem vf_modVf_self (s : State) (f : Nat) (g : Vf → Vf) : (s.modVf f g).vf f = g (s.vf f) := by
  simp [State.vf, State.modVf]

theorem vf_modVf_ne (s : State) {f h : Nat} (g : Vf → Vf) (e : h ≠ f) : (s.modVf f g).vf h = s.vf h := by
  simp [State.vf, State.modVf, mget_mset_ne _ _ _ e]

end Sys2Proof.Laws
end

