-- ==== Sys2Proof/Laws/Ops.lean ====
section
/-! SUPPORT. What the shared operations change and what they leave alone: a launch on a core, passing cycles, retiring,
queueing a miss, taking a fault, and how an instruction ends. -/

namespace Sys2Proof.Laws

open Sys2Proof.Machine

/-! ## Changes of a launch on a core -/

@[simp] theorem modOn_turn (s : State) (c l : Nat) (f : OnCore → OnCore) : (s.modOn c l f).turn = s.turn := by
  unfold State.modOn; split <;> rfl
@[simp] theorem modOn_tick (s : State) (c l : Nat) (f : OnCore → OnCore) : (s.modOn c l f).tick = s.tick := by
  unfold State.modOn; split <;> rfl
@[simp] theorem modOn_cur (s : State) (c l : Nat) (f : OnCore → OnCore) : (s.modOn c l f).cur = s.cur := by
  unfold State.modOn; split <;> rfl
@[simp] theorem modOn_inputs (s : State) (c l : Nat) (f : OnCore → OnCore) : (s.modOn c l f).inputs = s.inputs := by
  unfold State.modOn; split <;> rfl
@[simp] theorem modOn_pkg (s : State) (c l : Nat) (f : OnCore → OnCore) : (s.modOn c l f).pkg = s.pkg := by
  unfold State.modOn; split <;> rfl
@[simp] theorem modOn_mem (s : State) (c l : Nat) (f : OnCore → OnCore) : (s.modOn c l f).mem = s.mem := by
  unfold State.modOn; split <;> rfl
@[simp] theorem modOn_bad (s : State) (c l : Nat) (f : OnCore → OnCore) : (s.modOn c l f).bad = s.bad := by
  unfold State.modOn; split <;> rfl
@[simp] theorem modOn_badBanks (s : State) (c l : Nat) (f : OnCore → OnCore) : (s.modOn c l f).badBanks = s.badBanks := by
  unfold State.modOn; split <;> rfl
@[simp] theorem modOn_redirects (s : State) (c l : Nat) (f : OnCore → OnCore) : (s.modOn c l f).redirects = s.redirects := by
  unfold State.modOn; split <;> rfl
@[simp] theorem modOn_copyAt (s : State) (c l : Nat) (f : OnCore → OnCore) : (s.modOn c l f).copyAt = s.copyAt := by
  unfold State.modOn; split <;> rfl
@[simp] theorem modOn_switched (s : State) (c l : Nat) (f : OnCore → OnCore) : (s.modOn c l f).switched = s.switched := by
  unfold State.modOn; split <;> rfl
@[simp] theorem modOn_rows (s : State) (c l : Nat) (f : OnCore → OnCore) : (s.modOn c l f).rows = s.rows := by
  unfold State.modOn; split <;> rfl
@[simp] theorem modOn_ctrs (s : State) (c l : Nat) (f : OnCore → OnCore) : (s.modOn c l f).ctrs = s.ctrs := by
  unfold State.modOn; split <;> rfl
@[simp] theorem modOn_seqs (s : State) (c l : Nat) (f : OnCore → OnCore) : (s.modOn c l f).seqs = s.seqs := by
  unfold State.modOn; split <;> rfl
@[simp] theorem modOn_counts (s : State) (c l : Nat) (f : OnCore → OnCore) : (s.modOn c l f).counts = s.counts := by
  unfold State.modOn; split <;> rfl
@[simp] theorem modOn_vfs (s : State) (c l : Nat) (f : OnCore → OnCore) : (s.modOn c l f).vfs = s.vfs := by
  unfold State.modOn; split <;> rfl
@[simp] theorem modOn_launches (s : State) (c l : Nat) (f : OnCore → OnCore) : (s.modOn c l f).launches = s.launches := by
  unfold State.modOn; split <;> rfl
@[simp] theorem modOn_nextId (s : State) (c l : Nat) (f : OnCore → OnCore) : (s.modOn c l f).nextId = s.nextId := by
  unfold State.modOn; split <;> rfl
@[simp] theorem modOn_net (s : State) (c l : Nat) (f : OnCore → OnCore) : (s.modOn c l f).net = s.net := by
  unfold State.modOn; split <;> rfl
@[simp] theorem modOn_ats (s : State) (c l : Nat) (f : OnCore → OnCore) : (s.modOn c l f).ats = s.ats := by
  unfold State.modOn; split <;> rfl
@[simp] theorem modOn_hostReqs (s : State) (c l : Nat) (f : OnCore → OnCore) : (s.modOn c l f).hostReqs = s.hostReqs := by
  unfold State.modOn; split <;> rfl
@[simp] theorem modOn_out (s : State) (c l : Nat) (f : OnCore → OnCore) : (s.modOn c l f).out = s.out := by
  unfold State.modOn; split <;> rfl
@[simp] theorem modOn_dev (s : State) (c l : Nat) (f : OnCore → OnCore) : (s.modOn c l f).dev = s.dev := by
  unfold State.modOn; split <;> rfl
@[simp] theorem modOn_root (s : State) (c l : Nat) (f : OnCore → OnCore) : (s.modOn c l f).root = s.root := by
  unfold State.modOn; split <;> rfl
@[simp] theorem modOn_parts (s : State) (c l : Nat) (f : OnCore → OnCore) : (s.modOn c l f).parts = s.parts := by
  unfold State.modOn; split <;> rfl

/-- No string changes. -/
@[simp] theorem modOn_str (s : State) (c l : Nat) (f : OnCore → OnCore) (d j : Nat) : (s.modOn c l f).str d j = s.str d j := by
  unfold State.modOn; split
  · exact str_modCore s c _ rfl d j
  · rfl

/-- Of a core, only the launches on it may change. -/
theorem modOn_core (s : State) (c l : Nat) (f : OnCore → OnCore) (d : Nat) :
    ∃ r, (s.modOn c l f).core d = { s.core d with res := r } := by
  unfold State.modOn; split
  · by_cases h : d = c
    · subst h; rw [core_modCore_self]; exact ⟨_, rfl⟩
    · rw [core_modCore_ne _ _ h]; exact ⟨_, rfl⟩
  · exact ⟨_, rfl⟩

/-! ## Cycles pass -/

@[simp] theorem elapse_turn (s : State) (c : Nat) (i : Bool) (l : Option Nat) (n : Nat) : (s.elapse c i l n).turn = s.turn := by
  unfold State.elapse; dsimp only; split <;> rfl
@[simp] theorem elapse_tick (s : State) (c : Nat) (i : Bool) (l : Option Nat) (n : Nat) : (s.elapse c i l n).tick = s.tick := by
  unfold State.elapse; dsimp only; split <;> rfl
@[simp] theorem elapse_cur (s : State) (c : Nat) (i : Bool) (l : Option Nat) (n : Nat) : (s.elapse c i l n).cur = s.cur := by
  unfold State.elapse; dsimp only; split <;> rfl
@[simp] theorem elapse_inputs (s : State) (c : Nat) (i : Bool) (l : Option Nat) (n : Nat) : (s.elapse c i l n).inputs = s.inputs := by
  unfold State.elapse; dsimp only; split <;> rfl
@[simp] theorem elapse_pkg (s : State) (c : Nat) (i : Bool) (l : Option Nat) (n : Nat) : (s.elapse c i l n).pkg = s.pkg := by
  unfold State.elapse; dsimp only; split <;> rfl
@[simp] theorem elapse_mem (s : State) (c : Nat) (i : Bool) (l : Option Nat) (n : Nat) : (s.elapse c i l n).mem = s.mem := by
  unfold State.elapse; dsimp only; split <;> rfl
@[simp] theorem elapse_bad (s : State) (c : Nat) (i : Bool) (l : Option Nat) (n : Nat) : (s.elapse c i l n).bad = s.bad := by
  unfold State.elapse; dsimp only; split <;> rfl
@[simp] theorem elapse_badBanks (s : State) (c : Nat) (i : Bool) (l : Option Nat) (n : Nat) : (s.elapse c i l n).badBanks = s.badBanks := by
  unfold State.elapse; dsimp only; split <;> rfl
@[simp] theorem elapse_redirects (s : State) (c : Nat) (i : Bool) (l : Option Nat) (n : Nat) : (s.elapse c i l n).redirects = s.redirects := by
  unfold State.elapse; dsimp only; split <;> rfl
@[simp] theorem elapse_copyAt (s : State) (c : Nat) (i : Bool) (l : Option Nat) (n : Nat) : (s.elapse c i l n).copyAt = s.copyAt := by
  unfold State.elapse; dsimp only; split <;> rfl
@[simp] theorem elapse_switched (s : State) (c : Nat) (i : Bool) (l : Option Nat) (n : Nat) : (s.elapse c i l n).switched = s.switched := by
  unfold State.elapse; dsimp only; split <;> rfl
@[simp] theorem elapse_rows (s : State) (c : Nat) (i : Bool) (l : Option Nat) (n : Nat) : (s.elapse c i l n).rows = s.rows := by
  unfold State.elapse; dsimp only; split <;> rfl
@[simp] theorem elapse_ctrs (s : State) (c : Nat) (i : Bool) (l : Option Nat) (n : Nat) : (s.elapse c i l n).ctrs = s.ctrs := by
  unfold State.elapse; dsimp only; split <;> rfl
@[simp] theorem elapse_seqs (s : State) (c : Nat) (i : Bool) (l : Option Nat) (n : Nat) : (s.elapse c i l n).seqs = s.seqs := by
  unfold State.elapse; dsimp only; split <;> rfl
@[simp] theorem elapse_counts (s : State) (c : Nat) (i : Bool) (l : Option Nat) (n : Nat) : (s.elapse c i l n).counts = s.counts := by
  unfold State.elapse; dsimp only; split <;> rfl
@[simp] theorem elapse_vfs (s : State) (c : Nat) (i : Bool) (l : Option Nat) (n : Nat) : (s.elapse c i l n).vfs = s.vfs := by
  unfold State.elapse; dsimp only; split <;> rfl
@[simp] theorem elapse_launches (s : State) (c : Nat) (i : Bool) (l : Option Nat) (n : Nat) : (s.elapse c i l n).launches = s.launches := by
  unfold State.elapse; dsimp only; split <;> rfl
@[simp] theorem elapse_nextId (s : State) (c : Nat) (i : Bool) (l : Option Nat) (n : Nat) : (s.elapse c i l n).nextId = s.nextId := by
  unfold State.elapse; dsimp only; split <;> rfl
@[simp] theorem elapse_net (s : State) (c : Nat) (i : Bool) (l : Option Nat) (n : Nat) : (s.elapse c i l n).net = s.net := by
  unfold State.elapse; dsimp only; split <;> rfl
@[simp] theorem elapse_ats (s : State) (c : Nat) (i : Bool) (l : Option Nat) (n : Nat) : (s.elapse c i l n).ats = s.ats := by
  unfold State.elapse; dsimp only; split <;> rfl
@[simp] theorem elapse_hostReqs (s : State) (c : Nat) (i : Bool) (l : Option Nat) (n : Nat) : (s.elapse c i l n).hostReqs = s.hostReqs := by
  unfold State.elapse; dsimp only; split <;> rfl
@[simp] theorem elapse_out (s : State) (c : Nat) (i : Bool) (l : Option Nat) (n : Nat) : (s.elapse c i l n).out = s.out := by
  unfold State.elapse; dsimp only; split <;> rfl
@[simp] theorem elapse_dev (s : State) (c : Nat) (i : Bool) (l : Option Nat) (n : Nat) : (s.elapse c i l n).dev = s.dev := by
  unfold State.elapse; dsimp only; split <;> rfl
@[simp] theorem elapse_root (s : State) (c : Nat) (i : Bool) (l : Option Nat) (n : Nat) : (s.elapse c i l n).root = s.root := by
  unfold State.elapse; dsimp only; split <;> rfl

@[simp] theorem elapse_str (s : State) (c : Nat) (i : Bool) (l : Option Nat) (n d j : Nat) : (s.elapse c i l n).str d j = s.str d j := by
  unfold State.elapse; dsimp only; split
  · rw [str_modPart]; exact str_modCore s c _ rfl d j
  · exact str_modCore s c _ rfl d j

/-- Of a core, only what counts cycles, instructions and wear changes. -/
theorem elapse_core (s : State) (c : Nat) (i : Bool) (l : Option Nat) (n d : Nat) :
    ∃ r y v w, (s.elapse c i l n).core d = { s.core d with res := r, cycle := y, vfs := v, wear := w } := by
  have h0 : ∃ r y v w, (s.modCore c (fun co => co.pass (s.liveOn c) i l n)).core d
      = { s.core d with res := r, cycle := y, vfs := v, wear := w } := by
    by_cases h : d = c
    · subst h; rw [core_modCore_self]; exact ⟨_, _, _, _, rfl⟩
    · rw [core_modCore_ne _ _ h]; exact ⟨_, _, _, _, rfl⟩
  unfold State.elapse; dsimp only; split
  · rw [core_modPart]; exact h0
  · exact h0

/-- Of a partition, only its meters change. -/
theorem elapse_part (s : State) (c : Nat) (i : Bool) (l : Option Nat) (n p : Nat) :
    ∃ m w, (s.elapse c i l n).part p = { s.part p with meters := m, wearSub := w } := by
  unfold State.elapse; dsimp only; split
  · rename_i q _
    by_cases h : p = q
    · subst h; rw [part_modPart_self]
      have g (x : Partition) (i k u : Nat) : ∃ m w, (x.meter i k).chargeWear u = { x with meters := m, wearSub := w } := by
        unfold Partition.chargeWear Partition.meter; split <;> exact ⟨_, _, rfl⟩
      exact g _ _ _ _
    · rw [part_modPart_ne _ _ h]; exact ⟨_, _, rfl⟩
  · exact ⟨_, _, rfl⟩

/-! ## Retiring -/

@[simp] theorem str_dropMisses (s : State) (c n d j : Nat) : (s.modCore c (fun co => co.dropMisses n)).str d j = s.str d j :=
  str_modCore s c _ rfl d j

@[simp] theorem retireTo_turn (s : State) (pc : Word) : (s.retireTo pc).turn = s.turn := by
  unfold State.retireTo; dsimp only [State.pass]; split <;> simp
@[simp] theorem retireTo_tick (s : State) (pc : Word) : (s.retireTo pc).tick = s.tick := by
  unfold State.retireTo; dsimp only [State.pass]; split <;> simp
@[simp] theorem retireTo_cur (s : State) (pc : Word) : (s.retireTo pc).cur = s.cur := by
  unfold State.retireTo; dsimp only [State.pass]; split <;> simp
@[simp] theorem retireTo_inputs (s : State) (pc : Word) : (s.retireTo pc).inputs = s.inputs := by
  unfold State.retireTo; dsimp only [State.pass]; split <;> simp
@[simp] theorem retireTo_pkg (s : State) (pc : Word) : (s.retireTo pc).pkg = s.pkg := by
  unfold State.retireTo; dsimp only [State.pass]; split <;> simp
@[simp] theorem retireTo_mem (s : State) (pc : Word) : (s.retireTo pc).mem = s.mem := by
  unfold State.retireTo; dsimp only [State.pass]; split <;> simp
@[simp] theorem retireTo_bad (s : State) (pc : Word) : (s.retireTo pc).bad = s.bad := by
  unfold State.retireTo; dsimp only [State.pass]; split <;> simp
@[simp] theorem retireTo_badBanks (s : State) (pc : Word) : (s.retireTo pc).badBanks = s.badBanks := by
  unfold State.retireTo; dsimp only [State.pass]; split <;> simp
@[simp] theorem retireTo_redirects (s : State) (pc : Word) : (s.retireTo pc).redirects = s.redirects := by
  unfold State.retireTo; dsimp only [State.pass]; split <;> simp
@[simp] theorem retireTo_copyAt (s : State) (pc : Word) : (s.retireTo pc).copyAt = s.copyAt := by
  unfold State.retireTo; dsimp only [State.pass]; split <;> simp
@[simp] theorem retireTo_switched (s : State) (pc : Word) : (s.retireTo pc).switched = s.switched := by
  unfold State.retireTo; dsimp only [State.pass]; split <;> simp
@[simp] theorem retireTo_rows (s : State) (pc : Word) : (s.retireTo pc).rows = s.rows := by
  unfold State.retireTo; dsimp only [State.pass]; split <;> simp
@[simp] theorem retireTo_ctrs (s : State) (pc : Word) : (s.retireTo pc).ctrs = s.ctrs := by
  unfold State.retireTo; dsimp only [State.pass]; split <;> simp
@[simp] theorem retireTo_seqs (s : State) (pc : Word) : (s.retireTo pc).seqs = s.seqs := by
  unfold State.retireTo; dsimp only [State.pass]; split <;> simp
@[simp] theorem retireTo_counts (s : State) (pc : Word) : (s.retireTo pc).counts = s.counts := by
  unfold State.retireTo; dsimp only [State.pass]; split <;> simp
@[simp] theorem retireTo_vfs (s : State) (pc : Word) : (s.retireTo pc).vfs = s.vfs := by
  unfold State.retireTo; dsimp only [State.pass]; split <;> simp
@[simp] theorem retireTo_launches (s : State) (pc : Word) : (s.retireTo pc).launches = s.launches := by
  unfold State.retireTo; dsimp only [State.pass]; split <;> simp
@[simp] theorem retireTo_nextId (s : State) (pc : Word) : (s.retireTo pc).nextId = s.nextId := by
  unfold State.retireTo; dsimp only [State.pass]; split <;> simp
@[simp] theorem retireTo_net (s : State) (pc : Word) : (s.retireTo pc).net = s.net := by
  unfold State.retireTo; dsimp only [State.pass]; split <;> simp
@[simp] theorem retireTo_ats (s : State) (pc : Word) : (s.retireTo pc).ats = s.ats := by
  unfold State.retireTo; dsimp only [State.pass]; split <;> simp
@[simp] theorem retireTo_hostReqs (s : State) (pc : Word) : (s.retireTo pc).hostReqs = s.hostReqs := by
  unfold State.retireTo; dsimp only [State.pass]; split <;> simp
@[simp] theorem retireTo_out (s : State) (pc : Word) : (s.retireTo pc).out = s.out := by
  unfold State.retireTo; dsimp only [State.pass]; split <;> simp
@[simp] theorem retireTo_dev (s : State) (pc : Word) : (s.retireTo pc).dev = s.dev := by
  unfold State.retireTo; dsimp only [State.pass]; split <;> simp
@[simp] theorem retireTo_root (s : State) (pc : Word) : (s.retireTo pc).root = s.root := by
  unfold State.retireTo; dsimp only [State.pass]; split <;> simp

/-- The executing string after it retires. -/
@[simp] theorem retireTo_curStr (s : State) (pc : Word) :
    (s.retireTo pc).curStr = { s.curStr with pc := pc, inHand := [], wait := .none, routed := false } := by
  have h (x : State) (hc : x.cur = s.cur) : x.curStr = x.str s.cur.1 s.cur.2 := by unfold State.curStr; rw [hc]
  rw [h _ (retireTo_cur s pc)]
  unfold State.retireTo; dsimp only [State.pass]
  split <;> simp only [elapse_str, modOn_str, str_dropMisses] <;> simp [State.setCurStr]

/-- Every other string is as it was. -/
theorem retireTo_str (s : State) (pc : Word) {c k : Nat} (h : (c, k) ≠ s.cur) : (s.retireTo pc).str c k = s.str c k := by
  unfold State.retireTo; dsimp only [State.pass]
  split <;> simp only [elapse_str, modOn_str, str_dropMisses] <;>
    exact str_setStr_ne s _ h

/-- Of a core, only a string's pc and what counts cycles, instructions and misses changes. -/
theorem retireTo_core (s : State) (pc : Word) (d : Nat) :
    ∃ t m r y v w, (s.retireTo pc).core d
      = { s.core d with strs := t, misses := m, res := r, cycle := y, vfs := v, wear := w } := by
  have h1 (t : Str) : ∃ a m, ((s.setCurStr t).modCore s.cur.1 (fun co => co.dropMisses s.cur.2)).core d
      = { s.core d with strs := a, misses := m } := by
    unfold State.setCurStr State.setStr
    by_cases h : d = s.cur.1
    · subst h; rw [core_modCore_self, core_modCore_self]; exact ⟨_, _, rfl⟩
    · rw [core_modCore_ne _ _ h, core_modCore_ne _ _ h]; exact ⟨_, _, rfl⟩
  obtain ⟨a, m, h1⟩ := h1 { s.curStr with pc := pc, inHand := [], wait := .none, routed := false }
  unfold State.retireTo; dsimp only [State.pass]
  split
  · obtain ⟨r, y, v, w, h2⟩ := elapse_core (((s.setCurStr { s.curStr with pc := pc, inHand := [], wait := .none, routed := false }).modCore s.cur.1
      (fun co => co.dropMisses s.cur.2)).modOn s.cur.1 ‹Nat› OnCore.count) s.cur.1 true s.curStr.launch _ d
    obtain ⟨q, h3⟩ := modOn_core ((s.setCurStr { s.curStr with pc := pc, inHand := [], wait := .none, routed := false }).modCore s.cur.1
      (fun co => co.dropMisses s.cur.2)) s.cur.1 ‹Nat› OnCore.count d
    rw [h3, h1] at h2
    exact ⟨_, _, _, _, _, _, h2⟩
  · obtain ⟨r, y, v, w, h2⟩ := elapse_core ((s.setCurStr { s.curStr with pc := pc, inHand := [], wait := .none, routed := false }).modCore s.cur.1
      (fun co => co.dropMisses s.cur.2)) s.cur.1 true s.curStr.launch _ d
    rw [h1] at h2
    exact ⟨_, _, _, _, _, _, h2⟩

/-- Of a partition, only its meters change. -/
theorem retireTo_part (s : State) (pc : Word) (p : Nat) :
    ∃ m w, (s.retireTo pc).part p = { s.part p with meters := m, wearSub := w } := by
  have h (x : State) (hp : x.parts = s.parts) (c : Nat) (i : Bool) (l : Option Nat) (n : Nat) :
      ∃ m w, (x.elapse c i l n).part p = { s.part p with meters := m, wearSub := w } := by
    have := elapse_part x c i l n p
    have e : x.part p = s.part p := by unfold State.part; rw [hp]
    rwa [e] at this
  unfold State.retireTo; dsimp only [State.pass]
  split
  · exact h _ (by simp) _ _ _ _
  · exact h _ (by simp) _ _ _ _

/-! ## How an instruction ends -/

/-- With no load outstanding an instruction runs on the string as it is. -/
theorem settled_ready (regs : List Nat) (s : State) (h : s.curStr.lds = []) : settled regs s = some s := by
  simp [settled, h]

/-- Letting an instruction run behind outstanding loads marks some of them sure, and changes nothing else. -/
theorem settled_some (regs : List Nat) (s t : State) (h : settled regs s = some t) :
    ∃ l, t = s.setCurStr { s.curStr with lds := l } ∨ t = s := by
  unfold settled at h
  split at h
  · exact ⟨[], .inr (Option.some.inj h).symm⟩
  · dsimp only at h
    split at h
    · exact ⟨_, .inl (Option.some.inj h).symm⟩
    · cases h

/-- An instruction that only changes its string retires with the change, with no load outstanding. -/
theorem strOp_ready (regs : List Nat) (f : Str → Str) (s : State) (h : s.curStr.lds = []) :
    strOp regs f s = .next (s.setCurStr (f s.curStr)).retire := by
  simp [strOp, settled_ready regs s h]

/-- It waits, or retires on the string as `settled` leaves it. -/
theorem strOp_cases (regs : List Nat) (f : Str → Str) (s : State) :
    (settled regs s = none ∧ strOp regs f s = .next s)
      ∨ ∃ t, settled regs s = some t ∧ strOp regs f s = .next (t.setCurStr (f t.curStr)).retire := by
  unfold strOp
  cases settled regs s with
  | none => exact .inl ⟨rfl, rfl⟩
  | some t => exact .inr ⟨t, rfl, rfl⟩

theorem strJump_ready (regs : List Nat) (f : Str → Str) (g : Str → Word) (s : State) (h : s.curStr.lds = []) :
    strJump regs f g s = .next ((s.setCurStr (f s.curStr)).retireTo (g s.curStr)) := by
  simp [strJump, settled_ready regs s h]

/-- See `strOp_cases`. -/
theorem strJump_cases (regs : List Nat) (f : Str → Str) (g : Str → Word) (s : State) :
    (settled regs s = none ∧ strJump regs f g s = .next s)
      ∨ ∃ t, settled regs s = some t ∧ strJump regs f g s = .next ((t.setCurStr (f t.curStr)).retireTo (g t.curStr)) := by
  unfold strJump
  cases settled regs s with
  | none => exact .inl ⟨rfl, rfl⟩
  | some t => exact .inr ⟨t, rfl, rfl⟩

/-- With no load outstanding a fault is taken at once. -/
@[simp] theorem faultDue_ready (s : State) (f : State → State) (h : s.curStr.lds = []) : s.faultDue f = .next (f s) := by
  simp [State.faultDue, State.atFault, h]

/-- A fault waits, or is taken on the string as it is or with some of its loads marked sure. -/
theorem faultDue_cases (s : State) (f : State → State) :
    s.faultDue f = .next s ∨ s.faultDue f = .next (f s) ∨ ∃ l, s.faultDue f = .next (f (s.setCurStr { s.curStr with lds := l })) := by
  unfold State.faultDue
  cases h : s.atFault with
  | none => exact .inl rfl
  | some t =>
    have h1 : settled [] s = some t ∨ t = s := by
      unfold State.atFault at h
      by_cases g : s.curStr.lds.isEmpty
      · rw [if_pos g] at h; exact .inr (Option.some.inj h).symm
      · rw [if_neg g] at h
        exact .inl (Option.ite_none_right_eq_some.mp h).2
    rcases h1 with h1 | rfl
    · obtain ⟨l, rfl | rfl⟩ := settled_some [] s t h1
      · exact .inr (.inr ⟨l, rfl⟩)
      · exact .inr (.inl rfl)
    · exact .inr (.inl rfl)

/-- See `strOp_ready`. -/
theorem strTry_ready (regs : List Nat) (f : Str → Except FaultInfo Str) (s : State) (h : s.curStr.lds = []) :
    strTry regs f s = match f s.curStr with
      | .ok t => .next (s.setCurStr t).retire
      | .error e => .next (s.fault e) := by
  unfold strTry; rw [settled_ready regs s h]; cases hf : f s.curStr <;> simp [h, hf]

@[simp] theorem run_settle_ready (regs : List Nat) (s : State) (h : s.curStr.lds = []) : (settle regs).run s = .ok ((), s) := by
  show (match settled regs s with | some s => set s | none => stall : M Unit).run s = _
  rw [settled_ready regs s h]; rfl

/-- Every way an instruction may end: a fault once it may be taken, a stall, or an effect. -/
theorem runInstr_cases (f : M Adv) (s : State) :
    (∃ e, f.run s = .error (.fault e) ∧ runInstr f s = s.faultDue (·.fault e))
      ∨ (∃ e v b a, f.run s = .error (.met e v b a) ∧ runInstr f s = s.faultDue (·.faultAt e v b a))
      ∨ (∃ m, f.run s = .error (.stall m) ∧ runInstr f s = .next (s.queueMiss s.cur.1 m))
      ∨ (∃ s', f.run s = .ok (.step, s') ∧ runInstr f s = .next s'.retire)
      ∨ (∃ pc s', f.run s = .ok (.to pc, s') ∧ runInstr f s = .next (s'.retireTo pc))
      ∨ (∃ s', (f.run s = .ok (.again, s') ∨ f.run s = .ok (.placed, s')) ∧ runInstr f s = .next s') := by
  unfold runInstr
  rcases h : f.run s with (e | ⟨e, v, b, a⟩ | m) | ⟨a, s'⟩
  · exact .inl ⟨e, rfl, rfl⟩
  · exact .inr (.inl ⟨e, v, b, a, rfl, rfl⟩)
  · exact .inr (.inr (.inl ⟨m, rfl, rfl⟩))
  · rcases a with _ | pc | _ | _
    · exact .inr (.inr (.inr (.inl ⟨s', rfl, rfl⟩)))
    · exact .inr (.inr (.inr (.inr (.inl ⟨pc, s', rfl, rfl⟩))))
    · exact .inr (.inr (.inr (.inr (.inr ⟨s', .inl rfl, rfl⟩))))
    · exact .inr (.inr (.inr (.inr (.inr ⟨s', .inr rfl, rfl⟩))))

@[simp] theorem ok_bind {ε α β : Type} (a : α) (f : α → Except ε β) : (Except.ok a >>= f) = f a := rfl

@[simp] theorem error_bind {ε α β : Type} (e : ε) (f : α → Except ε β) : ((Except.error e : Except ε α) >>= f) = .error e := rfl

@[simp] theorem run_theStr (s : State) : theStr.run s = .ok (s.curStr, s) := rfl

@[simp] theorem run_modStr (f : Str → Str) (s : State) : (modStr f).run s = .ok ((), s.setCurStr (f s.curStr)) := rfl

@[simp] theorem run_raise {α : Type} (c d : Nat) (v : Word) (s : State) :
    (raise c d v : M α).run s = .error (.fault { code := c, detail := d, val := v }) := rfl

@[simp] theorem run_stall {α : Type} (s : State) : (stall : M α).run s = .error (.stall none) := rfl

@[simp] theorem run_await (b : Bool) (s : State) :
    (await b).run s = if b then .ok ((), s) else .error (.stall none) := by cases b <;> rfl

@[simp] theorem run_quiet (s : State) : quiet.run s = if s.curStr.lds.isEmpty then .ok ((), s) else .error (.stall none) := by
  show (await s.curStr.lds.isEmpty).run s = _
  exact run_await _ s

/-- Sending a packet changes only the sender's sequence numbers (R76). -/
theorem packets_eq (s : State) (c u : Nat) (pl : Place) : ∃ q, s.packets c u pl = { s with seqs := q } := by
  unfold State.packets State.roundTrip State.packet
  split
  · split
    · exact ⟨_, rfl⟩
    · exact ⟨_, rfl⟩
  · exact ⟨_, rfl⟩

@[simp] theorem packets_mem (s : State) (c u : Nat) (pl : Place) : (s.packets c u pl).mem = s.mem := by
  obtain ⟨q, h⟩ := packets_eq s c u pl; rw [h]

@[simp] theorem packets_dev (s : State) (c u : Nat) (pl : Place) : (s.packets c u pl).dev = s.dev := by
  obtain ⟨q, h⟩ := packets_eq s c u pl; rw [h]

/-- Queueing a miss leaves memory and the device's state alone. -/
theorem queueMiss_keeps (s : State) (c : Nat) (m : Option Miss) : (s.queueMiss c m).mem = s.mem ∧ (s.queueMiss c m).dev = s.dev := by
  unfold State.queueMiss
  split
  · exact ⟨rfl, rfl⟩
  · split
    · exact ⟨rfl, rfl⟩
    · dsimp only
      split
      · exact ⟨rfl, rfl⟩
      · exact ⟨rfl, rfl⟩
      · split <;> simp
      · exact ⟨rfl, rfl⟩

@[simp] theorem queueMiss_mem (s : State) (c : Nat) (m : Option Miss) : (s.queueMiss c m).mem = s.mem := (queueMiss_keeps s c m).1

@[simp] theorem queueMiss_dev (s : State) (c : Nat) (m : Option Miss) : (s.queueMiss c m).dev = s.dev := (queueMiss_keeps s c m).2

/-! ## Writes to memory keep the form of a state -/

/-- What a write leaves of a row's valid bit or of counters changes neither the bytes nor anything but those two. -/
theorem touch_eq (s : State) (a : Nat) : ∃ r k, s.touch a = { s with rows := r, ctrs := k } := by
  unfold State.touch
  split
  · split <;> exact ⟨_, _, rfl⟩
  · exact ⟨_, _, rfl⟩

@[simp] theorem touch_mem (s : State) (a : Nat) : (s.touch a).mem = s.mem := by
  obtain ⟨r, k, h⟩ := touch_eq s a
  rw [h]

@[simp] theorem touch_dev (s : State) (a : Nat) : (s.touch a).dev = s.dev := by
  obtain ⟨r, k, h⟩ := touch_eq s a
  rw [h]

theorem touchRange_eq (s : State) (a n : Nat) : ∃ r k, s.touchRange a n = { s with rows := r, ctrs := k } := by
  have fold (l : List Nat) (f : Nat → Nat) (s : State) :
      ∃ r k, l.foldl (fun s i => s.touch (f i)) s = { s with rows := r, ctrs := k } := by
    induction l generalizing s with
    | nil => exact ⟨_, _, rfl⟩
    | cons i t ih =>
      obtain ⟨r, k, h⟩ := touch_eq s (f i)
      obtain ⟨r', k', h'⟩ := ih (s.touch (f i))
      exact ⟨r', k', by rw [List.foldl_cons, h', h]⟩
  unfold State.touchRange
  split
  · exact ⟨_, _, rfl⟩
  · split
    · exact fold _ (fun i => a / 64 * 64 + 64 * i) s
    · exact ⟨_, _, rfl⟩

@[simp] theorem touchRange_mem (s : State) (a n : Nat) : (s.touchRange a n).mem = s.mem := by
  obtain ⟨r, k, h⟩ := touchRange_eq s a n
  rw [h]

@[simp] theorem touchRange_dev (s : State) (a n : Nat) : (s.touchRange a n).dev = s.dev := by
  obtain ⟨r, k, h⟩ := touchRange_eq s a n
  rw [h]

/-- What the poison lists leave of a write is in canonical form (R89). -/
theorem wf_outsideSpans (s : State) (a n : Nat) (m : Memory) (h : m.wf = true) : (s.outsideSpans a n m).wf = true := by
  unfold State.outsideSpans
  split
  · exact h
  · exact wf_foldl _ _ (fun m _ hm => wf_splice m _ _ _ hm) m h

/-- A write that no listed span touches is discarded nowhere (R89). -/
theorem outsideSpans_clear (s : State) (a n : Nat) (m : Memory) (h : ∀ x ∈ s.allSpans, overlaps x.pa x.len a n = false) :
    s.outsideSpans a n m = m := by
  have e : s.allSpans.filter (fun x => overlaps x.pa x.len a n) = [] :=
    List.filter_eq_nil_iff.mpr (fun x hx => by simp [h x hx])
  unfold State.outsideSpans; rw [e]; simp

/-- Outside the range that is written the poison lists change nothing (R89). -/
theorem get_outsideSpans_out (s : State) (a n : Nat) (m : Memory) (i : Nat) (hi : i < a ∨ a + n ≤ i) :
    (s.outsideSpans a n m).get i = m.get i := by
  unfold State.outsideSpans
  split
  · rfl
  generalize s.allSpans.filter (fun x => overlaps x.pa x.len a n) = l
  induction l generalizing m with
  | nil => rfl
  | cons x t ih =>
    rw [List.foldl_cons, ih, get_splice_out]
    simp only [Span.cut, Nat.max_def, Nat.min_def]
    split <;> split <;> omega

@[simp] theorem putBytes_mem (s : State) (a : Nat) (b : List Byte) :
    (s.putBytes a b).mem = s.outsideSpans a b.length (s.mem.putBytes a b) := by simp [State.putBytes]

/-- Units write bytes in canonical form. -/
theorem putBytes_wf (s : State) (a : Nat) (b : List Byte) (h : s.mem.wf = true) : (s.putBytes a b).mem.wf = true := by
  rw [putBytes_mem]; exact wf_outsideSpans s _ _ _ (wf_putBytes b s.mem a h)

/-- Units write nothing outside their range. -/
theorem get_putBytes_mem_out (s : State) (a : Nat) (b : List Byte) (i : Nat) (hi : i < a ∨ a + b.length ≤ i) :
    (s.putBytes a b).mem.get i = s.mem.get i := by
  rw [putBytes_mem, get_outsideSpans_out _ _ _ _ _ hi]; exact get_putBytes_out b s.mem a i hi

@[simp] theorem putBytes_dev (s : State) (a : Nat) (b : List Byte) : (s.putBytes a b).dev = s.dev := by simp [State.putBytes]

@[simp] theorem putNum_mem (s : State) (a n v : Nat) : (s.putNum a n v).mem = s.outsideSpans a n (s.mem.putNum a n v) := by
  simp [State.putNum, Memory.putNum, leBytes_length]

@[simp] theorem putNum_dev (s : State) (a n v : Nat) : (s.putNum a n v).dev = s.dev := by simp [State.putNum]

@[simp] theorem putLine_mem (s : State) (a v : Nat) : (s.putLine a v).mem = s.outsideSpans a 64 (s.mem.putNum a 64 v) := by
  simp [State.putLine]

@[simp] theorem putLine_dev (s : State) (a v : Nat) : (s.putLine a v).dev = s.dev := by simp [State.putLine]

@[simp] theorem clearRange_mem (s : State) (a n : Nat) : (s.clearRange a n).mem = s.mem.clear a n := rfl

@[simp] theorem clearRange_dev (s : State) (a n : Nat) : (s.clearRange a n).dev = s.dev := rfl

/-- Changing a launch changes nothing but the launches. -/
theorem modLaunch_eq (s : State) (l : Nat) (f : Launch → Launch) : ∃ x, s.modLaunch l f = { s with launches := x } := by
  unfold State.modLaunch
  split <;> exact ⟨_, rfl⟩

@[simp] theorem modLaunch_mem (s : State) (l : Nat) (f : Launch → Launch) : (s.modLaunch l f).mem = s.mem := by
  obtain ⟨x, h⟩ := modLaunch_eq s l f
  rw [h]

@[simp] theorem modLaunch_dev (s : State) (l : Nat) (f : Launch → Launch) : (s.modLaunch l f).dev = s.dev := by
  obtain ⟨x, h⟩ := modLaunch_eq s l f
  rw [h]

/-- A launch that is told a status keeps its memory (R162). -/
@[simp] theorem endWith_mem (s : State) (l st v : Nat) (k : Bool) : (s.endWith l st v k).mem = s.mem := by simp [State.endWith]

@[simp] theorem endWith_dev (s : State) (l st v : Nat) (k : Bool) : (s.endWith l st v k).dev = s.dev := by simp [State.endWith]

/-- Copying a block keeps the canonical form and the device (R170). -/
theorem copyBlock_form (s : State) (a b : Nat) (h : s.mem.wf = true) :
    (s.copyBlock a b).mem.wf = true ∧ (s.copyBlock a b).dev = s.dev := by
  unfold State.copyBlock
  simp only [putBytes_mem, putBytes_dev]
  generalize s.mem.bytes a 4096 = x
  exact ⟨wf_outsideSpans s _ _ _ (wf_putBytes x s.mem _ h), trivial⟩

/-- Redirecting a block keeps the canonical form and the device (R170). -/
theorem redirect_form (s : State) (l : Option Nat) (a : Nat) (h : s.mem.wf = true) :
    (s.redirect l a).mem.wf = true ∧ (s.redirect l a).dev = s.dev := by
  unfold State.redirect
  simp only
  split
  · exact ⟨h, rfl⟩
  · split
    · exact copyBlock_form s _ _ h
    · simpa [State.endLaunch] using h
    · exact ⟨h, rfl⟩

/-- A store at its home keeps the canonical form and the device. -/
theorem writeEv_form (s : State) (l : Option Nat) (a : Nat) (bs : List (Nat × Nat)) (d : BitVec 4096) (h : s.mem.wf = true) :
    (s.writeEv l a bs d).mem.wf = true ∧ (s.writeEv l a bs d).dev = s.dev := by
  obtain ⟨h1, h2⟩ := redirect_form s l a h
  unfold State.writeEv
  dsimp only
  split
  · exact ⟨h1, h2⟩
  · exact ⟨by simpa using wf_foldl bs _ (fun m x hm => wf_put m _ _ hm) _ h1, by simpa using h2⟩

end Sys2Proof.Laws
end

