-- ==== Sys2Proof/Laws/Access.lean ====
section
/-! SUPPORT. What the checks of an access leave alone: everything but what the TLB, the PLB and the instruction cache hold,
one meter, the sequence numbers of packets, and poison that is put in place. -/

namespace Sys2Proof.Laws

open Sys2Proof.Machine

/-- `t` is `s` but for the translations, rights and code that cores hold, meters, the sequence numbers of packets, and sectors that are poisoned in
place. -/
structure Kept (s t : State) : Prop where
  turn : t.turn = s.turn
  tick : t.tick = s.tick
  cur : t.cur = s.cur
  inputs : t.inputs = s.inputs
  pkg : t.pkg = s.pkg
  mem : t.mem = s.mem
  bad : ∀ i, (mfind s.bad i).isSome = true → (mfind t.bad i).isSome = true
  badBanks : t.badBanks = s.badBanks
  redirects : t.redirects = s.redirects
  copyAt : t.copyAt = s.copyAt
  switched : t.switched = s.switched
  rows : t.rows = s.rows
  ctrs : t.ctrs = s.ctrs
  counts : t.counts = s.counts
  vfs : t.vfs = s.vfs
  launches : t.launches = s.launches
  nextId : t.nextId = s.nextId
  net : t.net = s.net
  ats : t.ats = s.ats
  hostReqs : t.hostReqs = s.hostReqs
  out : t.out = s.out
  dev : t.dev = s.dev
  root : t.root = s.root
  core : ∀ c, ∃ a b i, t.core c = { s.core c with tlb := a, plb := b, icache := i }
  part : ∀ p, ∃ m, t.part p = { s.part p with meters := m }

theorem Kept.refl (s : State) : Kept s s :=
  ⟨rfl, rfl, rfl, rfl, rfl, rfl, fun _ h => h, rfl, rfl, rfl, rfl, rfl, rfl, rfl, rfl, rfl, rfl, rfl, rfl, rfl, rfl, rfl, rfl, fun _ => ⟨_, _, _, rfl⟩,
    fun _ => ⟨_, rfl⟩⟩

theorem Kept.trans {s t u : State} (h : Kept s t) (g : Kept t u) : Kept s u := by
  refine ⟨g.turn.trans h.turn, g.tick.trans h.tick, g.cur.trans h.cur, g.inputs.trans h.inputs, g.pkg.trans h.pkg,
    g.mem.trans h.mem, fun i x => g.bad i (h.bad i x), g.badBanks.trans h.badBanks, g.redirects.trans h.redirects, g.copyAt.trans h.copyAt,
    g.switched.trans h.switched, g.rows.trans h.rows, g.ctrs.trans h.ctrs, g.counts.trans h.counts, g.vfs.trans h.vfs,
    g.launches.trans h.launches, g.nextId.trans h.nextId, g.net.trans h.net, g.ats.trans h.ats, g.hostReqs.trans h.hostReqs,
    g.out.trans h.out, g.dev.trans h.dev, g.root.trans h.root, ?_, ?_⟩
  · intro c
    obtain ⟨a, b, i, e⟩ := h.core c
    obtain ⟨x, y, i', e'⟩ := g.core c
    exact ⟨x, y, i', by rw [e', e]⟩
  · intro p
    obtain ⟨a, e⟩ := h.part p
    obtain ⟨x, e'⟩ := g.part p
    exact ⟨x, by rw [e', e]⟩

/-- Every string is as it was. -/
theorem Kept.string {s t : State} (h : Kept s t) (c k : Nat) : t.str c k = s.str c k := by
  obtain ⟨a, b, i, e⟩ := h.core c
  unfold State.str; rw [e]; rfl

/-- The executing string is as it was. -/
theorem Kept.curStr {s t : State} (h : Kept s t) : t.curStr = s.curStr := by
  unfold State.curStr; rw [h.cur]; exact h.string _ _

/-- A change of a core's translations, rights and code. -/
theorem kept_modCore (s : State) (c : Nat) (f : Core → Core) (hf : ∀ co, ∃ a b i, f co = { co with tlb := a, plb := b, icache := i }) :
    Kept s (s.modCore c f) := by
  refine ⟨rfl, rfl, rfl, rfl, rfl, rfl, fun _ h => h, rfl, rfl, rfl, rfl, rfl, rfl, rfl, rfl, rfl, rfl, rfl, rfl, rfl, rfl, rfl, rfl, ?_, fun _ => ⟨_, rfl⟩⟩
  intro d
  by_cases h : d = c
  · subst h; rw [core_modCore_self]; exact hf (s.core d)
  · rw [core_modCore_ne _ _ h]; exact ⟨_, _, _, rfl⟩

theorem kept_meterOf (s : State) (c i n : Nat) : Kept s (s.meterOf c i n) := by
  unfold State.meterOf; split
  · refine ⟨rfl, rfl, rfl, rfl, rfl, rfl, fun _ h => h, rfl, rfl, rfl, rfl, rfl, rfl, rfl, rfl, rfl, rfl, rfl, rfl, rfl, rfl, rfl, rfl, fun _ => ⟨_, _, _, rfl⟩, ?_⟩
    intro q
    rename_i p _
    by_cases h : q = p
    · subst h; rw [part_modPart_self]; unfold Partition.meter; split <;> exact ⟨_, rfl⟩
    · rw [part_modPart_ne _ _ h]; exact ⟨_, rfl⟩
  · exact Kept.refl s

theorem kept_seqs (s : State) (q : List (Nat × BitVec 78)) : Kept s { s with seqs := q } :=
  ⟨rfl, rfl, rfl, rfl, rfl, rfl, fun _ h => h, rfl, rfl, rfl, rfl, rfl, rfl, rfl, rfl, rfl, rfl, rfl, rfl, rfl, rfl, rfl, rfl, fun _ => ⟨_, _, _, rfl⟩,
    fun _ => ⟨_, rfl⟩⟩

theorem kept_packets (s : State) (c u : Nat) (pl : Place) : Kept s (s.packets c u pl) := by
  obtain ⟨q, h⟩ := packets_eq s c u pl
  rw [h]; exact kept_seqs s q

/-- A read that poisons its sector in place changes nothing else (R84). -/
theorem kept_poisonFound (s : State) (l : Option Nat) (a : Nat) : Kept s (s.poisonFound l a) := by
  unfold State.poisonFound; split
  · refine ⟨rfl, rfl, rfl, rfl, rfl, rfl, fun i h => ?_, rfl, rfl, rfl, rfl, rfl, rfl, rfl, rfl, rfl, rfl, rfl, rfl, rfl, rfl, rfl, rfl,
      fun _ => ⟨_, _, _, rfl⟩, fun _ => ⟨_, rfl⟩⟩
    by_cases e : i = s.version (s.shadowOf l) a / 32
    · subst e; simp
    · show (mfind (mset s.bad _ _) i).isSome = true
      rw [mfind_mset_ne _ _ e]; exact h
  · exact Kept.refl s

/-- Reads of table sectors change sequence numbers, and poison bad sectors in place (R76, R84). -/
theorem kept_readAll (s : State) (c : Nat) (l : List Nat) : Kept s (s.readAll c l) := by
  unfold State.readAll
  induction l generalizing s with
  | nil => exact Kept.refl s
  | cons a l ih => exact ((kept_packets s _ _ _).trans (kept_poisonFound _ _ _)).trans (ih _)

/-- A walk changes no more. -/
theorem kept_walked (s : State) (c p va : Nat) : Kept s (s.walked c p va) := kept_readAll s c _

/-- Nor does a search. -/
theorem kept_searched (s : State) (c p o pkg off : Nat) : Kept s (s.searched c p o pkg off) := kept_readAll s c _

/-- Steps of an instruction that change no more than that. -/
def Keeps {α : Type} (f : M α) : Prop := ∀ s a t, f.run s = .ok (a, t) → Kept s t

theorem keeps_pure {α : Type} (a : α) : Keeps (pure a : M α) := by
  intro s x t h
  have : (Except.ok (a, s) : Except Stop (α × State)) = .ok (x, t) := h
  injection this with e; injection e with _ e; subst e; exact Kept.refl s

theorem keeps_get : Keeps (get : M State) := by
  intro s x t h
  have : (Except.ok (s, s) : Except Stop (State × State)) = .ok (x, t) := h
  injection this with e; injection e with _ e; subst e; exact Kept.refl s

theorem keeps_throw {α : Type} (e : Stop) : Keeps (throw e : M α) := by
  intro s x t h
  have : (Except.error e : Except Stop (α × State)) = .ok (x, t) := h
  cases this

theorem keeps_raise {α : Type} (c d : Nat) (v : Word) : Keeps (raise c d v : M α) := keeps_throw _

theorem keeps_stall {α : Type} : Keeps (stall : M α) := keeps_throw _

theorem keeps_bind {α β : Type} {f : M α} {g : α → M β} (hf : Keeps f) (hg : ∀ a, Keeps (g a)) : Keeps (f >>= g) := by
  intro s b t h
  rw [StateT.run_bind] at h
  rcases e : f.run s with x | ⟨a, s1⟩
  · rw [e] at h; cases h
  · rw [e] at h
    exact (hf s a s1 e).trans (hg a s1 b t h)

theorem keeps_modify (f : State → State) (hf : ∀ s, Kept s (f s)) : Keeps (modify f : M Unit) := by
  intro s x t h
  have : (Except.ok ((), f s) : Except Stop (Unit × State)) = .ok (x, t) := h
  injection this with e; injection e with _ e; subst e; exact hf s

/-- Steps that read the state and then set it to a changed one. -/
theorem keeps_get_bind {β : Type} (g : State → M β) (hg : ∀ s b t, (g s).run s = .ok (b, t) → Kept s t) : Keeps (get >>= g) := by
  intro s b t h
  rw [StateT.run_bind] at h
  exact hg s b t h

/-- `set` after a read. -/
theorem kept_set {α : Type} {s s1 t : State} {f : M α} {b : α} (h : Kept s s1) (hf : Keeps f)
    (e : ((set s1 : M Unit) >>= fun _ => f).run s = .ok (b, t)) : Kept s t := by
  rw [StateT.run_bind] at e
  have e : f.run s1 = .ok (b, t) := e
  exact h.trans (hf s1 b t e)

theorem keeps_ite {α : Type} (p : Prop) [Decidable p] {f g : M α} (hf : Keeps f) (hg : Keeps g) : Keeps (if p then f else g) := by
  split
  · exact hf
  · exact hg

theorem keeps_tableLost (w : Who) (l : List Nat) (p : Word) : Keeps (tableLost w l p) := by
  unfold tableLost
  apply keeps_bind keeps_get; intro s
  exact keeps_ite _ (keeps_throw _) (keeps_pure _)

/-- What follows a look for a lost table read changes no more than its own steps do. -/
theorem kept_afterLost {α : Type} {s s1 t : State} {w : Who} {l : List Nat} {p : Word} {f : M α} {b : α} (hk : Kept s s1) (hf : Keeps f)
    (h : (tableLost w l p >>= fun _ => (set s1 : M Unit) >>= fun _ => f).run s = .ok (b, t)) : Kept s t := by
  rw [StateT.run_bind] at h
  rcases e : (tableLost w l p).run s with x | ⟨a, s2⟩
  · rw [e] at h; cases h
  · rw [e] at h
    have h : f.run s1 = .ok (b, t) := h
    exact hk.trans (hf s1 b t h)

/-- Looking for rights changes no more than what the PLB holds (R52, R53). -/
theorem keeps_rightsOf (w : Who) (ptr : Word) : Keeps (rightsOf w ptr) := by
  unfold rightsOf
  apply keeps_get_bind; intro s b t h
  dsimp only at h
  split at h
  · exact kept_set (kept_modCore s _ _ (fun _ => ⟨_, _, _, rfl⟩)) (keeps_pure _) h
  · by_cases hold : (s.core w.core).holdNames w.owner = true
    · rw [if_pos hold] at h; exact keeps_stall s b t h
    · rw [if_neg hold] at h
      by_cases g : w.id < 4
      · simp only [g, if_true] at h
        split at h
        · exact keeps_pure _ s b t h
        · exact keeps_bind (keeps_tableLost _ _ _) (fun _ => keeps_throw _) s b t h
      · simp only [g, if_false] at h
        split at h
        · exact keeps_pure _ s b t h
        · cases r : search s.seen (s.part _) w.owner (ptrPkg ptr) (ptrOff ptr) with
          | some e =>
            rw [r] at h
            exact kept_afterLost ((kept_searched s _ _ _ _ _).trans (kept_modCore _ _ _ (fun _ => ⟨_, _, _, rfl⟩))) (keeps_pure _) h
          | none => rw [r] at h; exact kept_afterLost (kept_searched s _ _ _ _ _) (keeps_pure _) h

/-- Translating changes no more than what the TLB holds (R34). -/
theorem keeps_xlateOf (w : Who) (p : Word) : Keeps (xlateOf w p) := by
  unfold xlateOf
  apply keeps_get_bind; intro s b t h
  dsimp only at h
  split at h
  · exact kept_set (kept_modCore s _ _ (fun _ => ⟨_, _, _, rfl⟩)) (keeps_pure _) h
  · split at h
    · repeat' (first | exact keeps_raise _ _ _ s b t h | exact keeps_throw _ s b t h | exact keeps_pure _ s b t h
                     | exact keeps_bind (keeps_tableLost _ _ _) (fun _ => keeps_throw _) s b t h | split at h)
    · split at h
      · exact keeps_raise _ _ _ s b t h
      · split at h
        · exact kept_afterLost ((kept_walked s _ _ _).trans (kept_modCore _ _ _ (fun _ => ⟨_, _, _, rfl⟩))) (keeps_pure _) h
        · exact keeps_bind (keeps_tableLost _ _ _) (fun _ => keeps_throw _) s b t h

theorem keeps_hostOf (w : Who) (k : Acc) (p : Word) (a : Nat) : Keeps (hostOf w k p a) := by
  unfold hostOf
  apply keeps_bind keeps_get; intro s
  dsimp only
  repeat' (first | exact keeps_pure _ | exact keeps_raise _ _ _ | exact keeps_throw _ | split)

theorem keeps_remoteXl (w : Who) (k : Acc) (p : Word) : Keeps (remoteXl w k p) := by
  unfold remoteXl
  apply keeps_bind keeps_get; intro s
  dsimp only
  repeat' (first | exact keeps_pure _ | exact keeps_raise _ _ _ | exact keeps_throw _ | split)

theorem keeps_remoteOf (w : Who) (k : Acc) (p : Word) : Keeps (remoteOf w k p) := by
  unfold remoteOf
  by_cases h : (k == .w || k == .a) = true
  · rw [if_pos h]; exact keeps_bind (keeps_remoteXl _ _ _) (fun _ => keeps_pure _)
  · rw [if_neg h]; exact keeps_bind (keeps_pure _) (fun _ => keeps_pure _)

theorem keeps_ofExcept {α : Type} (x : Except FaultInfo α) : Keeps (ofExcept x) := by
  cases x
  · exact keeps_throw _
  · exact keeps_pure _

theorem keeps_checkRights (w : Who) (k : Acc) (p : Word) : Keeps (checkRights w k p) := by
  unfold checkRights
  apply keeps_bind (keeps_rightsOf _ _); intro r
  repeat' (first | exact keeps_pure _ | exact keeps_raise _ _ _ | exact keeps_bind keeps_get (fun _ => keeps_throw _) | split)

theorem keeps_checkXlate (w : Who) (k : Acc) (p : Word) : Keeps (checkXlate w k p) := by
  unfold checkXlate
  apply keeps_bind (keeps_xlateOf _ _); intro e
  have h : Keeps (if e.host then hostOf w k p (e.target + (ptrOff p - e.va)) else pure (Place.phys (e.target + (ptrOff p - e.va)))) :=
    keeps_ite _ (keeps_hostOf _ _ _ _) (keeps_pure _)
  dsimp only
  by_cases g : (!declaredRight e.home e.hcl e.target e.size && !e.host) = true
  · rw [if_pos g]; exact keeps_bind (keeps_modify _ fun s => kept_meterOf s _ _ _) (fun _ => h)
  · rw [if_neg g]; exact h

/-- The checks of an access (R39). -/
theorem keeps_check (w : Who) (k : Acc) (p : Word) (n al : Nat) : Keeps (check w k p n al) := by
  unfold check
  apply keeps_bind keeps_get; intro s
  dsimp only
  repeat' (first | exact keeps_pure _ | exact keeps_raise _ _ _ | exact keeps_ofExcept _ | split
                 | exact keeps_bind (keeps_checkRights _ _ _) (fun _ => keeps_checkXlate _ _ _)
                 | exact keeps_bind (keeps_checkRights _ _ _) (fun _ => keeps_remoteOf _ _ _))

theorem keeps_outsideRead (w : Who) (pl : Place) (p : Word) (n : Nat) : Keeps (outsideRead w pl p n) := by
  unfold outsideRead
  apply keeps_bind keeps_get; intro s
  dsimp only
  repeat' (first | exact keeps_pure _ | exact keeps_raise _ _ _ | exact keeps_throw _ | split)

/-- Taking a sector changes no more than the sequence numbers of packets (R76, R84). -/
theorem keeps_takeSector (w : Who) (pl : Place) (p : Word) (n : Nat) : Keeps (takeSector w pl p n) := by
  unfold takeSector
  apply keeps_get_bind; intro s b t h
  split at h
  · exact keeps_raise _ _ _ s b t h
  · split at h
    · exact keeps_throw _ s b t h
    · split at h
      · exact keeps_outsideRead _ _ _ _ s b t h
      · split at h
        · exact keeps_throw _ s b t h
        · exact kept_set (kept_packets s _ _ _) (keeps_pure _) h

theorem keeps_fetchSector (w : Who) (pl : Place) (p : Word) (n : Nat) : Keeps (fetchSector w pl p n) := by
  unfold fetchSector
  apply keeps_bind keeps_get; intro s
  dsimp only
  split
  · exact keeps_takeSector _ _ _ _
  · exact keeps_takeSector _ _ _ _
  · rename_i a0 _ _
    have miss : Keeps (do
        let b ← takeSector w pl p n
        modify fun s1 => s1.modCore w.core fun co => co.cache (s.version (s.shadowOf w.launch) a0)
          (BitVec.ofNat 256 (s1.mem.num (s.version (s.shadowOf w.launch) a0 / 32 * 32) 32))
        pure b : M (List Byte)) := by
      apply keeps_bind (keeps_takeSector _ _ _ _); intro b
      exact keeps_bind (keeps_modify _ fun s => kept_modCore s _ _ (fun _ => ⟨_, _, _, rfl⟩)) (fun _ => keeps_pure _)
    cases (s.core w.core).cached (s.version (s.shadowOf w.launch) a0) with
    | none => exact miss
    | some d =>
      by_cases g : Config.refetch s.tick = true
      · simp only [g, if_true]; exact miss
      · simp only [g]; exact keeps_pure _

theorem keeps_fetchSectors (w : Who) (k : Nat) : ∀ (pl : Place) (p : Word), Keeps (fetchSectors w pl p k) := by
  induction k with
  | zero => intro pl p; exact keeps_pure _
  | succ k ih =>
    intro pl p
    exact keeps_bind (keeps_fetchSector _ _ _ _) (fun _ => keeps_bind (ih _ _) (fun _ => keeps_pure _))

/-- A fetch or a literal read (R256, R273). -/
theorem keeps_fetchBytes (p : Word) (n : Nat) : Keeps (fetchBytes p n) := by
  unfold fetchBytes
  apply keeps_bind keeps_get; intro s
  dsimp only
  apply keeps_bind (keeps_check _ _ _ _ _); intro pl
  exact keeps_ite _ (keeps_fetchSector _ _ _ _) (keeps_fetchSectors _ _ _ _)

end Sys2Proof.Laws
end

