-- ==== Sys2Proof/Laws/Dispatch.lean ====
section
/-! SUPPORT. What `exec` is on each constructor, one lemma each, so that no proof unfolds the whole match. -/

namespace Sys2Proof.Laws

open Sys2Proof.Machine

@[simp] theorem exec_add (rd ra rb : XReg) (s : State) : exec (.add rd ra rb) s = execAdd rd ra rb s := rfl
@[simp] theorem exec_sub (rd : XReg) (ra : XReg) (rb : XReg) (s : State) : exec (.sub rd ra rb) s = execSub rd ra rb s := rfl
@[simp] theorem exec_and (rd : XReg) (ra : XReg) (rb : XReg) (s : State) : exec (.and rd ra rb) s = execAnd rd ra rb s := rfl
@[simp] theorem exec_or (rd : XReg) (ra : XReg) (rb : XReg) (s : State) : exec (.or rd ra rb) s = execOr rd ra rb s := rfl
@[simp] theorem exec_xor (rd : XReg) (ra : XReg) (rb : XReg) (s : State) : exec (.xor rd ra rb) s = execXor rd ra rb s := rfl
@[simp] theorem exec_andn (rd : XReg) (ra : XReg) (rb : XReg) (s : State) : exec (.andn rd ra rb) s = execAndn rd ra rb s := rfl
@[simp] theorem exec_sll (rd : XReg) (ra : XReg) (rb : XReg) (s : State) : exec (.sll rd ra rb) s = execSll rd ra rb s := rfl
@[simp] theorem exec_srl (rd : XReg) (ra : XReg) (rb : XReg) (s : State) : exec (.srl rd ra rb) s = execSrl rd ra rb s := rfl
@[simp] theorem exec_sra (rd : XReg) (ra : XReg) (rb : XReg) (s : State) : exec (.sra rd ra rb) s = execSra rd ra rb s := rfl
@[simp] theorem exec_slt (rd : XReg) (ra : XReg) (rb : XReg) (s : State) : exec (.slt rd ra rb) s = execSlt rd ra rb s := rfl
@[simp] theorem exec_sltu (rd : XReg) (ra : XReg) (rb : XReg) (s : State) : exec (.sltu rd ra rb) s = execSltu rd ra rb s := rfl
@[simp] theorem exec_min (rd : XReg) (ra : XReg) (rb : XReg) (s : State) : exec (.min rd ra rb) s = execMin rd ra rb s := rfl
@[simp] theorem exec_max (rd : XReg) (ra : XReg) (rb : XReg) (s : State) : exec (.max rd ra rb) s = execMax rd ra rb s := rfl
@[simp] theorem exec_minu (rd : XReg) (ra : XReg) (rb : XReg) (s : State) : exec (.minu rd ra rb) s = execMinu rd ra rb s := rfl
@[simp] theorem exec_maxu (rd : XReg) (ra : XReg) (rb : XReg) (s : State) : exec (.maxu rd ra rb) s = execMaxu rd ra rb s := rfl
@[simp] theorem exec_mul (rd : XReg) (ra : XReg) (rb : XReg) (s : State) : exec (.mul rd ra rb) s = execMul rd ra rb s := rfl
@[simp] theorem exec_mulh (rd : XReg) (ra : XReg) (rb : XReg) (s : State) : exec (.mulh rd ra rb) s = execMulh rd ra rb s := rfl
@[simp] theorem exec_mulhu (rd : XReg) (ra : XReg) (rb : XReg) (s : State) : exec (.mulhu rd ra rb) s = execMulhu rd ra rb s := rfl
@[simp] theorem exec_div (rd : XReg) (ra : XReg) (rb : XReg) (s : State) : exec (.div rd ra rb) s = execDiv rd ra rb s := rfl
@[simp] theorem exec_divu (rd : XReg) (ra : XReg) (rb : XReg) (s : State) : exec (.divu rd ra rb) s = execDivu rd ra rb s := rfl
@[simp] theorem exec_rem (rd : XReg) (ra : XReg) (rb : XReg) (s : State) : exec (.rem rd ra rb) s = execRem rd ra rb s := rfl
@[simp] theorem exec_remu (rd : XReg) (ra : XReg) (rb : XReg) (s : State) : exec (.remu rd ra rb) s = execRemu rd ra rb s := rfl
@[simp] theorem exec_clz (rd : XReg) (ra : XReg) (s : State) : exec (.clz rd ra) s = execClz rd ra s := rfl
@[simp] theorem exec_ctz (rd : XReg) (ra : XReg) (s : State) : exec (.ctz rd ra) s = execCtz rd ra s := rfl
@[simp] theorem exec_popc (rd : XReg) (ra : XReg) (s : State) : exec (.popc rd ra) s = execPopc rd ra s := rfl
@[simp] theorem exec_slli (rd : XReg) (ra : XReg) (sh : BitVec 6) (s : State) : exec (.slli rd ra sh) s = execSlli rd ra sh s := rfl
@[simp] theorem exec_srli (rd : XReg) (ra : XReg) (sh : BitVec 6) (s : State) : exec (.srli rd ra sh) s = execSrli rd ra sh s := rfl
@[simp] theorem exec_srai (rd : XReg) (ra : XReg) (sh : BitVec 6) (s : State) : exec (.srai rd ra sh) s = execSrai rd ra sh s := rfl
@[simp] theorem exec_colg (rd : XReg) (ra : XReg) (s : State) : exec (.colg rd ra) s = execColg rd ra s := rfl
@[simp] theorem exec_cols (rd : XReg) (ra : XReg) (rb : XReg) (s : State) : exec (.cols rd ra rb) s = execCols rd ra rb s := rfl
@[simp] theorem exec_addi (rd : XReg) (ra : XReg) (imm : BitVec 16) (s : State) : exec (.addi rd ra imm) s = execAddi rd ra imm s := rfl
@[simp] theorem exec_andi (rd : XReg) (ra : XReg) (imm : BitVec 16) (s : State) : exec (.andi rd ra imm) s = execAndi rd ra imm s := rfl
@[simp] theorem exec_ori (rd : XReg) (ra : XReg) (imm : BitVec 16) (s : State) : exec (.ori rd ra imm) s = execOri rd ra imm s := rfl
@[simp] theorem exec_xori (rd : XReg) (ra : XReg) (imm : BitVec 16) (s : State) : exec (.xori rd ra imm) s = execXori rd ra imm s := rfl
@[simp] theorem exec_slti (rd : XReg) (ra : XReg) (imm : BitVec 16) (s : State) : exec (.slti rd ra imm) s = execSlti rd ra imm s := rfl
@[simp] theorem exec_sltiu (rd : XReg) (ra : XReg) (imm : BitVec 16) (s : State) : exec (.sltiu rd ra imm) s = execSltiu rd ra imm s := rfl
@[simp] theorem exec_lis (rd : XReg) (k : BitVec 2) (imm : BitVec 16) (s : State) : exec (.lis rd k imm) s = execLis rd k imm s := rfl
@[simp] theorem exec_lih (rd : XReg) (k : BitVec 2) (imm : BitVec 16) (s : State) : exec (.lih rd k imm) s = execLih rd k imm s := rfl
@[simp] theorem exec_lea (rd : XReg) (ra : XReg) (imm : BitVec 16) (s : State) : exec (.lea rd ra imm) s = execLea rd ra imm s := rfl
@[simp] theorem exec_ldlW (rd : XReg) (off : BitVec 19) (s : State) : exec (.ldlW rd off) s = execLdlW rd off s := rfl
@[simp] theorem exec_ldlD (rd : XReg) (off : BitVec 19) (s : State) : exec (.ldlD rd off) s = execLdlD rd off s := rfl
@[simp] theorem exec_ldlv (rd : VReg) (off : BitVec 19) (s : State) : exec (.ldlv rd off) s = execLdlv rd off s := rfl
@[simp] theorem exec_jal (rd : XReg) (off : BitVec 21) (s : State) : exec (.jal rd off) s = execJal rd off s := rfl
@[simp] theorem exec_jalr (rd : XReg) (ra : XReg) (imm : BitVec 16) (s : State) : exec (.jalr rd ra imm) s = execJalr rd ra imm s := rfl
@[simp] theorem exec_fadd (rd : XReg) (ra : XReg) (rb : XReg) (rm : Rm) (sz : FSz) (s : State) : exec (.fadd rd ra rb rm sz) s = execFadd rd ra rb rm sz s := rfl
@[simp] theorem exec_fsub (rd : XReg) (ra : XReg) (rb : XReg) (rm : Rm) (sz : FSz) (s : State) : exec (.fsub rd ra rb rm sz) s = execFsub rd ra rb rm sz s := rfl
@[simp] theorem exec_fmul (rd : XReg) (ra : XReg) (rb : XReg) (rm : Rm) (sz : FSz) (s : State) : exec (.fmul rd ra rb rm sz) s = execFmul rd ra rb rm sz s := rfl
@[simp] theorem exec_fdiv (rd : XReg) (ra : XReg) (rb : XReg) (rm : Rm) (sz : FSz) (s : State) : exec (.fdiv rd ra rb rm sz) s = execFdiv rd ra rb rm sz s := rfl
@[simp] theorem exec_fsqrt (rd : XReg) (ra : XReg) (rm : Rm) (sz : FSz) (s : State) : exec (.fsqrt rd ra rm sz) s = execFsqrt rd ra rm sz s := rfl
@[simp] theorem exec_fmin (rd : XReg) (ra : XReg) (rb : XReg) (sz : FSz) (s : State) : exec (.fmin rd ra rb sz) s = execFmin rd ra rb sz s := rfl
@[simp] theorem exec_fmax (rd : XReg) (ra : XReg) (rb : XReg) (sz : FSz) (s : State) : exec (.fmax rd ra rb sz) s = execFmax rd ra rb sz s := rfl
@[simp] theorem exec_feq (rd : XReg) (ra : XReg) (rb : XReg) (sz : FSz) (s : State) : exec (.feq rd ra rb sz) s = execFeq rd ra rb sz s := rfl
@[simp] theorem exec_flt (rd : XReg) (ra : XReg) (rb : XReg) (sz : FSz) (s : State) : exec (.flt rd ra rb sz) s = execFlt rd ra rb sz s := rfl
@[simp] theorem exec_fle (rd : XReg) (ra : XReg) (rb : XReg) (sz : FSz) (s : State) : exec (.fle rd ra rb sz) s = execFle rd ra rb sz s := rfl
@[simp] theorem exec_fclass (rd : XReg) (ra : XReg) (sz : FSz) (s : State) : exec (.fclass rd ra sz) s = execFclass rd ra sz s := rfl
@[simp] theorem exec_fcvtFp (rd : XReg) (ra : XReg) (rm : Rm) (sz : FSz) (s : State) : exec (.fcvtFp rd ra rm sz) s = execFcvtFp rd ra rm sz s := rfl
@[simp] theorem exec_fcvtFromI64 (rd : XReg) (ra : XReg) (rm : Rm) (sz : FSz) (s : State) : exec (.fcvtFromI64 rd ra rm sz) s = execFcvtFromI64 rd ra rm sz s := rfl
@[simp] theorem exec_fcvtFromU64 (rd : XReg) (ra : XReg) (rm : Rm) (sz : FSz) (s : State) : exec (.fcvtFromU64 rd ra rm sz) s = execFcvtFromU64 rd ra rm sz s := rfl
@[simp] theorem exec_fcvtToI64 (rd : XReg) (ra : XReg) (rm : Rm) (sz : FSz) (s : State) : exec (.fcvtToI64 rd ra rm sz) s = execFcvtToI64 rd ra rm sz s := rfl
@[simp] theorem exec_fcvtToU64 (rd : XReg) (ra : XReg) (rm : Rm) (sz : FSz) (s : State) : exec (.fcvtToU64 rd ra rm sz) s = execFcvtToU64 rd ra rm sz s := rfl
@[simp] theorem exec_ffma (rd : XReg) (ra : XReg) (rb : XReg) (rc : XReg) (rm : Rm) (sz : FSz) (s : State) : exec (.ffma rd ra rb rc rm sz) s = execFfma rd ra rb rc rm sz s := rfl
@[simp] theorem exec_csrr (rd : XReg) (n : BitVec 12) (s : State) : exec (.csrr rd n) s = execCsrr rd n s := rfl
@[simp] theorem exec_csrw (rd : XReg) (ra : XReg) (n : BitVec 12) (s : State) : exec (.csrw rd ra n) s = execCsrw rd ra n s := rfl
@[simp] theorem exec_csrs (rd : XReg) (ra : XReg) (n : BitVec 12) (s : State) : exec (.csrs rd ra n) s = execCsrs rd ra n s := rfl
@[simp] theorem exec_csrc (rd : XReg) (ra : XReg) (n : BitVec 12) (s : State) : exec (.csrc rd ra n) s = execCsrc rd ra n s := rfl
@[simp] theorem exec_beq (ra : XReg) (rb : XReg) (off : BitVec 16) (s : State) : exec (.beq ra rb off) s = execBeq ra rb off s := rfl
@[simp] theorem exec_bne (ra : XReg) (rb : XReg) (off : BitVec 16) (s : State) : exec (.bne ra rb off) s = execBne ra rb off s := rfl
@[simp] theorem exec_blt (ra : XReg) (rb : XReg) (off : BitVec 16) (s : State) : exec (.blt ra rb off) s = execBlt ra rb off s := rfl
@[simp] theorem exec_bge (ra : XReg) (rb : XReg) (off : BitVec 16) (s : State) : exec (.bge ra rb off) s = execBge ra rb off s := rfl
@[simp] theorem exec_bltu (ra : XReg) (rb : XReg) (off : BitVec 16) (s : State) : exec (.bltu ra rb off) s = execBltu ra rb off s := rfl
@[simp] theorem exec_bgeu (ra : XReg) (rb : XReg) (off : BitVec 16) (s : State) : exec (.bgeu ra rb off) s = execBgeu ra rb off s := rfl
@[simp] theorem exec_vcvtFpFp (rd : VReg) (ra : VReg) (rb : XReg) (mk : MReg) (dst : FTy8) (src : FTy8) (rm : Rm) (s : State) : exec (.vcvtFpFp rd ra rb mk dst src rm) s = execVcvtFpFp rd ra rb mk dst src rm s := rfl
@[simp] theorem exec_vcvtIntToFp (rd : VReg) (ra : VReg) (mk : MReg) (ity : Sz) (fty : FTy) (rm : Rm) (s : State) : exec (.vcvtIntToFp rd ra mk ity fty rm) s = execVcvtIntToFp rd ra mk ity fty rm s := rfl
@[simp] theorem exec_vcvtFpToInt (rd : VReg) (ra : VReg) (mk : MReg) (ity : Sz) (fty : FTy) (rm : Rm) (s : State) : exec (.vcvtFpToInt rd ra mk ity fty rm) s = execVcvtFpToInt rd ra mk ity fty rm s := rfl
@[simp] theorem exec_ldB (rd : XReg) (ra : XReg) (imm : BitVec 16) (s : State) : exec (.ldB rd ra imm) s = execLdB rd ra imm s := rfl
@[simp] theorem exec_ldH (rd : XReg) (ra : XReg) (imm : BitVec 16) (s : State) : exec (.ldH rd ra imm) s = execLdH rd ra imm s := rfl
@[simp] theorem exec_ldW (rd : XReg) (ra : XReg) (imm : BitVec 16) (s : State) : exec (.ldW rd ra imm) s = execLdW rd ra imm s := rfl
@[simp] theorem exec_ldD (rd : XReg) (ra : XReg) (imm : BitVec 16) (s : State) : exec (.ldD rd ra imm) s = execLdD rd ra imm s := rfl
@[simp] theorem exec_ldBu (rd : XReg) (ra : XReg) (imm : BitVec 16) (s : State) : exec (.ldBu rd ra imm) s = execLdBu rd ra imm s := rfl
@[simp] theorem exec_ldHu (rd : XReg) (ra : XReg) (imm : BitVec 16) (s : State) : exec (.ldHu rd ra imm) s = execLdHu rd ra imm s := rfl
@[simp] theorem exec_ldWu (rd : XReg) (ra : XReg) (imm : BitVec 16) (s : State) : exec (.ldWu rd ra imm) s = execLdWu rd ra imm s := rfl
@[simp] theorem exec_stB (rd : XReg) (ra : XReg) (imm : BitVec 16) (s : State) : exec (.stB rd ra imm) s = execStB rd ra imm s := rfl
@[simp] theorem exec_stH (rd : XReg) (ra : XReg) (imm : BitVec 16) (s : State) : exec (.stH rd ra imm) s = execStH rd ra imm s := rfl
@[simp] theorem exec_stW (rd : XReg) (ra : XReg) (imm : BitVec 16) (s : State) : exec (.stW rd ra imm) s = execStW rd ra imm s := rfl
@[simp] theorem exec_stD (rd : XReg) (ra : XReg) (imm : BitVec 16) (s : State) : exec (.stD rd ra imm) s = execStD rd ra imm s := rfl
@[simp] theorem exec_ldAcq (rd : XReg) (ra : XReg) (kind : LdKind) (sc : Scope) (imm : BitVec 7) (s : State) : exec (.ldAcq rd ra kind sc imm) s = execLdAcq rd ra kind sc imm s := rfl
@[simp] theorem exec_stRel (rd : XReg) (ra : XReg) (kind : Sz) (sc : Scope) (imm : BitVec 7) (s : State) : exec (.stRel rd ra kind sc imm) s = execStRel rd ra kind sc imm s := rfl
@[simp] theorem exec_amoAddD (rd : XReg) (ra : XReg) (sc : Scope) (ord : Ord) (imm : BitVec 7) (s : State) : exec (.amoAddD rd ra sc ord imm) s = execAmoAddD rd ra sc ord imm s := rfl
@[simp] theorem exec_amoAndD (rd : XReg) (ra : XReg) (sc : Scope) (ord : Ord) (imm : BitVec 7) (s : State) : exec (.amoAndD rd ra sc ord imm) s = execAmoAndD rd ra sc ord imm s := rfl
@[simp] theorem exec_amoOrD (rd : XReg) (ra : XReg) (sc : Scope) (ord : Ord) (imm : BitVec 7) (s : State) : exec (.amoOrD rd ra sc ord imm) s = execAmoOrD rd ra sc ord imm s := rfl
@[simp] theorem exec_amoXorD (rd : XReg) (ra : XReg) (sc : Scope) (ord : Ord) (imm : BitVec 7) (s : State) : exec (.amoXorD rd ra sc ord imm) s = execAmoXorD rd ra sc ord imm s := rfl
@[simp] theorem exec_amoMinD (rd : XReg) (ra : XReg) (sc : Scope) (ord : Ord) (imm : BitVec 7) (s : State) : exec (.amoMinD rd ra sc ord imm) s = execAmoMinD rd ra sc ord imm s := rfl
@[simp] theorem exec_amoMaxD (rd : XReg) (ra : XReg) (sc : Scope) (ord : Ord) (imm : BitVec 7) (s : State) : exec (.amoMaxD rd ra sc ord imm) s = execAmoMaxD rd ra sc ord imm s := rfl
@[simp] theorem exec_amoMinuD (rd : XReg) (ra : XReg) (sc : Scope) (ord : Ord) (imm : BitVec 7) (s : State) : exec (.amoMinuD rd ra sc ord imm) s = execAmoMinuD rd ra sc ord imm s := rfl
@[simp] theorem exec_amoMaxuD (rd : XReg) (ra : XReg) (sc : Scope) (ord : Ord) (imm : BitVec 7) (s : State) : exec (.amoMaxuD rd ra sc ord imm) s = execAmoMaxuD rd ra sc ord imm s := rfl
@[simp] theorem exec_amoSwapD (rd : XReg) (ra : XReg) (sc : Scope) (ord : Ord) (imm : BitVec 7) (s : State) : exec (.amoSwapD rd ra sc ord imm) s = execAmoSwapD rd ra sc ord imm s := rfl
@[simp] theorem exec_amoAddW (rd : XReg) (ra : XReg) (sc : Scope) (ord : Ord) (imm : BitVec 7) (s : State) : exec (.amoAddW rd ra sc ord imm) s = execAmoAddW rd ra sc ord imm s := rfl
@[simp] theorem exec_amoAndW (rd : XReg) (ra : XReg) (sc : Scope) (ord : Ord) (imm : BitVec 7) (s : State) : exec (.amoAndW rd ra sc ord imm) s = execAmoAndW rd ra sc ord imm s := rfl
@[simp] theorem exec_amoOrW (rd : XReg) (ra : XReg) (sc : Scope) (ord : Ord) (imm : BitVec 7) (s : State) : exec (.amoOrW rd ra sc ord imm) s = execAmoOrW rd ra sc ord imm s := rfl
@[simp] theorem exec_amoXorW (rd : XReg) (ra : XReg) (sc : Scope) (ord : Ord) (imm : BitVec 7) (s : State) : exec (.amoXorW rd ra sc ord imm) s = execAmoXorW rd ra sc ord imm s := rfl
@[simp] theorem exec_amoMinW (rd : XReg) (ra : XReg) (sc : Scope) (ord : Ord) (imm : BitVec 7) (s : State) : exec (.amoMinW rd ra sc ord imm) s = execAmoMinW rd ra sc ord imm s := rfl
@[simp] theorem exec_amoMaxW (rd : XReg) (ra : XReg) (sc : Scope) (ord : Ord) (imm : BitVec 7) (s : State) : exec (.amoMaxW rd ra sc ord imm) s = execAmoMaxW rd ra sc ord imm s := rfl
@[simp] theorem exec_amoMinuW (rd : XReg) (ra : XReg) (sc : Scope) (ord : Ord) (imm : BitVec 7) (s : State) : exec (.amoMinuW rd ra sc ord imm) s = execAmoMinuW rd ra sc ord imm s := rfl
@[simp] theorem exec_amoMaxuW (rd : XReg) (ra : XReg) (sc : Scope) (ord : Ord) (imm : BitVec 7) (s : State) : exec (.amoMaxuW rd ra sc ord imm) s = execAmoMaxuW rd ra sc ord imm s := rfl
@[simp] theorem exec_amoSwapW (rd : XReg) (ra : XReg) (sc : Scope) (ord : Ord) (imm : BitVec 7) (s : State) : exec (.amoSwapW rd ra sc ord imm) s = execAmoSwapW rd ra sc ord imm s := rfl
@[simp] theorem exec_casW (rd : XReg) (ra : XReg) (sc : Scope) (ord : Ord) (imm : BitVec 7) (s : State) : exec (.casW rd ra sc ord imm) s = execCasW rd ra sc ord imm s := rfl
@[simp] theorem exec_casD (rd : XReg) (ra : XReg) (sc : Scope) (ord : Ord) (imm : BitVec 7) (s : State) : exec (.casD rd ra sc ord imm) s = execCasD rd ra sc ord imm s := rfl
@[simp] theorem exec_casQ (rd : XReg) (ra : XReg) (sc : Scope) (ord : Ord) (imm : BitVec 7) (s : State) : exec (.casQ rd ra sc ord imm) s = execCasQ rd ra sc ord imm s := rfl
@[simp] theorem exec_famoAddS (rd : XReg) (ra : XReg) (sc : Scope) (ord : Ord) (imm : BitVec 7) (s : State) : exec (.famoAddS rd ra sc ord imm) s = execFamoAddS rd ra sc ord imm s := rfl
@[simp] theorem exec_famoAddD (rd : XReg) (ra : XReg) (sc : Scope) (ord : Ord) (imm : BitVec 7) (s : State) : exec (.famoAddD rd ra sc ord imm) s = execFamoAddD rd ra sc ord imm s := rfl
@[simp] theorem exec_fence (kind : BitVec 4) (sc : Scope) (s : State) : exec (.fence kind sc) s = execFence kind sc s := rfl
@[simp] theorem exec_wait (ld : BitVec 6) (st : BitVec 6) (cp : BitVec 6) (mx : BitVec 6) (s : State) : exec (.wait ld st cp mx) s = execWait ld st cp mx s := rfl
@[simp] theorem exec_send (rd : XReg) (ra : XReg) (rb : XReg) (c : Bool) (op : BitVec 4) (hid : BitVec 6) (s : State) : exec (.send rd ra rb c op hid) s = execSend rd ra rb c op hid s := rfl
@[simp] theorem exec_sendv (rd : VReg) (ra : XReg) (rb : XReg) (c : Bool) (op : BitVec 4) (hid : BitVec 6) (s : State) : exec (.sendv rd ra rb c op hid) s = execSendv rd ra rb c op hid s := rfl
@[simp] theorem exec_arm (rd : XReg) (ra : XReg) (rb : XReg) (op : BitVec 4) (hid : BitVec 6) (s : State) : exec (.arm rd ra rb op hid) s = execArm rd ra rb op hid s := rfl
@[simp] theorem exec_done (s : State) : exec (.done) s = execDone s := rfl
@[simp] theorem exec_endl (ra : XReg) (status : EndStatus) (s : State) : exec (.endl ra status) s = execEndl ra status s := rfl
@[simp] theorem exec_msk (rd : XReg) (ra : XReg) (rb : XReg) (s : State) : exec (.msk rd ra rb) s = execMsk rd ra rb s := rfl
@[simp] theorem exec_lnch (rd : XReg) (ra : XReg) (s : State) : exec (.lnch rd ra) s = execLnch rd ra s := rfl
@[simp] theorem exec_fxcvt (rd : XReg) (ra : XReg) (rm : Rm) (s : State) : exec (.fxcvt rd ra rm) s = execFxcvt rd ra rm s := rfl
@[simp] theorem exec_rinit (ra : XReg) (rb : XReg) (s : State) : exec (.rinit ra rb) s = execRinit ra rb s := rfl
@[simp] theorem exec_rfree (ra : XReg) (s : State) : exec (.rfree ra) s = execRfree ra s := rfl
@[simp] theorem exec_rwait (ra : XReg) (rb : XReg) (s : State) : exec (.rwait ra rb) s = execRwait ra rb s := rfl
@[simp] theorem exec_rrel (ra : XReg) (rb : XReg) (s : State) : exec (.rrel ra rb) s = execRrel ra rb s := rfl
@[simp] theorem exec_rstat (rd : XReg) (ra : XReg) (s : State) : exec (.rstat rd ra) s = execRstat rd ra s := rfl
@[simp] theorem exec_sbind (rd : SReg) (ra : XReg) (s : State) : exec (.sbind rd ra) s = execSbind rd ra s := rfl
@[simp] theorem exec_sunb (rd : SReg) (s : State) : exec (.sunb rd) s = execSunb rd s := rfl
@[simp] theorem exec_sstat (rd : XReg) (ra : SReg) (s : State) : exec (.sstat rd ra) s = execSstat rd ra s := rfl
@[simp] theorem exec_mxst (rd : XReg) (s : State) : exec (.mxst rd) s = execMxst rd s := rfl
@[simp] theorem exec_rqry (rd : XReg) (ra : XReg) (rb : XReg) (s : State) : exec (.rqry rd ra rb) s = execRqry rd ra rb s := rfl
@[simp] theorem exec_plbinv (ra : XReg) (s : State) : exec (.plbinv ra) s = execPlbinv ra s := rfl
@[simp] theorem exec_plbinvAll (s : State) : exec (.plbinvAll) s = execPlbinvAll s := rfl
@[simp] theorem exec_tlbinv (ra : XReg) (rb : XReg) (s : State) : exec (.tlbinv ra rb) s = execTlbinv ra rb s := rfl
@[simp] theorem exec_trap (ra : XReg) (s : State) : exec (.trap ra) s = execTrap ra s := rfl
@[simp] theorem exec_mcall (ra : XReg) (s : State) : exec (.mcall ra) s = execMcall ra s := rfl
@[simp] theorem exec_eret (s : State) : exec (.eret) s = execEret s := rfl
@[simp] theorem exec_idle (s : State) : exec (.idle) s = execIdle s := rfl
@[simp] theorem exec_bar (s : State) : exec (.bar) s = execBar s := rfl
@[simp] theorem exec_grant (rd : XReg) (ra : XReg) (rb : XReg) (rc : XReg) (s : State) : exec (.grant rd ra rb rc) s = execGrant rd ra rb rc s := rfl
@[simp] theorem exec_revoke (rd : XReg) (ra : XReg) (rb : XReg) (rc : XReg) (s : State) : exec (.revoke rd ra rb rc) s = execRevoke rd ra rb rc s := rfl
@[simp] theorem exec_enq (eng : Engine) (ra : XReg) (rb : XReg) (off : BitVec 13) (s : State) : exec (.enq eng ra rb off) s = execEnq eng ra rb off s := rfl
@[simp] theorem exec_vld (rd : VReg) (ra : XReg) (mk : MReg) (e : Sz) (s : State) : exec (.vld rd ra mk e) s = execVld rd ra mk e s := rfl
@[simp] theorem exec_vst (rd : VReg) (ra : XReg) (mk : MReg) (e : Sz) (s : State) : exec (.vst rd ra mk e) s = execVst rd ra mk e s := rfl
@[simp] theorem exec_vlds (rd : VReg) (ra : XReg) (rb : XReg) (mk : MReg) (e : Sz) (s : State) : exec (.vlds rd ra rb mk e) s = execVlds rd ra rb mk e s := rfl
@[simp] theorem exec_vsts (rd : VReg) (ra : XReg) (rb : XReg) (mk : MReg) (e : Sz) (s : State) : exec (.vsts rd ra rb mk e) s = execVsts rd ra rb mk e s := rfl
@[simp] theorem exec_vgath (rd : VReg) (ra : XReg) (rb : VReg) (mk : MReg) (e : Sz) (s : State) : exec (.vgath rd ra rb mk e) s = execVgath rd ra rb mk e s := rfl
@[simp] theorem exec_vscat (rd : VReg) (ra : XReg) (rb : VReg) (mk : MReg) (e : Sz) (s : State) : exec (.vscat rd ra rb mk e) s = execVscat rd ra rb mk e s := rfl
@[simp] theorem exec_vldj (rd : VReg) (ra : XReg) (mk : MReg) (e : Sz) (s : State) : exec (.vldj rd ra mk e) s = execVldj rd ra mk e s := rfl
@[simp] theorem exec_vstj (rd : VReg) (ra : XReg) (mk : MReg) (e : Sz) (s : State) : exec (.vstj rd ra mk e) s = execVstj rd ra mk e s := rfl
@[simp] theorem exec_vaddFp (ty : FTy) (rd : VReg) (ra : VReg) (rb : VReg) (mk : MReg) (rm : Rm) (s : State) : exec (.vaddFp ty rd ra rb mk rm) s = execVaddFp ty rd ra rb mk rm s := rfl
@[simp] theorem exec_vsubFp (ty : FTy) (rd : VReg) (ra : VReg) (rb : VReg) (mk : MReg) (rm : Rm) (s : State) : exec (.vsubFp ty rd ra rb mk rm) s = execVsubFp ty rd ra rb mk rm s := rfl
@[simp] theorem exec_vmulFp (ty : FTy) (rd : VReg) (ra : VReg) (rb : VReg) (mk : MReg) (rm : Rm) (s : State) : exec (.vmulFp ty rd ra rb mk rm) s = execVmulFp ty rd ra rb mk rm s := rfl
@[simp] theorem exec_vdiv (ty : FTy) (rd : VReg) (ra : VReg) (rb : VReg) (mk : MReg) (rm : Rm) (s : State) : exec (.vdiv ty rd ra rb mk rm) s = execVdiv ty rd ra rb mk rm s := rfl
@[simp] theorem exec_vsqrt (ty : FTy) (rd : VReg) (ra : VReg) (mk : MReg) (rm : Rm) (s : State) : exec (.vsqrt ty rd ra mk rm) s = execVsqrt ty rd ra mk rm s := rfl
@[simp] theorem exec_vrsq (ty : FTy) (rd : VReg) (ra : VReg) (mk : MReg) (rm : Rm) (s : State) : exec (.vrsq ty rd ra mk rm) s = execVrsq ty rd ra mk rm s := rfl
@[simp] theorem exec_vexp (ty : FTy) (rd : VReg) (ra : VReg) (mk : MReg) (rm : Rm) (s : State) : exec (.vexp ty rd ra mk rm) s = execVexp ty rd ra mk rm s := rfl
@[simp] theorem exec_vlog (ty : FTy) (rd : VReg) (ra : VReg) (mk : MReg) (rm : Rm) (s : State) : exec (.vlog ty rd ra mk rm) s = execVlog ty rd ra mk rm s := rfl
@[simp] theorem exec_vsin (ty : FTy) (rd : VReg) (ra : VReg) (mk : MReg) (rm : Rm) (s : State) : exec (.vsin ty rd ra mk rm) s = execVsin ty rd ra mk rm s := rfl
@[simp] theorem exec_vcos (ty : FTy) (rd : VReg) (ra : VReg) (mk : MReg) (rm : Rm) (s : State) : exec (.vcos ty rd ra mk rm) s = execVcos ty rd ra mk rm s := rfl
@[simp] theorem exec_vtanh (ty : FTy) (rd : VReg) (ra : VReg) (mk : MReg) (rm : Rm) (s : State) : exec (.vtanh ty rd ra mk rm) s = execVtanh ty rd ra mk rm s := rfl
@[simp] theorem exec_vminFp (ty : FTy) (rd : VReg) (ra : VReg) (rb : VReg) (mk : MReg) (s : State) : exec (.vminFp ty rd ra rb mk) s = execVminFp ty rd ra rb mk s := rfl
@[simp] theorem exec_vmaxFp (ty : FTy) (rd : VReg) (ra : VReg) (rb : VReg) (mk : MReg) (s : State) : exec (.vmaxFp ty rd ra rb mk) s = execVmaxFp ty rd ra rb mk s := rfl
@[simp] theorem exec_vabsFp (ty : FTy) (rd : VReg) (ra : VReg) (mk : MReg) (s : State) : exec (.vabsFp ty rd ra mk) s = execVabsFp ty rd ra mk s := rfl
@[simp] theorem exec_vnegFp (ty : FTy) (rd : VReg) (ra : VReg) (mk : MReg) (s : State) : exec (.vnegFp ty rd ra mk) s = execVnegFp ty rd ra mk s := rfl
@[simp] theorem exec_vcmpFp (ty : FTy) (rd : MReg) (ra : VReg) (rb : VReg) (mk : MReg) (cond : Cond) (s : State) : exec (.vcmpFp ty rd ra rb mk cond) s = execVcmpFp ty rd ra rb mk cond s := rfl
@[simp] theorem exec_vredsumFp (ty : FTy) (rd : VReg) (ra : VReg) (mk : MReg) (rm : Rm) (s : State) : exec (.vredsumFp ty rd ra mk rm) s = execVredsumFp ty rd ra mk rm s := rfl
@[simp] theorem exec_vredmaxFp (ty : FTy) (rd : VReg) (ra : VReg) (mk : MReg) (s : State) : exec (.vredmaxFp ty rd ra mk) s = execVredmaxFp ty rd ra mk s := rfl
@[simp] theorem exec_vredminFp (ty : FTy) (rd : VReg) (ra : VReg) (mk : MReg) (s : State) : exec (.vredminFp ty rd ra mk) s = execVredminFp ty rd ra mk s := rfl
@[simp] theorem exec_jseed (ty : FTy) (rd : VReg) (ra : VReg) (mk : MReg) (s : State) : exec (.jseed ty rd ra mk) s = execJseed ty rd ra mk s := rfl
@[simp] theorem exec_jconst (ty : FTy) (rd : VReg) (ra : VReg) (mk : MReg) (s : State) : exec (.jconst ty rd ra mk) s = execJconst ty rd ra mk s := rfl
@[simp] theorem exec_jget (ty : FTy) (rd : VReg) (ra : VReg) (k : BitVec 2) (mk : MReg) (s : State) : exec (.jget ty rd ra k mk) s = execJget ty rd ra k mk s := rfl
@[simp] theorem exec_jset (ty : FTy) (rd : VReg) (ra : VReg) (k : BitVec 2) (mk : MReg) (s : State) : exec (.jset ty rd ra k mk) s = execJset ty rd ra k mk s := rfl
@[simp] theorem exec_jder (ty : FTy) (rd : VReg) (ra : VReg) (k : BitVec 2) (mk : MReg) (rm : Rm) (s : State) : exec (.jder ty rd ra k mk rm) s = execJder ty rd ra k mk rm s := rfl
@[simp] theorem exec_vaddInt (rd : VReg) (ra : VReg) (rb : VReg) (mk : MReg) (e : Sz) (s : State) : exec (.vaddInt rd ra rb mk e) s = execVaddInt rd ra rb mk e s := rfl
@[simp] theorem exec_vsubInt (rd : VReg) (ra : VReg) (rb : VReg) (mk : MReg) (e : Sz) (s : State) : exec (.vsubInt rd ra rb mk e) s = execVsubInt rd ra rb mk e s := rfl
@[simp] theorem exec_vmulInt (rd : VReg) (ra : VReg) (rb : VReg) (mk : MReg) (e : Sz) (s : State) : exec (.vmulInt rd ra rb mk e) s = execVmulInt rd ra rb mk e s := rfl
@[simp] theorem exec_vminInt (rd : VReg) (ra : VReg) (rb : VReg) (mk : MReg) (e : Sz) (s : State) : exec (.vminInt rd ra rb mk e) s = execVminInt rd ra rb mk e s := rfl
@[simp] theorem exec_vmaxInt (rd : VReg) (ra : VReg) (rb : VReg) (mk : MReg) (e : Sz) (s : State) : exec (.vmaxInt rd ra rb mk e) s = execVmaxInt rd ra rb mk e s := rfl
@[simp] theorem exec_vabsInt (rd : VReg) (ra : VReg) (mk : MReg) (e : Sz) (s : State) : exec (.vabsInt rd ra mk e) s = execVabsInt rd ra mk e s := rfl
@[simp] theorem exec_vnegInt (rd : VReg) (ra : VReg) (mk : MReg) (e : Sz) (s : State) : exec (.vnegInt rd ra mk e) s = execVnegInt rd ra mk e s := rfl
@[simp] theorem exec_vand (rd : VReg) (ra : VReg) (rb : VReg) (mk : MReg) (e : Sz) (s : State) : exec (.vand rd ra rb mk e) s = execVand rd ra rb mk e s := rfl
@[simp] theorem exec_vor (rd : VReg) (ra : VReg) (rb : VReg) (mk : MReg) (e : Sz) (s : State) : exec (.vor rd ra rb mk e) s = execVor rd ra rb mk e s := rfl
@[simp] theorem exec_vxor (rd : VReg) (ra : VReg) (rb : VReg) (mk : MReg) (e : Sz) (s : State) : exec (.vxor rd ra rb mk e) s = execVxor rd ra rb mk e s := rfl
@[simp] theorem exec_vshl (rd : VReg) (ra : VReg) (rb : VReg) (mk : MReg) (e : Sz) (s : State) : exec (.vshl rd ra rb mk e) s = execVshl rd ra rb mk e s := rfl
@[simp] theorem exec_vshr (rd : VReg) (ra : VReg) (rb : VReg) (mk : MReg) (e : Sz) (s : State) : exec (.vshr rd ra rb mk e) s = execVshr rd ra rb mk e s := rfl
@[simp] theorem exec_vsra (rd : VReg) (ra : VReg) (rb : VReg) (mk : MReg) (e : Sz) (s : State) : exec (.vsra rd ra rb mk e) s = execVsra rd ra rb mk e s := rfl
@[simp] theorem exec_vcmpEq (rd : MReg) (ra : VReg) (rb : VReg) (mk : MReg) (e : Sz) (s : State) : exec (.vcmpEq rd ra rb mk e) s = execVcmpEq rd ra rb mk e s := rfl
@[simp] theorem exec_vcmpNe (rd : MReg) (ra : VReg) (rb : VReg) (mk : MReg) (e : Sz) (s : State) : exec (.vcmpNe rd ra rb mk e) s = execVcmpNe rd ra rb mk e s := rfl
@[simp] theorem exec_vcmpLt (rd : MReg) (ra : VReg) (rb : VReg) (mk : MReg) (e : Sz) (s : State) : exec (.vcmpLt rd ra rb mk e) s = execVcmpLt rd ra rb mk e s := rfl
@[simp] theorem exec_vcmpLe (rd : MReg) (ra : VReg) (rb : VReg) (mk : MReg) (e : Sz) (s : State) : exec (.vcmpLe rd ra rb mk e) s = execVcmpLe rd ra rb mk e s := rfl
@[simp] theorem exec_vcmpLtu (rd : MReg) (ra : VReg) (rb : VReg) (mk : MReg) (e : Sz) (s : State) : exec (.vcmpLtu rd ra rb mk e) s = execVcmpLtu rd ra rb mk e s := rfl
@[simp] theorem exec_vcmpLeu (rd : MReg) (ra : VReg) (rb : VReg) (mk : MReg) (e : Sz) (s : State) : exec (.vcmpLeu rd ra rb mk e) s = execVcmpLeu rd ra rb mk e s := rfl
@[simp] theorem exec_vredsumInt (rd : VReg) (ra : VReg) (mk : MReg) (e : Sz) (s : State) : exec (.vredsumInt rd ra mk e) s = execVredsumInt rd ra mk e s := rfl
@[simp] theorem exec_vredmaxInt (rd : VReg) (ra : VReg) (mk : MReg) (e : Sz) (s : State) : exec (.vredmaxInt rd ra mk e) s = execVredmaxInt rd ra mk e s := rfl
@[simp] theorem exec_vredminInt (rd : VReg) (ra : VReg) (mk : MReg) (e : Sz) (s : State) : exec (.vredminInt rd ra mk e) s = execVredminInt rd ra mk e s := rfl
@[simp] theorem exec_vmov (rd : VReg) (ra : VReg) (mk : MReg) (e : Sz) (s : State) : exec (.vmov rd ra mk e) s = execVmov rd ra mk e s := rfl
@[simp] theorem exec_vsel (rd : VReg) (ra : VReg) (rb : VReg) (mk : MReg) (e : Sz) (s : State) : exec (.vsel rd ra rb mk e) s = execVsel rd ra rb mk e s := rfl
@[simp] theorem exec_vbcast (rd : VReg) (ra : XReg) (mk : MReg) (e : Sz) (s : State) : exec (.vbcast rd ra mk e) s = execVbcast rd ra mk e s := rfl
@[simp] theorem exec_vext (rd : XReg) (ra : VReg) (rb : XReg) (e : Sz) (s : State) : exec (.vext rd ra rb e) s = execVext rd ra rb e s := rfl
@[simp] theorem exec_vins (rd : VReg) (ra : XReg) (rb : XReg) (e : Sz) (s : State) : exec (.vins rd ra rb e) s = execVins rd ra rb e s := rfl
@[simp] theorem exec_viota (rd : VReg) (mk : MReg) (e : Sz) (s : State) : exec (.viota rd mk e) s = execViota rd mk e s := rfl
@[simp] theorem exec_vperm (rd : VReg) (ra : VReg) (rb : VReg) (mk : MReg) (e : Sz) (s : State) : exec (.vperm rd ra rb mk e) s = execVperm rd ra rb mk e s := rfl
@[simp] theorem exec_vslide (rd : VReg) (ra : VReg) (rb : XReg) (mk : MReg) (e : Sz) (s : State) : exec (.vslide rd ra rb mk e) s = execVslide rd ra rb mk e s := rfl
@[simp] theorem exec_mand (rd : MReg) (ra : MReg) (rb : MReg) (s : State) : exec (.mand rd ra rb) s = execMand rd ra rb s := rfl
@[simp] theorem exec_mor (rd : MReg) (ra : MReg) (rb : MReg) (s : State) : exec (.mor rd ra rb) s = execMor rd ra rb s := rfl
@[simp] theorem exec_mnot (rd : MReg) (ra : MReg) (s : State) : exec (.mnot rd ra) s = execMnot rd ra s := rfl
@[simp] theorem exec_mpop (rd : XReg) (ra : MReg) (s : State) : exec (.mpop rd ra) s = execMpop rd ra s := rfl
@[simp] theorem exec_vfmaF64 (rd : VReg) (ra : VReg) (rb : VReg) (rc : VReg) (rm : Rm) (mk : MReg) (s : State) : exec (.vfmaF64 rd ra rb rc rm mk) s = execVfmaF64 rd ra rb rc rm mk s := rfl
@[simp] theorem exec_vfmaF32 (rd : VReg) (ra : VReg) (rb : VReg) (rc : VReg) (rm : Rm) (mk : MReg) (s : State) : exec (.vfmaF32 rd ra rb rc rm mk) s = execVfmaF32 rd ra rb rc rm mk s := rfl
@[simp] theorem exec_vfmaBf16 (rd : VReg) (ra : VReg) (rb : VReg) (rc : VReg) (rm : Rm) (mk : MReg) (s : State) : exec (.vfmaBf16 rd ra rb rc rm mk) s = execVfmaBf16 rd ra rb rc rm mk s := rfl
@[simp] theorem exec_vfmsF64 (rd : VReg) (ra : VReg) (rb : VReg) (rc : VReg) (rm : Rm) (mk : MReg) (s : State) : exec (.vfmsF64 rd ra rb rc rm mk) s = execVfmsF64 rd ra rb rc rm mk s := rfl
@[simp] theorem exec_vfmsF32 (rd : VReg) (ra : VReg) (rb : VReg) (rc : VReg) (rm : Rm) (mk : MReg) (s : State) : exec (.vfmsF32 rd ra rb rc rm mk) s = execVfmsF32 rd ra rb rc rm mk s := rfl
@[simp] theorem exec_vfmsBf16 (rd : VReg) (ra : VReg) (rb : VReg) (rc : VReg) (rm : Rm) (mk : MReg) (s : State) : exec (.vfmsBf16 rd ra rb rc rm mk) s = execVfmsBf16 rd ra rb rc rm mk s := rfl
@[simp] theorem exec_vfnmaF64 (rd : VReg) (ra : VReg) (rb : VReg) (rc : VReg) (rm : Rm) (mk : MReg) (s : State) : exec (.vfnmaF64 rd ra rb rc rm mk) s = execVfnmaF64 rd ra rb rc rm mk s := rfl
@[simp] theorem exec_vfnmaF32 (rd : VReg) (ra : VReg) (rb : VReg) (rc : VReg) (rm : Rm) (mk : MReg) (s : State) : exec (.vfnmaF32 rd ra rb rc rm mk) s = execVfnmaF32 rd ra rb rc rm mk s := rfl
@[simp] theorem exec_vfnmaBf16 (rd : VReg) (ra : VReg) (rb : VReg) (rc : VReg) (rm : Rm) (mk : MReg) (s : State) : exec (.vfnmaBf16 rd ra rb rc rm mk) s = execVfnmaBf16 rd ra rb rc rm mk s := rfl
@[simp] theorem exec_vfnmsF64 (rd : VReg) (ra : VReg) (rb : VReg) (rc : VReg) (rm : Rm) (mk : MReg) (s : State) : exec (.vfnmsF64 rd ra rb rc rm mk) s = execVfnmsF64 rd ra rb rc rm mk s := rfl
@[simp] theorem exec_vfnmsF32 (rd : VReg) (ra : VReg) (rb : VReg) (rc : VReg) (rm : Rm) (mk : MReg) (s : State) : exec (.vfnmsF32 rd ra rb rc rm mk) s = execVfnmsF32 rd ra rb rc rm mk s := rfl
@[simp] theorem exec_vfnmsBf16 (rd : VReg) (ra : VReg) (rb : VReg) (rc : VReg) (rm : Rm) (mk : MReg) (s : State) : exec (.vfnmsBf16 rd ra rb rc rm mk) s = execVfnmsBf16 rd ra rb rc rm mk s := rfl
@[simp] theorem exec_powerOn (fail : Option (Nat × Nat)) (s : State) : exec (.powerOn fail) s = execPowerOn fail s := rfl
@[simp] theorem exec_enqAppend (core : Nat) (str : Nat) (s : State) : exec (.enqAppend core str) s = execEnqAppend core str s := rfl
@[simp] theorem exec_mxLoadb (core : Nat) (s : State) : exec (.mxLoadb core) s = execMxLoadb core s := rfl
@[simp] theorem exec_mxRows (core : Nat) (s : State) : exec (.mxRows core) s = execMxRows core s := rfl
@[simp] theorem exec_mxDrain (core : Nat) (s : State) : exec (.mxDrain core) s = execMxDrain core s := rfl
@[simp] theorem exec_mxZero (core : Nat) (s : State) : exec (.mxZero core) s = execMxZero core s := rfl
@[simp] theorem exec_mxChkrd (core : Nat) (s : State) : exec (.mxChkrd core) s = execMxChkrd core s := rfl
@[simp] theorem exec_bcCopy (core : Nat) (s : State) : exec (.bcCopy core) s = execBcCopy core s := rfl
@[simp] theorem exec_bcFill (core : Nat) (s : State) : exec (.bcFill core) s = execBcFill core s := rfl
@[simp] theorem exec_crShaInit (s : State) : exec (.crShaInit) s = execCrShaInit s := rfl
@[simp] theorem exec_crShaUpdate (s : State) : exec (.crShaUpdate) s = execCrShaUpdate s := rfl
@[simp] theorem exec_crShaFinal (s : State) : exec (.crShaFinal) s = execCrShaFinal s := rfl
@[simp] theorem exec_crEcv (s : State) : exec (.crEcv) s = execCrEcv s := rfl
@[simp] theorem exec_crRng (healthy : Bool) (s : State) : exec (.crRng healthy) s = execCrRng healthy s := rfl
@[simp] theorem exec_engineCompletion (core : Nat) (eng : Engine) (s : State) : exec (.engineCompletion core eng) s = execEngineCompletion core eng s := rfl
@[simp] theorem exec_storeAcknowledgement (core : Nat) (str : Nat) (ix : Nat) (ev : Nat) (s : State) : exec (.storeAcknowledgement core str ix ev) s = execStoreAcknowledgement core str ix ev s := rfl
@[simp] theorem exec_loadResponse (core : Nat) (str : Nat) (ix : Nat) (ev : Nat) (resp : Resp) (s : State) : exec (.loadResponse core str ix ev resp) s = execLoadResponse core str ix ev resp s := rfl
@[simp] theorem exec_errorResponse (core : Nat) (str : Nat) (ix : Nat) (isLoad : Bool) (window : Bool) (s : State) : exec (.errorResponse core str ix isLoad window) s = execErrorResponse core str ix isLoad window s := rfl
@[simp] theorem exec_tlbWalk (core : Nat) (s : State) : exec (.tlbWalk core) s = execTlbWalk core s := rfl
@[simp] theorem exec_plbSearch (core : Nat) (s : State) : exec (.plbSearch core) s = execPlbSearch core s := rfl
@[simp] theorem exec_rightsRequest (part : Nat) (s : State) : exec (.rightsRequest part) s = execRightsRequest part s := rfl
@[simp] theorem exec_hold (core : Nat) (s : State) : exec (.hold core) s = execHold core s := rfl
@[simp] theorem exec_holdAcknowledge (core : Nat) (s : State) : exec (.holdAcknowledge core) s = execHoldAcknowledge core s := rfl
@[simp] theorem exec_rightsTableWrite (part : Nat) (s : State) : exec (.rightsTableWrite part) s = execRightsTableWrite part s := rfl
@[simp] theorem exec_release (part : Nat) (s : State) : exec (.release part) s = execRelease part s := rfl
@[simp] theorem exec_messageArrival (ix : Nat) (tagOk : Bool) (s : State) : exec (.messageArrival ix tagOk) s = execMessageArrival ix tagOk s := rfl
@[simp] theorem exec_armArrival (ix : Nat) (tagOk : Bool) (s : State) : exec (.armArrival ix tagOk) s = execArmArrival ix tagOk s := rfl
@[simp] theorem exec_nack (ix : Nat) (s : State) : exec (.nack ix) s = execNack ix s := rfl
@[simp] theorem exec_responseTimeout (core : Nat) (str : Nat) (ix : Nat) (isLoad : Bool) (s : State) : exec (.responseTimeout core str ix isLoad) s = execResponseTimeout core str ix isLoad s := rfl
@[simp] theorem exec_recordSelection (core : Nat) (str : Nat) (s : State) : exec (.recordSelection core str) s = execRecordSelection core str s := rfl
@[simp] theorem exec_recordAgeing (core : Nat) (ix : Nat) (s : State) : exec (.recordAgeing core ix) s = execRecordAgeing core ix s := rfl
@[simp] theorem exec_replay (launch : Nat) (s : State) : exec (.replay launch) s = execReplay launch s := rfl
@[simp] theorem exec_streamElementRead (core : Nat) (str : Nat) (st : Nat) (ix : Nat) (s : State) : exec (.streamElementRead core str st ix) s = execStreamElementRead core str st ix s := rfl
@[simp] theorem exec_streamPushPerform (core : Nat) (str : Nat) (st : Nat) (ix : Nat) (s : State) : exec (.streamPushPerform core str st ix) s = execStreamPushPerform core str st ix s := rfl
@[simp] theorem exec_launchRecordRead (vf : Nat) (record : Option (BitVec 1024)) (s : State) : exec (.launchRecordRead vf record) s = execLaunchRecordRead vf record s := rfl
@[simp] theorem exec_startMessage (launch : Nat) (s : State) : exec (.startMessage launch) s = execStartMessage launch s := rfl
@[simp] theorem exec_launchEnd (part : Nat) (ix : Nat) (s : State) : exec (.launchEnd part ix) s = execLaunchEnd part ix s := rfl
@[simp] theorem exec_completionRecordWrite (launch : Nat) (s : State) : exec (.completionRecordWrite launch) s = execCompletionRecordWrite launch s := rfl
@[simp] theorem exec_quantumExpiry (part : Nat) (s : State) : exec (.quantumExpiry part) s = execQuantumExpiry part s := rfl
@[simp] theorem exec_switch (core : Nat) (s : State) : exec (.switch core) s = execSwitch core s := rfl
@[simp] theorem exec_go (core : Nat) (s : State) : exec (.go core) s = execGo core s := rfl
@[simp] theorem exec_quantumStart (part : Nat) (s : State) : exec (.quantumStart part) s = execQuantumStart part s := rfl
@[simp] theorem exec_noticePost (core : Nat) (str : Nat) (ix : Nat) (s : State) : exec (.noticePost core str ix) s = execNoticePost core str ix s := rfl
@[simp] theorem exec_eventEntryWrite (vf : Nat) (sendable : Bool) (s : State) : exec (.eventEntryWrite vf sendable) s = execEventEntryWrite vf sendable s := rfl
@[simp] theorem exec_poisonNotice (part : Nat) (s : State) : exec (.poisonNotice part) s = execPoisonNotice part s := rfl
@[simp] theorem exec_noticeTrap (part : Nat) (s : State) : exec (.noticeTrap part) s = execNoticeTrap part s := rfl
@[simp] theorem exec_patrolScrub (home : Place) (result : Scrub) (s : State) : exec (.patrolScrub home result) s = execPatrolScrub home result s := rfl
@[simp] theorem exec_monitorFaultReport (core : Nat) (s : State) : exec (.monitorFaultReport core) s = execMonitorFaultReport core s := rfl
@[simp] theorem exec_resetDrainComplete (part : Nat) (image : Option (List Byte)) (s : State) : exec (.resetDrainComplete part image) s = execResetDrainComplete part image s := rfl
@[simp] theorem exec_pmcmdUnknownOp (s : State) : exec (.pmcmdUnknownOp) s = execPmcmdUnknownOp s := rfl
@[simp] theorem exec_create (image : Option (List Byte)) (s : State) : exec (.create image) s = execCreate image s := rfl
@[simp] theorem exec_granuleGive (s : State) : exec (.granuleGive) s = execGranuleGive s := rfl
@[simp] theorem exec_granuleTake (s : State) : exec (.granuleTake) s = execGranuleTake s := rfl
@[simp] theorem exec_bindvf (s : State) : exec (.bindvf) s = execBindvf s := rfl
@[simp] theorem exec_unbindvf (s : State) : exec (.unbindvf) s = execUnbindvf s := rfl
@[simp] theorem exec_shadowpool (s : State) : exec (.shadowpool) s = execShadowpool s := rfl
@[simp] theorem exec_domainAdd (peerAdded : Bool) (s : State) : exec (.domainAdd peerAdded) s = execDomainAdd peerAdded s := rfl
@[simp] theorem exec_domainRemove (s : State) : exec (.domainRemove) s = execDomainRemove s := rfl
@[simp] theorem exec_domainMemberActive (part : Nat) (q : Nat) (s : State) : exec (.domainMemberActive part q) s = execDomainMemberActive part q s := rfl
@[simp] theorem exec_start (s : State) : exec (.start) s = execStart s := rfl
@[simp] theorem exec_stop (s : State) : exec (.stop) s = execStop s := rfl
@[simp] theorem exec_reset (s : State) : exec (.reset) s = execReset s := rfl
@[simp] theorem exec_teardown (s : State) : exec (.teardown) s = execTeardown s := rfl
@[simp] theorem exec_resetvf (s : State) : exec (.resetvf) s = execResetvf s := rfl
@[simp] theorem exec_quantumTableWrite (part : Nat) (i : Nat) (val : Word) (s : State) : exec (.quantumTableWrite part i val) s = execQuantumTableWrite part i val s := rfl
@[simp] theorem exec_lrdbWrite (vf : Nat) (val : Word) (s : State) : exec (.lrdbWrite vf val) s = execLrdbWrite vf val s := rfl
@[simp] theorem exec_erdbWrite (vf : Nat) (val : Word) (s : State) : exec (.erdbWrite vf val) s = execErdbWrite vf val s := rfl
@[simp] theorem exec_lrcfgWrite (vf : Nat) (val : Word) (s : State) : exec (.lrcfgWrite vf val) s = execLrcfgWrite vf val s := rfl
@[simp] theorem exec_ercfgWrite (vf : Nat) (val : Word) (s : State) : exec (.ercfgWrite vf val) s = execErcfgWrite vf val s := rfl
@[simp] theorem exec_hmsgPost (vf : Nat) (size : Nat) (data : BitVec 512) (s : State) : exec (.hmsgPost vf size data) s = execHmsgPost vf size data s := rfl
@[simp] theorem exec_agreplyWrite (vf : Nat) (data : BitVec 256) (s : State) : exec (.agreplyWrite vf data) s = execAgreplyWrite vf data s := rfl
@[simp] theorem exec_agentTimeout (vf : Nat) (id : Nat) (s : State) : exec (.agentTimeout vf id) s = execAgentTimeout vf id s := rfl
@[simp] theorem exec_registerWrite (fn : Nat) (off : Nat) (op : RegOp) (s : State) : exec (.registerWrite fn off op) s = execRegisterWrite fn off op s := rfl
@[simp] theorem exec_configurationWrite (fn : Nat) (field : CfgField) (val : Word) (s : State) : exec (.configurationWrite fn field val) s = execConfigurationWrite fn field val s := rfl
@[simp] theorem exec_lockInterface (vf : Nat) (s : State) : exec (.lockInterface vf) s = execLockInterface vf s := rfl
@[simp] theorem exec_startInterface (vf : Nat) (s : State) : exec (.startInterface vf) s = execStartInterface vf s := rfl
@[simp] theorem exec_stopInterface (vf : Nat) (s : State) : exec (.stopInterface vf) s = execStopInterface vf s := rfl
@[simp] theorem exec_ideIntegrityFailure (fn : Nat) (stream : Nat) (s : State) : exec (.ideIntegrityFailure fn stream) s = execIdeIntegrityFailure fn stream s := rfl
@[simp] theorem exec_atsTranslationCompletion (vf : Nat) (page : AtsPage) (reads : Bool) (writes : Bool) (s : State) : exec (.atsTranslationCompletion vf page reads writes) s = execAtsTranslationCompletion vf page reads writes s := rfl
@[simp] theorem exec_pageRequestGroupResponse (vf : Nat) (slot : Nat) (incarn : Nat) (success : Bool) (s : State) : exec (.pageRequestGroupResponse vf slot incarn success) s = execPageRequestGroupResponse vf slot incarn success s := rfl
@[simp] theorem exec_atsInvalidateRequest (vf : Nat) (iova : Nat) (len : Nat) (s : State) : exec (.atsInvalidateRequest vf iova len) s = execAtsInvalidateRequest vf iova len s := rfl
@[simp] theorem exec_hostCompletion (id : Nat) (status : CplStatus) (data : BitVec 256) (s : State) : exec (.hostCompletion id status data) s = execHostCompletion id status data s := rfl
@[simp] theorem exec_completionTimeout (id : Nat) (s : State) : exec (.completionTimeout id) s = execCompletionTimeout id s := rfl
@[simp] theorem exec_novinoRequest (part : Nat) (q : Nat) (off : Nat) (size : Nat) (kind : RemKind) (data : BitVec 256) (s : State) : exec (.novinoRequest part q off size kind data) s = execNovinoRequest part q off size kind data s := rfl
@[simp] theorem exec_rekey (part : Nat) (q : Nat) (s : State) : exec (.rekey part q) s = execRekey part q s := rfl
@[simp] theorem exec_getVersion (fn : Nat) (s : State) : exec (.getVersion fn) s = execGetVersion fn s := rfl
@[simp] theorem exec_getCapabilities (fn : Nat) (ver : Nat) (s : State) : exec (.getCapabilities fn ver) s = execGetCapabilities fn ver s := rfl
@[simp] theorem exec_negotiateAlgorithms (fn : Nat) (ver : Nat) (s : State) : exec (.negotiateAlgorithms fn ver) s = execNegotiateAlgorithms fn ver s := rfl
@[simp] theorem exec_getDigests (fn : Nat) (ver : Nat) (s : State) : exec (.getDigests fn ver) s = execGetDigests fn ver s := rfl
@[simp] theorem exec_getCertificate (fn : Nat) (ver : Nat) (off : Nat) (len : Nat) (s : State) : exec (.getCertificate fn ver off len) s = execGetCertificate fn ver off len s := rfl
@[simp] theorem exec_challenge (fn : Nat) (ver : Nat) (nonce : BitVec 256) (s : State) : exec (.challenge fn ver nonce) s = execChallenge fn ver nonce s := rfl
@[simp] theorem exec_getMeasurements (fn : Nat) (ver : Nat) (index : Nat) (nonce : BitVec 256) (s : State) : exec (.getMeasurements fn ver index nonce) s = execGetMeasurements fn ver index nonce s := rfl
@[simp] theorem exec_keyExchange (fn : Nat) (ver : Nat) (data : BitVec 256) (s : State) : exec (.keyExchange fn ver data) s = execKeyExchange fn ver data s := rfl
@[simp] theorem exec_finish (fn : Nat) (ver : Nat) (data : BitVec 256) (s : State) : exec (.finish fn ver data) s = execFinish fn ver data s := rfl
@[simp] theorem exec_endSession (fn : Nat) (ver : Nat) (s : State) : exec (.endSession fn ver) s = execEndSession fn ver s := rfl
@[simp] theorem exec_unsupportedSpdmRequest (fn : Nat) (code : Nat) (s : State) : exec (.unsupportedSpdmRequest fn code) s = execUnsupportedSpdmRequest fn code s := rfl
@[simp] theorem exec_wearSample (samples : List (Nat × Nat × Nat)) (s : State) : exec (.wearSample samples) s = execWearSample samples s := rfl
@[simp] theorem exec_stressFactorUpdate (core : Nat) (v : BitVec 16) (s : State) : exec (.stressFactorUpdate core v) s = execStressFactorUpdate core v s := rfl
@[simp] theorem exec_lifetimeRecordWrite (s : State) : exec (.lifetimeRecordWrite) s = execLifetimeRecordWrite s := rfl
@[simp] theorem exec_throttle (core : Nat) (on : Bool) (s : State) : exec (.throttle core on) s = execThrottle core on s := rfl
@[simp] theorem exec_thermalTrip (core : Nat) (s : State) : exec (.thermalTrip core) s = execThermalTrip core s := rfl
@[simp] theorem exec_fundamentalReset (s : State) : exec (.fundamentalReset) s = execFundamentalReset s := rfl
@[simp] theorem exec_illegalEncoding (w : BitVec 32) (s : State) : exec (.illegalEncoding w) s = execIllegalEncoding w s := rfl
@[simp] theorem exec_orderlyShutdown (s : State) : exec (.orderlyShutdown) s = execOrderlyShutdown s := rfl
@[simp] theorem exec_powerLoss (s : State) : exec (.powerLoss) s = execPowerLoss s := rfl
@[simp] theorem exec_linkTraining (port : Nat) (version : Nat) (s : State) : exec (.linkTraining port version) s = execLinkTraining port version s := rfl
@[simp] theorem exec_ideKmKeyProg (fn : Nat) (stream : Nat) (s : State) : exec (.ideKmKeyProg fn stream) s = execIdeKmKeyProg fn stream s := rfl

end Sys2Proof.Laws
end

