-- ==== Sys2Proof/Tests/Slice0.lean ====
section
/-! SUPPORT. Tests: ill-formed terms, words of each family written out from the spec, and for every statement with hypotheses a state
and operands that meet them, with what the step then answers there. Expected results come from the spec's rules, worked by hand. -/

open Sys2Proof Sys2Proof.Machine Sys2Proof.Claims

namespace Sys2Proof.Tests

set_option Elab.async false

/-! ## A small world -/

/-- The record by which the activation of the world was selected. -/
def rec0 : Rec :=
  { launch := 5, hid := 1, key := 0x33, op := 0, src := 0, payload := 0, count := 0, armed := false, c := false, flags := 0, wrap := 0,
    nc := false, redo := 0, since := 0, ord := 0, spill := none }

/-- An activation of launch 5 that has not committed early. -/
def act0 : Activation :=
  { id := 1, launch := 5, trig := rec0, epri := 0, ec := false, rst := false, outbox := [], journal := [], jmarks := [], mask0 := none }

/-- A running string of the launch, owner 7, at 0x1000. -/
def str0 : Str := { Str.init with run := .running, pc := 0x1000, owner := 7, act := some act0 }

/-- The launch: one core, one window of 8 KiB, 16 strings' worth of nothing else; handlers 1, 5, 62 and 63 are there. -/
def launch0 : Launch :=
  { Launch.init with
    serial := 9, vf := 1, part := 0, phase := .running, place := [0], pblocks := [],
    record := BitVec.ofNat 1024 (7 * 2 ^ 16 + 0x12345678 * 2 ^ 32 + 0x4000 * 2 ^ 64 + 1 * 2 ^ 320 + 2 * 2 ^ 344 + 1 * 2 ^ 640),
    handlers := BitVec.ofNat 4096 ((2 ^ 32 + 2 ^ 36 + 0x40) * 2 ^ 64 + 2 ^ 32 * 2 ^ 320 + 2 ^ 32 * 2 ^ 3968 + 2 ^ 32 * 2 ^ 4032) }

/-- The launch on its core. -/
def on0 : OnCore := { lcore := 0, wbase := 0x1000, strs := [0, 1], mask := 0x2, mxcorr := 0, opcnt := 0, wearu := 0 }

/-- Translation and rights of one 2 MiB page of package memory at pointer 0, for owner 7. -/
def tlb0 : TlbEntry := { va := 0, size := 0x200000, target := 0, host := false, home := false, hcl := 0 }
/-- See `tlb0`. -/
def plb0 (o : Nat) : PlbEntry :=
  { owner := o, entry := { base := 0, len := 0x200000, pkg := 0, colour := 0, rights := 15, q := false, grantor := 0 } }

/-- A core of partition 0 that runs VF 1. -/
def core0 (t : Str) : Core :=
  { Core.init with
    part := some 0, vf := some 1, strs := [(0, t)], res := [(5, on0)], tlb := [tlb0], plb := [plb0 7, plb0 0],
    mentry := 0x8000 }

/-- A running partition with one cluster and one granule. -/
def part0 : Partition := { Partition.init with pstate := .running, ownlim := 4, clusters := [0], granules := [0, 1], home := 0x4000000, root := 0x4010000 }

/-- The world, with string 0 of core 0 as given. -/
def world (t : Str) : State :=
  { State.reset with
    inputs := [], cores := [(0, core0 t)], parts := [(0, part0)], launches := [(5, launch0)],
    vfs := [(1, { Vf.init with part := some 0 })], dev := { Device.init with rdy := true } }

/-- Registers of a string. -/
def withX (t : Str) (l : List (Nat × Word)) : Str := l.foldl (fun t p => t.setX (BitVec.ofNat 5 p.1) p.2) t

/-- The answer is a next state that passes a test. -/
def next (o : Out1) (f : State → Bool) : Bool :=
  match o with
  | .next u => f u
  | _ => false

/-- A computation goes through with an answer that passes a test. -/
def okWith {α : Type} (x : Except Stop (α × State)) (f : α → State → Bool) : Bool :=
  match x with
  | .ok (a, s) => f a s
  | .error _ => false

/-- The instruction completes as `t`, with memory as it was. -/
def gave (i : Instr) (s : State) (t : Str) : Bool := next (exec i s) (fun u => u.curStr = retired t ∧ u.mem = s.mem)

/-- The same, with control at `pc`. -/
def went (i : Instr) (s : State) (t : Str) (pc : Word) : Bool :=
  next (exec i s) (fun u => u.curStr = { retired t with pc := pc } ∧ u.mem = s.mem)

/-- The instruction traps with a code, a detail and a value. -/
def traps (i : Instr) (s : State) (code detail : Nat) (val : Word) : Bool :=
  next (exec i s) (fun u => u.curStr.lvl = 1 ∧ u.curStr.trapc.toNat = detail * 256 + code ∧ u.curStr.trapv = val ∧ u.mem = s.mem)

/-- The world with two or more registers of its string set. -/
def at2 (l : List (Nat × Word)) : State := world (withX str0 l)

/-- Nothing of the string is outstanding. -/
def calm (s : State) : Bool := s.curStr.lds.isEmpty

/-- X3 after an instruction that retires. -/
def x3 (i : Instr) (s : State) (v : Word) : Bool := gave i s (s.curStr.setX 3 v)

/-- A package whose string is about to issue the word at its pc. -/
def about (w : Nat) : State := { at2 [(1, 5), (2, 7)] with turn := some (.issue 0 0), mem := Memory.putNum [] 0x1000 4 w }

/-- A string in monitor mode. -/
def mon0 : Str := { str0 with lvl := 1, owner := 0, trappc := 0x2000 }
/-- A string with a restartable activation. -/
def rst0 : Str := { str0 with act := some { act0 with rst := true, journal := [(0x40, 0x77)] } }

/-- A world with a string and some bytes of memory. -/
def withMem (t : Str) (l : List (Nat × Nat × Nat)) : State := { world t with mem := l.foldl (fun m x => m.putNum x.1 x.2.1 x.2.2) [] }

/-- A store of 0x55 to byte 3 of sector 0x40. -/
def store0 : Store :=
  { seq := 0, evs := [⟨.phys 0x40, [(3, 0)]⟩], data := 0x55, near := true, rel := none, owner := 7, ptr := 0x43, launch := some 5 }
/-- A load of four bytes of sector 0x40. -/
def load0 : Load :=
  { seq := 0, dst := .x 3 .w, evs := [⟨.phys 0x40, [(4, 0), (5, 1), (6, 2), (7, 3)]⟩], got := [], bad := none, flags := 0, near := true,
    acq := none, owner := 7, ptr := 0x44, pc := 0xFFC }

/-- A string that has committed early. -/
def ec0 : Str := { str0 with act := some { act0 with ec := true } }

/-- V registers of a string, and M1 = 5. -/
def withV (l : List (Nat × Nat)) : Str :=
  { l.foldl (fun t p => t.setV (BitVec.ofNat 5 p.1) (BitVec.ofNat 512 p.2)) str0 with m := str0.m.set 1 5 }

/-- The instruction completes and leaves a V register as a number. -/
def vres (i : Instr) (s : State) (r : VReg) (v : Nat) : Bool :=
  next (exec i s) (fun u => u.curStr = retired (s.curStr.setV r (BitVec.ofNat 512 v)) ∧ u.mem = s.mem)

/-- A word in every 32-bit element. -/
def rep32 (n : Nat) : Nat := (List.range 16).foldl (fun a _ => a * 2 ^ 32 + n) 0

/-- A stream of three elements, 64 bytes apart, from pointer 0x100 on. -/
def strm0 : Stream :=
  { dst := false, base := 0x100, strides := #v[64, 0, 0, 0, 0], extents := #v[3, 1, 1, 1, 1], owner := 7, pos := 0, fetched := [], pushes := [] }
/-- A string with a stream bound to S0. -/
def withS (x : Stream) : Str := { withV [(2, 5)] with st := str0.st.set 0 (some x) }

/-- A world whose string has registers, and whose ring 3 is as given. -/
def withRing (t : Str) (r : Ring) : State := (world t).modCore 0 (fun co => { co with rings := [(3, r)] })

/-- A ring of four slots that has two to wait for, slot 6 filled. -/
def ring0 : Ring := { v := true, s := 2, l := 6, a := 8, filled := [2], pend := 0 }

/-- A descriptor of three elements, 64 bytes apart, from 0x100. -/
def desc0 : Nat := 0x100 + 64 * 2 ^ 64 + 3 * 2 ^ 224 + 2 ^ 240 + 2 ^ 256 + 2 ^ 272 + 2 ^ 288

/-- Memory in which owner 7 has one entry of the rights given, and owner 9 none. -/
def dir0 (rights : Nat) : Memory :=
  (Memory.putNum (Memory.putNum (Memory.putNum [] (0x4000000 + 0x1000 + 16 * 7) 16 (0x4020000 + 8 * 2 ^ 64 + 2 ^ 80 + 2 ^ 96))
    (0x4000000 + 0x1000 + 16 * 9) 16 (0x4030000 + 8 * 2 ^ 64 + 2 ^ 80 + 2 ^ 96)) 0x4020000 32 (2 ^ 64 * 0x1000 + 0x2A * 2 ^ 128 + rights * 2 ^ 136 + 3 * 2 ^ 144)).putNum
    0x4030000 32 (2 ^ 64 * 0x100 + 1 * 2 ^ 136 + 7 * 2 ^ 144)

/-- Tables in which virtual address 0x40000000 is a 1 GiB leaf at physical 0, through a table of level 3. -/
def table0 : Memory := (Memory.putNum [] 0x4010000 8 (3 + 0x4012000)).putNum 0x4012008 8 1

/-- A world in which sector `k`, of a line that has been written, is bad. -/
def withBad (s : State) (k : Nat) (m : Poison) : State := { s with bad := [(k, m)], ctrs := [(ctrKey 0 (32 * k), 1)] }

/-! ## Ill-formed terms: one for each check of `WellFormed` -/

theorem test_ill_formed_words :
    [Instr.csrr 1 0xFFF, .csrw 1 2 0x015, .csrs 1 2 0x008, .csrc 1 2 0x054, .vcvtFpFp 1 2 0 1 .f32 .f32 .rne,
     .vcvtFpFp 1 2 3 1 .f32 .f64 .rne, .amoAddD 1 2 .pkg .plain 0, .amoSwapW 1 2 .sys .plain 0, .famoAddD 1 2 .core .plain 0,
     .casW 1 2 .die .plain 0, .casD 3 2 .die .plain 0, .casQ 2 2 .die .plain 0, .fence 0 .die, .send 2 1 3 false 0 1, .endl 1 .ok,
     .fxcvt 1 2 .rne, .vcmpFp .f32 0 1 2 1 .eq, .vcmpEq 0 1 2 1 .b, .vcmpNe 0 1 2 1 .b, .vcmpLt 0 1 2 1 .b, .vcmpLe 0 1 2 1 .b,
     .vcmpLtu 0 1 2 1 .b, .vcmpLeu 0 1 2 1 .b, .mand 0 1 2, .mor 0 1 2, .mnot 0 1].all (fun i => !WellFormed i) = true := by
  decide +kernel

theorem test_ill_formed_steps :
    [Instr.mxZero 4097, .enqAppend 0 4, .launchEnd 16 0, .launchRecordRead 0 none, .lrdbWrite 257 0, .getVersion 257, .rekey 0 1024,
     .domainMemberActive 16 1].all (fun i => !WellFormed i) = true := by decide +kernel

/-! ## Words, written out field by field from the encodings of the spec (R231 to R249) -/

theorem test_word_integer : decodeWord 0b000001_00011_00001_00010_00000000001 = .ok (.sub 3 1 2)
    ∧ decodeWord 0b000001_00011_00001_11110_0_0_1_00_100010 = .ok (.srai 3 1 62) := by decide +kernel
theorem test_word_immediate : decodeWord 0b000010_00011_00001_1111111111111110 = .ok (.addi 3 1 0xFFFE)
    ∧ decodeWord 0b001000_00011_00_1_10_1000000000000001 = .ok (.lis 3 2 0x8001) := by decide +kernel
theorem test_word_literal : decodeWord 0b001010_00111_10_1111111111111111111 = .ok (.ldlv 7 0x7FFFF) := by decide +kernel
theorem test_word_jump : decodeWord 0b001011_00001_100000000000000000001 = .ok (.jal 1 0x100001)
    ∧ decodeWord 0b010010_00001_00010_1000000000000000 = .ok (.blt 1 2 0x8000) := by decide +kernel
theorem test_word_scalar_fp : decodeWord 0b001101_00011_00001_00010_010_0000000_1 = .ok (.fadd 3 1 2 .rtz .d)
    ∧ decodeWord 0b001110_00011_00001_00010_00100_001_00_0 = .ok (.ffma 3 1 2 4 .rne .s) := by decide +kernel
theorem test_word_control_register : decodeWord 0b001111_00011_00001_0001_000000010011 = .ok (.csrw 3 1 0x013) := by decide +kernel
theorem test_word_conversion : decodeWord 0b010110_00011_00001_00000_001_10_01_000_0 = .ok (.vcvtFpFp 3 1 0 1 .bf16 .f32 .dyn) := by
  decide +kernel
theorem test_word_load_store : decodeWord 0b011101_00011_00001_1111111111111111 = .ok (.ldHu 3 1 0xFFFF)
    ∧ decodeWord 0b100010_00011_00001_0000000000000100 = .ok (.stW 3 1 4) := by decide +kernel
theorem test_word_ordered : decodeWord 0b100100_00011_00001_1011_010_10_0000001 = .ok (.stRel 3 1 .d .pkg 1) := by decide +kernel
theorem test_word_atomic : decodeWord 0b100101_00011_00001_1000_001_00_1111111 = .ok (.amoSwapD 3 1 .die .plain 0x7F)
    ∧ decodeWord 0b100110_00100_00001_1011_001_11_0000000 = .ok (.casQ 4 1 .die .ar 0) := by decide +kernel
theorem test_word_order : decodeWord 0b101000_000001_000010_000011_111111_00 = .ok (.wait 1 2 3 63) := by decide +kernel
theorem test_word_message : decodeWord 0b101001_00100_00001_00010_1_1001_000101 = .ok (.send 4 1 2 true 9 5)
    ∧ decodeWord 0b101011_00100_00001_00010_0_0001_000101 = .ok (.arm 4 1 2 1 5) := by decide +kernel
theorem test_word_system : decodeWord 0b101100_00000_00001_00000_110_00000001 = .ok (.endl 1 .user)
    ∧ decodeWord 0b101100_00011_00001_00010_00000_100000 = .ok (.rqry 3 1 2) := by decide +kernel
theorem test_word_rights : decodeWord 0b101101_00011_00001_00010_00100_001000 = .ok (.revoke 3 1 2 4) := by decide +kernel
theorem test_word_engine : decodeWord 0b101110_000_00011_00001_1111111111111 = .ok (.enq .mxu 3 1 0x1FFF) := by decide +kernel
theorem test_word_vector_memory : decodeWord 0b101111_00011_00001_00000_001_111_10_000 = .ok (.vstj 3 1 1 .w)
    ∧ decodeWord 0b101111_00011_00001_00010_001_010_10_000 = .ok (.vlds 3 1 2 1 .w) := by decide +kernel
theorem test_word_vector_fp : decodeWord 0b110001_00011_00001_00010_001_00010_010 = .ok (.vmulFp .f32 3 1 2 1 .rtz) := by
  decide +kernel
theorem test_word_vector_integer : decodeWord 0b110011_00011_00001_00010_001_000001_10 = .ok (.vsubInt 3 1 2 1 .w) := by decide +kernel
theorem test_word_vector_fused : decodeWord 0b111001_00011_00001_00010_00100_000_111 = .ok (.vfmsBf16 3 1 2 4 .dyn 7) := by
  decide +kernel

/-! ## States that meet the hypotheses of the statements, and what is answered there -/

theorem test_DecodeOfEncode : WellFormed (.vstj 3 1 1 .w) = true ∧ encode (.vstj 3 1 1 .w) = some 0xBC6101F0 := by decide +kernel

theorem test_EncodeOfDecode : (0x6CA60010 : Nat) < 2 ^ 32 ∧ decodeWord 0x6CA60010 = .ok (.ldD 5 6 0x10) := by decide +kernel

theorem test_StepRunsDecoded : let s := about 0x04611000
    s.turn = some (.issue 0 0) ∧ (s.str 0 0).run = .running ∧ (s.str 0 0).inRights = false
      ∧ okWith (fetch { s with turn := none, tick := s.tick + 1, cur := (0, 0) }) (fun b _ => decode b = .ok (.add 3 1 2, [])) = true
      ∧ next (step s) (fun u => u.curStr.getX 3 = 12) = true := by decide +kernel

theorem test_StepRunsDecoded_illegal : let s := about 0x90000000
    okWith (fetch { s with turn := none, tick := s.tick + 1, cur := (0, 0) }) (fun b u => match decode b with
      | .ok _ => false
      | .error _ => u.curStr.lds.isEmpty) = true
      ∧ next (step s) (fun u => u.curStr.trapc = 1 ∧ u.curStr.pc = 0x8000) = true := by decide +kernel

theorem test_StepKeepsForm : (about 0x04611000).Inv ∧ next (step (about 0x04611000)) (fun _ => true) = true :=
  ⟨⟨by decide +kernel, by decide +kernel⟩, by decide +kernel⟩

theorem test_StepGoesOn : (∀ c, c ∈ (about 0).cores → c.1 ≤ 4096) ∧ (∀ c k, (about 0).turn = some (.issue c k) → c ≤ 4096 ∧ k < 4) := by
  refine ⟨by decide +kernel, fun c k h => ?_⟩
  have : (about 0).turn = some (.issue 0 0) := rfl
  rw [this] at h; cases h; decide

/-! ### Integers -/

theorem test_IntegerResults : let s := at2 [(1, 0xFFFFFFFFFFFFFFFF), (2, 2)]
    calm s = true ∧ x3 (.add 3 1 2) s 1 = true ∧ x3 (.sltu 3 1 2) s 0 = true ∧ x3 (.slt 3 1 2) s 1 = true
      ∧ x3 (.sra 3 1 2) s 0xFFFFFFFFFFFFFFFF = true ∧ x3 (.mulh 3 1 2) s 0xFFFFFFFFFFFFFFFF = true ∧ x3 (.mulhu 3 1 2) s 1 = true
      ∧ x3 (.div 3 1 2) s 0 = true ∧ x3 (.rem 3 1 2) s 0xFFFFFFFFFFFFFFFF = true ∧ x3 (.divu 3 1 2) s 0x7FFFFFFFFFFFFFFF = true
      ∧ x3 (.clz 3 2) s 62 = true ∧ x3 (.ctz 3 2) s 1 = true ∧ x3 (.popc 3 1) s 64 = true := by decide +kernel

theorem test_IntegerResults_by_zero : let s := at2 [(1, 5), (4, 0xFFFFFFFFFFFFFFFB)]
    x3 (.div 3 1 2) s 0x7FFFFFFFFFFFFFFF = true ∧ x3 (.div 3 4 2) s 0x8000000000000000 = true ∧ x3 (.div 3 2 2) s 0 = true
      ∧ x3 (.divu 3 1 2) s 0xFFFFFFFFFFFFFFFF = true ∧ x3 (.rem 3 1 2) s 0 = true := by decide +kernel

theorem test_IntegerResults_overflow : let s := at2 [(1, 0x8000000000000000), (2, 0xFFFFFFFFFFFFFFFF)]
    (s.curStr.getX 1).toInt = -2 ^ 63 ∧ (s.curStr.getX 2).toInt = -1 ∧ x3 (.div 3 1 2) s 0x7FFFFFFFFFFFFFFF = true
      ∧ x3 (.rem 3 1 2) s 0 = true := by decide +kernel

theorem test_ImmediateResults : let s := at2 [(1, 0x2A00000000000010), (2, 0x55), (3, 0xFFFFFFFFFFFFFFFF)]
    calm s = true ∧ x3 (.addi 3 0 0x8000) s 0xFFFFFFFFFFFF8000 = true ∧ x3 (.sltiu 3 1 0xFFFF) s 1 = true
      ∧ x3 (.andi 3 3 0x8001) s 0x8001 = true ∧ x3 (.lis 3 2 0x8000) s 0xFFFF800000000000 = true
      ∧ x3 (.lih 3 1 0x1234) s 0xFFFFFFFF1234FFFF = true ∧ x3 (.lea 3 1 0xFFE0) s 0x2A003FFFFFFFFFF0 = true
      ∧ x3 (.colg 3 1) s 0x2A = true ∧ x3 (.cols 3 1 2) s 0x5500000000000010 = true := by decide +kernel

theorem test_RegistersAndRetire : (withX str0 [(0, 5), (31, 6)]).getX 0 = 0 ∧ (withX str0 [(31, 6)]).getX 31 = 6
    ∧ (withX { str0 with lvl := 1 } [(31, 6)]).x = str0.x := by decide +kernel

theorem test_ControlTransfers : let s := at2 [(1, 0xFFFFFFFFFFFFFFFF), (2, 2), (4, 0x2003)]
    let t := s.curStr
    calm s = true ∧ went (.blt 1 2 0xFFFF) s t 0xFFC = true ∧ went (.bltu 1 2 0xFFFF) s t 0x1004 = true
      ∧ went (.jal 5 0x1FFFFF) s (t.setX 5 0x1004) 0xFFC = true ∧ went (.jalr 5 4 1) s (t.setX 5 0x1004) 0x2004 = true
      ∧ traps (.jalr 5 4 0) s 3 0 0 = true := by decide +kernel

/-! ### Scalar floating point -/

theorem test_ScalarFpResults : let s := at2 [(1, 0x3FF0000000000000), (2, 0x3CA0000000000000), (4, 0xFFFFFFFF7F800001)]
    calm s = true ∧ gave (.fadd 3 1 2 .rup .d) s { s.curStr.setX 3 0x3FF0000000000001 with fflg := 1 } = true
      ∧ gave (.fadd 3 1 2 .rne .d) s { s.curStr.setX 3 0x3FF0000000000000 with fflg := 1 } = true
      ∧ gave (.fadd 3 4 0 .rne .s) s { s.curStr.setX 3 0x7FC00000 with fflg := 16 } = true
      ∧ gave (.fcvtToI64 3 1 .rtz .d) s (s.curStr.setX 3 1) = true := by decide +kernel

theorem test_NaNOperands : fp64.isNan 0x7FF0000000000001 = true ∧ fp32.isSig 0x7F800001 = true ∧ bf16.isNan 0x7FC0 = true
    ∧ fpCmp fp32 .ne 0x7FC00000 0 = (true, 0) := by decide +kernel

theorem test_RoundingToAGrid : (0 : Nat) < 2 ∧ roundGrid 0 false false 5 2 0 0 = (2, true) ∧ roundGrid 3 false false 5 2 0 0 = (3, true)
    ∧ roundGrid 2 true false 5 2 0 0 = (3, true) ∧ roundGrid 1 true false 4 2 0 0 = (2, false) := by decide +kernel

/-! ### Faults and control registers -/

theorem test_FaultsTrap : next (.next ((world str0).fault { code := 0x11, detail := 0, val := 0x40 })) (fun u =>
    u.curStr.trapc = 0x11 ∧ u.curStr.trapv = 0x40 ∧ u.curStr.trappc = 0x1000 ∧ u.curStr.pc = 0x8000 ∧ u.curStr.lvl = 1) = true := by
  decide +kernel

theorem test_FaultsTrap_monitor : let u := (world mon0).fault { code := 0x11, detail := 0, val := 0x40 }
    u.curStr.run = .stopped ∧ u.curCore.monFault = some { code := 0x11, detail := 0, val := 0x40 } ∧ u.curStr.trapc = 0 := by
  decide +kernel

theorem test_PoisonRollsBack : let u := (world rst0).fault { code := 0x20, detail := 0, val := 0x40 }
    u.curStr.run = .free ∧ u.curCore.records.map (·.redo) = [1] ∧ u.mem.get (sliceFlat 0 0x1000) = 0x77 := by decide +kernel

theorem test_MonitorInstructions : let s := world (withX str0 [(1, 0x55)])
    calm s = true ∧ next (exec (.trap 1) s) (fun u => u.curStr.trapc = 0x10000 ∧ u.curStr.trapv = 0x55 ∧ u.curStr.trappc = 0x1004) = true
      ∧ next (exec (.mcall 1) s) (fun u => u.curStr.trapc = 0x20000) = true ∧ traps .eret s 2 0 0 = true ∧ traps .idle s 2 0 0 = true
      ∧ traps .plbinvAll s 2 0 0 = true := by decide +kernel

theorem test_MonitorInstructions_eret :
    next (exec .eret (world mon0)) (fun u => u.curStr.pc = 0x2000 ∧ u.curStr.lvl = 0 ∧ u.curStr.run = .running) = true
      ∧ next (exec .eret (world { mon0 with act := none })) (fun u => u.curStr.run = .free) = true
      ∧ ({ mon0 with act := none } : Str).drained = true
      ∧ next (exec .eret (world { mon0 with trappc := 0x2002 })) (fun u => u.curCore.monFault = some { code := 3, detail := 0, val := 0 }) = true := by
  decide +kernel

theorem test_MonitorInstructions_idle : let w := { mon0 with wait := .idle }
    let s := world w
    let r : State := s.modCore 0 (fun co => { co with records := [rec0] })
    next (exec .idle (world mon0)) (fun u => u.curStr.wait = .idle) = true ∧ next (exec .idle s) (fun u => u = s) = true
      ∧ r.curCore.records.any (·.runnable) = true ∧ next (exec .idle r) (fun u => u.curStr.pc = 0x1004) = true := by decide +kernel

theorem test_ControlRegisterReads : let s := at2 [(1, 0x1F)]
    calm s = true ∧ csrDefined 0xFFF = false ∧ traps (.csrr 3 0xFFF) s 1 0 0 = true ∧ traps (.csrr 3 0x050) s 2 0 0 = true
      ∧ csrDefined 0x000 = true ∧ traps (.csrw 3 1 0x000) s 2 0 0 = true ∧ traps (.csrs 3 1 0x000) s 2 0 0 = true
      ∧ x3 (.csrs 3 0 0x000) s 7 = true ∧ gave (.csrr 3 0x050) (world mon0) (mon0.setX 3 0) = true := by decide +kernel

theorem test_ControlRegisterWrites : let s := at2 [(1, 0xFFFFFFFFFFFFFFFF)]
    let m := world (withX mon0 [(1, 0xFFFFFFFFFFFFFFFF), (2, 9)])
    calm s = true ∧ gave (.csrw 3 1 0x011) s { s.curStr with fflg := 31 } = true ∧ gave (.csrw 3 1 0x014) s { s.curStr with amax := 0x1FFFFFFFF } = true
      ∧ gave (.csrs 3 1 0x011) s { s.curStr with fflg := 31 } = true ∧ gave (.csrw 3 1 0x050) m { m.curStr with trapc := 0x3FFFF } = true
      ∧ 9 < m.ownLimit m.cur.1 ∧ gave (.csrw 3 2 0x000) m { m.curStr with owner := 9 } = true
      ∧ next (exec (.csrw 3 1 0x053) m) (fun u => u.curCore.mentry = 0xFFFFFFFFFFFFFFC0) = true := by decide +kernel

/-! ### Memory -/

/-- What an instruction enters in the load table. -/
def issued (i : Instr) (s : State) (f : Load → Bool) : Bool :=
  next (exec i s) (fun u => u.mem = s.mem ∧ u.curStr.pc = nextPtr s.curStr.pc 4 ∧ u.curStr.x = s.curStr.x
    ∧ (match u.curStr.lds with | [l] => f l | _ => false) = true)

theorem test_ScalarLoads : let s := withMem (withX str0 [(1, 0x40)]) [(0x48, 8, 0x8081828384858687)]
    s.curStr.sb = [] ∧ calm s = true ∧ okWith ((check (dataWho s) .r 0x48 4 4).run s) (fun pl _ => pl = .phys 0x48) = true
      ∧ issued (.ldW 3 1 8) s (fun l => l.dst = .x 3 .w ∧ l.evs = [⟨.phys 0x40, [(8, 0), (9, 1), (10, 2), (11, 3)]⟩] ∧ l.ptr = 0x48
        ∧ l.pc = 0x1000 ∧ l.acq = none) = true
      ∧ issued (.ldAcq 3 1 .d .pkg 1) s (fun l => l.dst = .x 3 .d ∧ l.acq = some .pkg ∧ l.ptr = 0x48) = true
      ∧ traps (.ldW 3 1 6) s 3 0 0x46 = true := by decide +kernel

theorem test_ScalarLoads_forward : let s := world { withX str0 [(1, 0x40)] with sb := [{ store0 with data := 0x85 }] }
    forward s.curStr (evOf (.phys 0x43) 1 0) = some [(0, 0x85)]
      ∧ gave (.ldB 3 1 3) s { s.curStr.setX 3 0xFFFFFFFFFFFFFF85 with seq := 1 } = true
      ∧ gave (.ldBu 3 1 3) s { s.curStr.setX 3 0x85 with seq := 1 } = true := by decide +kernel

theorem test_OutstandingPerform_marked : let s := withBad (world { str0 with lds := [load0] }) 2 .uncorrectable
    s.mark s.curStr.launch 0x40 = some .uncorrectable
      ∧ next (exec (.loadResponse 0 0 0 0 .home) s) (fun u => u.curStr.trapc = 0x21 ∧ u.curStr.trapv = 0x44 ∧ u.curStr.trappc = 0xFFC
        ∧ u.curStr.getX 3 = 0 ∧ u.mark s.curStr.launch 0x40 = some .poisoned) = true := by decide +kernel

theorem test_ScalarStores : let s := at2 [(1, 0x40), (2, 0x1122334455667788)]
    s.curStr.sb.length < 32 ∧ okWith ((check (dataWho s) .w 0x48 4 4).run s) (fun pl _ => pl = .phys 0x48) = true
      ∧ next (exec (.stW 2 1 8) s) (fun u => u.curStr.sb.map (fun e => (e.evs, e.data, e.rel, e.seq)) =
          [([⟨.phys 0x40, [(8, 0), (9, 1), (10, 2), (11, 3)]⟩], 0x1122334455667788, none, 0)] ∧ u.mem = []) = true
      ∧ next (exec (.stRel 2 1 .h .pkg 4) s) (fun u => u.curStr.sb.map (fun e => (e.rel, e.ptr)) = [(some .pkg, 0x48)]) = true
      ∧ traps (.stW 2 1 6) s 3 0 0x46 = true := by decide +kernel

theorem test_OutstandingPerform_store : let s := world { str0 with sb := [store0] }
    storeReady 0 s.curStr 0 0 = true ∧ needsFlush s.curStr store0 ⟨.phys 0x40, [(3, 0)]⟩ = false ∧ s.shadowOf (some 5) = 0
      ∧ s.inSpan 0x40 = false ∧ next (exec (.storeAcknowledgement 0 0 0 0) s) (fun u => u.mem = [(0x43, 0x55)] ∧ u.curStr.sb = []) = true := by
  decide +kernel

theorem test_OutstandingPerform_load : let s := withMem { str0 with lds := [load0] } [(0x44, 4, 0x80000001)]
    badAt s s.curStr.launch 0x40 0x44 = none
      ∧ next (exec (.loadResponse 0 0 0 0 .home) s) (fun u => u.curStr = { s.curStr.setX 3 0xFFFFFFFF80000001 with lds := [] }) = true := by
  decide +kernel

theorem test_OutstandingPerform_vector : let l := { load0 with dst := .v 2 1, evs := [⟨.phys 0x40, [(4, 8), (5, 9)]⟩] }
    let s := withMem { str0 with lds := [l] } [(0x44, 2, 0x1234)]
    next (exec (.loadResponse 0 0 0 0 .home) s) (fun u => (u.curStr.rawV 2).toNat = 0x1234 * 2 ^ 64 ∧ u.curStr.lds = []) = true := by
  decide +kernel

theorem test_LiteralReads : let s := withMem str0 [(0x1008, 8, 0xFFFFFFFF00000002)]
    calm s = true ∧ okWith ((fetchBytes 0x1008 4).run s) (fun b _ => b = [2, 0, 0, 0]) = true
      ∧ x3 (.ldlD 3 1) s 0xFFFFFFFF00000002 = true ∧ x3 (.ldlW 3 1) s 2 = true
      ∧ gave (.ldlv 3 8) (withMem str0 [(0x1040, 1, 7)]) (str0.setV 3 7) = true ∧ str0.streamOf 3 = none
      ∧ traps (.ldlv 3 1) s 3 0 0x1008 = true := by decide +kernel

/-- A word in the sector 0x40 that an atomic of the kind given waits for. -/
def amoing (f : AtomFn) (a b : BitVec 128) : State :=
  withMem { str0 with lds := [{ load0 with dst := .amo 2 f 4 a b 0, evs := [⟨.phys 0x40, [(8, 0), (9, 1), (10, 2), (11, 3)]⟩], ptr := 0x48 }] }
    [(0x48, 4, 0x80000005)]

/-- The atomic has left a word at its home and the old one, sign-extended, in X2. -/
def amoed (f : AtomFn) (a b : BitVec 128) (new : Nat) : Bool :=
  next (exec (.loadResponse 0 0 0 0 .home) (amoing f a b)) (fun u => u.mem.num 0x48 4 = new ∧ u.curStr.getX 2 = 0xFFFFFFFF80000005 ∧ u.curStr.lds = [])

theorem test_Atomics : let s := withMem (withX str0 [(1, 0x40), (2, 3), (4, 0x80000005), (5, 9)]) [(0x48, 4, 0x80000005)]
    calm s = true ∧ s.curStr.sb = [] ∧ s.curStr.hostDirty = false ∧ s.curStr.flush = none
      ∧ okWith ((check (dataWho s) .a 0x48 4 4).run s) (fun pl _ => pl = .phys 0x48) = true
      ∧ issued (.amoAddW 2 1 .die .plain 2) s (fun l => l.dst = .amo 2 .add 4 3 0 0 ∧ l.ptr = 0x48 ∧ l.acq = none ∧ l.rel = none) = true
      ∧ issued (.casW 4 1 .die .ar 2) s (fun l => l.dst = .amo 4 .cas 4 0x80000005 9 0 ∧ l.acq = some .die ∧ l.rel = some .die) = true := by
  decide +kernel

theorem test_Atomics_perform : (amoing .add 3 0).refuses 0 (.phys 0x40) = false ∧ amoed .add 3 0 0x80000008 = true ∧ amoed .min 3 0 0x80000005 = true
    ∧ amoed .minu 3 0 3 = true ∧ amoed .cas 0x80000005 9 9 = true ∧ amoed .cas 5 9 0x80000005 = true ∧ amoed .swap 3 0 3 = true := by decide +kernel

theorem test_Atomics_wide : let l (d : LoadDst) (n : Nat) : Load := { load0 with dst := d, evs := [⟨.phys 0x40, (List.range n).map (fun j => (j, j))⟩] }
    let s := withMem { str0 with lds := [l (.amo 4 .cas 16 (1 + 2 * 2 ^ 64) (3 + 4 * 2 ^ 64) 0) 16] } [(0x40, 16, 1 + 2 * 2 ^ 64)]
    let f := withMem { str0 with lds := [l (.amo 4 .fadd 8 0x3FF0000000000000 0 0) 8] } [(0x40, 8, 0x3FF0000000000000)]
    next (exec (.loadResponse 0 0 0 0 .home) s) (fun u => u.mem.num 0x40 16 = 3 + 4 * 2 ^ 64 ∧ u.curStr.getX 4 = 1 ∧ u.curStr.getX 5 = 2) = true
      ∧ next (exec (.loadResponse 0 0 0 0 .home) f) (fun u => u.mem.num 0x40 8 = 0x4000000000000000 ∧ u.curStr.getX 4 = 0x3FF0000000000000) = true
      ∧ issued (.famoAddD 4 1 .die .rel 0) (withMem (withX str0 [(1, 0x40), (4, 7)]) []) (fun l => l.dst = .amo 4 .fadd 8 7 0 0 ∧ l.rel = some .die) = true := by
  decide +kernel

theorem test_FenceAndWait : let s := world str0
    let d := world { str0 with sb := [store0] }
    let l := world { str0 with lds := [load0] }
    cmdsOpen s 0 0 .die true true = false ∧ inScope 0 .die (.phys 0x40) = true ∧ gave (.fence 8 .die) s s.curStr = true
      ∧ gave (.fence 1 .die) d d.curStr = true ∧ next (exec (.fence 8 .die) d) (fun u => u = d) = true
      ∧ next (exec (.fence 1 .die) l) (fun u => u = l) = true ∧ gave (.fence 8 .die) l l.curStr.passLoads = true
      ∧ counters d.curCore 0 = (0, 1, 0, 0) ∧ gave (.wait 0 1 0 0) d d.curStr = true ∧ gave (.wait 0 63 0 0) d d.curStr = true
      ∧ gave (.wait 63 63 63 63) l l.curStr.passLoads = true ∧ next (exec (.wait 0 0 0 0) d) (fun u => u = d) = true := by decide +kernel

theorem test_FenceAndWait_scope : let s := world { str0 with sb := [{ store0 with evs := [⟨.phys 0x1000000000, [(0, 0)]⟩] }] }
    inScope 0 .core (.phys 0x40) = false ∧ gave (.fence 8 .core) s s.curStr = true := by decide +kernel

theorem test_BarrierCompletes : let s := world ec0
    calm s = true ∧ s.launch 5 = some launch0 ∧ next (exec .bar (world str0)) (fun u => (u.curStr.act.map (·.ec)) = some true ∧ u.curStr.pc = 0x1000) = true
      ∧ next (exec .bar s) (fun u => u.curStr.wait = .bar 0 ∧ u.curStr.pc = 0x1000) = true := by decide +kernel

theorem test_BarrierCompletes_last : let l := { launch0 with barriers := [(0, { gen := 4, arrived := (List.range 16).drop 1 })] }
    let s : State := { world ec0 with launches := [(5, l)] }
    next (exec .bar s) (fun u => u.curStr.pc = 0x1004 ∧ (u.launch 5).map (·.barriers) = some [(0, { gen := 5, arrived := [] })]) = true
      ∧ gave .bar { world { ec0 with wait := .bar 3 } with launches := [(5, l)] } { ec0 with wait := .bar 3 } = true
      ∧ next (exec .bar { world { ec0 with wait := .bar 4 } with launches := [(5, l)] }) (fun u => u.curStr.pc = 0x1000) = true := by decide +kernel

theorem test_VectorMemory : let s := withMem (withX str0 [(1, 0x40), (2, 0x10)]) []
    calm s = true ∧ str0.streamOf 3 = none
      ∧ okWith ((unitAccess .r 0x40 1 4 (activeIdx s.curStr 0 .w)).run s) (fun es _ => es.length = 2) = true
      ∧ issued (.vld 3 1 0 .w) s (fun l => l.dst = .v 3 1 ∧ l.evs.length = 2 ∧ l.ptr = 0x40) = true
      ∧ issued (.vlds 3 1 2 0 .w) s (fun l => l.evs.length = 16) = true
      ∧ issued (.vgath 3 1 4 0 .w) s (fun l => l.dst = .v 3 1) = true := by decide +kernel

theorem test_VectorMemory_pointer : let s := withBad (withMem (withX str0 [(1, 0x40), (2, 0x20)]) []) 3 .poisoned
    next (exec (.vlds 3 1 2 0 .w) s) (fun u => next (exec (.loadResponse 0 0 0 0 .home) u) (fun v => next (exec (.loadResponse 0 0 0 0 .home) v) (fun w =>
      w.curStr.lds.map (fun l => l.bad.map (fun x => (x.1, x.2.code, x.2.val))) = [some (1, 0x20, 0x60)]))) = true := by decide +kernel

theorem test_VectorMemory_store : let t := { withX str0 [(1, 0x40), (2, 0x10)] with v := str0.v.set 3 0x77, m := str0.m.set 1 1, jord := 1 }
    let s := world t
    noticeStore s 0x40 4 (activeIdx t 0 .w) = none ∧ Aligned t [2] ∧ activeIdx t 2 .w = []
      ∧ next (exec (.vst 3 1 1 .w) s) (fun u => u.curStr.sb.map (fun x => (x.evs, x.data.toNat)) = [([⟨.phys 0x40, [(0, 0), (1, 1), (2, 2), (3, 3)]⟩], 0x77)]) = true
      ∧ next (exec (.vstj 2 1 0 .w) s) (fun u => u.curStr.sb.map (fun x => (x.evs.length, x.data.toNat)) = [(4, 0x77 * 2 ^ 512)]) = true
      ∧ next (exec (.vsts 3 1 2 1 .w) s) (fun u => u.curStr.sb.length = 1) = true
      ∧ next (exec (.vst 3 1 2 .w) s) (fun u => u.curStr.sb = [] ∧ u.curStr.pc = 0x1004) = true := by
  refine ⟨by decide +kernel, by unfold Aligned; decide +kernel, by decide +kernel, ?_⟩; decide +kernel

/-! ### Vectors -/

theorem test_VectorIntegerResults : let s := world (withV [(1, 0xFFFF8000_00000003), (2, 0x00000001_00000005), (3, 0x11111111_22222222_33333333)])
    calm s = true ∧ s.curStr.streamOf 1 = none
      ∧ vres (.vaddInt 3 1 2 1 .w) s 3 0x00000000_22222222_00000008 = true ∧ vres (.vsubInt 3 1 2 0 .w) s 3 0xFFFF7FFF_FFFFFFFE = true
      ∧ vres (.vmulInt 3 1 2 0 .w) s 3 0xFFFF8000_0000000F = true ∧ vres (.vminInt 3 1 2 0 .w) s 3 0xFFFF8000_00000003 = true
      ∧ vres (.vabsInt 3 1 0 .h) s 3 0x00018000_00000003 = true ∧ vres (.vsra 3 1 2 0 .w) s 3 0xFFFFC000_00000000 = true
      ∧ vres (.vshr 3 1 2 0 .w) s 3 0x7FFFC000_00000000 = true ∧ vres (.vshl 3 1 2 0 .w) s 3 0xFFFF0000_00000060 = true := by decide +kernel

theorem test_VectorIntegerTests : let s := world (withV [(1, 0x80000000_00000003), (2, 0x00000001_00000005)])
    gave (.vcmpLt 2 1 2 0 .w) s (s.curStr.setM 2 3) = true ∧ gave (.vcmpLtu 2 1 2 0 .w) s (s.curStr.setM 2 1) = true
      ∧ gave (.vcmpEq 2 1 2 1 .w) s (s.curStr.setM 2 4) = true ∧ vres (.vredsumInt 3 1 0 .w) s 3 0x80000003 = true
      ∧ vres (.vredmaxInt 3 1 1 .w) s 3 3 = true ∧ vres (.vredminInt 3 1 0 .w) s 3 0x80000000 = true
      ∧ vres (.vredminInt 3 1 2 .w) s 3 0x7FFFFFFF = true := by decide +kernel

theorem test_VectorMoves : let t := { withV [(1, 7), (2, 0x20001), (3, 0x30002)] with jord := 1 }
    let s := world (t.setX 5 0x1234)
    Aligned s.curStr [4, 2] ∧ next (exec (.vmov 4 2 0 .h) s) (fun u => u.curStr.rawV 4 = 0x20001 ∧ u.curStr.rawV 5 = 0x30002) = true
      ∧ next (exec (.vbcast 4 5 1 .h) s) (fun u => u.curStr.rawV 4 = 0x123400001234 ∧ u.curStr.rawV 5 = 0) = true
      ∧ next (exec (.vperm 4 2 1 0 .h) s) (fun u => (u.curStr.rawV 4).toNat % 2 ^ 32 = 0x10000) = true
      ∧ next (exec (.vslide 4 2 0 0 .h) s) (fun u => u.curStr.rawV 5 = 0x30002) = true
      ∧ traps (.vmov 3 2 0 .h) s 0x50 0 0 = true ∧ traps (.vaddFp .f32 3 2 2 0 .rne) s 0x50 0 0 = true := by
  refine ⟨by unfold Aligned; decide +kernel, ?_⟩; decide +kernel

theorem test_VectorMoves_slide : let s := world ((withV [(2, 0x30002)]).setX 5 0xFFFFFFFFFFFFFFFF)
    vres (.vslide 4 2 5 0 .h) s 4 0x300020000 = true ∧ vres (.vsel 4 2 1 1 .h) s 4 2 = true := by decide +kernel

theorem test_ElementsAndMasks : let s := world (((withV [(2, 0x30002), (4, 0xAAAABBBB)]).setX 1 1).setX 2 32)
    gave (.vext 3 2 1 .h) s (s.curStr.setX 3 3) = true ∧ gave (.vext 3 2 2 .h) s s.curStr = true
      ∧ vres (.vins 4 1 1 .h) s 4 0x1BBBB = true ∧ vres (.vins 4 1 2 .h) s 4 0xAAAABBBB = true ∧ vres (.viota 4 1 .h) s 4 0x1AAAA0000 = true
      ∧ gave (.mnot 2 1) s (s.curStr.setM 2 0xFFFFFFFFFFFFFFFA) = true ∧ gave (.mpop 3 1) s (s.curStr.setX 3 2) = true
      ∧ gave (.mand 2 0 1) s (s.curStr.setM 2 5) = true := by decide +kernel

theorem test_VectorFpResults : let s := world (withV [(1, 0x3F800000_40000000), (2, 0x40400000_40000000), (4, 0x3F800000)])
    Aligned s.curStr [3, 1, 2, 4] ∧ vres (.vaddFp .f32 3 1 2 0 .rne) s 3 0x40800000_40800000 = true
      ∧ vres (.vmulFp .f32 3 1 2 1 .rne) s 3 0x40800000 = true ∧ vres (.vfmaF32 3 1 2 4 .rne 0) s 3 0x40400000_40A00000 = true
      ∧ vres (.vfnmaF32 3 1 2 4 .rne 0) s 3 0xC0400000_C0400000 = true ∧ vres (.vnegFp .f32 3 1 1) s 3 0x80000000_00000000_C0000000 = true := by
  refine ⟨by unfold Aligned; decide +kernel, ?_⟩; decide +kernel

theorem test_VectorFpResults_jets : let t := { withV [(2, 0x40000000), (3, 0x3F800000)] with jord := 1 }
    next (exec (.vmulFp .f32 4 2 2 1 .rne) (world t)) (fun u => u.curStr.rawV 4 = 0x40800000 ∧ u.curStr.rawV 5 = 0x40800000) = true
      ∧ next (exec (.vsqrt .f32 4 4 1 .rne) (world { t with v := (t.v.set 4 0x40800000).set 5 0x40800000 }))
        (fun u => (u.curStr.rawV 4).toNat % 2 ^ 32 = 0x40000000 ∧ (u.curStr.rawV 5).toNat % 2 ^ 32 = 0x3F800000) = true := by decide +kernel

theorem test_JetFormulas : let a := [0x40000000, 0x3F800000]
    fp32.isNan (fpMul fp32 0 0x40000000 0x40000000).1 = false ∧ jetMul fp32 0 1 a a = [(0x40800000, 0), (0x40800000, 0)]
      ∧ fp32.isNan (fpAdd fp32 0 0x7F800000 0xFF800000).1 = true
      ∧ jetAdd fp32 0 1 false [0x7F800000, 0] [0xFF800000, 0] = [(0x7FC00000, 16), (0x7FC00000, 0)] := by decide +kernel

theorem test_VectorFpTests : let s := world (withV [(1, 0x3F800000_40000000_7FC00000), (2, rep32 0x40000000)])
    gave (.vcmpFp .f32 2 1 2 0 .le) s (s.curStr.setM 2 0xFFFE) = true ∧ gave (.vcmpFp .f32 2 1 2 1 .ne) s (s.curStr.setM 2 5) = true
      ∧ vres (.vredsumFp .f32 3 2 1 .rne) s 3 0x40800000 = true ∧ vres (.vredmaxFp .f32 3 1 0) s 3 0x7FC00000 = true
      ∧ vres (.vredmaxFp .f32 3 1 2) s 3 0xFF800000 = true ∧ vres (.vredminFp .f32 3 1 2) s 3 0x7F800000 = true := by decide +kernel

theorem test_VectorFpTests_chosen : let z := world (withV [(1, 0x80000000_11111111_00000000)])
    vres (.vredmaxFp .f32 3 1 1) z 3 0 = true ∧ vres (.vredminFp .f32 3 1 1) z 3 0x80000000 = true
      ∧ next (exec (.vredsumFp .f32 3 1 1 .rne) (world (withV [(1, 0x30800000_11111111_3F800000)])))
          (fun u => u.curStr.rawV 3 = 0x3F800000 ∧ u.curStr.fflg = 1 ∧ u.curStr.jflg = 0) = true := by decide +kernel

theorem test_JetParts : let t := { withV [(2, 0x40000000), (3, 0x40800000)] with jord := 1 }
    let s := world t
    next (exec (.jseed .f32 4 2 1) s) (fun u => u.curStr.rawV 4 = 0x40000000 ∧ u.curStr.rawV 5 = 0x3F800000_00000000_3F800000) = true
      ∧ vres (.jget .f32 4 2 1 1) s 4 0x40800000 = true ∧ vres (.jget .f32 4 2 2 1) s 4 0 = true
      ∧ next (exec (.jset .f32 2 4 1 1) s) (fun u => u.curStr.rawV 2 = 0x40000000 ∧ u.curStr.rawV 3 = 0) = true
      ∧ vres (.jder .f32 4 2 1 1 .rne) s 4 0x40800000 = true := by decide +kernel

theorem test_Conversions : let s := world (withV [(1, 0x3F800000_C0200000), (2, 0x00000007_FFFFFFFE)])
    vres (.vcvtIntToFp 3 2 0 .w .f32 .rne) s 3 0x40E00000_C0000000 = true
      ∧ next (exec (.vcvtFpToInt 3 1 0 .w .f32 .rtz) s) (fun u => u.curStr.rawV 3 = 0x00000001_FFFFFFFE ∧ u.curStr.fflg = 1) = true
      ∧ vres (.vcvtFpFp 3 1 0 0 .f64 .f32 .rne) s 3 0x3FF00000_00000000_C0040000_00000000 = true
      ∧ next (exec (.vcvtFpFp 3 1 0 1 .fp8 .f32 .rne) (world ((withV [(1, 0x3F800000)]).setX 0 0))) (fun u => u.curStr.amax = 0x3F800000) = true := by
  decide +kernel

theorem test_StreamOperands : let s := world (withS { strm0 with fetched := [(0, .data 3), (1, .data 4)] })
    calm s = true ∧ s.curStr.streamOf 28 = some (0, { strm0 with fetched := [(0, .data 3), (1, .data 4)] }) ∧ s.curStr.streamOf 2 = none
      ∧ next (exec (.vaddInt 3 28 2 0 .w) s) (fun u => u.curStr.rawV 3 = 8 ∧ u.curStr.st.toList.map (fun x => x.map (fun x => (x.pos, x.fetched)))
        = [some (1, [(1, .data 4)]), none, none, none]) = true := by decide +kernel

theorem test_StreamOperands_wait : let w := world (withS strm0)
    let f : FaultInfo := { code := 0x11, detail := 0, val := 0x100 }
    next (exec (.vaddInt 3 28 2 0 .w) w) (fun u => u.curStr = w.curStr ∧ u.mem = w.mem ∧ Miss.elts 0 0 0 ∈ u.curCore.misses) = true
      ∧ traps (.vaddInt 3 28 2 0 .w) (world (withS { strm0 with fetched := [(0, .bad f)] })) 0x11 0 0x100 = true
      ∧ traps (.vaddInt 3 28 2 0 .w) (world (withS { strm0 with pos := 3 })) 0x32 0 0 = true
      ∧ traps (.vaddInt 3 28 2 0 .w) (world (withS { strm0 with dst := true })) 0x32 0 0 = true
      ∧ traps (.vaddInt 28 2 2 0 .w) w 0x32 0 0 = true := by decide +kernel

theorem test_StreamOperands_push : let x := { strm0 with dst := true, pos := 1 }
    let s := world (withS x)
    okWith ((check { dataWho s with owner := x.owner.toNat } .w (x.ptr x.pos) 64 64).run s) (fun pl _ => pl = .phys 0x140) = true
      ∧ next (exec (.vaddInt 28 2 2 0 .w) s) (fun u => (u.curStr.st.toList.getD 0 none).map (fun y => (y.pos, y.pushes.map (fun p => (p.data, p.evs.length))))
        = some (2, [(10, 2)]) ∧ u.curStr.v = s.curStr.v) = true := by decide +kernel

/-! ### Messages and the end of an activation -/

theorem test_Messages : let s := at2 [(1, 3), (2, 0xFF), (4, 9), (7, 8)]
    calm s = true ∧ s.launch 5 = some launch0 ∧ launch0.nlcore = 16 ∧ s.slotsUsed 0 < 32
      ∧ next (exec (.send 4 1 2 true 9 5) s) (fun u => ((u.curStr.act.map (·.outbox)).getD []).map
          (fun m => (m.dest, m.hid, m.key, m.op, m.cnt, m.payload)) = [(.core 3, 5, 0xFF, 9, true, 9 + 8 * 2 ^ 192)]) = true
      ∧ traps (.send 4 2 1 true 9 5) s 0x34 0 0 = true ∧ traps (.send 4 1 2 true 0 5) s 0x34 0 0 = true
      ∧ traps (.send 4 1 2 false 12 5) s 0x34 0 0 = true := by decide +kernel

theorem test_Messages_host : let s := at2 [(1, 0xFFFF), (2, 0xFF), (4, 0x80000001)]
    next (exec (.sendv 3 1 2 false 0 5) s) (fun u => ((u.curStr.act.map (·.outbox)).getD []).map (·.dest) = [.host]) = true
      ∧ traps (.arm 4 1 2 1 5) s 0x34 0 0 = true
      ∧ next (exec (.arm 4 0 2 1 5) s) (fun u => ((u.curStr.act.map (·.outbox)).getD []).map (·.arm) = [some 0x80000001]) = true := by decide +kernel

theorem test_Messages_committed : let s := world (withX ec0 [(1, 3), (2, 0xFF)])
    next (exec (.send 4 1 2 true 9 5) s) (fun u => u.net.map (fun f => (f.msg.hid, f.slot)) = [(5, true)] ∧ u.curStr.pc = 0x1004) = true := by
  decide +kernel

theorem test_Messages_outside : let s := world { withX mon0 [(1, 3), (2, 0xFF)] with act := none }
    [Instr.send 4 1 2 true 9 5, .sendv 3 1 2 true 9 5, .arm 4 1 2 1 5].all (fun i => next (exec i s) (fun u => u.curCore.monFault = some ⟨0x34, 0, 0⟩)) = true := by
  decide +kernel

theorem test_no_streams : ∀ i : Fin 4, str0.st[i.val] = none := by decide +kernel

/-- A message from core 0. -/
def msg0 : Msg := ⟨5, .core 3, 5, 1, 0, false, 0, 0, none, false⟩

theorem test_LaunchInstructions_due : NothingDue { str0 with act := some { act0 with outbox := [msg0] } } :=
  ⟨rfl, fun i h _ hx => absurd (hx.symm.trans (test_no_streams ⟨i, h⟩)) (by simp)⟩

theorem test_LaunchInstructions : let s := world { str0 with act := some { act0 with outbox := [msg0] } }
    next (exec .done s) (fun u => u.curStr.run = .free ∧ u.net.map (·.msg) = [msg0]) = true
      ∧ next (exec (.endl 0 .ok) s) (fun u => u.curStr.act.map (·.ec) = some true ∧ u.curStr.pc = 0x1000) = true := by decide +kernel

theorem test_LaunchInstructions_end : let s := world (withX ec0 [(1, 0x1234567890)])
    s.curCore.on 5 = some on0 ∧ s.sentOpen 0 1 = false
      ∧ next (exec (.endl 1 .user) s) (fun u => u.curStr.run = .stopped ∧ (u.launch 5).map (·.ends) = some [(6, 0x34567890, true)]) = true
      ∧ traps (.endl 1 .ok) (world { str0 with act := none }) 0x35 0 0 = true := by decide +kernel

theorem test_LaunchInstructions_mask : let s := world (withX { str0 with act := some { act0 with rst := true } } [(1, 2), (2, 0x10)])
    next (exec (.msk 3 1 2) s) (fun u => u.curStr.getX 3 = 2 ∧ (u.curCore.on 5).map (·.mask) = some 0x10 ∧ u.curStr.act.map (·.mask0) = some (some 2)) = true := by
  decide +kernel

theorem test_LaunchIsQueued : let s := { world (withX ec0 [(1, 0x80)]) with mem := Memory.putNum [] 0x80 8 0x00070001 }
    okWith ((checkSectors 0x80 4).run s) (fun secs s1 => decide (s1.lnchHeld 0 < 64) && okWith ((readSectors secs).run s1) (fun b _ => b.length = 128)) = true
      ∧ next (exec (.lnch 3 1) s) (fun u => u.curStr.getX 3 = 0 ∧ u.curStr.pc = 0x1004 ∧ (u.part 0).serial = 1) = true := by decide +kernel

/-! ### Rings, streams, queries -/

/-- Launches of partition 0 that a core has submitted and that wait. -/
def held64 : List (Nat × Launch) := (List.range 64).map (fun i => (i + 10, { launch0 with issuer := some 7, phase := .queued, place := [] }))

theorem test_LaunchIsQueued_waits : let s := { world (withX ec0 [(1, 0x80)]) with mem := Memory.putNum [] 0x80 8 0x00070001, launches := (5, launch0) :: held64 }
    s.lnchHeld 0 = 64 ∧ next (exec (.lnch 3 1) s) (fun u => u.curStr.wait = .lnch 0x00070001 ∧ u.curStr.pc = 0x1000) = true
      ∧ next (exec (.lnch 3 1) (world { ec0 with wait := .lnch 0x00070001 })) (fun u => u.curStr.pc = 0x1004 ∧ (u.part 0).serial = 1) = true
      ∧ next (exec (.lnch 3 1) { world (withX str0 [(1, 0x80)]) with mem := [] }) (fun u => u.curStr.act.map (·.ec) = some true ∧ u.curStr.pc = 0x1000) = true := by
  decide +kernel

theorem test_Rings : let s := withRing (withX ec0 [(1, 3), (2, 6), (4, 7), (5, 2 ^ 32 + 12), (6, 13), (7, 16), (8, 1)]) ring0
    s.curCore.on 5 = some on0 ∧ s.curCore.ring 3 = ring0 ∧ gave (.rwait 1 2) s s.curStr = true
      ∧ next (exec (.rwait 1 4) s) (fun u => u.curStr.wait = .ring 3 7) = true ∧ traps (.rwait 1 7) s 0x31 0 0 = true
      ∧ next (exec (.rinit 1 5) s) (fun u => u.curCore.ring 3 = { v := true, s := 12, l := 1, a := 1, filled := [], pend := 0 }) = true
      ∧ traps (.rinit 1 6) s 0x31 0 0 = true ∧ traps (.rwait 6 1) s 0x31 0 0 = true ∧ next (exec (.rfree 1) s) (fun u => (u.curCore.ring 3).v = false) = true
      ∧ next (exec (.rrel 1 8) s) (fun u => u.curCore.ring 3 = { ring0 with l := 7, filled := [] }) = true ∧ ring0.ready = 1
      ∧ traps (.rrel 1 2) s 0x31 0 0 = true ∧ x3 (.rstat 3 1) s 0x0000000690000002 = true := by decide +kernel

theorem test_Rings_busy : let s := withRing (withX ec0 [(1, 3)]) { ring0 with pend := 1 }
    traps (.rinit 1 2) s 0x30 0 0 = true ∧ traps (.rfree 1) s 0x30 0 0 = true
      ∧ traps (.rwait 1 1) (withRing (withX ec0 [(1, 3)]) { ring0 with v := false }) 0x31 0 0 = true := by decide +kernel

theorem test_Rings_lost : let s := withRing (withX ec0 [(1, 3), (2, 6), (5, 2 ^ 32 + 12)]) ring0
    let u := s.modStr 0 1 (fun _ => { ec0 with wait := .ring 3 7 })
    [Instr.rinit 1 5, .rfree 1].all (fun i => next (exec i u) (fun v => (v.str 0 1).wait = .ringLost ∧ v.curStr.wait = .none)) = true
      ∧ traps (.rwait 1 2) (s.modStr 0 0 (fun t => { t with wait := .ringLost })) 0x31 0 0 = true := by decide +kernel

theorem test_Rings_came : let t := { withX ec0 [(1, 3), (2, 5)] with wait := .ring 3 5 }
    gave (.rwait 1 2) (withRing t ring0) t = true
      ∧ next (exec (.rwait 1 2) (withRing { withX ec0 [(1, 3), (2, 7)] with wait := .ring 3 7 } ring0)) (fun u => u.curStr.wait = .ring 3 7 ∧ u.curStr.pc = 0x1000) = true
      ∧ next (exec (.rrel 1 2) (withRing { withX str0 [(1, 3)] with seq := 1 } ring0)) (fun u => u.curStr.act.map (·.ec) = some true) = true := by decide +kernel

theorem test_StreamBinding : let s := withMem (withX str0 [(1, 0x40)]) [(0x40, 64, desc0)]
    okWith ((check (dataWho s) .r 0x40 64 64).run s) (fun pl s1 => pl = .phys 0x40 ∧ badAt s1 (some 5) 0x40 0x40 = none) = true
      ∧ next (exec (.sbind 2 1) s) (fun u => (u.curStr.sreg 2).map (fun x => { x with num := 0 }) = some { strm0 with after := some s.curStr.seq } ∧ u.curStr.pc = 0x1004) = true
      ∧ traps (.sbind 2 1) (withMem (withX str0 [(1, 0x40)]) [(0x40, 64, desc0 - 2 ^ 288)]) 0x32 0 0 = true
      ∧ traps (.sbind 2 1) (withMem (withX str0 [(1, 0x40)]) [(0x40, 64, desc0 + 2 ^ 305)]) 0x32 0 0 = true
      ∧ gave (.sunb 2) s s.curStr = true ∧ x3 (.sstat 3 2) s 0 = true := by decide +kernel

theorem test_StreamBinding_bound : let f : FaultInfo := ⟨0x11, 0, 0x100⟩
    let s := world (withS { strm0 with pos := 1, fetched := [(1, .data 3), (2, .bad f)] })
    let d := world (withS { strm0 with dst := true, pos := 1, pushes := [⟨0, 0x100, 5, [⟨.phys 0x100, [(0, 0)]⟩], []⟩] })
    let h : Hand := .remoteOk 0 0
    let r := s.modCore 0 (fun co => { co with held := [(4, h), (5, h)] })
    traps (.sbind 0 1) s 0x32 0 0 = true ∧ strm0.asks 0 = 4
      ∧ next (exec (.sunb 0) r) (fun u => u.curStr = retired (s.curStr.setSreg 0 none) ∧ u.curCore.held = [(5, h)]) = true ∧ next (exec (.sunb 0) d) (fun u => u = d) = true
      ∧ x3 (.sstat 3 0) s 0xA400000000000002 = true ∧ x3 (.sstat 3 0) d 0xC000000000000002 = true := by decide +kernel

theorem test_QueriesAndInvalidations : let t := withX str0 [(1, 0x40), (2, 7), (4, 9), (5, 0x100)]
    let p := { part0 with ownlim := 14 }
    let s (r : Nat) : State := { world t with mem := dir0 r, parts := [(0, p)] }
    ((search (dir0 33) p 9 0 0x40).map (·.grantor)) = some 7 ∧ ((search (dir0 33) p 7 0 0x40).map (·.rights)) = some 33
      ∧ x3 (.rqry 3 1 2) (s 1) 0x3812A = true ∧ x3 (.rqry 3 1 4) (s 33) (7 * 2 ^ 16 + 2 ^ 15 + 0x100) = true
      ∧ x3 (.rqry 3 5 4) (s 33) 0 = true ∧ search (dir0 33) p 9 0 0x100 = none ∧ x3 (.mxst 3) (world { str0 with act := none }) 0 = true := by decide +kernel

theorem test_QueriesAndInvalidations_mxst : let s := (world str0).modCore 0 (fun co => { co with mxu := { Mxu.init with holder := some 5, err := 0x22 } })
    next (exec (.mxst 3) s) (fun u => (u.curStr.getX 3).toNat / 2 ^ 24 = 0x22 ∧ u.curCore.mxu.err = 0) = true := by decide +kernel

theorem test_QueriesAndInvalidations_wait : let s := world { mon0 with sb := [store0] }
    [Instr.plbinv 1, .plbinvAll, .tlbinv 1 0].all (fun i => next (exec i s) (fun u => u = s)) = true := by decide +kernel

theorem test_QueriesAndInvalidations_drop : let s := world (withX mon0 [(1, 7), (4, 0x1000)])
    s.curStr.sb = [] ∧ 0 ∈ part0.cores ∧ s.peersQuiet = true
      ∧ next (exec (.plbinv 1) s) (fun u => u.curCore.plb = [plb0 0] ∧ u.curCore.tlb = [tlb0]) = true
      ∧ next (exec .plbinvAll s) (fun u => u.curCore.plb = []) = true ∧ next (exec (.tlbinv 1 0) s) (fun u => u.curCore.tlb = [] ∧ u.curCore.plb = [plb0 7, plb0 0]) = true
      ∧ next (exec (.tlbinv 1 4) s) (fun u => u.curCore.tlb = []) = true
      ∧ next (exec (.tlbinv 1 4) { s with pkg := 1 }) (fun u => u.curCore.tlb = [tlb0] ∧ u.curStr.pc = 0x1004) = true := by decide +kernel

/-! ### Engine commands -/

/-- A command of launch 5 of string 0. -/
def cmd0 (w : Nat) : Cmd :=
  { word := BitVec.ofNat 256 w, shape := 0, owner := 7, ity := false, mscla := 0x80, mxinj := 0, launch := some 5, str := 0, actId := 1,
    tmpl := 0x1020, ring := none, waitOn := none, waited := false, done := 0, fin := none }

/-- A world whose MXU has a command at the head of its queue. -/
def withMx (c : Cmd) (m : Mxu) (mem : Memory) : State :=
  { (world ec0).modCore 0 (fun co => { co with mxu := { m with holder := some 5, queue := [c] } }) with mem := mem }

/-- A world whose BCE has a command at the head of its queue. -/
def withBc (c : Cmd) (mem : Memory) : State := { (world ec0).modCore 0 (fun co => { co with bce := [c] }) with mem := mem }

/-- MX.ZERO of two rows from row 3 on. -/
def zeroWord : Nat := 4 * 2 ^ 248 + 2 * 2 ^ 205 + 3 * 2 ^ 199

/-- A world whose next template is the word given. -/
def withTmpl (t : Str) (w : Nat) : State := withMem t [(0x1020, 32, w)]

/-- A shape of three elements: strides 4 at the destination, 8 at the source. -/
def shape0 : Nat := 3 + 2 ^ 16 + 2 ^ 32 + 2 ^ 48 + 2 ^ 64 + 8 * 2 ^ 80 + 4 * 2 ^ 240

/-- ENQ of the template after the instruction. -/
def enq1 : Instr := .enq .mxu 0 0 1

theorem test_Enqueue : let s := withTmpl ec0 zeroWord
    calm s = true ∧ okWith ((enqAllowed .mxu).run s) (fun _ s1 => s1 = s) = true ∧ okWith ((fetchBytes 0x1020 32).run s) (fun b s1 =>
        leNat b = zeroWord && okWith ((fetchShape 0x1020 zeroWord).run s1) (fun sh s2 => sh = 0 ∧
          okWith ((waitIndex s.curCore 5 zeroWord).run s2) (fun w s3 => w = none ∧ okWith ((completionRing s.curCore 5 zeroWord).run s3) (fun r _ => r = none) = true) = true)) = true
      ∧ opcodeOk .mxu zeroWord = true ∧ mxuFree s.curCore .mxu (some 5) = true ∧ cmdFieldsOk zeroWord = true ∧ cmdAligned zeroWord 0 = true
      ∧ cmdSpaceOk zeroWord 0 = true
      ∧ next (exec enq1 s) (fun u => u.curCore.mxu.queue.map (fun c => { c with num := 0 }) = [{ cmd0 zeroWord with mscla := 0, after := some s.curStr.seq }] ∧ u.curStr.pc = 0x1004 ∧ u.curCore.mxu.holder = some 5) = true := by
  decide +kernel

theorem test_Enqueue_faults : traps enq1 (withTmpl ec0 (0x11 * 2 ^ 248)) 0x51 1 0 = true ∧ traps enq1 (withTmpl ec0 (zeroWord + 1)) 0x51 2 0 = true
    ∧ traps enq1 (withTmpl ec0 (1 * 2 ^ 248 + 1)) 0x51 3 0 = true ∧ traps enq1 (withTmpl ec0 (1 * 2 ^ 248 + 2 ^ 45)) 0x51 4 0 = true
    ∧ traps enq1 ((withTmpl ec0 zeroWord).modCore 0 (fun co => { co with mxu := { co.mxu with holder := some 4 } })) 0x51 5 0 = true
    ∧ traps enq1 (withTmpl { str0 with act := none } zeroWord) 0x35 0 0 = true := by decide +kernel

theorem test_Enqueue_shape : let w := 0x11 * 2 ^ 248 + 2 * 2 ^ 209 + 2 ^ 193 + 0x58 * 2 ^ 64 + 0x80
    let s (t v : Nat) : State := withMem ec0 [(0x1020, 32, t), (0x1040, 64, v)]
    traps (.enq .bce 0 0 1) (s w 0) 0x51 6 0 = true ∧ traps (.enq .bce 0 0 1) (s w (shape0 + 2 ^ 80)) 0x51 3 0 = true
      ∧ traps enq1 (withTmpl ec0 (zeroWord + 2 ^ 247 + 3 * 2 ^ 234)) 0x31 0 0 = true
      ∧ traps enq1 (withTmpl ec0 (zeroWord + 2 ^ 246 + 3 * 2 ^ 228)) 0x31 0 0 = true := by decide +kernel

theorem test_Enqueue_full : let c := cmd0 zeroWord
    let s := (withTmpl ec0 zeroWord).modCore 0 (fun co => { co with mxu := { co.mxu with holder := some 5, queue := List.replicate (engCap .mxu) c } })
    let w := { ec0 with wait := .enq .mxu c none }
    next (exec enq1 s) (fun u => u.curStr.wait = .enq .mxu { c with mscla := 0, num := s.nextId + 1, after := some s.curStr.seq } none ∧ u.curCore.mxu.queue.length = engCap .mxu) = true
      ∧ next (exec (.enqAppend 0 0) (world w)) (fun u => u.curCore.mxu.queue = [c] ∧ u.curStr.pc = 0x1004) = true := by decide +kernel

/-- MX.LOADB of tile 2: every row of it, and its scale, is the 128 bytes at 0x100. -/
def loadWord : Nat := 2 ^ 248 + 2 * 2 ^ 210 + 0x100 * 2 ^ 64 + 0x100

/-- A sector of package memory that has been read, with its first bytes. -/
def sect (a : Nat) (b : List Byte) (f : Option FaultInfo) : SectorRead :=
  { sec := a / 32, place := .phys a, bytes := b ++ List.replicate (32 - b.length) 0, bad := f }

/-- The command with four sectors from 0x100 on read, the first of them as given. -/
def readAll (c : Cmd) (b : List Byte) : Cmd := { c with got := sect 0x100 b none :: [0x120, 0x140, 0x160].map (fun a => sect a [] none) }

theorem test_MatrixCommands_load : let c := readAll (cmd0 loadWord) [0x38, 0, 0x80]
    let s := withMx c Mxu.init []
    s.engQueue 0 .mxu = [c] ∧ s.engineLive 0 c true = true ∧ waitOver (s.core 0) c = true ∧ c.unread (loadbPieces loadWord) = []
      ∧ okWith ((c.bytes (engWho s 0 .mxu c) (loadbPieces loadWord)).run s) (fun b _ => b.length = 16388 ∧ b.take 3 = [0x38, 0, 0x80]) = true
      ∧ next (exec (.mxLoadb 0) s) (fun u => (u.core 0).mxu.queue.map (·.fin) = [some none]
        ∧ ((u.core 0).mac 2).tile.take 3 = [(0, 0x38), (2, 0x80), (128, 0x38)] ∧ ((u.core 0).mac 1) = Macro.init) = true := by decide +kernel

theorem test_MatrixCommands_load_fails : let c := readAll (cmd0 loadWord) []
    let c := { c with got := c.got.map (fun x => if x.sec = 11 then { x with bytes := [], bad := some ⟨0x16, 0, 0⟩ } else x) }
    c.unread (loadbPieces loadWord) = [] ∧ next (exec (.mxLoadb 0) (withMx c Mxu.init [])) (fun u => (u.core 0).mxu.queue.map (·.fin) = [some (some ⟨0x16, 0, 0x160⟩)]
      ∧ ((u.core 0).mac 2).poison = true) = true := by decide +kernel

/-- MX.ROWS of one row from 0x100, one K-step, macro 0, accumulator row 5. -/
def rowsWord : Nat := 2 * 2 ^ 248 + 1 * 2 ^ 205 + 1 * 2 ^ 202 + 5 * 2 ^ 194 + 0x100

/-- A macro whose only byte is 1.0 in row 0, column 3, with scale 1.0. -/
def mac1 : Macro := { tile := [(3, 0x38)], sb := 0x3F800000, ity := false, csum := tileSums false [(3, 0x38)], poison := false, cleared := false }

/-- An MXU with that macro as number 0. -/
def mxu1 : Mxu := { Mxu.init with macros := Mxu.init.macros.set 0 mac1 }

/-- The MX.ROWS with its pieces read: 2.0 in column 0 of A, and the scale 1.0. -/
def rowsCmd : Cmd :=
  { readAll (cmd0 rowsWord) [0x40] with got := (readAll (cmd0 rowsWord) [0x40]).got ++ [sect 0x80 [0, 0, 0x80, 0x3F] none] }

theorem test_MatrixCommands_rows : let s := withMx rowsCmd mxu1 []
    rowsCmd.unread (rowsPieces rowsWord 0x80 0) = []
      ∧ okWith ((rowsCmd.bytes (engWho s 0 .mxu rowsCmd) (rowsPieces rowsWord 0x80 0)).run s) (fun b _ => b.length = 132) = true
      ∧ next (exec (.mxRows 0) s) (fun u => (u.core 0).mxu.queue.map (·.fin) = [some none] ∧ mget 0 (u.core 0).mxu.acc (5 * 128 + 3) = 0x40000000
        ∧ mget 0 (u.core 0).mxu.acc (5 * 128 + 2) = 0) = true := by decide +kernel

theorem test_MatrixCommands_rows_fail : let c := rowsCmd
    next (exec (.mxRows 0) (withMx { c with ity := true } mxu1 [])) (fun u => (u.core 0).mxu.queue.map (·.fin) = [some (some ⟨0x51, 7, 0⟩)]) = true
      ∧ next (exec (.mxRows 0) (withMx c { mxu1 with macros := mxu1.macros.set 0 { mac1 with poison := true } } [])) (fun u =>
        (u.core 0).mxu.queue.map (·.fin) = [some (some ⟨0x20, 0, 0⟩)] ∧ (u.core 0).mxu.accBad.length = 16 ∧ (u.core 0).mxu.accBad.all (fun r => r / 16 == 5)) = true
      ∧ next (exec (.mxRows 0) (withMx { c with mxinj := 0x8000000000000000, got := sect 0x100 [0x40, 0x38] none :: c.got.drop 1 }
        { mxu1 with macros := mxu1.macros.set 0 { mac1 with csum := [(0, 3), (1, 5)] } } [])) (fun u => (u.core 0).mxu.queue.map (·.fin) = [some (some ⟨0x22, 0, 0⟩)]) = true := by
  decide +kernel

/-- MX.DRAIN of row 5 as FP32 to slice space of core 0, then zeroing it. -/
def drainWord : Nat := 3 * 2 ^ 248 + 2 ^ 243 + 1 * 2 ^ 205 + 5 * 2 ^ 199 + 512 * 2 ^ 177 + 0x300000000040

theorem test_MatrixCommands_drain : let m := { Mxu.init with acc := [(643, 0x40000000)] }
    let s := withMx (cmd0 drainWord) m []
    okWith ((check (engWho s 0 .mxu (cmd0 drainWord)) .w 0x300000000040 32 1).run s) (fun pl _ => pl = .slice 0 0x1040) = true
      ∧ next (exec (.mxDrain 0) s) (fun u => u.mem.num (sliceFlat 0 0x104C) 4 = 0x40000000 ∧ (u.core 0).mxu.queue.map (·.done) = [1]) = true
      ∧ next (exec (.mxDrain 0) (withMx { cmd0 drainWord with done := 15 } m [])) (fun u => (u.core 0).mxu.acc = [] ∧ (u.core 0).mxu.queue.map (·.fin) = [some none]) = true := by
  decide +kernel

theorem test_MatrixCommands_zero : let s := withMx (cmd0 zeroWord) { Mxu.init with acc := [(383, 1), (384, 2), (639, 3), (640, 4)], accBad := [47, 48, 79, 80] } []
    next (exec (.mxZero 0) s) (fun u => (u.core 0).mxu.acc = [(383, 1), (640, 4)] ∧ (u.core 0).mxu.accBad = [47, 80]) = true := by decide +kernel

theorem test_MatrixCommands_report : let c := cmd0 (5 * 2 ^ 248 + 0x40)
    next (exec (.mxChkrd 0) (withMx c { mxu1 with macros := mxu1.macros.set 0 { mac1 with csum := [] } } [])) (fun u =>
      u.mem.num 0x40 8 = 0x3F80000000000100 ∧ u.mem.num 0x50 8 = 0 ∧ u.mem.num 0x58 8 ≠ 0) = true := by decide +kernel

/-- BC.COPY of 32-bit elements from 0x80 to 0x58; BC.FILL of the same elements. -/
def copyCmd : Cmd := { cmd0 (0x11 * 2 ^ 248 + 2 * 2 ^ 209 + 2 ^ 193 + 0x58 * 2 ^ 64 + 0x80) with shape := BitVec.ofNat 512 shape0 }
/-- See `copyCmd`. -/
def fillCmd : Cmd := { cmd0 (0x12 * 2 ^ 248 + 2 * 2 ^ 209 + 2 ^ 193 + 0x55AA * 2 ^ 64 + 0x58) with shape := BitVec.ofNat 512 shape0 }

theorem test_CopyAndCrypto_copy : let c := { copyCmd with got := [sect 0x80 [7, 0, 0, 0, 0, 0, 0, 0, 9] none] }
    let s := withBc c []
    s.engineLive 0 c false = true ∧ c.unread (bcPieces c) = [] ∧ okWith ((gather (engWho s 0 .bce c) c [0, 1] ([], false)).run s) (fun x _ => x.1.length = 8 ∧ x.2 = false) = true
      ∧ next (exec (.bcCopy 0) s) (fun u => u.mem.num 0x58 4 = 7 ∧ u.mem.num 0x5C 4 = 9 ∧ u.mem.num 0x60 4 = 0 ∧ (u.core 0).bce.map (·.done) = [2]) = true
      ∧ next (exec (.bcCopy 0) (withBc { c with got := [sect 0x80 [7] (some ⟨0x20, 0, 0x80⟩)] } [])) (fun u => mfind u.bad 2 = some .poisoned) = true := by
  decide +kernel

theorem test_CopyAndCrypto_reads : let s := withBc copyCmd (Memory.putNum [] 0x80 16 (7 + 9 * 2 ^ 64))
    next (exec (.bcCopy 0) s) (fun u => u.mem.num 0x58 4 = 7 ∧ u.mem.num 0x5C 4 = 9 ∧ u.mem.num 0x60 4 = 0 ∧ (u.core 0).bce.map (·.done) = [2]) = true := by decide +kernel

theorem test_CopyAndCrypto_fill : next (exec (.bcFill 0) (withBc { fillCmd with done := 2 } [])) (fun u =>
    u.mem.num 0x58 8 = 0 ∧ u.mem.num 0x60 4 = 0x55AA ∧ (u.core 0).bce.map (·.fin) = [some none]) = true := by decide +kernel

/-- The root core with a crypto command. -/
def withCr (w : Nat) (r : Root) (mem : Memory) : State :=
  { world str0 with root := { r with crypto := [{ cmd0 w with launch := none, str := 0 }] }, mem := mem }

/-- A context that has taken the three bytes "abc". -/
def abc0 : ShaCtx := ShaCtx.init.update [0x61, 0x62, 0x63]

theorem test_CopyAndCrypto_sha : let r1 := { Root.init with sha := Root.init.sha.set 1 (some ShaCtx.init) }
    next (exec .crShaInit (withCr (0x21 * 2 ^ 248 + 2 ^ 208) Root.init [])) (fun u => u.shaCtx 1 = some ShaCtx.init) = true
      ∧ next (exec .crShaUpdate (withCr (0x21 * 2 ^ 248 + 2 ^ 210 + 2 ^ 208 + 3 * 2 ^ 184 + 0x40) r1 (Memory.putNum [] (sliceFlat 4096 0x40) 3 0x636261)))
        (fun u => u.shaCtx 1 = some abc0) = true
      ∧ next (exec .crShaUpdate (withCr (0x21 * 2 ^ 248 + 2 ^ 210 + 2 ^ 208) Root.init [])) (fun u => u.root.crypto.map (·.fin) = [some (some ⟨0x51, 8, 0⟩)]) = true := by
  decide +kernel

theorem test_CopyAndCrypto_digest : let r := { Root.init with sha := Root.init.sha.set 1 (some abc0) }
    next (exec .crShaFinal (withCr (0x21 * 2 ^ 248 + 2 * 2 ^ 210 + 2 ^ 208 + 0x40) r [])) (fun u => u.shaCtx 1 = some abc0
      ∧ u.mem.bytes (sliceFlat 4096 0x40) 8 = [0xcb, 0x00, 0x75, 0x3f, 0x45, 0xa3, 0x5e, 0x8b] ∧ u.root.crypto.map (·.done) = [1]) = true := by decide +kernel

theorem test_CopyAndCrypto_digest_end : let r := { Root.init with sha := Root.init.sha.set 1 (some abc0) }
    let s := withCr (0x21 * 2 ^ 248 + 2 * 2 ^ 210 + 2 ^ 208 + 0x40) r []
    next (exec .crShaFinal { s with root := { s.root with crypto := s.root.crypto.map (fun c => { c with done := 1 }) } }) (fun u => u.shaCtx 1 = none
      ∧ u.mem.bytes (sliceFlat 4096 0x60) 8 = [0x80, 0x86, 0x07, 0x2b, 0xa1, 0xe7, 0xcc, 0x23] ∧ u.root.crypto.map (·.fin) = [some none]) = true := by decide +kernel

theorem test_CopyAndCrypto_verify : let s := withCr (0x22 * 2 ^ 248 + 0x200 * 2 ^ 64 + 0x40) Root.init []
    let t : State := { s with root := { s.root with crypto := s.root.crypto.map (fun c => { c with got := (List.range 8).map (fun i => sect (0x40 + 32 * i) [] none) }) } }
    t.root.crypto.map (fun c => c.unread (ecvPieces c)) = [[]]
      ∧ next (exec .crEcv t) (fun u => u.mem.bytes (sliceFlat 4096 0x200) 8 = [3, 0, 0, 0, 0, 0, 0, 0] ∧ u.root.crypto.map (·.fin) = [some none]) = true := by decide +kernel

theorem test_CopyAndCrypto_random_draws : next (exec (.crRng true) (withCr (0x23 * 2 ^ 248 + 2 ^ 205 + 0x40) Root.init [])) (fun u =>
    u.root.drawn = 32 ∧ u.root.crypto.map (·.fin) = [some none]) = true := by decide +kernel

theorem test_CopyAndCrypto_random : next (exec (.crRng false) (withCr (0x23 * 2 ^ 248 + 2 ^ 205) Root.init [])) (fun u =>
    u.root.drbgFailed = true ∧ u.root.crypto.map (·.fin) = [some (some ⟨0x51, 9, 0⟩)]) = true
    ∧ next (exec (.crRng true) (withCr (0x23 * 2 ^ 248 + 2 ^ 205) { Root.init with drbgFailed := true } [])) (fun u => u.mem = []) = true := by decide +kernel

theorem test_EngineReadsAndCompletions_read : let s := withBc copyCmd (Memory.putNum [] 0x80 16 (7 + 9 * 2 ^ 64))
    okWith ((check (engWho s 0 .bce copyCmd) .r 0x88 4 1).run s) (fun pl _ => pl = .phys 0x88) = true
      ∧ (s.readPiece 0 .bce 0 0x88 4).curCore.bce.map (·.got) = [[sect 0x80 [7, 0, 0, 0, 0, 0, 0, 0, 9] none]]
      ∧ (let u := (withBad s 4 .uncorrectable).readPiece 0 .bce 0 0x88 4
        u.curCore.bce.map (·.got) = [[sect 0x80 [7, 0, 0, 0, 0, 0, 0, 0, 9] (some ⟨0x20, 0, 0x88⟩)]] ∧ u.mark (some 5) 0x80 = some .poisoned) := by decide +kernel

theorem test_EngineReadsAndCompletions : let c := { cmd0 zeroWord with ring := some (3, 7), fin := some none }
    let f := { cmd0 zeroWord with fin := some (some ⟨0x51, 7, 0⟩) }
    let s := (withMx c Mxu.init []).modCore 0 (fun co => { co with rings := [(3, { ring0 with pend := 1 })] })
    next (exec (.engineCompletion 0 .mxu) s) (fun u => u.curCore.mxu.queue = [] ∧ u.curCore.ring 3 = { ring0 with filled := [2, 3], pend := 0 } ∧ u.net = []) = true
      ∧ next (exec (.engineCompletion 0 .mxu) (withMx f Mxu.init [])) (fun u => u.net.map (fun g => (g.msg.hid, g.msg.payload.toNat % 2 ^ 64)) = [(63, 2 ^ 20 + 0x751)]
        ∧ u.curCore.mxu.err = 0x51) = true := by decide +kernel

theorem test_EngineReadsAndCompletions_wake : let c := { cmd0 (drainWord + 2 ^ 245 + 9 * 2 ^ 64 + 1 * 2 ^ 171 + 1 * 2 ^ 167) with fin := some none }
    next (exec (.engineCompletion 0 .mxu) (withMx c Mxu.init [])) (fun u => u.net.map (fun g => (g.msg.hid, g.msg.key, g.msg.op)) = [(1, 9, 1)]) = true := by
  decide +kernel

/-! ### The combining queue -/

/-- A flight of a message to core 0 of launch 5, with operator 1 (sum), handler 5, counted. -/
def flight0 : Flight :=
  { msg := ⟨5, .core 0, 5, 0x33, 1, true, 2, 7, none, false⟩, fromCore := 0, fromStr := 0, after := 0, slot := true, actId := 1, nacks := 0,
    nacked := false }

theorem test_Messages_slots : let full := world { withX str0 [(1, 3), (2, 0xFF)] with act := some { act0 with outbox := List.replicate 32 flight0.msg } }
    let sent := { world (withX ec0 [(1, 3), (2, 0xFF)]) with net := List.replicate 32 flight0 }
    sent.slotsUsed 0 = 32 ∧ next (exec (.send 4 1 2 true 9 5) sent) (fun u => u = sent) = true
      ∧ next (exec (.send 4 1 2 true 9 5) full) (fun u => u.curStr.act.map (fun a => (a.ec, a.outbox)) = some (true, []) ∧ u.net.length = 32 ∧ u.curStr.pc = 0x1000) = true := by
  decide +kernel

/-- A world with flights on the way and records on core 0. -/
def withNet (fs : List Flight) (rs : List Rec) : State := { (world str0).modCore 0 (fun co => { co with records := rs }) with net := fs }

/-- The record that `flight0` folds into. -/
def sum0 : Rec := { rec0 with hid := 5, op := 1, src := 9, payload := 5, count := 3, c := true }

theorem test_Arrivals_new : let s := withNet [flight0] [rec0]
    s.arrives flight0 = true ∧ launch0.handlerV 5 = true ∧ (s.curCore.on 5).isSome = true
      ∧ next (exec (.messageArrival 0 true) s) (fun u => u.net = [] ∧ u.curCore.records.map (fun r => (r.hid, r.op, r.src, r.count))
        = [(1, 0, 0, 0), (5, 1, 2, 0xFFFFFFFF)] ∧ u.curCore.records.map (fun r => (r.c, r.armed, r.payload)) = [(false, false, 0), (true, false, 7)]) = true := by decide +kernel

theorem test_Arrivals_fold : let s := withNet [flight0] [sum0, rec0]
    isRecordOf flight0.msg sum0 = true
      ∧ next (exec (.messageArrival 0 true) s) (fun u => u.curCore.records.map (fun r => (r.src, r.count, r.payload)) = [(9, 2, 12), (0, 0, 0)]) = true := by
  decide +kernel

theorem test_Arrivals_arm : let f := { flight0 with msg := { flight0.msg with arm := some 0xFFFFFFFD, cnt := false } }
    next (exec (.armArrival 0 true) (withNet [f] [sum0])) (fun u => u.curCore.records.map (fun r => (r.count, r.armed, r.payload, r.runnable)) = [(0, true, 5, true)]) = true := by
  decide +kernel

theorem test_Arrivals_tag : let f := { flight0 with unit := coreUnit 0, sender := coreUnit 3, vf := 1 }
    f.unit ≠ f.sender ∧ (world str0).arrives f = true
    ∧ next (exec (.messageArrival 0 false) (withNet [f] [])) (fun u => u.net = [{ f with nacked := true }] ∧ (u.part 0).meters.toList.getD 13 0 = 1) = true
    ∧ next (exec (.nack 0) (withNet [{ f with nacked := true, nacks := 2 }] [])) (fun u => u.net.map (fun g => (g.nacks, g.nacked)) = [(3, false)]
      ∧ u.seqOf f.sender 0 = (world str0).seqOf f.sender 0 + 1) = true
    ∧ next (exec (.nack 0) (withNet [{ flight0 with nacked := true, nacks := 3 }] [])) (fun u =>
      u.net.map (fun f => (f.msg.hid, f.msg.dest, f.msg.payload.toNat % 2 ^ 64)) = [(63, .core 0, 0x200021)]) = true := by decide +kernel

theorem test_Selection : let s := ({ world { str0 with run := .free, act := none } with turn := none } : State).modCore 0 (fun co =>
      { co with records := [{ sum0 with hid := 1, op := 0, c := false }] })
    pickRec launch0 { on0 with mask := 0 } 0 [{ sum0 with hid := 1, op := 0, c := false }] = some { sum0 with hid := 1, op := 0, c := false }
      ∧ next (exec (.recordSelection 0 0) (s.modCore 0 (fun co => { co with res := [(5, { on0 with mask := 0 })] }))) (fun u => u.curStr.run = .running ∧ u.curStr.pc = 0x4040
        ∧ u.curStr.owner = 7 ∧ u.curStr.getX 1 = 0x33 ∧ u.curStr.getX 2 = 9 ∧ u.curStr.getX 3 = 3 ∧ u.curStr.getX 4 = 5 ∧ u.curStr.getX 10 = 0 ∧ u.curCore.records = []) = true := by
  decide +kernel

theorem test_Selection_age : let s := withNet [] [{ rec0 with since := 3 }]
    next (exec (.recordAgeing 0 0) s) (fun u => (u.curCore.cycle - 3).toNat % 2 ^ 16 = 0 ∧ u.curCore.records.length = 1) = true := by decide +kernel

/-! ### Launches and the rotation -/

/-- The world with its launch as given, its string free. -/
def withLaunch (l : Launch) : State := { world { Str.init with run := .free } with launches := [(5, l)] }

theorem test_LaunchLife_start : next (exec (.startMessage 5) (withLaunch { launch0 with phase := .admitted })) (fun u =>
    (u.launch 5).map (·.phase) = some .running ∧ u.net.map (fun f => (f.msg.dest, f.msg.hid, f.msg.src)) = [(.core 0, 0, 0xFFFF)]
      ∧ (u.curCore.on 5).map (·.mask) = some 2) = true := by decide +kernel

theorem test_LaunchLife_end : let l := { launch0 with ends := [(3, 0x11, true), (0, 0, true)] }
    (withLaunch l).ended 0 0 = some (5, l) ∧ next (exec (.launchEnd 0 0) { world str0 with launches := [(5, l)] }) (fun u =>
      (u.launch 5).map (fun l => (l.phase, l.ends)) = some (.ending 3 0x11 true, []) ∧ u.curStr.run = .stopped) = true := by decide +kernel

theorem test_LaunchLife_completion : let l := { launch0 with phase := .ending 3 0x11 true }
    let s := { withLaunch l with mem := [(sliceFlat 0 0x1000, 7)] }
    s.launchIdle 5 l = true ∧ next (exec (.completionRecordWrite 5) s) (fun u => u.launch 5 = none ∧ u.mem = []
      ∧ (u.vf 1).entries.map (fun e => (e.bits.toNat, e.notify)) = [(9 * 2 ^ 192 + 0x11 * 2 ^ 160 + 0x12345678 * 2 ^ 128 + 3 * 2 ^ 40 + 16, false)]) = true := by decide +kernel

theorem test_LaunchLife_replay : next (exec (.replay 5) (withLaunch { launch0 with replayDue := true })) (fun u =>
    (u.launch 5).map (fun l => (l.replays, l.replayDue)) = some (1, false) ∧ u.net.length = 1) = true := by decide +kernel

theorem test_LaunchLife_read : let s := { world str0 with vfs := [(1, { Vf.init with part := some 0, lrcfg := 0x24, lp := 1, lcount := 6 })] }
    next (exec (.launchRecordRead 1 (some 1)) s) (fun u => (u.vf 1).lh = 1 ∧ (u.vf 1).lcount = 7) = true := by decide +kernel

theorem test_Rotation_expiry : let q := { part0 with rot := .steady true, sched := some 1, qt := (part0.qt.set 2 (2 ^ 48 + 2 ^ 32)).set 3 (2 ^ 48 + 2 ^ 33) }
    let s : State := { world str0 with parts := [(0, q)] }
    let v : Vf := { Vf.init with part := some 0 }
    let r : State := { s with parts := [(0, { q with qpos := 3 })], vfs := [(1, v), (2, v)], launches := [(5, launch0), (6, { launch0 with vf := 2 })] }
    s.walkTable 0 = some 2 ∧ next (exec (.quantumExpiry 0) s) (fun u => (u.part 0).qpos = 3 ∧ (u.part 0).rot = .steady true) = true
      ∧ r.walkTable 0 = some 3 ∧ next (exec (.quantumExpiry 0) r) (fun u => (u.part 0).rot = .saving 1 2 ∧ (match u.curCore.sw with | .told 1 2 _ => true | _ => false) = true) = true := by decide +kernel

/-- The cores of the partition, those but core 0 having saved. -/
def cores0 (t : Str) (sw : CoreSw) : List (Nat × Core) :=
  (0, { core0 t with sw := sw }) :: (List.range 15).map (fun c => (c + 1, { Core.init with part := some 0, sw := .saved }))

theorem test_Rotation_switch : let s : State := { world str0 with cores := cores0 str0 (.told 1 2 0), mem := [(sliceFlat 0 0x1000, 7)] }
    s.vfStrs 0 1 = [0, 1] ∧ (s.liveCores 0).all (fun d => s.coreQuiet d 1) = true ∧ s.blockBase 0 1 = 0
      ∧ s.curCore.sw = .told 1 2 0 ∧ s.curCore.part = some 0 ∧ (s.vfStrs 0 1).all (fun k => !(s.curCore.str k).holdsSwitch) = true
      ∧ (s.vfStrs 0 1).all (fun k => (s.curCore.str k).act.all (fun a => !a.rst)) = true ∧ s.curCore.res.map (·.1) = [5] := by decide +kernel

theorem test_Rotation_block : let m := pieceBytes ((strPieces (withX str0 [(3, 0x77)])).take 4)
    m.num 0 8 = 0x1000 ∧ m.num 0x18 8 = 0x77 ∧ mxuHeader { Mxu.init with err := 0x22 } = 1 + 0x22 * 2 ^ 56 := by decide +kernel

theorem test_Rotation_switch_waits : let s : State := { world str0 with cores := (0, { core0 { str0 with sb := [store0] } with sw := .told 1 2 0 }) :: (cores0 str0 .none).drop 1 }
    s.coreQuiet 0 1 = false ∧ next (exec (.switch 0) s) (fun u => u = s) = true := by decide +kernel

/-- A save block with one string. -/
def save0 : SaveBlock := { live := [5], strs := [(0, str0)], records := [], rings := [], bce := [], mxu := Mxu.init, cycle := 0 }

theorem test_Rotation_go : let s : State := (world { Str.init with run := .free }).modCore 0 (fun co => { co with sw := .go 1, vf := none })
    let r : State := { s.modCore 0 (fun co => { co with vfs := [(1, { VfCore.init with saved := some save0 })] }) with mem := [(0x1001, 0x10), (0x1CA8, 7), (0x29005, 7), (0x2D000, 9)] }
    next (exec (.go 0) s) (fun u => u.curCore.vf = some 1 ∧ u.curCore.sw = .restored) = true
      ∧ next (exec (.go 0) r) (fun u => u.curStr = { str0 with seq := u.curStr.seq } ∧ u.mem.get (sliceFlat 0 0x1005) = 7 ∧ u.mem.get (sliceFlat 0 0x5000) = 0
        ∧ (u.curCore.vfc 1).saved = none) = true := by decide +kernel

theorem test_Rotation_start : let q := { part0 with rot := .restoring 1 }
    let s : State := { world str0 with parts := [(0, q)], cores := (List.range 16).map (fun c => (c, { core0 str0 with sw := .restored })) }
    next (exec (.quantumStart 0) s) (fun u => (u.part 0).sched = some 1 ∧ (u.part 0).rot = .steady true ∧ (u.core 15).sw = .none) = true := by decide +kernel

theorem test_Rotation_table : next (exec (.quantumTableWrite 0 31 0xFFFFFFFFFFFFFFFF) (world str0)) (fun u =>
    (u.part 0).qt.toList.getD 31 0 = 0x000101FFFFFFFFFF ∧ (u.part 0).qt.toList.getD 30 0 = 0) = true := by decide +kernel

/-! ### Walks, searches, errors, the stream unit -/

/-- A world whose core waits on a miss, with the memory given. -/
def withMiss (m : Miss) (mem : Memory) : State := { (world str0).modCore 0 (fun co => { co with misses := [m] }) with mem := mem }

theorem test_UnitEvents_walk : let q := { part0 with granules := List.range 16 }
    let s : State := { withMiss (.tlb 0 0x40000040) table0 with parts := [(0, q)] }
    let e : TlbEntry := { va := 0x40000000, size := 0x40000000, target := 0, host := false, home := false, hcl := 0 }
    walk table0 q 0x40000040 = .ok e ∧ next (exec (.tlbWalk 0) s) (fun u => u.curCore.tlb = [e, tlb0] ∧ u.curCore.misses = [] ∧ u.curStr.inHand = [.page 0x40000040 e]) = true
      ∧ next (exec (.tlbWalk 0) (withMiss (.tlb 0 0x80000000) table0)) (fun u => u.curStr.inHand = [.noPage 0x80000000 3]) = true := by decide +kernel

theorem test_UnitEvents_search : let q := { part0 with ownlim := 14 }
    let s (off : Nat) : State := { withMiss (.plb 0 9 0 off) (dir0 1) with parts := [(0, q)] }
    next (exec (.plbSearch 0) (s 0x40)) (fun u => u.curCore.plb.length = 3 ∧ u.curStr.inHand.length = 1) = true
      ∧ next (exec (.plbSearch 0) (s 0x100)) (fun u => u.curCore.plb.length = 2 ∧ u.curStr.inHand = [.noRange 9 0 0x100]) = true := by decide +kernel

theorem test_UnitEvents_error : let s := world { str0 with lds := [{ load0 with evs := [⟨.phys 0x40, [(4, 0)]⟩] }] }
    next (exec (.errorResponse 0 0 0 true false) s) (fun u => u.curStr.trapc = 0x21 ∧ u.curStr.trapv = 0x44 ∧ u.curStr.trappc = 0xFFC) = true
      ∧ next (exec (.errorResponse 0 0 0 true true) s) (fun u => u.curStr.trapc = 0x16) = true
      ∧ crosses 0 (.phys 0x40) = true ∧ next (exec (.errorResponse 0 0 0 true false) s) (fun u => (u.part 0).meters.toList.getD 13 0 = 1) = true
      ∧ next (exec (.errorResponse 0 0 0 false false) (world { str0 with sb := [store0] })) (fun u => u.curStr.sb = []
        ∧ u.net.map (fun f => f.msg.payload.toNat % 2 ^ 128) = [0x43 * 2 ^ 64 + 0x300021]) = true := by decide +kernel

theorem test_UnitEvents_stream : let s : State := { world (withS strm0) with mem := Memory.putNum [] 0x100 64 9 }
    eltWanted s.curCore 0 0 strm0 0 = true ∧ okWith ((check (streamWho s 0 0 strm0) .r 0x100 64 64).run s) (fun pl s1 => pl = .phys 0x100 ∧ badAt s1 (some 5) 0x100 0x100 = none) = true
      ∧ next (exec (.streamElementRead 0 0 0 0) s) (fun u => (u.curStr.st.toList.getD 0 none).map (·.fetched) = some [(0, .data 9)]) = true
      ∧ next (exec (.streamPushPerform 0 0 0 0) (world (withS { strm0 with dst := true, pos := 1, pushes := [⟨0, 0x100, 0x55, [⟨.phys 0x100, [(3, 0)]⟩], []⟩] }))) (fun u =>
        u.mem = [(0x103, 0x55)] ∧ (u.curStr.st.toList.getD 0 none).map (·.pushes) = some []) = true := by decide +kernel

/-! ### Rights -/

/-- Owner 7 gives owner 9 the right R over 0x100 bytes at 0x100. -/
def grant0 : RightsReq := { core := 0, str := 0, isGrant := true, xa := 0x2A00000000000100, xb := 0x100, xc := 9 + 2 ^ 16, owner := 7 }

/-- A partition with a request in its rights unit, and tables in which owner 7 has D and R. -/
def withReq (r : RightsReq) (v w : Bool) (h : Option HoldReq) (wait : Wait) : State :=
  let q := { part0 with ownlim := 14, rights := { queue := [r], validated := v, written := w } }
  let s : State := { (world { str0 with wait := wait }) with mem := dir0 17, parts := [(0, q)] }
  { s with cores := (List.range 16).map (fun c => (c, { s.curCore with hold := h })) }

/-- The HOLD of the request at a core that has acknowledged it. -/
def hold0 : HoldReq := { owners := some [9], pkg := 0, lo := 0x100, hi := 0x200, drain := false, removed := true, acked := true }

theorem test_RightsChanges : let w (t : Str) : State := world (withX t [(1, 0x100), (2, 0x40), (4, 5)])
    let s := world (withX str0 [(1, 0x100), (2, 0x40), (4, 2 ^ 25)])
    calm s = true ∧ traps (.revoke 3 1 2 4) s 2 0 0 = true ∧ traps (.grant 3 1 2 4) s 2 0 0 = true
      ∧ next (exec (.grant 3 1 2 4) (w str0)) (fun u => u.curStr.wait = .rights 3
        ∧ (u.part 0).rights.queue.map (fun r => (r.xa, r.xb, r.owner)) = [(0x100, 0x40, 7)]) = true
      ∧ next (exec (.grant 3 1 2 4) (w { str0 with wait := .rights 3 })) (fun u => u.curStr.wait = .rights 3 ∧ u.curStr.pc = 0x1000) = true := by
  decide +kernel

theorem test_RightsChanges_unit : let s := withReq grant0 false false none (.rights 3)
    let b := withReq { grant0 with xb := 0 } false false none (.rights 3)
    rightsStatus s.mem (s.part 0) grant0 = 0 ∧ rightsStatus b.mem (b.part 0) { grant0 with xb := 0 } = 1
      ∧ next (exec (.rightsRequest 0) s) (fun u => (u.part 0).rights.validated = true ∧ (u.core 3).hold.map (fun h => (h.lo, h.hi, h.drain, h.acked)) = some (0x100, 0x200, false, false)) = true
      ∧ next (exec (.rightsRequest 0) b) (fun u => (u.part 0).rights.queue = [] ∧ u.curStr.wait = .none ∧ u.curStr.getX 3 = 1 ∧ u.curStr.pc = 0x1004) = true := by decide +kernel

theorem test_RightsChanges_write : let s := withReq grant0 true false (some hold0) (.rights 3)
    next (exec (.rightsTableWrite 0) s) (fun u => (u.part 0).rights.written = true ∧ ((search u.mem (s.part 0) 9 0 0x100).map (fun e => (e.rights, e.grantor, e.colour, e.len))) = some (1, 7, 0x2A, 0x100)) = true
      ∧ next (exec (.release 0) (withReq grant0 true true (some hold0) (.rights 3))) (fun u => u.curStr.wait = .none ∧ u.curStr.getX 3 = 0 ∧ u.curStr.pc = 0x1004 ∧ (u.core 3).hold = none) = true := by
  decide +kernel

theorem test_RightsChanges_hold : let h := { hold0 with owners := some [7], removed := false, acked := false, drain := true }
    let s (t : Str) (h : HoldReq) : State := (world t).modCore 0 (fun co => { co with hold := some h })
    next (exec (.hold 0) (s str0 h)) (fun u => u.curCore.plb = [plb0 0] ∧ u.curCore.hold = some { h with removed := true }) = true
      ∧ next (exec (.holdAcknowledge 0) (s str0 { h with removed := true })) (fun u => u.curCore.hold = some { h with removed := true, acked := true }) = true
      ∧ next (exec (.holdAcknowledge 0) (s { str0 with sb := [{ store0 with ptr := 0x100 }] } { h with removed := true })) (fun u => u.curCore.hold = some { h with removed := true }) = true := by
  decide +kernel

/-! ### Entries, notices and resets -/

/-- A notice store of 32 bytes for VF 1. -/
def notice0 : Store := { store0 with evs := [⟨.notice 1, (List.range 32).map (fun j => (j, j))⟩], data := 0x77 }

/-- A world with VF 1 as given. -/
def withVf (t : Str) (v : Vf) : State := { world t with vfs := [(1, { v with part := some 0 })] }

/-- A VF whose event ring has 16 slots. -/
def vf0 : Vf := { Vf.init with ercfg := 0x24, hwhi := 0xFFFFFFFFFFFFFFFF, busMaster := true }

/-- An entry that waits. -/
def entry0 : EventEntry := { bits := 0x10, notify := true, msgOf := none }

theorem test_NoticesAndReset_post : let s := withVf { str0 with sb := [notice0] } vf0
    storeReady 0 s.curStr 0 0 = true
      ∧ next (exec (.noticePost 0 0 0) s) (fun u => (u.vf 1).entries.map (·.bits.toNat) = [0x77 * 2 ^ 256 + 64] ∧ u.curStr.sb = []) = true
      ∧ next (exec (.noticePost 0 0 0) (withVf { str0 with sb := [notice0] } { vf0 with ed := 16 })) (fun u => (u.vf 1).entries = [] ∧ u.curStr.sb = [notice0]) = true
      ∧ next (exec (.noticePost 0 0 0) (withVf { str0 with sb := [notice0] } { vf0 with ee := true, stale := 0xFFFFFFFF })) (fun u =>
        (u.vf 1).stale = 0xFFFFFFFF ∧ u.curStr.sb = []) = true := by decide +kernel

theorem test_NoticesAndReset_check : next (exec (.noticePost 0 0 0) (withVf { str0 with sb := [notice0] } { vf0 with erchk := true, ercfg := 0x34 })) (fun u =>
    (u.vf 1).stale = 1 ∧ (u.vf 1).ee = true ∧ (u.vf 1).ecode = 1 ∧ (u.vf 1).entries = [] ∧ u.curStr.sb = [] ∧ u.out = [.msix 1 0 false]) = true := by decide +kernel

theorem test_NoticesAndReset_entry : let s := withVf str0 { vf0 with entries := [entry0], ed := 15 }
    ringCode (s.vf 1) 0x24 0 64 = 0
      ∧ next (exec (.eventEntryWrite 1 true) s) (fun u => u.out = [.eventEntry 1 15 1 63 0x11 true, .eventEntry 1 15 0 1 0x11 false, .msix 1 1 false] ∧ (u.vf 1).entries = [] ∧ (u.vf 1).ed = 16) = true
      ∧ next (exec (.eventEntryWrite 1 false) s) (fun u => (u.vf 1).ee = true ∧ (u.vf 1).ecode = 5) = true
      ∧ next (exec (.eventEntryWrite 1 true) (withVf str0 { vf0 with entries := [entry0], busMaster := false })) (fun u => (u.vf 1).ecode = 5) = true
      ∧ next (exec (.eventEntryWrite 1 true) (withVf str0 { vf0 with entries := [entry0], erchk := true, ercfg := 0x34 })) (fun u => (u.vf 1).ecode = 1 ∧ u.out = [.msix 1 0 false]) = true := by
  decide +kernel

theorem test_NoticesAndReset_scrub : let a := 2 ^ 41 + 0x40
    let w : State := { world str0 with ctrs := [(ctrKey 0 0x7F, 1), (ctrKey 1 0x1040, 1)] }
    isSram a = true ∧ w.written 0x7F = true ∧ (world str0).written 0x7F = false
      ∧ next (exec (.patrolScrub (.phys 0x7F) .sector) w) (fun u => u.bad = [(2, .poisoned), (3, .poisoned)]) = true
      ∧ next (exec (.patrolScrub (.phys 0x7F) .line) w) (fun u => u.bad = [(2, .uncorrectable), (3, .uncorrectable)]) = true
      ∧ next (exec (.patrolScrub (.phys 0x7F) .line) (world str0)) (fun u => u.bad = []) = true
      ∧ next (exec (.patrolScrub (.phys a) (.bank 17)) (world str0)) (fun u => u.badBanks = [(shareOf a, 17)] ∧ u.root.bankReports = [(shareOf a, 17)]) = true
      ∧ w.holderOf 0x1040 = some 0 ∧ w.nodeRead 0x1040 1 = true ∧ next (exec (.patrolScrub (.phys 0x1040) (.node 1)) w) (fun u =>
        (u.part 0).spans = [⟨0, 0x1000, spanLen 1, 1⟩] ∧ (u.part 0).notices = (u.part 0).spans) = true := by decide +kernel

theorem test_NoticesAndReset_notice : let x : Span := ⟨0, 0x1000, 0x1000, 1⟩
    let s : State := { world str0 with parts := [(0, { part0 with notices := [x] })], mem := Memory.putNum [] 0x4000020 4 65 }
    next (exec (.poisonNotice 0) { s with mem := Memory.putNum s.mem 0x4000024 4 60 }) (fun u => u.mem.num 0x4041020 8 = 0x1000010000001000 ∧ u.mem.num 0x4000020 4 = 66
      ∧ (u.part 0).noticeDue = [devicePtr 0 0x4041020]) = true := by decide +kernel

theorem test_NoticesAndReset_trap : let t := { mon0 with wait := .idle, act := none }
    let s : State := { world t with parts := [(0, { part0 with noticeDue := [0x99] })] }
    s.liveCores 0 = List.range 16 ∧ s.curCore.noticeStr = some (0, 0x1004)
      ∧ next (exec (.noticeTrap 0) s) (fun u => u.curStr.trapc = 0x120 ∧ u.curStr.trapv = 0x99 ∧ u.curStr.trappc = 0x1004 ∧ (u.part 0).noticeDue = []) = true := by
  decide +kernel

theorem test_NoticesAndReset_report : let s := (world str0).modCore 0 (fun co => { co with monFault := some ⟨0x11, 0, 0⟩ })
    next (exec (.monitorFaultReport 0) s) (fun u => (u.part 0).pstate = .fenced ∧ u.curStr.run ≠ .running ∧ u.curCore.monFault = none) = true := by decide +kernel

theorem test_NoticesAndReset_drain : let s (k : Bool) : State := { world { Str.init with run := .stopped } with launches := [], parts := [(0, { part0 with pstate := .fenced, resetKind := some k })] }
    (s true).drainedPart 0 = true ∧ next (exec (.resetDrainComplete 0 none) (s true)) (fun u => (u.part 0).pstate = .free ∧ u.curCore.part = none) = true
      ∧ next (exec (.resetDrainComplete 0 (some [])) (s false)) (fun u => (u.part 0).pstate = .stopped ∧ (u.part 0).keyGen = 1 ∧ u.curCore.mentry = firstEntry 0) = true := by
  decide +kernel

/-! ### The mailbox -/

/-- A world whose mailbox holds a command for partition 0 and VF 2, its partition in a state. -/
def withCmd (op : Nat) (st : PState) (args : List (Nat × Word)) : State :=
  let b : Mailbox := { begun := false, cmd := BitVec.ofNat 64 (2 ^ 63 + 2 * 2 ^ 16 + op), stat := 0,
                       args := args.foldl (fun v a => v.setIfInBounds a.1 a.2) (Vector.replicate 8 0), res := 0,
                       run := BitVec.ofNat 64 (2 ^ 63 + 2 * 2 ^ 16 + op) }
  let s : State := world { Str.init with run := .free }
  { s with launches := [], vfs := [], parts := [(0, { part0 with pstate := st })], root := { Root.init with mbox := b } }

/-- The command has ended with a status. -/
def ended (u : State) (st : Nat) : Bool := u.root.mbox.stat.toNat % 256 == st && !u.root.mbox.go

theorem test_MailboxCommands_status : let s := withCmd 12 .stopped []
    s.root.mbox.go = true ∧ next (exec .pmcmdUnknownOp s) (fun u => ended u 1) = true
      ∧ next (exec .start (withCmd 7 .running [])) (fun u => ended u 3) = true ∧ next (exec (.create none) (withCmd 1 .running [])) (fun u => ended u 3) = true
      ∧ (withCmd 1 .free []).createFails = some 5 ∧ next (exec (.create none) (withCmd 1 .free [])) (fun u => ended u 5) = true := by decide +kernel

theorem test_MailboxCommands_create : let s := { withCmd 1 .free [(0, 1), (4, 4), (5, 0x8000000)] with parts := [] }
    s.createFails = none ∧ s.arg 7 % 2 ^ 24 = 0 ∧ next (exec (.create (some [])) s) (fun u => ended u 0 ∧ (u.part 0).pstate = .stopped ∧ (u.part 0).granules = [2]
      ∧ u.str 0 0 = monitorStr 0 0x8000000) = true := by decide +kernel

theorem test_MailboxCommands_granules : let give := withCmd 2 .stopped [(0, 0x8000000), (1, 2), (2, 1)]
    let take := withCmd 2 .stopped [(1, 1)]
    give.argGranules = some [2, 3] ∧ give.granuleFree 2 = true ∧ next (exec .granuleGive give) (fun u => ended u 0 ∧ (u.part 0).granules = [0, 1, 2, 3]) = true
      ∧ take.unused 0 0 = true ∧ next (exec .granuleTake take) (fun u => ended u 0 ∧ (u.part 0).granules = [1]) = true ∧ (State.initGranule { take with mem := [(5, 7)] } 0).mem = []
      ∧ next (exec .shadowpool (withCmd 5 .stopped [(1, 1)])) (fun u => ended u 0 ∧ (u.part 0).pool = [0]) = true := by decide +kernel

theorem test_MailboxCommands_vf : let s := withCmd 3 .stopped [(0, 0), (1, 0x1000000), (2, 1)]
    s.areaOk 0 0 (16 * 0xA8000) = true ∧ s.areaOk 0 0x1000000 0x10000 = true
      ∧ next (exec .bindvf s) (fun u => ended u 0 ∧ (u.vf 2).part = some 0 ∧ (u.vf 2).pfree.length = 16) = true
      ∧ next (exec .unbindvf { withCmd 4 .stopped [] with vfs := [(2, { Vf.init with part := some 0 })] }) (fun u => ended u 0 ∧ (u.vf 2).part = none) = true
      ∧ next (exec .resetvf { withCmd 11 .running [] with vfs := [(2, { Vf.init with part := some 0 })] }) (fun u => ended u 0 ∧ (u.vf 2).incarn = 1) = true := by
  decide +kernel

theorem test_MailboxCommands_domain : let s := withCmd 6 .stopped [(0, 2 ^ 32 + 3 * 2 ^ 16 + 9)]
    let m : Member := ⟨9, 3, true, false, 0⟩
    next (exec (.domainAdd true) s) (fun u => ended u 0 ∧ u.root.mbox.res = 1 ∧ (u.part 0).members = [{ m with peerAdded := true }]) = true
      ∧ next (exec .domainRemove { withCmd 6 .stopped [(0, 9)] with parts := [(0, { part0 with pstate := .stopped, members := [m] })] }) (fun u => ended u 0 ∧ (u.part 0).members = []) = true
      ∧ next (exec (.domainMemberActive 0 9) { s with parts := [(0, { part0 with pstate := .stopped, members := [m] })] }) (fun u => (u.part 0).member 9 = true) = true := by decide +kernel

theorem test_MailboxCommands_run : next (exec .start (withCmd 7 .stopped [])) (fun u => ended u 0 ∧ (u.part 0).pstate = .running) = true
    ∧ next (exec .stop (withCmd 8 .running [])) (fun u => ended u 0 ∧ (u.part 0).pstate = .stopped ∧ u.curCore.vf = none) = true
    ∧ next (exec .stop { withCmd 8 .running [] with launches := [(5, launch0)] }) (fun u => u.root.mbox.begun = true ∧ (u.part 0).stopping = true) = true
    ∧ next (exec .reset (withCmd 9 .running [])) (fun u => (u.part 0).pstate = .fenced ∧ (u.part 0).resetKind = some false ∧ u.root.mbox.begun = true) = true
    ∧ next (exec .teardown (withCmd 10 .stopped [])) (fun u => (u.part 0).resetKind = some true) = true := by decide +kernel

/-! ### The host -/

theorem test_HostRegisters : let v := { vf0 with lrcfg := 0x24 }
    let s := withVf str0 v
    s.hears 1 = true ∧ next (exec (.lrdbWrite 1 16) s) (fun u => (u.vf 1).lp = 16 ∧ (u.vf 1).le = false) = true
      ∧ next (exec (.lrdbWrite 1 17) s) (fun u => (u.vf 1).lcode = 3) = true ∧ next (exec (.lrdbWrite 1 0x10000) s) (fun u => (u.vf 1).lcode = 1) = true
      ∧ next (exec (.lrdbWrite 1 1) (withVf str0 { v with hwlo := 0x1000 })) (fun u => (u.vf 1).lcode = 2) = true
      ∧ next (exec (.erdbWrite 1 3) (withVf str0 { v with ed := 4 })) (fun u => (u.vf 1).ep = 3) = true ∧ next (exec (.erdbWrite 1 17) s) (fun u => (u.vf 1).ecode = 3) = true
      ∧ next (exec (.ercfgWrite 1 0) s) (fun u => (u.vf 1).ercfg = 0) = true ∧ next (exec (.lrcfgWrite 1 0x25) s) (fun u => (u.vf 1).lrcfg = 0x25) = true := by decide +kernel

theorem test_HostRegisters_locked : let s := withVf str0 { vf0 with tdi := .locked }
    next (exec (.registerWrite 1 0 (.write 0x40)) (withVf str0 vf0)) (fun u => (u.vf 1).lrbase = 0x40) = true ∧ next (exec (.registerWrite 1 0 (.write 0x40)) s) (fun u => (u.vf 1).tdi = .error ∧ (u.vf 1).incarn = 1) = true
      ∧ next (exec (.startInterface 1) s) (fun u => (u.vf 1).tdi = .run) = true ∧ next (exec (.lockInterface 1) (withVf str0 vf0)) (fun u => (u.vf 1).tdi = .locked) = true
      ∧ next (exec (.stopInterface 1) s) (fun u => (u.vf 1).tdi = .unlocked) = true ∧ next (exec (.configurationWrite 1 .busMaster 0) (withVf str0 vf0)) (fun u => (u.vf 1).busMaster = false) = true
      ∧ next (exec (.ideIntegrityFailure 1 2) s) (fun u => u.dev.insecure = [2] ∧ u.vfs = s.vfs) = true
      ∧ next (exec (.registerWrite 0 0x40000 (.write 0xFFFFFFFFFFFFFFFF)) (world str0)) (fun u => u.root.mbox.cmd = 0x8000000001FF0FFF) = true := by decide +kernel

theorem test_HostRegisters_message : let d : BitVec 512 := BitVec.ofNat 512 (9 * 2 ^ 308 + 2 * 2 ^ 296 + 0x33 * 2 ^ 256 + 7)
    let s := withVf str0 vf0
    (s.knownSerial 1 9).isSome = true ∧ s.knownSerial 1 0 = none
      ∧ next (exec (.hmsgPost 1 64 d) s) (fun u => u.net.map (fun f => (f.msg.dest, f.msg.hid, f.msg.key, f.msg.payload)) = [(.core 2, 62, 0x33, 7)]) = true
      ∧ next (exec (.hmsgPost 1 64 0) s) (fun u => (u.vf 1).stale = 1 ∧ u.net = []) = true ∧ next (exec (.agreplyWrite 1 0) s) (fun u => (u.vf 1).stale = 1) = true := by
  decide +kernel

/-- A world in which an atomic waits for the host agent. -/
def withAgent : State :=
  withVf { str0 with lds := [{ load0 with dst := .amo 3 .add 8 0 0 0, evs := [⟨.host 1 0x40 0x40, [(0, 0)]⟩] }] } { vf0 with agents := [⟨6, 0, 0, 0⟩] }

theorem test_HostRegisters_agent : let d : BitVec 256 := BitVec.ofNat 256 (0x1234 * 2 ^ 128 + 2 ^ 17 + 2 ^ 16 + 6)
    next (exec (.agreplyWrite 1 d) withAgent) (fun u => u.curStr.getX 3 = 0x1234 ∧ u.curStr.lds = [] ∧ u.curStr.fflg = 1 ∧ (u.vf 1).agents = []) = true
      ∧ next (exec (.agentTimeout 1 6) withAgent) (fun u => u.curStr.trapc = 0x41 ∧ u.curStr.trapv = 0x44) = true := by decide +kernel

theorem test_HostLinkEvents_ats : let m := Miss.host 0 1 5 true 0
    let s : State := (withVf str0 vf0).modCore 0 (fun co => { co with misses := [m] })
    let p : State := (withVf str0 { vf0 with pri := [(0, 0, 5, true)] }).modCore 0 (fun co => { co with misses := [.host 0 1 5 true 1] })
    s.pageMiss 1 5 (fun st => st == 0 || st == 2) = some (0, m)
      ∧ next (exec (.atsTranslationCompletion 1 ⟨0x5040, 0x77000⟩ true true) s) (fun u => u.curCore.misses = [] ∧ u.ats = [⟨1, 0, 5, 0x77000, true, true⟩]) = true
      ∧ next (exec (.atsTranslationCompletion 1 ⟨0x5040, 0⟩ false false) s) (fun u => u.out = [.pageRequest 1 5 0 0 true] ∧ (u.vf 1).pri = [(0, 0, 5, true)]) = true
      ∧ next (exec (.pageRequestGroupResponse 1 0 0 true) p) (fun u => u.out = [.atsRequest 1 5] ∧ (u.vf 1).pri = []) = true
      ∧ next (exec (.pageRequestGroupResponse 1 0 0 false) p) (fun u => u.curStr.inHand = [.noHost 1 5] ∧ u.curCore.misses = []) = true
      ∧ next (exec (.atsInvalidateRequest 1 0x5000 0x1000) { withVf str0 vf0 with ats := [⟨1, 0, 5, 0x77000, true, true⟩, ⟨1, 0, 6, 0x78000, true, true⟩] }) (fun u =>
        u.ats = [⟨1, 0, 6, 0x78000, true, true⟩] ∧ u.out = [.invalidateDone 1 5 0x1000]) = true := by decide +kernel

theorem test_HostLinkEvents_completion : let e : SectorEv := ⟨.host 1 0x40 0x40, (List.range 8).map (fun j => (j, j))⟩
    let s : State := { world { str0 with lds := [{ load0 with dst := .x 3 .d, evs := [e] }] } with hostReqs := [(4, .load 0 0 0 e)] }
    next (exec (.hostCompletion 4 .ok 0x55) s) (fun u => u.curStr.getX 3 = 0x55 ∧ u.hostReqs = []) = true
      ∧ next (exec (.completionTimeout 4) s) (fun u => u.curStr.trapc = 0x41 ∧ u.hostReqs = []) = true
      ∧ next (exec (.hostCompletion 4 .abort 0) { world { str0 with flush := some 4 } with hostReqs := [(4, .flush 0 0)] }) (fun u => u.curStr.flush = none) = true := by decide +kernel

theorem test_HostLinkEvents_novino : let q := { part0 with granules := List.range 16, members := [⟨9, 3, true, true, 0⟩] }
    let s : State := { world str0 with mem := (0x40, 7) :: table0, parts := [(0, q)] }
    (s.part 0).member 9 = true ∧ (walk s.mem (s.part 0) 0x40000040).isOk = true
      ∧ next (exec (.novinoRequest 0 9 0x40000040 2 .read 0) s) (fun u => u.out = [.novinoReply 9 [(0, 7), (1, 0)] none]) = true
      ∧ next (exec (.novinoRequest 0 9 0x40000040 2 (.write false) 0x1122) s)
        (fun u => u.bad = [] ∧ u.curStr = s.curStr) = true
      ∧ next (exec (.novinoRequest 0 9 0x40000040 2 (.write true) 0x1122) s) (fun u => mfind u.bad 2 = some .poisoned) = true
      ∧ next (exec (.novinoRequest 0 9 0x40000040 2 (.write false) 0x1122) s) (fun u => u.mem.num 0x40 2 = 0x1122 ∧ u.out = [.novinoReply 9 [] none]) = true
      ∧ next (exec (.novinoRequest 0 9 0x40000040 8 (.atomic .add) 3) s) (fun u => u.mem.num 0x40 8 = 10) = true
      ∧ next (exec (.novinoRequest 0 8 0x40000040 8 .read 0) s) (fun u => u.out = [.novinoNack 8 false]) = true
      ∧ next (exec (.rekey 0 9) s) (fun u => (u.part 0).members.map (·.rekeys) = [1]) = true := by decide +kernel

theorem test_HostLinkEvents_links : next (exec (.linkTraining 35 2) (world str0)) (fun u => u.dev.ports = [(35, 1)]) = true
    ∧ next (exec (.linkTraining 36 5) (world str0)) (fun u => u.dev.ports = [(36, 5)]) = true := by decide +kernel

/-- A world with an SPDM connection of function 1. -/
def withSpdm (x : Spdm) : State := { world str0 with root := { Root.init with spdm := [(1, x)] } }

theorem test_SpdmReplies : let a : Spdm := ⟨.algorithms, 0x12, [], [], [], .none⟩
    next (exec (.getVersion 1) (withSpdm a)) (fun u => (u.spdmOf 1).state = .version) = true
      ∧ next (exec (.getCapabilities 1 0x12) (withSpdm { a with state := .version })) (fun u => (u.spdmOf 1).state = .capabilities) = true
      ∧ next (exec (.getCapabilities 1 0x14) (withSpdm { a with state := .version })) (fun u => u.out = [.spdm 1 0x7F 0x41 []]) = true
      ∧ next (exec (.negotiateAlgorithms 1 0x12) (withSpdm { a with state := .capabilities })) (fun u => (u.spdmOf 1).state = .algorithms) = true
      ∧ next (exec (.getDigests 1 0x12) (withSpdm { a with state := .version })) (fun u => u.out = [.spdm 1 0x7F 4 []]) = true
      ∧ next (exec (.challenge 1 0x13 0) (withSpdm a)) (fun u => u.out = [.spdm 1 0x7F 0x41 []]) = true
      ∧ next (exec (.keyExchange 1 0x12 0) (withSpdm a)) (fun u => (u.spdmOf 1).session = .exchanged) = true
      ∧ next (exec (.endSession 1 0x12) (withSpdm { a with session := .open })) (fun u => (u.spdmOf 1).session = .none) = true
      ∧ next (exec (.unsupportedSpdmRequest 1 0x85) (withSpdm a)) (fun u => u.out = [.spdm 1 0x7F 7 []]) = true
      ∧ next (exec (.ideKmKeyProg 1 64) (withSpdm { a with session := .open })) (fun u => (u.vf 1).ideKeyed = [64]) = true
      ∧ 0 ∈ (withSpdm a).readable 1 := by decide +kernel

/-- A connection that has exchanged keys. -/
def exchanged0 : Spdm := ⟨.algorithms, 0x12, [], [], [], .exchanged⟩

theorem test_SpdmReplies_finish : (withSpdm exchanged0).dev.rdy = true ∧ ((withSpdm exchanged0).spdmOf 1).agreed = true
    ∧ ∀ ok, (withSpdm exchanged0).finishOk 1 0 = ok → next (exec (.finish 1 0x12 0) (withSpdm exchanged0)) (fun u =>
      (u.spdmOf 1).session = (if ok then .open else .exchanged) ∧ u.out.length = 1) = true := by
  refine ⟨by decide +kernel, by decide +kernel, ?_⟩
  intro ok h
  have e (b : Bool) : b = (withSpdm exchanged0).finishOk 1 0 → exec (.finish 1 0x12 0) (withSpdm exchanged0)
      = .next (if b then (withSpdm exchanged0).spdmReply 1 (0x65, 0, (withSpdm exchanged0).opaqueBody 1) []
          { exchanged0 with session := .open, keys := exchanged0.pair (0xE5, 0, leBytes 32 0) (0x65, 0, (withSpdm exchanged0).opaqueBody 1) }
        else (withSpdm exchanged0).spdmError 1 0x06) := by rintro rfl; rfl
  rw [e ok h.symm]
  cases ok <;> decide +kernel

/-! ### Wear and power -/

/-- A world with the wear of core 0 given. -/
def withWear (w : Wear) : State := (world str0).modCore 0 (fun co => { co with wear := w })

/-- Wear of a core with baselines of 1024 fs and 1024 mΩ. -/
def wear0 : Wear := { Wear.init with btib := 1024, emb := 1024 }

theorem test_WearAndPower_sample : next (.next ((withWear { wear0 with cntDerated := 3 }).sampleCore 0 1087 1151)) (fun u => u.curCore.wear.cntDerated = 0 ∧ u.curCore.wear.state = .service) = true
    ∧ next (.next ((withWear { wear0 with cntDerated := 2 }).sampleCore 0 1088 0)) (fun u => u.curCore.wear.cntDerated = 3 ∧ u.curCore.wear.state = .service) = true
    ∧ next (.next ((withWear { wear0 with cntDerated := 3 }).sampleCore 0 1088 0)) (fun u => u.curCore.wear.state = .derated) = true
    ∧ next (.next ((withWear { wear0 with cntDrained := 3 }).sampleCore 0 1120 0)) (fun u => u.curCore.wear.state = .drained
      ∧ u.net.map (fun f => (f.msg.launch, f.msg.payload.toNat % 2 ^ 64)) = [(5, 0x400060)]) = true
    ∧ next (.next (((withWear { wear0 with cntDrained := 3 }).modCore 0 (fun co => { co with res := [] })).sampleCore 0 0 1216)) (fun u => u.curCore.wear.state = .retired) = true := by
  decide +kernel

theorem test_WearAndPower_records : let w : Wear := { Wear.init with wear := 5 * 2 ^ 24, bti := 3, em := 4, cntDerated := 2 }
    next (exec .lifetimeRecordWrite (withWear w)) (fun u => u.root.flash = [(0, w.record)]) = true ∧ Wear.ofRecord w.record = w
      ∧ next (exec .orderlyShutdown (withWear w)) (fun u => u.root.flash = [(0, w.record)]) = true
      ∧ next (exec (.stressFactorUpdate 0 0) (withWear w)) (fun u => u.curCore.wear.stress = 1) = true
      ∧ next (exec (.throttle 0 true) (withWear w)) (fun u => u.curCore.wear.throttled = true) = true
      ∧ next (exec (.thermalTrip 0) (withWear w)) (fun u => (u.part 0).pstate = .fenced ∧ u.dev.powered = true ∧ u.dev.tripped = true) = true
      ∧ next (exec (.thermalTrip 0) { withWear w with parts := [] }) (fun u => u.dev.powered = false ∧ u.curStr.run = .free) = true := by decide +kernel

theorem test_WearAndPower_power : next (exec .fundamentalReset (world str0)) (fun u => u.cores = [] ∧ u.parts = [] ∧ u.dev.rdy = false) = true
    ∧ next (exec .powerLoss (world str0)) (fun u => u.cores = [] ∧ u.dev.powered = false) = true
    ∧ traps (.illegalEncoding 0) (world str0) 1 0 0 = true := by decide +kernel

theorem test_WearAndPower_bring_up : Root.init.bootFails = 1 ∧ next (exec (.powerOn none) State.reset) (fun u => u.dev.fail = true ∧ u.dev.bstep = 1 ∧ u.cores = []) = true := by
  decide +kernel

/-- A stage-1 image with an empty body, signed with the key whose public point is the base point. -/
def image0 : List Byte :=
  List.replicate 0x40 0 ++ (leBytes 48 ecG.1).reverse ++ (leBytes 48 ecG.2).reverse
    ++ (leBytes 48 0xaa87ca22be8b05378eb1c71ef320ad746e1d3b628ba79b9859f741e082542a385502f25dbf55296c3a545e3872760ab7).reverse
    ++ (leBytes 48 0x887d09343f6671972be1bd654205e6895b017c00d064a50313161c3fdd45894e397a58ac425bf3891ac7756a439e9b68).reverse
    ++ List.replicate 0x100 0

/-- The package at power-on with that image in flash, and the hash of its key in the fuses. -/
def signed0 : State :=
  { State.reset with root := { Root.init with stage1 := image0, keyHash :=
      0x654b811f19e108eab70600d86aa5f04bfad296f7d87d69500977a9c8d122aa9478e155e5cfb05280eb82b571b14d9da1 } }

theorem test_WearAndPower_ready : signed0.root.bootFails = 0 := by decide +kernel

theorem test_signature : ecVerify 1 ecG.1 ecG.2 ecG.1 ecG.1 = 1 ∧ ecVerify 1 ecG.1 1 1 1 = 3 ∧ ecVerify 1 ecG.1 ecG.2 0 1 = 2 := by decide +kernel

/-! ### Further clauses -/

theorem test_Ready : let t := { withX str0 [(1, 3), (2, 4)] with lds := [{ load0 with dst := .x 9 .w, sure := true }] }
    let s := world t
    t.lds.all (fun l => l.sure && [3, 1, 2].all (fun r => !l.dst.regs.contains r)) = true ∧ x3 (.add 3 1 2) s 7 = true
      ∧ went (.jal 5 2) s (t.setX 5 0x1004) 0x1008 = true := by decide +kernel

theorem test_MonitorInstructions_wake : let s := world { mon0 with wait := .idle }
    ((s.wakeIdle 0).str 0 0).pc = 0x1004 ∧ ((s.wakeIdle 0).str 0 0).wait = .none := by decide +kernel

theorem test_ControlRegisterWrites_owner : let s := world (withX mon0 [(2, 0x4000)])
    s.ownLimit 0 ≤ 0x4000 ∧ next (exec (.csrw 3 2 0x000) s) (fun u => u.curCore.monFault = some ⟨1, 0, 0⟩ ∧ u.curStr.owner = 0) = true := by decide +kernel

theorem test_Arrivals_room : let s := withNet [flight0] (List.replicate 256 rec0)
    s.arrives flight0 = true ∧ launch0.qspn = 0 ∧ (List.replicate 256 rec0).all (fun r => !isRecordOf flight0.msg r) = true
      ∧ next (exec (.messageArrival 0 true) s) (fun u => u.net = [flight0] ∧ u.curCore.records.length = 256 ∧ u.arrives flight0 = false) = true := by decide +kernel

theorem test_Arrivals_ending : let s : State := { withNet [flight0] [] with launches := [(5, { launch0 with phase := .ending 3 0 false })] }
    s.arrives flight0 = true ∧ next (exec (.messageArrival 0 true) s) (fun u => u.net = [] ∧ u.curCore.records = [] ∧ mget 0 u.counts flight0.unit = 1) = true := by
  decide +kernel

theorem test_LaunchLife_commit : let key := shadowKey 0 1
    let l := { launch0 with phase := .ending 0 0 true, shadow := 1 }
    let s : State := { withLaunch l with redirects := [(key, 3)], mem := [(0x3005, 7)] }
    l.commitKey = key ∧ key ≠ 0 ∧ s.mayComplete 5 l = true
      ∧ next (makeMove (.commitBlock key 3) s) (fun u => u.redirects = [] ∧ u.switched = [(key, 3)] ∧ u.version 0 0x3005 = s.copyPa key 0x3005) = true := by
  decide +kernel

theorem test_NoticesAndReset_wake : let t := { mon0 with wait := .idle, act := none }
    let s : State := { (world t).modCore 0 (fun co => { co with strs := [(0, t), (1, t)] }) with parts := [(0, { part0 with noticeDue := [0x99] })] }
    next (exec (.noticeTrap 0) s) (fun u => u.curStr.trapc = 0x120 ∧ (u.str 0 1).pc = 0x1004 ∧ (u.str 0 1).wait = .none) = true := by decide +kernel

theorem test_MailboxCommands_badarg : let s := withCmd 4 .stopped []
    let v : Vf := { Vf.init with part := some 0 }
    next (exec .unbindvf { s with vfs := [(2, v)], launches := [(5, { launch0 with vf := 2 })] }) (fun u => ended u 5 ∧ (u.vf 2).part = some 0) = true
      ∧ next (exec .unbindvf s) (fun u => ended u 5) = true
      ∧ isDram (2 ^ 41) = false ∧ next (exec .bindvf (withCmd 3 .stopped [(0, 2 ^ 41), (1, 0x1000000), (2, 1)])) (fun u => ended u 5) = true := by decide +kernel

theorem test_HostRegisters_reads : let s := withVf str0 { vf0 with lrcfg := 0xFF }
    s.shut 1 = false ∧ next (exec (.registerWrite 1 0x008 .read) s) (fun u => u.out = [.regReply 1 0x2F]) = true
      ∧ next (exec (.registerWrite 1 0x010 .read) s) (fun u => u.out = [.regReply 1 0]) = true
      ∧ next (exec (.registerWrite 1 0x048 .read) s) (fun u => u.out = [.regReply 1 0xFFFFFFFFFFFFFFFF]) = true
      ∧ next (exec (.registerWrite 1 0x160 (.atomic .add 8 3 0)) s) (fun u => u.out = [.hostReply 1 0xFFFF] ∧ (u.vf 1).agto = 0x10002) = true := by decide +kernel

theorem test_HostRegisters_shut : let s : State := { withVf str0 vf0 with parts := [(0, { part0 with pstate := .fenced })] }
    s.hears 1 = false ∧ s.shut 1 = true ∧ next (exec (.registerWrite 1 0x008 .read) s) (fun u => u.out = [.unsupported 1]) = true
      ∧ next (exec (.registerWrite 1 0 (.write 0x40)) s) (fun u => (u.vf 1).lrbase = 0 ∧ mget 0 u.counts hostUnit = 1) = true := by decide +kernel

theorem test_HostRegisters_stream : let v := { vf0 with ideKeyed := [2] }
    let s : State := { world str0 with vfs := [(1, v), (3, v)] }
    v.stream = 2 ∧ next (exec (.ideIntegrityFailure 1 2) s) (fun u => u.dev.insecure = [2] ∧ u.isInsecure 1 = true ∧ u.isInsecure 3 = true ∧ u.isInsecure 4 = false) = true := by decide +kernel

theorem test_HostLinkEvents_read : let pl := Place.host 1 0x40 0x40
    let s : State := { (world str0).modCore 0 (fun co => { co with misses := [.data 8 pl] }) with hostReqs := [(4, .read 0 8 pl)] }
    next (exec (.hostCompletion 4 .ok 0x55) s) (fun u => u.curCore.held = [(8, .sector pl 0x55)] ∧ u.curCore.misses = [] ∧ u.hostReqs = []) = true
      ∧ next (exec (.completionTimeout 4) s) (fun u => u.curCore.held = [(8, .failed pl 0x41 0)]) = true
      ∧ next (exec (.hostCompletion 9 .ok 0) s) (fun u => u.cores = s.cores ∧ mget 0 u.counts hostUnit = 1) = true := by decide +kernel

theorem test_HostLinkEvents_bad : let q := { part0 with granules := List.range 16, members := [⟨9, 3, true, true, 0⟩] }
    let s : State := { withBad (world str0) 2 .uncorrectable with mem := table0, parts := [(0, q)] }
    badAt s none 0x40 0 = some ⟨0x21, 0, 0⟩
      ∧ next (exec (.novinoRequest 0 9 0x40000040 2 .read 0) s) (fun u => u.out = [.novinoReply 9 [] (some (0x21, 0))]) = true
      ∧ next (exec (.novinoRequest 0 9 0x40000040 2 .read 0) { s with parts := [(0, { q with pstate := .fenced })] }) (fun u => u.out = [.novinoNack 9 true]) = true := by
  decide +kernel

/-- A package with a string of the root core at level 2. -/
def rooted : State := { about 0x04611000 with cores := [(0, core0 (withX str0 [(1, 5), (2, 7)])), (4096, core0 { mon0 with lvl := 2 })] }

theorem test_StepKeepsLevels : rooted.LevelsOk ∧ next (step rooted) (fun u => u.cores.length = 2) = true := by
  refine ⟨?_, by decide +kernel⟩; unfold State.LevelsOk; decide +kernel

theorem test_StepRunsDecoded_counted : let t := { withX str0 [(1, 5), (2, 7)] with routed := true }
    let s : State := { world t with turn := some (.issue 0 0), mem := Memory.putNum [] 0x1000 4 0x04611000 }
    (s.str 0 0).routed = true ∧ (s.str 0 0).hostAtomic = false ∧ (s.core 0).part = some 0
      ∧ next (step s) (fun u => u.curStr.getX 3 = 12 ∧ u.curStr.routed = false) = true := by decide +kernel

theorem test_FaultsTrap_restartable : let a : Activation := { act0 with rst := true, journal := [(0x40, 0x77)] }
    let s := world { str0 with act := some a }
    let r := world { str0 with act := some { a with trig := { rec0 with redo := 2 } } }
    (∀ u ∈ [s.fault ⟨0x11, 0, 0x40⟩], u.curStr.trapc = 0x11 ∧ u.curStr.trapv = 0x40 ∧ u.mem.get (sliceFlat 0 0x1000) = 0x77)
      ∧ (∀ u ∈ [r.fault ⟨0x20, 0, 0x40⟩], u.curStr.trapc = 0x20 ∧ u.curCore.records = [] ∧ u.mem.get (sliceFlat 0 0x1000) = 0x77) := by
  decide +kernel

theorem test_OutstandingPerform_rolls_back : let s := withBad (world { rst0 with lds := [load0] }) 2 .poisoned
    next (exec (.loadResponse 0 0 0 0 .home) s) (fun u => u.curStr.run = .free ∧ u.curCore.records.map (fun r => (r.hid, r.redo, r.nc)) = [(1, 1, true)]) = true := by
  decide +kernel

theorem test_OutstandingPerform_monitor : let l := { load0 with mon := true, owner := 7 }
    let s := withBad (world { mon0 with lds := [l] }) 2 .uncorrectable
    let d : State := { s with mem := dir0 33, parts := [(0, { part0 with ownlim := 14 })] }
    s.diagnostic 0 0 l = false ∧ next (exec (.loadResponse 0 0 0 0 .home) s) (fun u => u.curStr.run = .stopped ∧ u.curStr.pc = 0xFFC
        ∧ u.curCore.monFault = some ⟨0x21, 0, 0x44⟩ ∧ u.mark (some 5) 0x40 = some .poisoned) = true
      ∧ d.diagnostic 0 0 l = true ∧ next (exec (.loadResponse 0 0 0 0 .home) d) (fun u => u.curStr = { s.curStr with lds := [] }
        ∧ (u.part 0).meters.toList.getD 15 0 = 1 ∧ u.mark (some 5) 0x40 = some .poisoned) = true := by
  decide +kernel

/-- A world whose string is about to reach a host page of VF 1 with X1 = 0x5040 and X2 = 3; AtomicOps and AMOFB as given. -/
def toHost (req amofb : Bool) : State :=
  (({ withVf (withX str0 [(1, 0x5040), (2, 3)]) { vf0 with atomicReq := req } with ats := [⟨1, 0, 5, 0x77000, true, true⟩] } : State).modCore 0 (fun co =>
    { co with tlb := [{ tlb0 with host := true }], vfs := [(1, { VfCore.init with amofb := amofb })] }))

theorem test_Atomics_host : let s := toHost true false
    okWith ((check (dataWho s) .a 0x5040 8 8).run s) (fun pl _ => match pl with | .host f _ b => f == 1 && b == 0x77000040 | _ => false) = true
      ∧ hasAtomicOp .add 8 = true
      ∧ next (exec (.amoAddD 2 1 .die .plain 0) s) (fun u => u.curStr.hostAtomic = true ∧ (match u.out with
        | [.hostAtomic 1 0x77000040 8 .add a _ _ ro] => ro && a.toNat == 3
        | _ => false) = true) = true := by decide +kernel

theorem test_Atomics_host_refused : next (exec (.amoAddD 2 1 .die .plain 0) (toHost false false)) (fun u =>
      u.curStr.trapc = 0x40 ∧ u.curStr.trapv = 0x5040 ∧ u.curStr.trappc = 0x1000) = true
    ∧ next (exec (.amoAddD 2 1 .die .plain 0) (toHost false true)) (fun u => u.curStr.hostAtomic = true ∧ (u.vf 1).entries.length = 1
      ∧ (u.vf 1).agents.map (fun a => (a.core, a.str, a.seq)) = [(0, 0, 0)]) = true := by decide +kernel

theorem test_LaunchLife_parent : let l := { launch0 with phase := .ending 3 0x11 true, pcore := some 3, parent := some 6, record := launch0.record + 2 ^ 722 + 9 * 2 ^ 716 }
    let s : State := { withLaunch l with launches := [(5, l), (6, launch0)] }
    next (exec (.completionRecordWrite 5) (withLaunch l)) (fun u => u.net = [] ∧ mget 0 u.counts (coreUnit 3) = 1) = true
      ∧ next (exec (.completionRecordWrite 5) s) (fun u => u.net.map (fun f => (f.msg.launch, f.msg.dest, f.msg.hid, f.msg.payload.toNat % 2 ^ 64))
        = [(6, .core 0, 9, 3 * 2 ^ 40 + 16)]) = true := by decide +kernel

theorem test_LaunchLife_copy_back : let key := shadowKey 0 1
    let s : State := { withLaunch launch0 with switched := [(key, 3)], copyAt := [(copyKey key 3, 9)], mem := [(0x3005, 7), (0x9005, 8)],
                                               bad := [(0x9020 / 32, .poisoned)], ctrs := [(ctrKey 0 0x9020, 1)] }
    s.copyPa key 0x3005 = 0x9005 ∧ next (makeMove (.copyBack key 3) s) (fun u => u.switched = [] ∧ mfind u.bad (3 * 128 + 1) = some .poisoned) = true := by decide +kernel

theorem test_NoticesAndReset_trip : let s : State := { world { Str.init with run := .stopped } with
      launches := [], parts := [(0, { part0 with pstate := .fenced, resetKind := some true })], dev := { Device.init with rdy := true, powered := true, tripped := true } }
    s.drainedPart 0 = true ∧ next (exec (.resetDrainComplete 0 none) s) (fun u => (u.part 0).pstate = .free ∧ u.dev.powered = false) = true := by decide +kernel

theorem test_HostRegisters_running : let s := withCmd 12 .stopped []
    s.root.mbox.go = true ∧ next (exec (.registerWrite 0 0x40000 (.write 7)) s) (fun u => u.root.mbox.go = true ∧ u.root.mbox.run = s.root.mbox.run) = true
      ∧ next (exec (.registerWrite 0 0x40000 (.write (2 ^ 63 + 7))) s) (fun u => u = s) = true := by decide +kernel

theorem test_HostRegisters_aborts : let v := { vf0 with ideKeyed := [2] }
    let s : State := ({ world str0 with vfs := [(1, v)] }).modCore 0 (fun co => { co with misses := [.host 0 1 5 true 0] })
    next (exec (.ideIntegrityFailure 1 2) s) (fun u => u.curStr.inHand = [.hostAbort 1 5] ∧ u.isInsecure 1 = true) = true
      ∧ next (exec (.configurationWrite 1 .lrbase 0x40) { withVf str0 vf0 with parts := [(0, { part0 with pstate := .fenced })] }) (fun u =>
        (u.vf 1).lrbase = 0 ∧ mget 0 u.counts hostUnit = 1) = true := by decide +kernel

/-! ### What may perform, and where instructions stop -/

theorem test_ControlRegisterReads_saved : let s := at2 [(1, 0)]
    [Instr.csrr 3 0x050, .csrw 3 1 0x051, .csrs 3 0 0x052, .csrc 3 0 0x053].all (fun i => traps i s 2 0 0) = true
      ∧ gave (.csrw 3 1 0x030) (world mon0) (mon0.setX 3 ((world mon0).csr 0x030)) = true := by decide +kernel

theorem test_ControlRegisterWrites_special : let m := world (withX mon0 [(1, 0xFFFFFFFFFFFFFFFF), (2, 0x100)])
    gave (.csrw 3 1 0x020) m { m.curStr with mfmt := true } = true ∧ gave (.csrw 3 1 0x023) m { m.curStr with mxinj := 0xBF7FFFFFFFFFFFFF } = true
      ∧ gave (.csrw 0 2 0x001) m { m.curStr with pp := 1 } = true ∧ gave (.csrw 0 1 0x001) m m.curStr = true
      ∧ next (exec (.csrw 3 1 0x022) m) (fun u => (u.curCore.on 5).map (fun o => (o.mxcorr, o.opcnt)) = some (0xFFFFFFFF, 1)) = true
      ∧ next (exec (.csrw 3 2 0x048) m) (fun u => (u.curCore.on 5).map (·.opcnt) = some 0x101) = true
      ∧ next (exec (.csrw 3 1 0x060) m) (fun u => (u.curCore.vfc u.curCore.fn).amofb ∧ u.curStr.getX 3 = 0) = true := by decide +kernel

theorem test_BarrierCompletes_nolaunch : let s := world { str0 with act := none }
    [Instr.bar, .lnch 3 1, .rinit 1 2, .rfree 1, .rwait 1 2, .rrel 1 2, .rstat 3 1].all (fun i => traps i s 0x35 0 0) = true := by decide +kernel

theorem test_LaunchIsQueued_noFlush : let s := { world { withX ec0 [(1, 0x80)] with inHand := [.noFlush] } with mem := Memory.putNum [] 0x80 8 0x00070001 }
    traps (.lnch 3 1) s 0x41 0 0 = true
      ∧ traps (.rrel 1 2) (withRing { withX ec0 [(1, 3), (2, 1)] with inHand := [.noFlush] } ring0) 0x41 0 0 = true := by decide +kernel

/-- A string that another package has refused to translate offset 0x2000 for. -/
def refused0 (t : Str) : Str := { t with inHand := [.noRemote 3 0x2008 0x41 0] }

theorem test_ScalarStores_refused : let t := refused0 str0
    t.refusedEv ⟨.remote 3 0x2000, [(0, 0)]⟩ = true ∧ t.refusedEv ⟨.remote 3 0x4000, [(0, 0)]⟩ = false ∧ t.refusedEv ⟨.phys 0x2000, [(0, 0)]⟩ = false := by
  decide +kernel

theorem test_OutstandingPerform_due : let t := { str0 with lds := [load0] }
    (load0.evs.all (fun e => !load0.dead && !load0.unsent.contains e && !blocked 0 t [] load0 e && !flushFirst t load0.rel (some e.place))) = true := by
  decide +kernel

theorem test_UnitEvents_waits : let x := { strm0 with dst := true, pos := 1, pushes := [⟨1, 0x100, 0x55, [⟨.phys 0x100, [(3, 0)]⟩], []⟩], after := some 1 }
    let t := withS x
    t.releases (some 0) = true ∧ ({ t with sb := [store0] } : Str).releases (some 1) = false
      ∧ next (exec (.streamPushPerform 0 0 0 0) (world { t with sb := [store0], seq := 1 })) (fun u => u.mem = []) = true
      ∧ next (exec (.streamPushPerform 0 0 0 0) (world { t with seq := 1 })) (fun u => u.mem = [(0x103, 0x55)]) = true := by decide +kernel

theorem test_LaunchLife_shadow : let l := { launch0 with phase := .ending 0 0 true, shadow := 1 }
    let s : State := { withLaunch l with switched := [(shadowKey 0 1, 3)], copyAt := [(copyKey (shadowKey 0 1) 3, 9)], mem := [(0x3005, 7), (0x9005, 8)] }
    s.mayComplete 5 l = true ∧ l.commitKey = shadowKey 0 1 ∧ (s.str 0 0).lds = []
      ∧ next (exec (.completionRecordWrite 5) s) (fun u => u.switched = [] ∧ (u.launch 5).isNone) = true := by decide +kernel

theorem test_RightsChanges_span : let s := withReq grant0 true false (some hold0) (.rights 3)
    let x : Span := { die := 0, pa := field (dirEntry s.mem (s.part 0) 9) 0 42, len := 0x1000, lvl := 2 }
    let r : State := { s with parts := [(0, { s.part 0 with spans := [x] })] }
    r.allSpans = [x] ∧ next (exec (.rightsTableWrite 0) r) (fun u => (u.part 0).rights.written = true
      ∧ (List.range 64).all (fun j => u.mem.get (x.pa + j) = s.mem.get (x.pa + j))) = true := by decide +kernel

theorem test_HostRegisters_sizes : let v := { vf0 with stale := 4 }
    [0x100, 0x108, 0x138].all (fun o => next (exec (.registerWrite 1 o (.write 7)) (withVf str0 v)) (fun u => (u.vf 1).stale = 5)) = true
      ∧ next (exec (.registerWrite 1 0x140 (.write 7)) (withVf str0 v)) (fun u => (u.vf 1).stale = 4) = true := by decide +kernel

theorem test_HostLinkEvents_flush : let w := { store0 with rel := some .sys }
    let s : State := { world { str0 with flush := some 4, sb := [store0, w] } with hostReqs := [(4, .flush 0 0)] }
    w.flushes = true ∧ store0.flushes = false
      ∧ next (exec (.hostCompletion 4 .ok 0) s) (fun u => u.curStr = { s.curStr with flush := none }) = true
      ∧ next (exec (.completionTimeout 4) s) (fun u => u.curStr.flush = none ∧ u.curStr.sb = [store0] ∧ u.curStr.inHand = [.noFlush] ∧ u.mem = s.mem
        ∧ u.net.map (fun f => f.msg.payload.toNat % 2 ^ 128) = [0x43 * 2 ^ 64 + 0x300021]) = true := by decide +kernel

theorem test_SpdmReplies_keys : let s := withSpdm { Spdm.init with session := .open }
    let r : State := { s with dev := { s.dev with insecure := [2, 5] } }
    next (exec (.ideKmKeyProg 1 2) r) (fun u => u.dev.insecure = [5] ∧ (u.vf 1).ideKeyed = [2]) = true := by decide +kernel
end Sys2Proof.Tests
end

section
/-! SUPPORT. What the events of the host link change and leave alone (R397, R400 to R413), and the statement `HostRegisters`, whose clauses
are put together from that. -/

namespace Sys2Proof.Proofs

open Sys2Proof Sys2Proof.Machine Sys2Proof.Laws Sys2Proof.Claims

/-! ## Fields -/

theorem field_eq (v lo n : Nat) : field v lo n = v / 2 ^ lo % 2 ^ n := by rw [field, Nat.shiftRight_eq_div_pow]

theorem field_low (v n : Nat) : field v 0 n = v % 2 ^ n := by simp [field_eq]

theorem bitAt_toNat {n : Nat} (w : BitVec n) (i : Nat) : bitAt w.toNat i = w.getLsbD i := by
  rw [bitAt, field_eq, ← BitVec.testBit_toNat, Nat.testBit_eq_decide_div_mod_eq, beq_eq_decide, pow_one]

/-! ## Changes of cores and launches alone -/

/-- `t` differs from `s` in its cores and its launches alone. -/
def SameOutside (s t : State) : Prop := t = { s with cores := t.cores, launches := t.launches }

theorem SameOutside.refl (s : State) : SameOutside s s := rfl

theorem SameOutside.trans {s t u : State} (h : SameOutside s t) (g : SameOutside t u) : SameOutside s u :=
  Eq.trans g (by rw [h])

theorem SameOutside.mem {s t : State} (h : SameOutside s t) : t.mem = s.mem := by rw [h]
theorem SameOutside.vfs {s t : State} (h : SameOutside s t) : t.vfs = s.vfs := by rw [h]
theorem SameOutside.dev {s t : State} (h : SameOutside s t) : t.dev = s.dev := by rw [h]

theorem vf_of_vfs {s t : State} (h : t.vfs = s.vfs) (f : Nat) : t.vf f = s.vf f := by rw [State.vf, h]; rfl

theorem SameOutside.vf {s t : State} (h : SameOutside s t) (f : Nat) : t.vf f = s.vf f := vf_of_vfs h.vfs f

theorem sameOutside_modCore (s : State) (c : Nat) (f : Core → Core) : SameOutside s (s.modCore c f) := rfl

theorem sameOutside_setStr (s : State) (c k : Nat) (t : Str) : SameOutside s (s.setStr c k t) := rfl

theorem sameOutside_modLaunch (s : State) (l : Nat) (f : Launch → Launch) : SameOutside s (s.modLaunch l f) := by
  obtain ⟨x, h⟩ := modLaunch_eq s l f
  rw [h]; rfl

theorem sameOutside_modOn (s : State) (c l : Nat) (f : OnCore → OnCore) : SameOutside s (s.modOn c l f) := by
  unfold State.modOn
  split
  · exact sameOutside_modCore s c _
  · exact .refl s

/-- A fold of such changes is one. -/
theorem sameOutside_foldl {β : Type} (l : List β) (f : State → β → State) (hf : ∀ s x, SameOutside s (f s x)) (s : State) :
    SameOutside s (l.foldl f s) :=
  List.foldlRecOn l f (.refl s) (fun t h x _ => h.trans (hf t x))

theorem sameOutside_haltLaunch (s : State) (i : Nat) (l : Launch) : SameOutside s (s.haltLaunch i l) :=
  sameOutside_foldl _ _ (fun s c =>
    (sameOutside_foldl (s.stringsOf i l c) (fun s k => s.modStr c k Str.halt) (fun _ _ => rfl) s).trans (sameOutside_modCore _ c _)) s

theorem sameOutside_endReset (s : State) (sel : Launch → Bool) : SameOutside s (s.endReset sel) :=
  sameOutside_foldl _ _ (fun s _ => (sameOutside_modLaunch s _ _).trans (sameOutside_haltLaunch _ _ _)) s

/-- A fold reaches `Q` at the step of `x`, if every step keeps `Q` and, until then, what leads there. -/
theorem foldl_reaches {β : Type} (P Q : State → Prop) (f : State → β → State) {l : List β} {x : β} (hx : x ∈ l)
    (keepP : ∀ s y, P s → P (f s y)) (keepQ : ∀ s y, Q s → Q (f s y)) (reach : ∀ s, P s → Q (f s x)) {s : State} (h : P s) :
    Q (l.foldl f s) := by
  obtain ⟨a, b, rfl⟩ := List.append_of_mem hx
  rw [List.foldl_append, List.foldl_cons]
  have before : P (a.foldl f s) := List.foldlRecOn a f h (fun s hs y _ => keepP s y hs)
  exact List.foldlRecOn b f (reach _ before) (fun s hs y _ => keepQ s y hs)

/-! ## Functions and their partitions -/

@[simp] theorem emit_vf (s : State) (o : Out) (f : Nat) : (s.emit o).vf f = s.vf f := rfl
@[simp] theorem setStr_vf (s : State) (c k : Nat) (t : Str) (f : Nat) : (s.setStr c k t).vf f = s.vf f := rfl

/-- A function is heard when the device is ready and its partition is not fenced (R397, R450). -/
theorem hears_iff (s : State) (f : Nat) : s.hears f = true ↔ s.dev.rdy = true ∧ s.shut f = false := by
  unfold State.hears State.shut
  cases (s.vf f).part <;> simp

/-- A posted write that is not taken is counted, once the device is ready (R397). -/
theorem deaf_ready {s : State} (h : s.dev.rdy = true) : s.deaf = s.countAt hostUnit := by simp [State.deaf, h]

@[simp] theorem launchRingError_vf (s : State) (f c : Nat) :
    (s.launchRingError f c).vf f = { s.vf f with le := true, lcode := BitVec.ofNat 4 c } := by simp [State.launchRingError]
@[simp] theorem eventRingError_vf (s : State) (f c : Nat) :
    (s.eventRingError f c).vf f = { s.vf f with ee := true, ecode := BitVec.ofNat 4 c, erchk := false } := by
  simp [State.eventRingError]

/-! ## A locked interface whose register is written (R398, R413) -/

/-- The reset of a function changes nothing outside the cores and the launches but the function (R398). -/
theorem resetVf_outside (s : State) (f : Nat) :
    ∃ t, SameOutside s t ∧ s.resetVf f = t.modVf f (fun v => { v with incarn := v.incarn + 1, lcount := 0 }) :=
  ⟨_, (sameOutside_endReset s _).trans (sameOutside_foldl _ _ (fun s c => sameOutside_modCore s c _) _), rfl⟩

@[simp] theorem resetVf_mem (s : State) (f : Nat) : (s.resetVf f).mem = s.mem := by
  obtain ⟨t, ht, e⟩ := resetVf_outside s f
  rw [e, modVf_mem, ht.mem]

@[simp] theorem resetVf_vf (s : State) (f : Nat) :
    (s.resetVf f).vf f = { s.vf f with incarn := (s.vf f).incarn + 1, lcount := 0 } := by
  obtain ⟨t, ht, e⟩ := resetVf_outside s f
  rw [e, vf_modVf_self, ht.vf]

theorem touchLocked_unlocked {s : State} {f : Nat} (h : (s.vf f).tdi = .unlocked) : s.touchLocked f = s := by
  simp [State.touchLocked, h]

/-- The interface goes to ERROR, which resets the function (R413). -/
theorem touchLocked_locked {s : State} {f : Nat} (h : (s.vf f).tdi = .locked ∨ (s.vf f).tdi = .run) :
    s.touchLocked f = (s.modVf f (fun v => { v with tdi := .error, ideKeyed := [] })).resetVf f := by
  rcases h with h | h <;> simp [State.touchLocked, h]

/-! ## An answer to a string's only load (R84, R275) -/

theorem answerLoad_single {s : State} {c k : Nat} {l : Load} (g : Load → Load) (h : (s.str c k).lds = [l]) :
    s.answerLoad c k l.seq g = (s.setStr c k { s.str c k with lds := [g l] }).bindLoads c k := by
  simp [State.answerLoad, State.modStr, h]

/-- An answered atomic is bound. -/
theorem bindLoads_atomic {s : State} {c k : Nat} {l : Load} {rd : XReg} {g : AtomFn} {n : Nat} {a b : BitVec 128} {m : BitVec 2}
    (h : (s.str c k).lds = [l]) (he : l.evs = []) (hd : l.dead = false) (hb : l.bad = none) (hdst : l.dst = .amo rd g n a b m) :
    s.bindLoads c k = s.setStr c k { (s.str c k).bind l with lds := [] } := by
  simp [State.bindLoads, h, bindGo, he, hd, hb, boundPushes, hdst, State.commitEvs]

/-- A load that has met a fault has no effect, and its string takes the fault (R84). -/
theorem bindLoads_fault {s : State} {c k : Nat} {l : Load} {i : Nat} {e : FaultInfo}
    (h : (s.str c k).lds = [l]) (he : l.evs = []) (hd : l.dead = false) (hb : l.bad = some (i, e)) (hu : l.undo = none) :
    ∃ t : State, s.bindLoads c k = t.takeFault c k l.pc e ∧ SameOutside s t
      ∧ t.str c k = { s.str c k with lds := [], pc := l.pc } ∧ (t.core c).mentry = (s.core c).mentry := by
  have go : bindGo (s.str c k).lds (s.str c k) = (s.str c k, [l], some l) := by simp [h, bindGo, he, hd, hb]
  have pushes : boundPushes (s.str c k).lds [l] = [] := by simp [h, boundPushes]
  have mentry (t : Str) : ((s.setStr c k t).core c).mentry = (s.core c).mentry := by simp [State.setStr]
  unfold State.bindLoads
  simp only [go, hb, hu, pushes, Str.unpop, State.commitEvs, List.foldl_nil]
  refine ⟨_, rfl, ?_, ?_, ?_⟩
  · split
    · exact (sameOutside_setStr s c k _).trans (sameOutside_modOn _ _ _ _)
    · exact sameOutside_setStr s c k _
  · split <;> simp
  · split
    · rename_i j _
      obtain ⟨r, hr⟩ := modOn_core (s.setStr c k { s.str c k with lds := [], pc := l.pc }) c j
        (fun o => { o with opcnt := o.opcnt - BitVec.ofNat 64 ([l].map (fun (x : Load) => 1 + x.more)).sum }) c
      rw [hr]; exact mentry _
    · exact mentry _

/-- What a trap leaves of a string, its activation aside (R341, R343). -/
theorem trapped_trap (t : Str) (x : Option Activation) (pc mentry : Word) (e : FaultInfo) :
    Trapped t (({ t with act := x } : Str).trap mentry 0 e.detail e.code e.val pc) mentry 0 e.detail e.code e.val pc :=
  ⟨rfl, rfl, rfl, rfl, rfl, rfl, rfl, rfl, rfl, rfl, rfl, rfl, rfl, rfl, rfl, rfl, rfl, rfl, rfl, rfl, rfl, rfl, rfl, rfl⟩

/-- A fault of a user-mode string whose activation, if it has one, is not restartable, is a trap to the monitor and no more (R387). -/
theorem takeFault_traps {s : State} {c k : Nat} (pc : Word) (e : FaultInfo) (hrun : (s.str c k).run = .running)
    (hlvl : (s.str c k).lvl = 0) (hact : ∀ a, (s.str c k).act = some a → a.rst = false) :
    ∃ u, s.takeFault c k pc e = s.setStr c k u ∧ Trapped (s.str c k) u (s.core c).mentry 0 e.detail e.code e.val pc := by
  have running : (s.str c k).run ≠ .stopped := by rw [hrun]; decide
  have user : ¬(s.str c k).lvl ≠ 0 := not_not.mpr hlvl
  unfold State.takeFault
  rw [if_neg running, if_neg user]
  cases h : (s.str c k).act with
  | none => exact ⟨_, rfl, trapped_trap (s.str c k) (s.str c k).act pc _ e⟩
  | some a =>
    simp only [hact a h, Bool.false_and, Bool.false_eq_true, if_false]
    exact ⟨_, rfl, trapped_trap (s.str c k) _ pc _ e⟩

/-! ## Events that change one function -/

/-- The event leaves function `f` as `r`, and memory as it was. -/
def LeavesVf (i : Instr) (s : State) (f : Nat) (r : Vf) : Prop := ∃ u, exec i s = .next u ∧ u.vf f = r ∧ u.mem = s.mem

theorem leavesVf_modVf {i : Instr} {s : State} {f : Nat} {g : Vf → Vf} (h : exec i s = .next (s.modVf f g)) :
    LeavesVf i s f (g (s.vf f)) := ⟨_, h, vf_modVf_self s f g, rfl⟩

theorem leavesVf_launchRingError {i : Instr} {s : State} {f c : Nat} (h : exec i s = .next (s.launchRingError f c)) :
    LeavesVf i s f { s.vf f with le := true, lcode := BitVec.ofNat 4 c } := ⟨_, h, launchRingError_vf s f c, rfl⟩

theorem leavesVf_eventRingError {i : Instr} {s : State} {f c : Nat} (h : exec i s = .next (s.eventRingError f c)) :
    LeavesVf i s f { s.vf f with ee := true, ecode := BitVec.ofNat 4 c, erchk := false } := ⟨_, h, eventRingError_vf s f c, rfl⟩

/-- A write of a register of an unlocked interface changes that register and nothing else (R413). -/
theorem leavesVf_unlocked {i : Instr} {s : State} {f : Nat} {g : Vf → Vf} (hu : (s.vf f).tdi = .unlocked) (hg : (g (s.vf f)).tdi = (s.vf f).tdi)
    (h : exec i s = .next ((s.modVf f g).touchLocked f)) : LeavesVf i s f (g (s.vf f)) := by
  rw [touchLocked_unlocked (by rw [vf_modVf_self, hg, hu])] at h
  exact leavesVf_modVf h

/-! ## Doorbells and ring configurations (R405) -/

/-- What steps 1 and 2 of the check of a launch doorbell find (log 34). -/
def launchCode (v : Vf) (w : Word) : Nat := if 2 ^ 16 ≤ w.toNat then 1 else ringCode v v.lrcfg v.lrbase 128

/-- A launch doorbell that the launch unit accepts, while the partition runs. -/
theorem lrdbWrite_accepted {s : State} {f : Nat} (w : Word) (hh : s.hears f = true) (hle : (s.vf f).le = false)
    (hr : ∃ p, (s.vf f).part = some p ∧ (s.part p).pstate = .running) :
    exec (.lrdbWrite f w) s =
      if launchCode (s.vf f) w ≠ 0 then .next (s.launchRingError f (launchCode (s.vf f) w))
      else if 2 ^ ((s.vf f).lrcfg.toNat % 16) < (w.extractLsb' 0 16 - (s.vf f).lp).toNat
          ∨ 2 ^ ((s.vf f).lrcfg.toNat % 16) < (w.extractLsb' 0 16 - (s.vf f).lh).toNat then .next (s.launchRingError f 3)
      else .next (s.modVf f (fun v => { v with lp := w.extractLsb' 0 16 })) := by
  obtain ⟨p, hp, hrun⟩ := hr
  have high : (field w.toNat 16 48 != 0) = decide (2 ^ 16 ≤ w.toNat) := by
    have := w.isLt
    rw [field_eq, Bool.eq_iff_iff, bne_iff_ne, decide_eq_true_eq]
    omega
  have code : (if field w.toNat 16 48 != 0 then 1 else ringCode (s.vf f) (s.vf f).lrcfg (s.vf f).lrbase 128) = launchCode (s.vf f) w := by
    simp [launchCode, high]
  rw [exec_lrdbWrite]
  unfold execLrdbWrite
  simp only [hh, hle, hp, hrun, code, field_low, Bool.not_true, Bool.false_eq_true, if_false, decide_eq_true_eq, Bool.or_eq_true,
    beq_self_eq_true, Nat.reducePow]

theorem lrdbWrite_badConfig {s : State} {f c : Nat} {w : Word} (hh : s.hears f = true) (hle : (s.vf f).le = false)
    (hr : ∃ p, (s.vf f).part = some p ∧ (s.part p).pstate = .running) (hc : launchCode (s.vf f) w = c) (h0 : c ≠ 0) :
    LeavesVf (.lrdbWrite f w) s f { s.vf f with le := true, lcode := BitVec.ofNat 4 c } := by
  refine leavesVf_launchRingError ?_
  rw [lrdbWrite_accepted w hh hle hr, hc, if_pos h0]

/-- An event doorbell of a ring whose configuration is good. -/
theorem erdbWrite_accepted {s : State} {f : Nat} (w : Word) (hh : s.hears f = true) (hee : (s.vf f).ee = false)
    (hc : ringCode (s.vf f) (s.vf f).ercfg (s.vf f).erbase 64 = 0) :
    exec (.erdbWrite f w) s =
      if 2 ^ ((s.vf f).ercfg.toNat % 16) < (w.extractLsb' 0 16 - (s.vf f).ep).toNat
          ∨ 2 ^ ((s.vf f).ercfg.toNat % 16) < ((s.vf f).ed - w.extractLsb' 0 16).toNat then .next (s.eventRingError f 3)
      else .next (s.modVf f (fun v => { v with ep := w.extractLsb' 0 16 })) := by
  rw [exec_erdbWrite]
  unfold execErdbWrite
  simp only [hh, hee, hc, field_low, Bool.not_true, Bool.false_eq_true, if_false, decide_eq_true_eq, Bool.or_eq_true, ne_eq, not_true_eq_false,
    Nat.reducePow]

theorem lrcfgWrite_heard {s : State} {f : Nat} (w : Word) (hh : s.hears f = true) :
    exec (.lrcfgWrite f w) s = .next ((s.modVf f (fun v => v.setLrcfg w)).touchLocked f) := by
  simp [execLrcfgWrite, hh]

theorem ercfgWrite_heard {s : State} {f : Nat} (w : Word) (hh : s.hears f = true) :
    exec (.ercfgWrite f w) s = .next ((s.modVf f (fun v => v.setErcfg w)).touchLocked f) := by
  simp [execErcfgWrite, hh]

theorem setLrcfg_enabled (v : Vf) {w : Word} (h : w.getLsbD 5 = true) : v.setLrcfg w = { v with lrcfg := w &&& 0x2F } := by
  rw [Vf.setLrcfg, bitAt_toNat, h]; rfl

theorem setLrcfg_disabled (v : Vf) {w : Word} (h : w.getLsbD 5 = false) :
    v.setLrcfg w = { v with lrcfg := w &&& 0x2F, le := false, lcode := 0, lh := 0, lp := 0 } := by
  rw [Vf.setLrcfg, bitAt_toNat, h]; rfl

theorem setErcfg_enabled (v : Vf) {w : Word} (h : w.getLsbD 5 = true) : v.setErcfg w = { v with ercfg := w &&& 0x2F, erchk := true } := by
  rw [Vf.setErcfg, bitAt_toNat, h]; rfl

theorem setErcfg_disabled (v : Vf) {w : Word} (h : w.getLsbD 5 = false) :
    v.setErcfg w = { v with ercfg := w &&& 0x2F, ee := false, ecode := 0, ed := 0, ep := 0, erchk := false } := by
  rw [Vf.setErcfg, bitAt_toNat, h]; rfl

theorem setLrcfg_tdi (v : Vf) (w : Word) : (v.setLrcfg w).tdi = v.tdi := by unfold Vf.setLrcfg; split <;> rfl

theorem setErcfg_tdi (v : Vf) (w : Word) : (v.setErcfg w).tdi = v.tdi := by unfold Vf.setErcfg; split <;> rfl

theorem lrcfgWrite_unlocked {s : State} {f : Nat} (w : Word) (hh : s.hears f = true) (hu : (s.vf f).tdi = .unlocked) :
    LeavesVf (.lrcfgWrite f w) s f ((s.vf f).setLrcfg w) :=
  leavesVf_unlocked (g := fun v => v.setLrcfg w) hu (setLrcfg_tdi _ w) (lrcfgWrite_heard w hh)

theorem ercfgWrite_unlocked {s : State} {f : Nat} (w : Word) (hh : s.hears f = true) (hu : (s.vf f).tdi = .unlocked) :
    LeavesVf (.ercfgWrite f w) s f ((s.vf f).setErcfg w) :=
  leavesVf_unlocked (g := fun v => v.setErcfg w) hu (setErcfg_tdi _ w) (ercfgWrite_heard w hh)

/-! ## Registers of a function (R400, R401, R403) -/

/-- A write that a function's register block takes. -/
theorem registerWrite_heard {s : State} {f : Nat} (o : Nat) (w : Word) (hf : f ≠ 0) (hh : s.hears f = true) :
    exec (.registerWrite f o (.write w)) s = s.writeVfReg f o w := by
  simp [execRegisterWrite, State.regWrite, hf, hh]

/-- A write inside the message register that is not of 64 bytes counts as stale (R402, R410). -/
theorem writeVfReg_message (s : State) (f : Nat) {o : Nat} (w : Word) (h1 : 0x100 ≤ o) (h2 : o < 0x140) :
    s.writeVfReg f o w = .next (s.countStale f) := by
  unfold State.writeVfReg
  split
  case h_8 => rw [if_pos ⟨h1, h2⟩]
  all_goals omega

theorem leavesVf_countStale {i : Instr} {s : State} {f : Nat} (h : exec i s = .next (s.countStale f)) :
    LeavesVf i s f { s.vf f with stale := if (s.vf f).stale = BitVec.allOnes 32 then (s.vf f).stale else (s.vf f).stale + 1 } :=
  leavesVf_modVf (g := fun v => { v with stale := satUp v.stale }) h

/-- A read of a ready function (R401). -/
theorem registerRead_ready {s : State} {f : Nat} (o : Nat) (hr : s.dev.rdy = true) (hf : f ≠ 0) (hs : s.shut f = false) :
    exec (.registerWrite f o .read) s = .next (s.emit (.regReply f (s.readBlock f o))) := by
  simp [execRegisterWrite, hs, State.readReg, hf, hr]

/-- What the registers of a block read; those that may only be written and those that are reserved read zero (R401). -/
theorem readBlock_registers (s : State) (f : Nat) : let v := s.vf f
    ∀ x ∈ [(0x000, v.lrbase), (0x008, v.lrcfg &&& 0x2F), (0x010, 0), (0x018, v.erbase), (0x020, v.ercfg &&& 0x2F), (0x028, 0),
      (0x038, v.lcount.zeroExtend 64), (0x040, v.hwlo), (0x048, v.hwhi), (0x100, 0), (0x140, 0), (0x160, v.agto), (0x800, 0)], s.readBlock f x.1 = x.2 := by
  intro v
  simp only [List.forall_mem_cons]
  exact ⟨rfl, rfl, rfl, rfl, rfl, rfl, rfl, rfl, rfl, rfl, rfl, rfl, rfl, fun x h => absurd h List.not_mem_nil⟩

/-- An AtomicOp of the host that adds to AGTO (R400; log 68). -/
theorem registerAdd_agto {s : State} {f : Nat} (a b : BitVec 128) (hr : s.dev.rdy = true) (hf : f ≠ 0) (hs : s.shut f = false) :
    exec (.registerWrite f 0x160 (.atomic .add 8 a b)) s
      = .next ((s.emit (.hostReply f ((s.vf f).agto.zeroExtend 128))).modVf f (fun v => { v with agto := (s.vf f).agto + a.extractLsb' 0 64 })) := by
  have heard : (s.emit (.hostReply f ((s.vf f).agto.zeroExtend 128))).hears f = true := (hears_iff s f).mpr ⟨hr, hs⟩
  have agto : s.readReg f 0x160 = (s.vf f).agto := by simp [State.readReg, hf, hr, State.readBlock]
  have next : s.readReg f 0x168 = 0 := by simp [State.readReg, hf, hr, State.readBlock]
  have old : field (s.vf f).agto.toNat 0 64 = (s.vf f).agto.toNat := by rw [field_low]; exact Nat.mod_eq_of_lt (BitVec.isLt _)
  have sum : BitVec.ofNat 64 (((s.vf f).agto.toNat + a.toNat) % 0x10000000000000000) = (s.vf f).agto + a.extractLsb' 0 64 := by
    apply BitVec.eq_of_toNat_eq
    simp
  have reply : BitVec.ofNat 128 (s.vf f).agto.toNat = (s.vf f).agto.zeroExtend 128 := by
    apply BitVec.eq_of_toNat_eq; simp
  simp [execRegisterWrite, hs, hasAtomicOp, State.regAtomic, agto, next, old, atomNew, atomWrites, reply, sum, State.regWrite, hf, heard, State.writeVfReg,
    thenDo]

/-- A function that is shut answers Unsupported to what awaits an answer (R397). -/
theorem registerRead_shut {s : State} {f : Nat} (hs : s.shut f = true) (o : Nat) :
    exec (.registerWrite f o .read) s = .next (s.emit (.unsupported f)) := by
  simp [execRegisterWrite, hs]

/-- A write that a function does not take is counted (R397). -/
theorem registerWrite_unheard {s : State} {f : Nat} (o : Nat) (w : Word) (hr : s.dev.rdy = true) (hf : f ≠ 0) (hh : s.hears f = false) :
    exec (.registerWrite f o (.write w)) s = .next (s.countAt hostUnit) := by
  simp [execRegisterWrite, State.regWrite, hf, hh, deaf_ready hr]

/-- A configuration write of Bus Master Enable to a function that is not shut out. -/
theorem configurationWrite_busMaster {s : State} {f : Nat} (w : Word) (hs : s.shut f = false) :
    exec (.configurationWrite f .busMaster w) s = .next ((s.modVf f (fun v => { v with busMaster := w.getLsbD 0 })).touchLocked f) := by
  simp [execConfigurationWrite, hs, cfgInSpace, Vf.configure]

theorem configurationWrite_shut {s : State} {f : Nat} (w : Word) (hs : s.shut f = true) :
    exec (.configurationWrite f .busMaster w) s = .next (s.emit (.unsupported f)) := by
  simp [execConfigurationWrite, hs, cfgInSpace]

theorem configurationWrite_ignored {s : State} {f : Nat} (w : Word) (hr : s.dev.rdy = true) (hs : s.shut f = true) :
    exec (.configurationWrite f .lrbase w) s = .next (s.countAt hostUnit) := by
  have deaf : s.hears f = false := by
    rw [← Bool.not_eq_true, hears_iff, hs]
    simp
  simp [execConfigurationWrite, cfgInSpace, deaf, deaf_ready hr]

/-! ## The command mailbox (R404) -/

theorem registerWrite_pmcmd {s : State} (w : Word) (hr : s.dev.rdy = true) :
    exec (.registerWrite 0 0x40000 (.write w)) s = .next { s with root := { s.root with mbox := s.root.mbox.write 0 w } } := by
  simp [execRegisterWrite, State.regWrite, hr, State.writeWindow]

/-- While no command runs, a write of PMCMD gives the command that runs next (R404). -/
theorem write_pmcmd_idle {m : Mailbox} (w : Word) (h : m.go = false) :
    m.write 0 w = { m with cmd := w &&& 0x8000000001FF0FFF, run := w &&& 0x8000000001FF0FFF } := by
  simp [Mailbox.write, h]

/-- While a command runs, that command stays and GO reads 1, whatever is written; a write with GO = 1 is ignored (R404; log 26). -/
theorem write_pmcmd_busy {m : Mailbox} (w : Word) (h : m.go = true) :
    (m.write 0 w).run = m.run ∧ (m.write 0 w).go = true ∧ (w.getLsbD 63 = true → m.write 0 w = m) := by
  have eq : m.write 0 w = if w.getLsbD 63 then m else { m with cmd := (w &&& 0x8000000001FF0FFF) ||| 0x8000000000000000 } := by
    simp [Mailbox.write, h, bitAt_toNat]
  rw [eq]
  cases w.getLsbD 63
  · refine ⟨rfl, ?_, fun h => absurd h (by decide)⟩
    simp only [Bool.false_eq_true, if_false, Mailbox.go, bitAt_toNat, BitVec.getLsbD_or]
    simp
  · exact ⟨rfl, h, fun _ => rfl⟩

/-! ## HMSG and AGREPLY (R410, R411) -/

/-- A message that a unit sends is the last of the network. -/
theorem post_net (s : State) (unit : Nat) (f : Flight) : ∃ g, (s.post unit f).net = s.net ++ [g] ∧ g.msg = f.msg := by
  unfold State.post
  split
  · exact ⟨_, rfl, rfl⟩
  · exact ⟨_, rfl, rfl⟩

@[simp] theorem post_mem (s : State) (unit : Nat) (f : Flight) : (s.post unit f).mem = s.mem := by
  unfold State.post
  split
  · dsimp only; split <;> rfl
  · rfl

/-- The message that HMSG makes of its 64 bytes, for a launch of internal number `i` (R410). -/
def hostFlight (i : Nat) (l : Launch) (d : Nat) : Flight :=
  let f := unitFlight i l (field d 296 12) 62 (BitVec.ofNat 256 d)
  { f with msg := { f.msg with key := BitVec.ofNat 40 (field d 256 40) } }

/-- A host message to a launch that is known, and to a core that it has (R410). -/
theorem hmsgPost_known {s : State} {f i : Nat} {l : Launch} {d : BitVec 512} (hh : s.hears f = true)
    (hk : s.knownSerial f (field d.toNat 308 64) = some (i, l)) (hc : field d.toNat 296 12 < l.nlcore) :
    exec (.hmsgPost f 64 d) s = .next (s.post hostUnit (hostFlight i l d.toNat)) := by
  simp [execHmsgPost, hh, hk, Nat.not_le.mpr hc, hostFlight]

theorem hmsgPost_unknown {s : State} {f : Nat} {d : BitVec 512} (hh : s.hears f = true)
    (hk : s.knownSerial f (field d.toNat 308 64) = none) : exec (.hmsgPost f 64 d) s = .next (s.countStale f) := by
  simp [execHmsgPost, hh, hk]

/-- The state without the agent requests of an id. -/
def withoutAgent (s : State) (f id : Nat) : State := s.modVf f (fun v => { v with agents := v.agents.filter (fun b => b.id != id) })

theorem takeAgent_single {s : State} {f : Nat} {a : AgentReq} (h : (s.vf f).agents = [a]) :
    s.takeAgent f a.id = some (a, withoutAgent s f a.id) := by
  simp [State.takeAgent, h, withoutAgent]

theorem withoutAgent_single {s : State} {f : Nat} {a : AgentReq} (h : (s.vf f).agents = [a]) : ((withoutAgent s f a.id).vf f).agents = [] := by
  simp [withoutAgent, h]

theorem agreplyWrite_unknown {s : State} {f : Nat} {d : BitVec 256} (hh : s.hears f = true) (h : (s.vf f).agents = []) :
    exec (.agreplyWrite f d) s = .next (s.countStale f) := by
  simp [execAgreplyWrite, hh, State.takeAgent, h]

/-! ## The reply of a host agent (R411) -/

/-- The eight low bytes of a reply are its low word (R411). -/
theorem gotNum_reply (d : BitVec 128) : gotNum ((upTo 16).map (fun i => (i, BitVec.extractLsb' (8 * i) 8 d))) 8 = d.toNat % 2 ^ 64 := by
  have bytes : gotNum ((upTo 16).map (fun i => (i, BitVec.extractLsb' (8 * i) 8 d))) 8
      = leNat ((List.range 8).map (fun i => BitVec.extractLsb' (8 * i) 8 d)) := rfl
  rw [bytes]
  simp only [List.range_succ, List.range_zero, List.nil_append, List.cons_append, List.map_cons, List.map_nil, leNat, BitVec.extractLsb'_toNat,
    Nat.shiftRight_eq_div_pow]
  omega

theorem amoResult_eight (rd : XReg) (g : AtomFn) (old : Nat) (t : Str) : amoResult rd g 8 old t = t.setX rd (BitVec.ofNat 64 old) := by
  cases g <;> rfl

/-- A write of an X register in a bank (R343). -/
theorem inBank_setX (t : Str) (mon : Bool) (r : XReg) (v : Word) : t.inBank mon (fun y => y.setX r v)
    = if r = 0 then t else if mon then { t with xm := t.xm.set r.toNat v r.isLt } else { t with x := t.x.set r.toNat v r.isLt } := by
  unfold Str.inBank Str.setX
  by_cases hr : r = 0
  · simp only [if_pos hr]
    split <;> rfl
  · simp only [if_neg hr]
    by_cases h : t.lvl = 0
    · have user : (t.lvl != 0) = false := by simp [h]
      cases mon
      · rw [user, if_pos rfl, if_pos h]; rfl
      · rw [user]; rfl
    · have monitor : (t.lvl != 0) = true := bne_iff_ne.mpr h
      cases mon
      · rw [monitor]; rfl
      · rw [monitor, if_pos rfl, if_neg h]; rfl

/-- A reply gives an atomic of 8 bytes its old value and its flags, in the bank of the mode in which it issued (R343, R411). -/
theorem bind_replied {l : Load} {rd : XReg} {g : AtomFn} {o1 o2 : BitVec 128} {md : BitVec 2} (hdst : l.dst = .amo rd g 8 o1 o2 md)
    (d : BitVec 128) (e : BitVec 5) (t : Str) :
    t.bind (l.replied d e) = { t.inBank l.mon (fun y => y.setX rd (d.extractLsb' 0 64)) with fflg := t.fflg ||| e } := by
  have word : BitVec.ofNat 64 (d.toNat % 2 ^ 64) = d.extractLsb' 0 64 := by apply BitVec.eq_of_toNat_eq; simp
  have now : (fun u : Str => u.bindNow (l.replied d e)) = fun u => { u.setX rd (d.extractLsb' 0 64) with fflg := u.fflg ||| e } := by
    funext u
    simp only [Str.bindNow, Load.replied, hdst, amoResult_eight, gotNum_reply, word]
    simp [Str.orFlags]
  unfold Str.bind
  rw [now, show (l.replied d e).mon = l.mon from rfl]
  unfold Str.inBank
  by_cases h : l.mon = (t.lvl != 0)
  · rw [if_pos h, if_pos h]
  · rw [if_neg h, if_neg h]

/-- A reply to the only load of a string. -/
theorem answerLoad_replied {s : State} {c k : Nat} {l : Load} {rd : XReg} {g : AtomFn} {o1 o2 : BitVec 128} {md : BitVec 2}
    (hl : (s.str c k).lds = [l]) (hb : l.bad = none) (hd : l.dead = false) (hdst : l.dst = .amo rd g 8 o1 o2 md) (d : BitVec 128) (e : BitVec 5) :
    s.answerLoad c k l.seq (Load.replied d e) = s.setStr c k
      { (s.str c k).inBank l.mon (fun y => y.setX rd (d.extractLsb' 0 64)) with lds := [], fflg := (s.str c k).fflg ||| e } := by
  rw [answerLoad_single _ hl, bindLoads_atomic (l := l.replied d e) (by simp) rfl hd hb hdst, str_setStr_self, bind_replied hdst, setStr_setStr,
    inBank_setX, inBank_setX]
  split
  · rfl
  · split <;> rfl

theorem meterAtom_kept (s : State) (c k q : Nat) : Kept s (s.meterAtom c k q) := by
  unfold State.meterAtom
  split
  · exact kept_meterOf s c 9 _
  · exact .refl s

/-- The fault of an access through `p` that the host aborts (R411). -/
def hostAbortAt (p : Word) : FaultInfo := { code := 0x41, detail := 0, val := p }

/-- A load whose answer is an abort. -/
def abortedLoad (l : Load) : Load := { l with evs := [], bad := worse l.bad 0 (hostAbortAt l.ptr) }

/-- The only load of a user-mode string is aborted: a trap with HOST_ABORT (R411). -/
theorem abortLoad_traps {s : State} {c k : Nat} {l : Load} (hl : (s.str c k).lds = [l]) (hb : l.bad = none) (hd : l.dead = false)
    (hu : l.undo = none) (hrun : (s.str c k).run = .running) (hlvl : (s.str c k).lvl = 0) (hact : ∀ b, (s.str c k).act = some b → b.rst = false) :
    SameOutside s (s.abortLoad c k l.seq)
      ∧ Trapped { s.str c k with lds := [] } ((s.abortLoad c k l.seq).str c k) (s.core c).mentry 0 0 0x41 l.ptr l.pc := by
  obtain ⟨t, e, out, str, mentry⟩ := bindLoads_fault (c := c) (k := k) (l := abortedLoad l) (i := 0) (e := hostAbortAt l.ptr)
    (s := s.setStr c k { s.str c k with lds := [abortedLoad l] }) (by simp) rfl hd (by simp [abortedLoad, hb, worse]) hu
  rw [str_setStr_self] at str
  obtain ⟨u, eu, trap⟩ := takeFault_traps (s := t) (c := c) (k := k) l.pc (hostAbortAt l.ptr) (by rw [str]; exact hrun)
    (by rw [str]; exact hlvl) (by rw [str]; exact hact)
  have all : s.abortLoad c k l.seq = t.setStr c k u := by
    unfold State.abortLoad
    rw [answerLoad_single _ hl, ← eu]
    exact e
  rw [mentry, str] at trap
  rw [all, str_setStr_self]
  refine ⟨((sameOutside_setStr s c k _).trans out).trans (sameOutside_setStr t c k u), ?_⟩
  simpa [State.setStr, Trapped, hostAbortAt] using trap

/-! ## An insecure stream (R412) -/

/-- The stream is Insecure. -/
def withInsecure (s : State) (n : Nat) : State :=
  { s with dev := { s.dev with insecure := n :: s.dev.insecure.filter (fun x => x != n) } }

/-- Requests of all cores for pages of the chosen functions end. -/
def abortAllPages (s : State) (on : Nat → Bool) : State := (s.cores.map (·.1)).foldl (fun s c => s.abortPages c on) s

theorem reqFn_withInsecure (s : State) (n : Nat) (r : HostReq) : (withInsecure s n).reqFn r = s.reqFn r := by
  cases r <;> rfl

/-- With no request of the host outstanding on the stream, an integrity failure ends requests for pages alone. -/
theorem ideIntegrityFailure_noRequests {s : State} {n : Nat} (f : Nat) (h : ∀ r ∈ s.hostReqs, (s.vf (s.reqFn r.2)).stream ≠ n) :
    exec (.ideIntegrityFailure f n) s = .next (abortAllPages (withInsecure s n) (fun g => (s.vf g).stream == n)) := by
  have none : s.hostReqs.filter (fun r => (s.vf ((withInsecure s n).reqFn r.2)).stream == n) = [] :=
    List.filter_eq_nil_iff.mpr (fun r hr => by simpa [reqFn_withInsecure] using h r hr)
  rw [exec_ideIntegrityFailure]
  unfold execIdeIntegrityFailure
  dsimp only
  rw [show ({ s with dev := { s.dev with insecure := n :: s.dev.insecure.filter (fun x => x != n) } } : State) = withInsecure s n from rfl]
  rw [none]
  rfl

theorem mem_withInsecure (s : State) (n k : Nat) : k ∈ (withInsecure s n).dev.insecure ↔ k = n ∨ k ∈ s.dev.insecure := by
  simp only [withInsecure, List.mem_cons, List.mem_filter, bne_iff_ne, ne_eq]
  tauto

theorem serve_outside (s : State) (c k : Nat) (m : Miss) (h : Hand) : SameOutside s (s.serve c k m h) := by
  unfold State.serve
  split <;> rfl

/-- Serving a miss of a core changes no other core. -/
theorem serve_core_ne (s : State) {c d : Nat} (k : Nat) (m : Miss) (h : Hand) (e : d ≠ c) : (s.serve c k m h).core d = s.core d := by
  unfold State.serve
  split
  · unfold State.modStr State.setStr
    rw [core_modCore_ne _ _ e, core_modCore_ne _ _ e]
  · rw [core_modCore_ne _ _ e, core_modCore_ne _ _ e]

/-- What a string has in hand stays there when a miss is served. -/
theorem serve_inHand (s : State) (c k : Nat) (m : Miss) (h : Hand) (d j : Nat) (x : Hand) (hx : x ∈ (s.str d j).inHand) :
    x ∈ ((s.serve c k m h).str d j).inHand := by
  have first (f : Core → Core) (hf : (f (s.core c)).strs = (s.core c).strs) : x ∈ ((s.modCore c f).str d j).inHand := by
    rw [str_modCore s c f hf]; exact hx
  unfold State.serve
  split
  · unfold State.modStr
    by_cases e : (d, j) = (c, k)
    · obtain ⟨rfl, rfl⟩ := Prod.mk.inj e
      rw [str_setStr_self]
      exact List.mem_append_left _ (first _ rfl)
    · rw [str_setStr_ne _ _ e]; exact first _ rfl
  · rw [str_modCore _ _ _ rfl]; exact first _ rfl

/-- What a miss of a string has found is in the string's hand. -/
theorem serve_gives (s : State) (c : Nat) {k : Nat} (m : Miss) (h : Hand) (hk : k < 4) : h ∈ ((s.serve c k m h).str c k).inHand := by
  simp [State.serve, hk, State.modStr]

/-- One step of `State.abortPages`. -/
def abortPage (c : Nat) (on : Nat → Bool) (s : State) (m : Miss) : State :=
  match m with
  | .host k f page _ _ => if on f then s.serve c k m (.hostAbort f page) else s
  | _ => s

theorem abortPages_eq (s : State) (c : Nat) (on : Nat → Bool) : s.abortPages c on = (s.core c).misses.foldl (abortPage c on) s := by
  unfold State.abortPages
  congr 1

/-- A step serves a miss or does nothing. -/
theorem abortPage_cases (c : Nat) (on : Nat → Bool) (s : State) (m : Miss) :
    abortPage c on s m = s ∨ ∃ k h, abortPage c on s m = s.serve c k m h := by
  unfold abortPage
  split
  · split
    · exact .inr ⟨_, _, rfl⟩
    · exact .inl rfl
  · exact .inl rfl

theorem abortPages_outside (s : State) (c : Nat) (on : Nat → Bool) : SameOutside s (s.abortPages c on) := by
  rw [abortPages_eq]
  refine sameOutside_foldl _ _ (fun s m => ?_) s
  obtain e | ⟨k, h, e⟩ := abortPage_cases c on s m
  · rw [e]; exact .refl s
  · rw [e]; exact serve_outside s c k m h

theorem abortPages_core_ne (s : State) {c d : Nat} (on : Nat → Bool) (hd : d ≠ c) : (s.abortPages c on).core d = s.core d := by
  rw [abortPages_eq]
  refine List.foldlRecOn (motive := fun t : State => t.core d = s.core d) _ _ rfl (fun t ht m _ => ?_)
  obtain e | ⟨k, h, e⟩ := abortPage_cases c on t m
  · rw [e]; exact ht
  · rw [e, serve_core_ne t k m h hd]; exact ht

theorem abortPage_inHand (c : Nat) (on : Nat → Bool) (s : State) (m : Miss) (d j : Nat) (x : Hand) (hx : x ∈ (s.str d j).inHand) :
    x ∈ ((abortPage c on s m).str d j).inHand := by
  obtain e | ⟨k, h, e⟩ := abortPage_cases c on s m
  · rw [e]; exact hx
  · rw [e]; exact serve_inHand s c k m h d j x hx

theorem abortPages_inHand (s : State) (c : Nat) (on : Nat → Bool) (d j : Nat) (x : Hand) (hx : x ∈ (s.str d j).inHand) :
    x ∈ ((s.abortPages c on).str d j).inHand := by
  rw [abortPages_eq]
  exact List.foldlRecOn (motive := fun t : State => x ∈ (t.str d j).inHand) _ _ hx (fun t ht m _ => abortPage_inHand c on t m d j x ht)

/-- A string that waits for a page of a chosen function is given HOST_ABORT. -/
theorem abortPages_gives {s : State} {c j g page st : Nat} {wr : Bool} {on : Nat → Bool} (hg : on g = true) (hj : j < 4)
    (hm : Miss.host j g page wr st ∈ (s.core c).misses) : Hand.hostAbort g page ∈ ((s.abortPages c on).str c j).inHand := by
  rw [abortPages_eq]
  refine foldl_reaches (fun _ => True) (fun t => Hand.hostAbort g page ∈ (t.str c j).inHand) _ hm (fun _ _ _ => trivial)
    (fun t m h => abortPage_inHand c on t m c j _ h) (fun t _ => ?_) trivial
  rw [abortPage, if_pos hg]
  exact serve_gives t c _ _ hj

theorem abortAllPages_outside (s : State) (on : Nat → Bool) : SameOutside s (abortAllPages s on) :=
  sameOutside_foldl _ _ (fun s c => abortPages_outside s c on) s

/-- A core that the table does not hold waits for nothing. -/
theorem mem_cores_of_miss {s : State} {c : Nat} {m : Miss} (h : m ∈ (s.core c).misses) : c ∈ s.cores.map (·.1) := by
  by_contra no
  have absent : mfind s.cores c = none := by
    generalize s.cores = l at no
    induction l with
    | nil => rfl
    | cons p t ih =>
      simp only [List.map_cons, List.mem_cons, not_or] at no
      rw [mfind, if_neg (Ne.symm no.1), ih no.2]
  rw [State.core, mget, absent] at h
  exact absurd h (List.not_mem_nil)

/-- Every string that waits for a page of a chosen function is given HOST_ABORT (R412). -/
theorem abortAllPages_gives {s : State} {c j g page st : Nat} {wr : Bool} {on : Nat → Bool} (hg : on g = true) (hj : j < 4)
    (hm : Miss.host j g page wr st ∈ (s.core c).misses) : Hand.hostAbort g page ∈ ((abortAllPages s on).str c j).inHand := by
  refine foldl_reaches (fun t => Miss.host j g page wr st ∈ (t.core c).misses ∨ Hand.hostAbort g page ∈ (t.str c j).inHand)
    (fun t => Hand.hostAbort g page ∈ (t.str c j).inHand) _ (mem_cores_of_miss hm) (fun t d h => ?_)
    (fun t d h => abortPages_inHand t d on c j _ h) (fun t h => ?_) (.inl hm)
  · obtain h | h := h
    · by_cases e : c = d
      · subst e; exact .inr (abortPages_gives hg hj h)
      · rw [abortPages_core_ne t on e]; exact .inl h
    · exact .inr (abortPages_inHand t d on c j _ h)
  · obtain h | h := h
    · exact abortPages_gives hg hj h
    · exact abortPages_inHand t c on c j _ h

/-! ## What each event of `HostRegisters` does -/

/-- The launch doorbell (R405). -/
theorem lrdbWrite_leaves {s : State} {f : Nat} (w : Word) (hh : s.hears f = true) (hle : (s.vf f).le = false)
    (hr : ∃ p, (s.vf f).part = some p ∧ (s.part p).pstate = .running) :
    let v := s.vf f
    let x := w.extractLsb' 0 16
    let k := v.lrcfg.toNat % 16
    ((2 ^ 16 ≤ w.toNat ∨ ringCode v v.lrcfg v.lrbase 128 = 1) → LeavesVf (.lrdbWrite f w) s f { v with le := true, lcode := 1 })
      ∧ (w.toNat < 2 ^ 16 → ringCode v v.lrcfg v.lrbase 128 = 2 → LeavesVf (.lrdbWrite f w) s f { v with le := true, lcode := 2 })
      ∧ (w.toNat < 2 ^ 16 → ringCode v v.lrcfg v.lrbase 128 = 0 →
        ((2 ^ k < (x - v.lp).toNat ∨ 2 ^ k < (x - v.lh).toNat) → LeavesVf (.lrdbWrite f w) s f { v with le := true, lcode := 3 })
          ∧ ((x - v.lp).toNat ≤ 2 ^ k → (x - v.lh).toNat ≤ 2 ^ k → LeavesVf (.lrdbWrite f w) s f { v with lp := x })) := by
  intro v x k
  have code (h : w.toNat < 2 ^ 16) : launchCode v w = ringCode v v.lrcfg v.lrbase 128 := if_neg (Nat.not_le.mpr h)
  refine ⟨fun h => ?_, fun hw hc => ?_, fun hw hc => ⟨fun h => ?_, fun h1 h2 => ?_⟩⟩
  · refine lrdbWrite_badConfig hh hle hr (c := 1) ?_ (by decide)
    unfold launchCode
    split
    · rfl
    · exact h.resolve_left ‹_›
  · exact lrdbWrite_badConfig hh hle hr ((code hw).trans hc) (by decide)
  · refine leavesVf_launchRingError (c := 3) ?_
    rw [lrdbWrite_accepted w hh hle hr, if_neg (not_not.mpr ((code hw).trans hc)), if_pos h]
  · refine leavesVf_modVf (g := fun v => { v with lp := x }) ?_
    rw [lrdbWrite_accepted w hh hle hr, if_neg (not_not.mpr ((code hw).trans hc)), if_neg (by simp only [not_or, Nat.not_lt]; exact ⟨h1, h2⟩)]

/-- The event doorbell (R405). -/
theorem erdbWrite_leaves {s : State} {f : Nat} (w : Word) (hh : s.hears f = true) (hee : (s.vf f).ee = false)
    (hc : ringCode (s.vf f) (s.vf f).ercfg (s.vf f).erbase 64 = 0) :
    let v := s.vf f
    let x := w.extractLsb' 0 16
    let e := v.ercfg.toNat % 16
    ((x - v.ep).toNat ≤ 2 ^ e → (v.ed - x).toNat ≤ 2 ^ e → LeavesVf (.erdbWrite f w) s f { v with ep := x })
      ∧ (2 ^ e < (x - v.ep).toNat → LeavesVf (.erdbWrite f w) s f { v with ee := true, ecode := 3, erchk := false }) := by
  intro v x e
  refine ⟨fun h1 h2 => ?_, fun h => ?_⟩
  · refine leavesVf_modVf (g := fun v => { v with ep := x }) ?_
    rw [erdbWrite_accepted w hh hee hc, if_neg (by simp only [not_or, Nat.not_lt]; exact ⟨h1, h2⟩)]
  · refine leavesVf_eventRingError (c := 3) ?_
    rw [erdbWrite_accepted w hh hee hc, if_pos (.inl h)]

/-- A register of a locked interface is written: it goes to ERROR and is reset (R413). -/
theorem registerWrite_locked {s : State} {f : Nat} (w : Word) (hh : s.hears f = true) (hf : f ≠ 0)
    (hl : (s.vf f).tdi = .locked ∨ (s.vf f).tdi = .run) :
    ∃ u, exec (.registerWrite f 0x000 (.write w)) s = .next u ∧ (u.vf f).tdi = .error ∧ (u.vf f).ideKeyed = []
      ∧ (u.vf f).incarn = (s.vf f).incarn + 1 ∧ u.mem = s.mem := by
  refine ⟨_, registerWrite_heard 0 w hf hh, ?_⟩
  rw [touchLocked_locked (by rw [vf_modVf_self]; exact hl)]
  simp

/-- A host message to a launch that is known (R410). -/
theorem hmsgPost_sends {s : State} {f i : Nat} {l : Launch} {d : BitVec 512} (hh : s.hears f = true)
    (hk : s.knownSerial f (d.toNat / 2 ^ 308 % 2 ^ 64) = some (i, l)) (hc : d.toNat / 2 ^ 296 % 2 ^ 12 < l.nlcore) :
    ∃ u g, exec (.hmsgPost f 64 d) s = .next u ∧ u.net = s.net ++ [g] ∧ g.msg.launch = i ∧ g.msg.dest = .core (d.toNat / 2 ^ 296 % 2 ^ 12)
      ∧ g.msg.hid = 62 ∧ g.msg.key.toNat = d.toNat / 2 ^ 256 % 2 ^ 40 ∧ g.msg.payload = d.extractLsb' 0 256 ∧ u.mem = s.mem := by
  rw [← field_eq] at hk hc
  obtain ⟨g, net, msg⟩ := post_net s hostUnit (hostFlight i l d.toNat)
  have key : (BitVec.ofNat 40 (field d.toNat 256 40)).toNat = d.toNat / 2 ^ 256 % 2 ^ 40 := by
    rw [BitVec.toNat_ofNat, field_eq, Nat.mod_mod]
  have payload : BitVec.ofNat 256 d.toNat = d.extractLsb' 0 256 := by apply BitVec.eq_of_toNat_eq; simp
  refine ⟨_, g, hmsgPost_known hh hk hc, net, ?_⟩
  rw [msg, ← field_eq d.toNat 296]
  exact ⟨rfl, rfl, rfl, key, payload, post_mem _ _ _⟩

/-- A reply to the atomic that waits for it (R411). -/
theorem agreplyWrite_binds {s : State} {f : Nat} {d : BitVec 256} {a : AgentReq} {l : Load} {rd : XReg} {g : AtomFn} {o1 o2 : BitVec 128}
    {md : BitVec 2} (hh : s.hears f = true) (ha : (s.vf f).agents = [a]) (hid : a.id = d.toNat % 2 ^ 16)
    (hl : (s.str a.core a.str).lds = [l]) (hq : l.seq = a.seq) (hb : l.bad = none) (hd : l.dead = false)
    (hdst : l.dst = .amo rd g 8 o1 o2 md) (hok : d.getLsbD 16 = true) :
    ∃ u, exec (.agreplyWrite f d) s = .next u ∧ u.mem = s.mem ∧ (u.vf f).agents = []
      ∧ u.str a.core a.str = { (s.str a.core a.str).inBank l.mon (fun y => y.setX rd (d.extractLsb' 128 64)) with
          lds := [], fflg := (s.str a.core a.str).fflg ||| d.extractLsb' 17 5 } := by
  have kept := meterAtom_kept (withoutAgent s f a.id) a.core a.str l.seq
  have str := kept.string a.core a.str
  rw [show (withoutAgent s f a.id).str a.core a.str = s.str a.core a.str from rfl] at str
  have word : (d.extractLsb' 128 128).extractLsb' 0 64 = d.extractLsb' 128 64 := by
    ext i hi
    simp only [BitVec.getElem_extractLsb', BitVec.getLsbD_extractLsb']
    simp [show i < 128 by omega]
  have run : exec (.agreplyWrite f d) s
      = .next (((withoutAgent s f a.id).meterAtom a.core a.str l.seq).answerLoad a.core a.str l.seq
          (Load.replied (d.extractLsb' 128 128) (d.extractLsb' 17 5))) := by
    have agent : s.takeAgent f (field d.toNat 0 16) = some (a, withoutAgent s f a.id) := by
      rw [field_low, ← hid, takeAgent_single ha]
    simp [execAgreplyWrite, hh, agent, bitAt_toNat, hok, hq]
  refine ⟨_, run, ?_⟩
  rw [answerLoad_replied (by rw [str]; exact hl) hb hd hdst, str, str_setStr_self, word]
  refine ⟨kept.mem, ?_, rfl⟩
  rw [setStr_vf, vf_of_vfs kept.vfs, withoutAgent_single ha]

/-- No reply has come in time (R411). -/
theorem agentTimeout_traps {s : State} {f : Nat} {a : AgentReq} {l : Load} (ha : (s.vf f).agents = [a])
    (hl : (s.str a.core a.str).lds = [l]) (hq : l.seq = a.seq) (hb : l.bad = none) (hd : l.dead = false) (hu : l.undo = none)
    (hrun : (s.str a.core a.str).run = .running) (hlvl : (s.str a.core a.str).lvl = 0)
    (hact : ∀ b, (s.str a.core a.str).act = some b → b.rst = false) :
    ∃ u, exec (.agentTimeout f a.id) s = .next u ∧ u.mem = s.mem ∧ (u.vf f).agents = []
      ∧ Trapped { s.str a.core a.str with lds := [] } (u.str a.core a.str) (s.core a.core).mentry 0 0 0x41 l.ptr l.pc := by
  obtain ⟨out, trap⟩ := abortLoad_traps (s := withoutAgent s f a.id) hl hb hd hu hrun hlvl hact
  refine ⟨_, ?_, out.mem, ?_, trap⟩
  · rw [exec_agentTimeout, execAgentTimeout, takeAgent_single ha, hq]
  · rw [out.vf, withoutAgent_single ha]

/-- An integrity failure of a stream that has no request outstanding (R412). -/
theorem ideIntegrityFailure_aborts {s : State} {n : Nat} (f : Nat) (h : ∀ r ∈ s.hostReqs, (s.vf (s.reqFn r.2)).stream ≠ n) :
    ∃ u, exec (.ideIntegrityFailure f n) s = .next u ∧ u.mem = s.mem ∧ u.vfs = s.vfs
      ∧ (∀ k, k ∈ u.dev.insecure ↔ k = n ∨ k ∈ s.dev.insecure)
      ∧ ∀ g c j page wr st, (s.vf g).stream = n → j < 4 → Miss.host j g page wr st ∈ (s.core c).misses →
          Hand.hostAbort g page ∈ (u.str c j).inHand := by
  have out := abortAllPages_outside (withInsecure s n) (fun g => (s.vf g).stream == n)
  refine ⟨_, ideIntegrityFailure_noRequests f h, out.mem, out.vfs, fun k => ?_, fun g c j page wr st hg hj hm => ?_⟩
  · rw [out.dev]; exact mem_withInsecure s n k
  · exact abortAllPages_gives (s := withInsecure s n) (beq_iff_eq.mpr hg) hj hm

/-- Settles O57: each clause is one of the lemmas above about the event that it names. -/
theorem hostRegisters : Obligations.HostRegisters := by
  unfold Obligations.HostRegisters
  intro s f w v x k e runs vfIs
  refine ⟨fun hh => ⟨?_, ?_, ?_, ?_, ?_, ?_, ?_, ?_, ?_, ?_, ?_, ?_⟩, ?_, ?_, ?_, ?_, ?_, ?_, ?_, ?_, ?_, ?_, ?_, ?_⟩
  · exact fun hle hr => lrdbWrite_leaves w hh hle hr
  · exact fun hee hc => (erdbWrite_leaves w hh hee hc).1
  · exact fun hee hc => (erdbWrite_leaves w hh hee hc).2
  · intro hu hw
    rw [← setLrcfg_enabled v hw, ← setErcfg_enabled v hw]
    exact ⟨lrcfgWrite_unlocked w hh hu, ercfgWrite_unlocked w hh hu⟩
  · intro hu hw
    rw [← setLrcfg_disabled v hw, ← setErcfg_disabled v hw]
    exact ⟨lrcfgWrite_unlocked w hh hu, ercfgWrite_unlocked w hh hu⟩
  · exact fun hf hu => ⟨leavesVf_unlocked (g := fun v => { v with lrbase := w }) hu rfl (registerWrite_heard 0 w hf hh),
      leavesVf_unlocked (g := fun v => { v with erbase := w }) hu rfl (registerWrite_heard 0x018 w hf hh),
      leavesVf_unlocked (g := fun v => { v with busMaster := w.getLsbD 0 }) hu rfl (configurationWrite_busMaster w ((hears_iff s f).mp hh).2)⟩
  · exact fun hf hl => registerWrite_locked w hh hf hl
  · exact fun d i l hk hc => hmsgPost_sends hh hk hc
  · intro d hk
    rw [← field_eq] at hk
    exact leavesVf_countStale (hmsgPost_unknown hh hk)
  · exact fun o hf h1 h2 => leavesVf_countStale ((registerWrite_heard o w hf hh).trans (writeVfReg_message s f w h1 h2))
  · exact fun d a l rd g o1 o2 md ha hid hl hq hb hd hdst hok => agreplyWrite_binds hh ha hid hl hq hb hd hdst hok
  · exact fun d ha => leavesVf_countStale (agreplyWrite_unknown hh ha)
  · exact fun a l ha hl hq hb hd hu hrun hlvl hact => agentTimeout_traps ha hl hq hb hd hu hrun hlvl hact
  · intro hr hgo
    refine ⟨_, registerWrite_pmcmd w hr, ?_⟩
    rw [write_pmcmd_idle w hgo]
    exact ⟨rfl, rfl, rfl, rfl⟩
  · intro hr hgo
    obtain ⟨run, go, same⟩ := write_pmcmd_busy w hgo
    exact ⟨_, registerWrite_pmcmd w hr, run, go, fun hw => by rw [same hw]⟩
  · exact fun h => leavesVf_modVf (g := fun v => { v with tdi := .locked }) (if_pos h)
  · exact fun h => leavesVf_modVf (g := fun v => { v with tdi := .run }) (if_pos h)
  · exact fun h => if_neg h
  · exact leavesVf_modVf (g := fun v => { v with tdi := .unlocked }) rfl
  · intro n h
    obtain ⟨u, run, mem, vfs, insecure, _⟩ := ideIntegrityFailure_aborts f h
    exact ⟨u, run, mem, vfs, (insecure n).mpr (.inl rfl), fun k hk => (insecure k).trans (or_iff_right hk)⟩
  · intro n g h hg
    obtain ⟨u, run, _, vfs, insecure, gives⟩ := ideIntegrityFailure_aborts f h
    refine ⟨u, run, ?_, fun c j page wr st => gives g c j page wr st hg⟩
    rw [State.isInsecure, vf_of_vfs vfs, hg, List.contains_iff_mem]
    exact (insecure n).mpr (.inl rfl)
  · intro hr hf hs
    refine ⟨fun x hx => ?_, fun a b => ⟨_, registerAdd_agto a b hr hf hs, rfl, vf_modVf_self _ f _, rfl⟩⟩
    rw [registerRead_ready x.1 hr hf hs, readBlock_registers s f x hx]
  · exact fun hs => ⟨registerRead_shut hs, configurationWrite_shut w hs, fun hr => configurationWrite_ignored w hr hs⟩
  · exact fun hr hh hf => ⟨_, registerWrite_unheard 0 w hr hf hh, rfl, rfl, mget_mset_self _ _ _ _⟩

end Sys2Proof.Proofs
end

section
/-! SUPPORT. Every instruction and every event answers a next state, whatever the state: what a step does never ends a run, except that a
string be chosen that the package does not have (R13, R16). The statement `StepGoesOn` is put together from that. -/

namespace Sys2Proof.Proofs

open Sys2Proof Sys2Proof.Machine Sys2Proof.Laws

/-- The answer is a next state: no fault, and no refusal. -/
def IsNext (r : Out1) : Prop := ∃ t, r = .next t

theorem isNext_next (s : State) : IsNext (.next s) := ⟨s, rfl⟩

theorem isNext_ite {p : Prop} [Decidable p] {a b : Out1} (ha : IsNext a) (hb : IsNext b) : IsNext (if p then a else b) := by
  split
  · exact ha
  · exact hb

/-! ## The shared ways to perform an instruction or an event -/

theorem isNext_faultDue (s : State) (f : State → State) : IsNext (s.faultDue f) := by
  obtain h | h | ⟨_, h⟩ := faultDue_cases s f <;> exact ⟨_, h⟩

theorem isNext_strOp (regs : List Nat) (f : Str → Str) (s : State) : IsNext (strOp regs f s) := by
  obtain ⟨_, h⟩ | ⟨_, _, h⟩ := strOp_cases regs f s <;> exact ⟨_, h⟩

theorem isNext_strJump (regs : List Nat) (f : Str → Str) (g : Str → Word) (s : State) : IsNext (strJump regs f g s) := by
  obtain ⟨_, h⟩ | ⟨_, _, h⟩ := strJump_cases regs f g s <;> exact ⟨_, h⟩

/-- Whatever an instruction does, its fault is due or it leaves a state. -/
theorem isNext_runInstr (f : M Adv) (s : State) : IsNext (runInstr f s) := by
  obtain ⟨_, _, h⟩ | ⟨_, _, _, _, _, h⟩ | ⟨_, _, h⟩ | ⟨_, _, h⟩ | ⟨_, _, _, h⟩ | ⟨_, _, h⟩ := runInstr_cases f s
  · exact h ▸ isNext_faultDue _ _
  · exact h ▸ isNext_faultDue _ _
  all_goals exact ⟨_, h⟩

theorem isNext_engineStep (c : Nat) (e : Engine) (op : Nat → Bool) (pieces : Cmd → List (Word × Nat)) (f : Cmd → M Cmd) (s : State) :
    IsNext (engineStep c e op pieces f s) := by
  unfold engineStep
  cases s.engQueue c e with
  | nil => exact isNext_next _
  | cons cmd _ => exact isNext_ite (isNext_next _) (isNext_next _)

/-- A command of the host that waits is refused, or it ends with its status. -/
theorem isNext_command (op : Nat) (allowed : PState → Bool) (run : Nat → State → Except Nat (State × Word)) (s : State) :
    IsNext (command op allowed run s) := by
  unfold command
  refine isNext_ite (isNext_next _) (isNext_ite (isNext_next _) ?_)
  cases run s.root.mbox.p s.backAll with
  | error _ => exact isNext_next _
  | ok _ => exact isNext_next _

theorem isNext_fenceCommand (op : Nat) (teardown : Bool) (s : State) : IsNext (fenceCommand op teardown s) :=
  isNext_ite (isNext_next _) (isNext_ite (isNext_next _) (isNext_next _))

theorem isNext_spdmRequest (f : Nat) (allowed verOk : Spdm → Bool) (run : State → State) (s : State) :
    IsNext (spdmRequest f allowed verOk run s) :=
  isNext_ite (isNext_next _) (isNext_ite (isNext_next _) (isNext_ite (isNext_next _) (isNext_next _)))

/-! ## Registers that the host writes (R397 to R413) -/

theorem isNext_quantumTableWrite (p i : Nat) (w : Word) (s : State) : IsNext (execQuantumTableWrite p i w s) := by
  unfold execQuantumTableWrite
  refine isNext_ite (isNext_next _) ?_
  split
  · exact isNext_next _
  · exact isNext_next _

theorem isNext_lrcfgWrite (f : Nat) (w : Word) (s : State) : IsNext (execLrcfgWrite f w s) := isNext_ite (isNext_next _) (isNext_next _)

theorem isNext_ercfgWrite (f : Nat) (w : Word) (s : State) : IsNext (execErcfgWrite f w s) := isNext_ite (isNext_next _) (isNext_next _)

theorem isNext_lrdbWrite (f : Nat) (w : Word) (s : State) : IsNext (execLrdbWrite f w s) :=
  isNext_ite (isNext_next _) (isNext_ite (isNext_next _) (isNext_ite (isNext_next _)
    (isNext_ite (isNext_next _) (isNext_ite (isNext_next _) (isNext_next _)))))

theorem isNext_erdbWrite (f : Nat) (w : Word) (s : State) : IsNext (execErdbWrite f w s) :=
  isNext_ite (isNext_next _) (isNext_ite (isNext_next _)
    (isNext_ite (isNext_next _) (isNext_ite (isNext_next _) (isNext_next _))))

theorem isNext_writeWindow (s : State) (o : Nat) (w : Word) : IsNext (s.writeWindow o w) :=
  isNext_ite (isNext_next _) (isNext_ite (isNext_ite (isNext_quantumTableWrite _ _ _ _) (isNext_next _))
    (isNext_ite (isNext_ite (isNext_next _) (isNext_ite (isNext_next _) (isNext_ite (isNext_next _) (isNext_next _)))) (isNext_next _)))

theorem isNext_writeVfReg (s : State) (f o : Nat) (w : Word) : IsNext (s.writeVfReg f o w) := by
  unfold State.writeVfReg
  split
  · exact isNext_next _
  · exact isNext_lrcfgWrite _ _ _
  · exact isNext_lrdbWrite _ _ _
  · exact isNext_next _
  · exact isNext_ercfgWrite _ _ _
  · exact isNext_erdbWrite _ _ _
  · exact isNext_next _
  · exact isNext_next _

theorem isNext_regWrite (s : State) (fn o : Nat) (w : Word) : IsNext (s.regWrite fn o w) :=
  isNext_ite (isNext_ite (isNext_writeWindow _ _ _) (isNext_next _)) (isNext_ite (isNext_writeVfReg _ _ _ _) (isNext_next _))

theorem isNext_thenDo {r : Out1} {f : State → Out1} (hr : IsNext r) (hf : ∀ s, IsNext (f s)) : IsNext (thenDo r f) := by
  obtain ⟨s, rfl⟩ := hr
  exact hf s

theorem isNext_regAtomic (s : State) (fn o n : Nat) (g : AtomFn) (a b : BitVec 128) : IsNext (s.regAtomic fn o n g a b) :=
  isNext_ite (isNext_next _) (isNext_thenDo (isNext_regWrite _ _ _ _) fun s => isNext_ite (isNext_regWrite s _ _ _) (isNext_next s))

theorem isNext_registerWrite (fn o : Nat) (op : RegOp) (s : State) : IsNext (execRegisterWrite fn o op s) := by
  cases op with
  | write w => exact isNext_regWrite s fn o w
  | read => exact isNext_next _
  | atomic g n a b => exact isNext_ite (isNext_next _) (isNext_regAtomic s fn o n g a b)

/-! ## Every instruction and every event -/

/-- By the shared operation that performs it; an event with a case analysis of its own answers a next state in each of its cases. -/
theorem isNext_exec (i : Instr) (s : State) : IsNext (exec i s) := by
  unfold exec
  cases i with
  | add | sub | and | or | xor | andn | sll | srl | sra | slt | sltu | min | max | minu | maxu | mul | mulh | mulhu | div | divu | rem |
    remu | clz | ctz | popc | slli | srli | srai | colg | cols | addi | andi | ori | xori | slti | sltiu | lis | lih | lea | fadd | fsub |
    fmul | fdiv | fsqrt | fmin | fmax | feq | flt | fle | fclass | fcvtFp | fcvtFromI64 | fcvtFromU64 | fcvtToI64 | fcvtToU64 | ffma | fxcvt
    | sstat | mand | mor | mnot | mpop =>
    exact isNext_strOp _ _ _
  | jal | beq | bne | blt | bge | bltu | bgeu => exact isNext_strJump _ _ _ _
  | jalr =>
    simp only [execJalr]
    split
    · exact isNext_ite (isNext_next _) (isNext_ite (isNext_next _) (isNext_next _))
    · exact isNext_next _
  | ldB | ldH | ldW | ldD | ldBu | ldHu | ldWu | stB | stH | stW | stD | ldAcq | stRel | ldlW | ldlD | ldlv | amoAddD | amoAndD | amoOrD |
    amoXorD | amoMinD | amoMaxD | amoMinuD | amoMaxuD | amoSwapD | amoAddW | amoAndW | amoOrW | amoXorW | amoMinW | amoMaxW | amoMinuW |
    amoMaxuW | amoSwapW | casW | casD | casQ | famoAddS | famoAddD | csrr | csrw | csrs | csrc | fence | wait | send | sendv | arm | done |
    endl | msk | lnch | rinit | rfree | rwait | rrel | rstat | sbind | sunb | mxst | rqry | plbinv | plbinvAll | tlbinv | trap | mcall |
    eret | idle | bar | grant | revoke | enq | illegalEncoding | vld | vst | vlds | vsts | vgath | vscat | vldj | vstj | vcvtFpFp |
    vcvtIntToFp | vcvtFpToInt | vaddFp | vsubFp | vmulFp | vdiv | vsqrt | vrsq | vexp | vlog | vsin | vcos | vtanh | vminFp | vmaxFp |
    vabsFp | vnegFp | vcmpFp | vredsumFp | vredmaxFp | vredminFp | jseed | jconst | jget | jset | jder | vaddInt | vsubInt | vmulInt |
    vminInt | vmaxInt | vabsInt | vnegInt | vand | vor | vxor | vshl | vshr | vsra | vcmpEq | vcmpNe | vcmpLt | vcmpLe | vcmpLtu | vcmpLeu |
    vredsumInt | vredmaxInt | vredminInt | vmov | vsel | vbcast | vext | vins | viota | vperm | vslide | vfmaF64 | vfmaF32 | vfmaBf16 |
    vfmsF64 | vfmsF32 | vfmsBf16 | vfnmaF64 | vfnmaF32 | vfnmaBf16 | vfnmsF64 | vfnmsF32 | vfnmsBf16 =>
    exact isNext_runInstr _ _
  | mxLoadb | mxRows | mxDrain | mxZero | mxChkrd | bcCopy | bcFill | crEcv | crRng =>
    exact isNext_engineStep _ _ _ _ _ _
  | crShaInit | crShaUpdate | crShaFinal => exact isNext_ite (isNext_engineStep _ _ _ _ _ _) (isNext_next _)
  | create | bindvf | unbindvf | shadowpool | start => exact isNext_command _ _ _ _
  | granuleGive | granuleTake | domainAdd | domainRemove => exact isNext_ite (isNext_next _) (isNext_command _ _ _ _)
  | reset | teardown => exact isNext_fenceCommand _ _ _
  | getCapabilities | negotiateAlgorithms | getDigests | getCertificate | challenge | getMeasurements | keyExchange | finish | endSession =>
    exact isNext_spdmRequest _ _ _ _ _
  | registerWrite => exact isNext_registerWrite _ _ _ s
  | lrcfgWrite => exact isNext_lrcfgWrite _ _ s
  | ercfgWrite => exact isNext_ercfgWrite _ _ s
  | lrdbWrite => exact isNext_lrdbWrite _ _ s
  | erdbWrite => exact isNext_erdbWrite _ _ s
  | quantumTableWrite => exact isNext_quantumTableWrite _ _ _ s
  | powerOn | loadResponse | errorResponse | messageArrival | armArrival | stopInterface | rekey | wearSample | stressFactorUpdate |
    lifetimeRecordWrite | throttle | thermalTrip | fundamentalReset | orderlyShutdown | powerLoss | ideIntegrityFailure |
    atsInvalidateRequest =>
    exact isNext_next _
  -- Responses of memory, walks and searches of the tables, and the rights unit.
  | storeAcknowledgement | responseTimeout | tlbWalk | plbSearch | streamElementRead | streamPushPerform | rightsRequest | hold |
    holdAcknowledge | rightsTableWrite | release =>
    simp only [execStoreAcknowledgement, execResponseTimeout, execTlbWalk, execPlbSearch, execStreamElementRead, execStreamPushPerform,
      execRightsRequest, execHold, execHoldAcknowledge, execRightsTableWrite, execRelease]
    repeat' split
    all_goals exact isNext_next _
  -- Messages, records and launches.
  | nack | recordSelection | recordAgeing | replay | launchRecordRead | startMessage | launchEnd | completionRecordWrite =>
    simp only [execNack, execRecordSelection, execRecordAgeing, execReplay, execLaunchRecordRead, execStartMessage, execLaunchEnd,
      execCompletionRecordWrite]
    repeat' split
    all_goals exact isNext_next _
  -- Commands of the engines, and the change of the virtual function on a core.
  | enqAppend | engineCompletion | quantumExpiry | switch | go | quantumStart =>
    simp only [execEnqAppend, execEngineCompletion, execQuantumExpiry, execSwitch, execGo, execQuantumStart]
    repeat' split
    all_goals exact isNext_next _
  -- Notices, scrubbing, and commands to a partition.
  | noticePost | eventEntryWrite | poisonNotice | noticeTrap | patrolScrub | monitorFaultReport | resetDrainComplete | pmcmdUnknownOp |
    resetvf | stop | domainMemberActive =>
    simp only [execNoticePost, execEventEntryWrite, execPoisonNotice, execNoticeTrap, execPatrolScrub, execMonitorFaultReport,
      execResetDrainComplete, execPmcmdUnknownOp, execResetvf, execStop, execDomainMemberActive]
    repeat' split
    all_goals exact isNext_next _
  -- The host link, its sessions and its ports.
  | hmsgPost | agreplyWrite | agentTimeout | configurationWrite | lockInterface | startInterface | atsTranslationCompletion |
    pageRequestGroupResponse | hostCompletion | completionTimeout | novinoRequest | getVersion | unsupportedSpdmRequest | ideKmKeyProg |
    linkTraining =>
    simp only [execHmsgPost, execAgreplyWrite, execAgentTimeout, execConfigurationWrite, execLockInterface, execStartInterface,
      execAtsTranslationCompletion, execPageRequestGroupResponse, execHostCompletion, execCompletionTimeout, execNovinoRequest,
      execGetVersion, execUnsupportedSpdmRequest, execIdeKmKeyProg, execLinkTraining]
    repeat' split
    all_goals exact isNext_next _

/-! ## A move -/

/-- The fetch of an instruction misses, faults, or gives bytes, which name an instruction or none. -/
theorem isNext_issue {c k : Nat} (hc : c ≤ 4096) (hk : k < 4) (s : State) : IsNext (issue c k s) := by
  unfold issue
  rw [if_neg (by omega)]
  refine isNext_ite (isNext_next _) ?_
  rcases fetch { s with cur := (c, k) } with (f | ⟨f, v, b, a⟩ | m) | ⟨bytes, u⟩
  · exact isNext_faultDue _ _
  · exact isNext_faultDue _ _
  · exact isNext_next _
  · dsimp only
    cases decode bytes with
    | ok r => exact isNext_exec r.1 _
    | error _ => exact isNext_exec (.illegalEncoding (BitVec.ofNat 32 (leNat bytes))) _

theorem isNext_takeInput (s : State) : IsNext (takeInput s) := by
  unfold takeInput
  split
  · exact isNext_next _
  · dsimp only
    split
    · exact isNext_next _
    · exact isNext_next _
    · exact isNext_exec _ _

/-- A move that issues names a string of a core of the package, or of the root core (R13, R16). -/
def StringExists : Turn → Prop
  | .issue c k => c ≤ 4096 ∧ k < 4
  | _ => True

theorem isNext_makeMove {t : Turn} (h : StringExists t) (s : State) : IsNext (makeMove t s) := by
  cases t with
  | issue c k => exact isNext_issue h.1 h.2 s
  | input => exact isNext_takeInput s
  | mxu | bce | crypto | writeAnswer | decide | commitBlock | copyBack => exact isNext_next _
  | enqAppend c k => exact isNext_exec (.enqAppend c k) s
  | completion c e => exact isNext_exec (.engineCompletion c e) s
  | storeAck c k ix ev => exact isNext_exec (.storeAcknowledgement c k ix ev) s
  | noticePost c k ix => exact isNext_exec (.noticePost c k ix) s
  | loadResponse c k ix ev => exact isNext_exec (.loadResponse c k ix ev .home) s
  | tlbWalk c => exact isNext_exec (.tlbWalk c) s
  | plbSearch c => exact isNext_exec (.plbSearch c) s
  | rightsRequest p => exact isNext_exec (.rightsRequest p) s
  | hold c => exact isNext_exec (.hold c) s
  | holdAcknowledge c => exact isNext_exec (.holdAcknowledge c) s
  | rightsTableWrite p => exact isNext_exec (.rightsTableWrite p) s
  | release p => exact isNext_exec (.release p) s
  | recordSelection c k => exact isNext_exec (.recordSelection c k) s
  | replay l => exact isNext_exec (.replay l) s
  | streamElementRead c k st ix => exact isNext_exec (.streamElementRead c k st ix) s
  | streamPush c k st ix => exact isNext_exec (.streamPushPerform c k st ix) s
  | startMessage l => exact isNext_exec (.startMessage l) s
  | launchEnd p ix => exact isNext_exec (.launchEnd p ix) s
  | completionRecord l => exact isNext_exec (.completionRecordWrite l) s
  | switch c => exact isNext_exec (.switch c) s
  | go c => exact isNext_exec (.go c) s
  | quantumStart p => exact isNext_exec (.quantumStart p) s
  | eventEntryWrite f => exact isNext_exec (.eventEntryWrite f true) s
  | poisonNotice p => exact isNext_exec (.poisonNotice p) s
  | noticeTrap p => exact isNext_exec (.noticeTrap p) s
  | monitorFaultReport c => exact isNext_exec (.monitorFaultReport c) s
  | arrival ix =>
    simp only [makeMove]
    split
    · exact isNext_ite (isNext_next _) (isNext_next _)
    · exact isNext_next _

/-! ## The moves that are due -/

/-- Each move of the list that issues names a string that exists. -/
def AllExist (l : List Turn) : Prop := ∀ t ∈ l, StringExists t

theorem allExist_nil : AllExist [] := List.forall_mem_nil _

theorem allExist_singleton {t : Turn} (h : StringExists t) : AllExist [t] := List.forall_mem_singleton.mpr h

theorem allExist_append {l m : List Turn} (hl : AllExist l) (hm : AllExist m) : AllExist (l ++ m) := List.forall_mem_append.mpr ⟨hl, hm⟩

theorem allExist_ite {p : Prop} [Decidable p] {l m : List Turn} (hl : AllExist l) (hm : AllExist m) : AllExist (if p then l else m) := by
  split
  · exact hl
  · exact hm

/-- A move that is due under a condition. -/
theorem allExist_optional {p : Prop} [Decidable p] {t : Turn} (h : StringExists t) : AllExist (if p then [t] else []) :=
  allExist_ite (allExist_singleton h) allExist_nil

section
variable {α : Type} {l : List α}

theorem allExist_map {f : α → Turn} (h : ∀ x ∈ l, StringExists (f x)) : AllExist (l.map f) := List.forall_mem_map.mpr h

theorem allExist_flatMap {f : α → List Turn} (h : ∀ x ∈ l, AllExist (f x)) : AllExist (l.flatMap f) := by
  intro t ht
  obtain ⟨x, hx, hf⟩ := List.mem_flatMap.mp ht
  exact h x hx t hf

theorem allExist_filterMap {f : α → Option Turn} (h : ∀ x t, f x = some t → StringExists t) : AllExist (l.filterMap f) := by
  intro t ht
  obtain ⟨x, _, hf⟩ := List.mem_filterMap.mp ht
  exact h x t hf

end

/-- The accesses of a string issue nothing. -/
theorem allExist_strMoves (c k : Nat) (co : Core) (t : Str) : AllExist (strMoves c k co t) := by
  unfold strMoves
  refine allExist_append (allExist_append (allExist_append ?stores ?loads) ?streams) ?enq
  case stores =>
    refine allExist_flatMap fun i _ => ?_
    split
    · refine allExist_filterMap fun j u h => ?_
      split at h
      · cases h
      · split at h
        · split at h <;> cases h <;> trivial
        · cases h
    · exact allExist_nil
  case loads =>
    refine allExist_flatMap fun i _ => ?_
    split
    · refine allExist_filterMap fun j u h => ?_
      split at h
      · split at h
        · cases h; trivial
        · cases h
      · cases h
    · exact allExist_nil
  case streams =>
    refine allExist_flatMap fun n _ => ?_
    split
    · exact allExist_append (allExist_map fun _ _ => trivial) (allExist_map fun _ _ => trivial)
    · exact allExist_nil
  case enq =>
    split
    · exact allExist_singleton trivial
    · exact allExist_nil

theorem allExist_engMoves (c : Nat) (e : Engine) {run : Turn} (h : StringExists run) (s : State) : AllExist (engMoves c e run s) := by
  unfold engMoves
  refine allExist_append ?_ (allExist_optional h)
  split
  · exact allExist_optional trivial
  · exact allExist_nil

theorem lt_of_mem_strNums {k : Nat} (h : k ∈ strNums) : k < 4 := by
  revert k
  decide

/-- A core that the package does not have makes no moves, and a core issues its own four strings alone. -/
theorem allExist_coreMoves (c : Nat) (co : Core) (s : State) : AllExist (coreMoves c co s) := by
  unfold coreMoves
  split
  · exact allExist_nil
  next absent =>
    have hc : c ≤ 4096 := by
      simp only [Bool.or_eq_true, decide_eq_true_eq, not_or] at absent
      omega
    iterate 9 refine allExist_append ?_ ?_
    · exact allExist_map fun k hk => ⟨hc, lt_of_mem_strNums (List.mem_of_mem_filter hk)⟩
    · exact allExist_map fun _ _ => trivial
    · exact allExist_flatMap fun p _ => allExist_strMoves c p.1 co p.2
    · exact allExist_ite (allExist_engMoves c .crypto (run := .crypto) trivial s)
        (allExist_append (allExist_engMoves c .mxu (run := .mxu c) trivial s) (allExist_engMoves c .bce (run := .bce c) trivial s))
    · exact allExist_optional trivial
    · exact allExist_optional trivial
    · exact allExist_optional trivial
    · split
      · exact allExist_ite (allExist_singleton trivial) (allExist_optional trivial)
      · exact allExist_nil
    · split
      · exact allExist_singleton trivial
      · exact allExist_singleton trivial
      · exact allExist_nil
    · exact allExist_optional trivial

theorem allExist_partMoves (p : Nat) (q : Partition) (s : State) : AllExist (partMoves p q s) := by
  unfold partMoves
  iterate 4 refine allExist_append ?_ ?_
  · exact allExist_ite allExist_nil (allExist_ite (allExist_singleton trivial)
      (allExist_ite (allExist_singleton trivial) (allExist_singleton trivial)))
  · exact allExist_map fun _ _ => trivial
  · split
    · exact allExist_singleton trivial
    · exact allExist_nil
  · exact allExist_ite allExist_nil (allExist_singleton trivial)
  · exact allExist_ite allExist_nil (allExist_singleton trivial)

theorem allExist_launchMoves (i : Nat) (l : Launch) (s : State) : AllExist (launchMoves i l s) := by
  unfold launchMoves
  split
  · exact allExist_optional trivial
  · exact allExist_singleton trivial
  · exact allExist_optional trivial
  · exact allExist_ite allExist_nil (allExist_ite (allExist_singleton trivial) (allExist_map fun _ _ => trivial))

theorem allExist_moves (s : State) : AllExist (moves s) := by
  unfold moves
  iterate 6 refine allExist_append ?_ ?_
  · exact allExist_ite allExist_nil (allExist_singleton trivial)
  · exact allExist_flatMap fun c _ => allExist_coreMoves c.1 c.2 s
  · exact allExist_map fun _ _ => trivial
  · exact allExist_flatMap fun p _ => allExist_partMoves p.1 p.2 s
  · exact allExist_flatMap fun l _ => allExist_launchMoves l.1 l.2 s
  · exact allExist_map fun _ _ => trivial
  · exact allExist_map fun _ _ => trivial

/-- Where no move has been chosen, the next one is among those that are due. -/
theorem nextMove_mem {s : State} {t : Turn} (hs : s.turn = none) (h : nextMove s = some t) : t ∈ moves s := by
  unfold nextMove at h
  rw [hs] at h
  dsimp only at h
  split at h
  · cases h
  next hm => rw [hm]; exact List.mem_singleton.mpr (Option.some.inj h).symm
  · exact List.mem_of_getElem? h

/-- Settles O8: a move that has been chosen names a string that exists by hypothesis, one that is due does by `allExist_moves`, and
every move that does answers a next state. -/
theorem stepGoesOn : Obligations.StepGoesOn := by
  unfold Obligations.StepGoesOn
  intro s chosen
  unfold step
  cases hm : nextMove s with
  | none => exact isNext_next _
  | some t =>
    refine isNext_makeMove ?_ _
    cases hs : s.turn with
    | none => exact allExist_moves s t (nextMove_mem hs hm)
    | some u =>
      obtain rfl : u = t := by simpa [nextMove, hs] using hm
      cases u with
      | issue c k => exact chosen c k hs
      | _ => trivial

end Sys2Proof.Proofs
end

section
/-! SUPPORT. The statement `HostLinkEvents` fails, on a state whose table of partitions holds one number twice. -/

namespace Sys2Proof.Proofs

open Sys2Proof Sys2Proof.Machine Sys2Proof.Laws Sys2Proof.Claims

/-- The first entry for partition 0: package 1 is an active member, and the granules hold the tables and the leaf. -/
def sharedPartition : Partition :=
  { Partition.init with
    pstate := .running, root := 0x1000, granules := 0 :: (List.range 16).map (2304 + ·),
    members := [{ pkg := 1, part := 0, weAdded := true, peerAdded := true, rekeys := 0 }] }

/-- The second entry for partition 0, which lists a poisoned span at the beginning of the leaf. -/
def spanPartition : Partition := { Partition.init with spans := [{ die := 0, pa := 0x2400000000, len := 512, lvl := 1 }] }

/-- Two tables map the first GiB to 0x2400000000, in the half of DRAM whose homes are clusters, by a leaf that declares it interleaved (R30,
R73). -/
def twoTables : Memory := Memory.putNum (Memory.putNum [] 0x1000 8 (0x8000 + 3)) 0x8000 8 (0x2400000000 + 1)

/-- A state that holds both entries. No step makes one: `mset` leaves one entry of a number. -/
def doubledParts : State := { State.reset with mem := twoTables, parts := [(0, sharedPartition), (0, spanPartition)] }

/-- The leaf. -/
def misdeclaredLeaf : TlbEntry := { va := 0, size := 2 ^ 30, target := 0x2400000000, host := false, home := false, hcl := 0 }

theorem walk_doubledParts : walk doubledParts.seen (doubledParts.part 0) 0 = .ok misdeclaredLeaf := by decide +kernel

/-- The sector that the leaf maps lies in the span that the second entry lists. -/
theorem badAt_doubledParts : badAt doubledParts none 0x2400000000 0 = some { code := 0x20, detail := 0, val := 0 } := by decide +kernel

theorem walkOf_doubledParts : doubledParts.walkOf 0 0 = [0x1000, 0x8000] := by decide +kernel

/-- What goes out for a read through the leaf: the bytes, and no fault. Counting the misdeclared leaf in MISROUTE has left one entry of the
partition, without the span. -/
theorem novinoRead_doubledParts : ∀ u, exec (.novinoRequest 0 1 0 4 .read 0) doubledParts = .next u →
    u.out = [.novinoReply 1 [(0, 0), (1, 0), (2, 0), (3, 0)] none] := by
  have run : (match exec (.novinoRequest 0 1 0 4 .read 0) doubledParts with | .next u => u.out | _ => [])
      = [.novinoReply 1 [(0, 0), (1, 0), (2, 0), (3, 0)] none] := by decide +kernel
  intro u h
  rwa [h] at run

/-- Refutes O58: the read of a sector that lies in a listed span, through a misdeclared leaf, is answered with bytes where the table of partitions
holds its partition twice. -/
theorem not_hostLinkEvents : ¬ Obligations.HostLinkEvents := by
  unfold Obligations.HostLinkEvents
  intro h
  obtain ⟨-, -, -, -, -, -, novino, -⟩ := h doubledParts
  obtain ⟨-, answered⟩ := novino 0 1 0 4 misdeclaredLeaf 0
  obtain ⟨-, faults, -⟩ := answered (by decide +kernel) (by decide +kernel) (by decide) walk_doubledParts rfl (by decide)
  obtain ⟨u, hu, -, hout⟩ := faults _ badAt_doubledParts (by rw [walkOf_doubledParts]; decide +kernel)
  rw [novinoRead_doubledParts u hu] at hout
  exact absurd hout (by decide +kernel)

end Sys2Proof.Proofs
end

section
/-! SUPPORT. The statement `MailboxCommands` fails, on a state whose table of partitions holds one number twice. -/

namespace Sys2Proof.Proofs

open Sys2Proof Sys2Proof.Machine Sys2Proof.Laws Sys2Proof.Claims

/-- A load that is known not to fault, of one byte at the beginning of the package's memory. -/
def sureLoad : Load :=
  { seq := 0, dst := .x 1 .bu, evs := [{ place := .phys 0, bytes := [(0, 0)] }], got := [], bad := none, flags := 0, near := false, acq := none,
    owner := 0, ptr := 0, pc := 0, sure := true }

/-- The load is outstanding on core 0, which belongs to partition 0. -/
def loadingCore : Core := { Core.init with part := some 0, strs := [(0, { Str.init with lds := [sureLoad] })] }

/-- CREATE of partition 1 with cluster 3 and a home granule at 64 MiB. -/
def createCluster3 : Mailbox := { begun := false, cmd := 2 ^ 63, stat := 0, args := #v[8, 0, 0, 0, 4, 0x4000000, 0, 0], res := 0, run := 0x101 }

/-- The second entry for partition 0 holds cluster 3, and a commit has switched block 0. No step makes a state with both entries: `mset` leaves
one entry of a number. -/
def doubledHolder : State :=
  { State.reset with
    cores := [(0, loadingCore)], parts := [(0, Partition.init), (0, { Partition.init with clusters := [3] })], switched := [(1, 0)],
    root := { Root.init with mbox := createCluster3 } }

theorem createFails_doubledHolder : doubledHolder.createFails = some 4 := by decide +kernel

/-- The load performs before block 0 is copied back, and counting its byte leaves one entry of its partition, without the cluster: of CREATE
nothing fails but the read of the image. -/
theorem create_doubledHolder : ∀ u, exec (.create none) doubledHolder = .next u → u.root.mbox.stat = 0x105 := by
  have run : (match exec (.create none) doubledHolder with | .next u => u.root.mbox.stat | _ => 0) = 0x105 := by decide +kernel
  intro u h
  simpa only [h] using run

/-- Refutes O56: CREATE does not end with the status of the check that fails, where the table of partitions holds twice the partition that has
the cluster asked for, and a load that performs as the switched blocks are copied back leaves one entry of it. -/
theorem not_mailboxCommands : ¬ Obligations.MailboxCommands := by
  unfold Obligations.MailboxCommands
  intro h
  obtain ⟨-, -, create, -⟩ := h doubledHolder
  obtain ⟨-, fails, -⟩ := create (by decide +kernel)
  obtain ⟨u, hu, -, -, hstat, -⟩ := fails 4 (by decide +kernel) createFails_doubledHolder
  rw [create_doubledHolder u hu] at hstat
  exact absurd hstat (by decide +kernel)

end Sys2Proof.Proofs
end

section
/-! SUPPORT. Misses that are served, loads and stores that end with an error response (R33, R53, R77, R390): lemmas for the statement
`UnitEvents`. -/

namespace Sys2Proof.Proofs

open Sys2Proof Sys2Proof.Machine Sys2Proof.Laws Sys2Proof.Claims

/-! ## A miss of a string is served -/

/-- A miss of a string that is served leaves the queue, and the string has what it found; memory and the tables of its core are as they were
(R33, R53). -/
theorem serve_string (s : State) (c : Nat) {k : Nat} (m : Miss) (h : Hand) (hk : k < 4) :
    let u := s.serve c k m h
    u.mem = s.mem ∧ (u.core c).tlb = (s.core c).tlb ∧ (u.core c).plb = (s.core c).plb
      ∧ (u.core c).misses = (s.core c).misses.filter (fun x => x != m)
      ∧ u.str c k = { s.str c k with inHand := (s.str c k).inHand ++ [h] } := by
  simp only [State.serve, if_pos hk, State.modStr]
  refine ⟨rfl, ?_, ?_, ?_, ?_⟩
  · simp [State.setStr]
  · simp [State.setStr]
  · simp [State.setStr]
  · rw [str_setStr_self, str_modCore s c _ rfl]

/-! ## Reads of the tables -/

theorem core_of_cores {s t : State} (h : t.cores = s.cores) (c : Nat) : t.core c = s.core c := by rw [State.core, h]; rfl
theorem str_of_cores {s t : State} (h : t.cores = s.cores) (c k : Nat) : t.str c k = s.str c k := by
  rw [State.str, core_of_cores h]; rfl

theorem poisonFound_cores (s : State) (l : Option Nat) (a : Nat) : (s.poisonFound l a).cores = s.cores := by
  unfold State.poisonFound
  split <;> rfl

theorem packets_cores (s : State) (c u : Nat) (pl : Place) : (s.packets c u pl).cores = s.cores := by
  obtain ⟨q, h⟩ := packets_eq s c u pl
  rw [h]

theorem readAll_cores (s : State) (c : Nat) (l : List Nat) : (s.readAll c l).cores = s.cores :=
  List.foldlRecOn l (motive := fun t : State => t.cores = s.cores) _ rfl
    (fun t ht a _ => by rw [poisonFound_cores, packets_cores, ht])

/-- Serving a miss of a string after reads of table sectors. -/
theorem serve_readAll (s : State) (c : Nat) (l : List Nat) {j : Nat} (m : Miss) (h : Hand) (hj : j < 4) :
    let u := (s.readAll c l).serve c j m h
    u.mem = s.mem ∧ (u.core c).tlb = (s.core c).tlb ∧ (u.core c).plb = (s.core c).plb
      ∧ (u.core c).misses = (s.core c).misses.filter (fun x => x != m)
      ∧ u.str c j = { s.str c j with inHand := (s.str c j).inHand ++ [h] } := by
  have same := serve_string (s.readAll c l) c m h hj
  rwa [core_of_cores (readAll_cores s c l), str_of_cores (readAll_cores s c l), (kept_readAll s c l).mem] at same

/-- The same, where the core has first taken in what was found. -/
theorem serve_readAll_modCore (s : State) (c : Nat) (l : List Nat) (f : Core → Core) {j : Nat} (m : Miss) (h : Hand) (hj : j < 4)
    (strs : (f (s.core c)).strs = (s.core c).strs) (misses : (f (s.core c)).misses = (s.core c).misses) :
    let u := ((s.readAll c l).modCore c f).serve c j m h
    u.mem = s.mem ∧ (u.core c).tlb = (f (s.core c)).tlb ∧ (u.core c).plb = (f (s.core c)).plb
      ∧ (u.core c).misses = (s.core c).misses.filter (fun x => x != m)
      ∧ u.str c j = { s.str c j with inHand := (s.str c j).inHand ++ [h] } := by
  have core : (s.readAll c l).core c = s.core c := core_of_cores (readAll_cores s c l) c
  have same := serve_string ((s.readAll c l).modCore c f) c m h hj
  rwa [core_modCore_self, str_modCore _ c f (by rw [core, strs]), core, misses, str_of_cores (readAll_cores s c l), modCore_mem,
    (kept_readAll s c l).mem] at same

/-! ## Walks and searches -/

section
variable {s : State} {c p va j o pkg off : Nat}

/-- The walker serves the oldest TLB miss of a core (R33, R34). -/
theorem tlbWalk_serves (hp : (s.core c).part = some p)
    (hm : (s.core c).misses.find? (fun m => match m with | .tlb _ _ => true | _ => false) = some (.tlb j va)) :
    exec (.tlbWalk c) s = match walk s.seen (s.part p) va with
      | .ok e => .next (((s.walked c p va).modCore c (fun co => { co with tlb := tlbInstall co.tlb e })).serve c j (.tlb j va) (.page va e))
      | .error x => .next ((s.walked c p va).serve c j (.tlb j va) (.noPage va x)) := by
  rw [exec_tlbWalk]
  unfold execTlbWalk
  dsimp only
  split
  next k' va' p' h1 h2 =>
    have miss : some (Miss.tlb j va) = some (Miss.tlb k' va') := hm.symm.trans h1
    have part : some p = some p' := hp.symm.trans h2
    obtain ⟨rfl, rfl⟩ : j = k' ∧ va = va' := by simpa using miss
    obtain rfl : p = p' := by simpa using part
    cases walk s.seen (s.part p) va <;> rfl
  next no => exact absurd hp (no _ _ _ hm)

/-- The searcher serves the oldest PLB miss of a core that no HOLD stops (R53, R60). -/
theorem plbSearch_serves (hp : (s.core c).part = some p) (hm : (s.core c).misses.find? (s.core c).mayRead = some (.plb j o pkg off)) :
    exec (.plbSearch c) s = match search s.seen (s.part p) o pkg off with
      | some e => .next (((s.searched c p o pkg off).modCore c (fun co =>
          { co with plb := plbInstall co.plb { owner := o, entry := e } })).serve c j (.plb j o pkg off) (.range o pkg off e))
      | none => .next ((s.searched c p o pkg off).serve c j (.plb j o pkg off) (.noRange o pkg off)) := by
  rw [exec_plbSearch]
  cases found : search s.seen (s.part p) o pkg off <;> simp only [execPlbSearch, hm, hp, found]

end

/-! ## A load that ends with an error response -/

theorem meter_tagFail (q : Partition) : ((q.meter 13 1).meters[13]).toNat = min ((q.meters[13]).toNat + 1) (2 ^ 64 - 1) := by
  have := (q.meters[13]).isLt
  simp only [Partition.meter, satAdd, Nat.reduceLT, dite_true, Vector.getElem_set_self]
  split
  · rw [BitVec.toNat_add]; simp only [BitVec.toNat_ofNat]; omega
  · rw [BitVec.toNat_allOnes]; omega

theorem tagMeter_eq (s : State) (c : Nat) : ∃ q, s.tagMeter c = { s with parts := q } := by
  unfold State.tagMeter
  cases s.partOf c with
  | none => exact ⟨s.parts, rfl⟩
  | some p => exact ⟨_, rfl⟩

theorem tagFailed_eq (s : State) (c : Nat) (w : Bool) (pl : Place) : ∃ q, s.tagFailed c w pl = { s with parts := q } := by
  unfold State.tagFailed
  generalize (w || _) = skips
  cases skips
  · exact tagMeter_eq s c
  · exact ⟨s.parts, rfl⟩

/-- A failed tag check at a home of the package counts in TAGFAIL (R77, R436). -/
theorem tagFailed_home {s : State} {c p : Nat} {pl : Place} (hp : s.partOf c = some p) (hpl : placeFlat pl ≠ none) :
    s.tagFailed c false pl = s.modPart p (fun q => q.meter 13 1) := by
  unfold State.tagFailed State.tagMeter
  cases pl <;> simp_all [placeFlat]

theorem dropReqs_eq (s : State) (f : HostReq → Bool) (left : Bool) : ∃ r o, s.dropReqs f left = { s with hostReqs := r, out := o } :=
  ⟨_, _, rfl⟩

/-- Where no request passes the test, none is forgotten. -/
theorem dropReqs_none {s : State} {f : HostReq → Bool} (h : ∀ r ∈ s.hostReqs, f r.2 = false) (left : Bool) : s.dropReqs f left = s := by
  have ids : (s.hostReqs.filter (fun r => f r.2)) = [] := List.filter_eq_nil_iff.mpr (fun r hr => by simp [h r hr])
  unfold State.dropReqs
  simp only [ids, List.map_nil, List.contains_nil, Bool.not_false, List.filter_true]
  have out : s.out.filter (fun o => match o with
      | .hostRead _ _ _ _ => true
      | .hostAtomic _ _ _ _ _ _ _ _ => true
      | _ => true) = s.out := List.filter_eq_self.mpr (fun o _ => by split <;> rfl)
  cases left
  · rw [if_neg (by decide)]
    exact congrArg (fun o => ({ s with out := o } : State)) out
  · rw [if_pos rfl]

/-- The code of an error response (R77, R95, R414). -/
def errorCode (w : Bool) (pl : Place) : Nat := match pl with | .remote _ _ => 0x41 | _ => if w then 0x16 else 0x21

/-- The only load of a user-mode string is answered with a fault: a trap at the load, and nothing else changes outside the cores and the
launches (R77, R84). -/
theorem answerLoad_failed {s : State} {c k : Nat} {l : Load} {e : SectorEv} (code : Nat) (hl : (s.str c k).lds = [l]) (he : l.evs = [e])
    (hb : l.bad = none) (hd : l.dead = false) (hu : l.undo = none) (hrun : (s.str c k).run = .running) (hlvl : (s.str c k).lvl = 0)
    (hact : ∀ b, (s.str c k).act = some b → b.rst = false) :
    SameOutside s (s.answerLoad c k l.seq (Load.failed code 0 e))
      ∧ Trapped { s.str c k with lds := [] } ((s.answerLoad c k l.seq (Load.failed code 0 e)).str c k) (s.core c).mentry 0 0 code
        (l.ptrAt e) l.pc := by
  obtain ⟨t, bound, out, str, mentry⟩ := bindLoads_fault (c := c) (k := k) (l := l.failed code 0 e) (i := l.rank e)
    (e := { code := code, detail := 0, val := l.ptrAt e }) (s := s.setStr c k { s.str c k with lds := [l.failed code 0 e] })
    (by simp) (by simp [Load.failed, he]) hd (by simp [Load.failed, hb, worse]) hu
  rw [str_setStr_self] at str
  obtain ⟨u, fault, trap⟩ := takeFault_traps (s := t) (c := c) (k := k) l.pc { code := code, detail := 0, val := l.ptrAt e }
    (by rw [str]; exact hrun) (by rw [str]; exact hlvl) (by rw [str]; exact hact)
  have all : s.answerLoad c k l.seq (Load.failed code 0 e) = t.setStr c k u := by
    rw [answerLoad_single _ hl, ← fault]
    exact bound
  rw [mentry, str] at trap
  rw [all, str_setStr_self]
  refine ⟨((sameOutside_setStr s c k _).trans out).trans (sameOutside_setStr t c k u), ?_⟩
  simpa [State.setStr, Trapped] using trap

/-- The only event of the only load of a string, which has crossed the mesh, ends with an error response. -/
theorem loadErrors_only {s : State} {c k : Nat} {l : Load} {e : SectorEv} (w done : Bool) (hl : (s.str c k).lds = [l]) (he : l.evs = [e])
    (hdue : Due c (s.str c k) l e) (ha : l.isAtomic = false) (hh : ∀ f a b, e.place ≠ .host f a b) (hc : crosses c e.place = true) :
    loadErrors c k 0 w done s
      = ((s.dropReqs (reqOf c k l.seq e) done).tagFailed c w e.place).answerLoad c k l.seq (Load.failed (errorCode w e.place) 0 e) := by
  obtain ⟨-, unsent, free, -⟩ := hdue
  have waits : loadWaits c (s.str c k) 0 0 l e = false := by simp [loadWaits, free]
  have fails : s.mayFail c k l e = true := by
    unfold State.mayFail
    cases hp : e.place with
    | host f a b => exact absurd hp (hh f a b)
    | _ => simpa [unsent, hp] using hc
  simp [loadErrors, hl, he, nthEv, waits, fails, ha] <;> rfl

/-- What forgetting requests and counting a failed check leave as it was. -/
theorem tagFailed_dropReqs (s : State) (f : HostReq → Bool) (left : Bool) (c : Nat) (w : Bool) (pl : Place) :
    let t := (s.dropReqs f left).tagFailed c w pl
    t.cores = s.cores ∧ t.mem = s.mem := by
  obtain ⟨r, o, drop⟩ := dropReqs_eq s f left
  obtain ⟨q, tag⟩ := tagFailed_eq (s.dropReqs f left) c w pl
  dsimp only
  rw [tag, drop]
  exact ⟨rfl, rfl⟩

section
variable {s : State} {c k : Nat} {l : Load} {e : SectorEv}

/-- A string's only load ends with an error response or with its response lost. -/
theorem errorEnds_load (hk : k < 4) (w done : Bool) (hl : (s.str c k).lds = [l]) (he : l.evs = [e]) :
    errorEnds c k 0 true w done s = loadErrors c k 0 w done s := by
  simp [errorEnds, Nat.not_le.mpr hk, hl, he]

theorem execResponseTimeout_load (hl : (s.str c k).lds = [l]) (he : l.evs = [e]) :
    execResponseTimeout c k 0 true s = .next (errorEnds c k 0 true false (Config.performed s.tick) s) := by
  simp [execResponseTimeout, hl, he]

end

theorem SameOutside.part {s t : State} (h : SameOutside s t) (p : Nat) : t.part p = s.part p := by
  have parts : t.parts = s.parts := by rw [h]
  rw [State.part, parts]; rfl

/-- Clause 4: a load's error response or timeout traps at the load and counts (R77, R89, R414). -/
theorem loadError_traps {s : State} {c k : Nat} (hk : k < 4) (l : Load) (e : SectorEv) (w : Bool) (hl : (s.str c k).lds = [l])
    (hdue : Due c (s.str c k) l e) (he : l.evs = [e]) (hb : l.bad = none) (ha : l.isAtomic = false) (hu : l.undo = none)
    (hrun : (s.str c k).run = .running) (hlvl : (s.str c k).lvl = 0) (hact : ∀ b, (s.str c k).act = some b → b.rst = false)
    (hh : ∀ f a b, e.place ≠ .host f a b) (hc : crosses c e.place = true) :
    ∃ u v, exec (.errorResponse c k 0 true w) s = .next u ∧ exec (.responseTimeout c k 0 true) s = .next v ∧ u.mem = s.mem
      ∧ Trapped { s.str c k with lds := [] } (u.str c k) (s.core c).mentry 0 0 (errorCode w e.place) (l.ptrAt e) l.pc
      ∧ (w = false → (∀ r ∈ s.hostReqs, reqOf c k l.seq e r.2 = false) → v = u)
      ∧ (w = false → ∀ p, s.partOf c = some p → placeFlat e.place ≠ none →
          ((u.part p).meters[13]).toNat = min (((s.part p).meters[13]).toNat + 1) (2 ^ 64 - 1)) := by
  have dead : l.dead = false := hdue.1
  have ends (w done : Bool) := (errorEnds_load hk w done hl he).trans (loadErrors_only w done hl he hdue ha hh hc)
  obtain ⟨cores, mem⟩ := tagFailed_dropReqs s (reqOf c k l.seq e) false c w e.place
  have str := str_of_cores cores c k
  have mentry := congrArg Core.mentry (core_of_cores cores c)
  obtain ⟨out, trap⟩ := answerLoad_failed (s := (s.dropReqs (reqOf c k l.seq e) false).tagFailed c w e.place) (errorCode w e.place)
    (by rw [str, hl]) he hb dead hu (by rw [str, hrun]) (by rw [str, hlvl]) (by rw [str]; exact hact)
  refine ⟨_, _, congrArg Host.Outcome.next (ends w false), (execResponseTimeout_load hl he).trans (congrArg Host.Outcome.next (ends false _)),
    out.mem.trans mem, ?_, ?_, ?_⟩
  · rwa [str, mentry] at trap
  · rintro rfl none
    rw [dropReqs_none none, dropReqs_none none]
  · rintro rfl p hp hpl
    have counted := tagFailed_home (s := s.dropReqs (reqOf c k l.seq e) false) hp hpl
    have part : (s.dropReqs (reqOf c k l.seq e) false).part p = s.part p := rfl
    rw [out.part, counted, part_modPart_self, part]
    exact meter_tagFail (s.part p)

/-! ## A store that ends with an error response -/

theorem post_cores (s : State) (unit : Nat) (f : Flight) : (s.post unit f).cores = s.cores := by
  unfold State.post
  split
  · dsimp only; split <;> rfl
  · rfl

/-- A write of a launch on a core is reported to the FAULT handler there, with origin 3 (R390). -/
theorem reportWrite_forwards {s : State} {c l : Nat} {o : OnCore} (ho : (s.core c).on l = some o) (ptr : Word) (code : Nat) (small : code < 2 ^ 20) :
    let u := s.reportWrite c (some l) ptr code
    u.mem = s.mem ∧ u.cores = s.cores ∧ ∃ f, u.net = s.net ++ [f] ∧ f.msg.hid = 63 ∧ f.msg.dest = .core o.lcore
      ∧ f.msg.payload.toNat % 2 ^ 64 = 3 * 2 ^ 20 + code ∧ f.msg.payload.toNat / 2 ^ 64 % 2 ^ 64 = ptr.toNat := by
  have ptrSmall := ptr.isLt
  simp only [State.reportWrite, State.forwardRec, ho]
  refine ⟨post_mem _ _ _, post_cores _ _ _, ?_⟩
  obtain ⟨g, net, msg⟩ := post_net s (coreUnit c)
    { msg := { launch := l, dest := .core o.lcore, hid := 63, key := 0, op := 0, cnt := false, src := o.lcore, arm := none, mon := true,
               payload := BitVec.ofNat 256 (recWord 0 0 3 0 0 code + ptr.toNat * 2 ^ 64 + 0 * 2 ^ 128 + 0 * 2 ^ 192) },
      fromCore := c, fromStr := 0, after := 0, slot := false, actId := 0, nacks := 0, nacked := false }
  refine ⟨g, net, by rw [msg], by rw [msg], ?_, ?_⟩ <;>
  · simp only [msg, recWord, BitVec.toNat_ofNat]
    omega

section
variable {s : State} {c k : Nat} {x : Store} {e : SectorEv}

theorem dropEv_only {t : Str} (hx : t.sb = [x]) (he : x.evs = [e]) : (t.dropEv 0 0).sb = [] := by
  simp [Str.dropEv, hx, he, dropAt]

theorem errorEnds_store (hk : k < 4) (w : Bool) (hx : (s.str c k).sb = [x]) (he : x.evs = [e]) (hc : crosses c e.place = true)
    (ready : storeReady c (s.str c k) 0 0 = true) :
    errorEnds c k 0 false w false s = ((s.modStr c k (fun t => t.dropEv 0 0)).tagFailed c w e.place).reportStore c x e (if w then 0x16 else 0x21) := by
  have notOver : ¬ 4 ≤ k := Nat.not_le.mpr hk
  simp [errorEnds, notOver, storeErrors, hx, he, nthEv, hc, ready, State.writeFailed]

end

/-- Clause 5: the error response to a store is reported to its core with the store's pointer (R77, R390). -/
theorem storeError_reported {s : State} {c k : Nat} (hk : k < 4) (x : Store) (e : SectorEv) (w : Bool) (l : Nat) (o : OnCore)
    (hx : (s.str c k).sb = [x]) (he : x.evs = [e]) (hl : x.launch = some l) (ho : (s.core c).on l = some o) (hc : crosses c e.place = true)
    (ready : storeReady c (s.str c k) 0 0 = true) :
    ∃ u f, exec (.errorResponse c k 0 false w) s = .next u ∧ u.mem = s.mem ∧ (u.str c k).sb = [] ∧ u.net = s.net ++ [f]
      ∧ f.msg.hid = 63 ∧ f.msg.dest = .core o.lcore ∧ f.msg.payload.toNat % 2 ^ 64 = 3 * 2 ^ 20 + (if w then 0x16 else 0x21)
      ∧ f.msg.payload.toNat / 2 ^ 64 % 2 ^ 64 = (x.ptrAt e).toNat := by
  obtain ⟨q, tag⟩ := tagFailed_eq (s.modStr c k (fun t => t.dropEv 0 0)) c w e.place
  have on : ((s.modStr c k (fun t => t.dropEv 0 0)).core c).on l = some o := by
    rw [← ho]
    simp [State.modStr, State.setStr, Core.on]
  obtain ⟨mem, cores, f, net, hid, dest, word, ptr⟩ := reportWrite_forwards (s := { s.modStr c k (fun t => t.dropEv 0 0) with parts := q })
    on (x.ptrAt e) (if w then 0x16 else 0x21) (by split <;> omega)
  refine ⟨_, f, congrArg Host.Outcome.next (errorEnds_store hk w hx he hc ready), ?_⟩
  rw [State.reportStore, hl, tag]
  refine ⟨mem, ?_, net, hid, dest, word, ptr⟩
  rw [str_of_cores cores]
  exact (congrArg Str.sb (str_setStr_self s c k _)).trans (dropEv_only hx he)
end Sys2Proof.Proofs
end

section
/-! SUPPORT. What a check leaves of a state, and how the stream unit reads an element whole (R84, R140, R328): lemmas for the statement
`UnitEvents`. -/

namespace Sys2Proof.Proofs

open Sys2Proof Sys2Proof.Machine Sys2Proof.Laws Sys2Proof.Claims

/-! ## A sector is taken -/

/-- A sector of the package that is not fenced off, not lost and not bad is taken with its bytes (R84). -/
theorem run_takeSector {s : State} {w : Who} {pl : Place} {a : Nat} (p : Word) (n : Nat) (fenced : s.refuses w.core pl = false)
    (lost : s.lost w pl = false) (flat : placeFlat pl = some a) (good : s.mark w.launch a = none) :
    (takeSector w pl p n).run s = .ok (bytesAt s w.launch a n, s.packets w.core w.unit pl) := by
  have sound : badAt s w.launch a p = none := by rw [badAt, good]
  unfold takeSector
  simp only [StateT.run_bind, StateT.run_get, pure_bind, fenced, lost, flat, sound]
  rfl

/-- Steps of which the first ends well go on with its answer. -/
theorem run_bind_ok {α β : Type} {f : M α} {g : α → M β} {s t : State} {a : α} (h : f.run s = .ok (a, t)) : (f >>= g).run s = (g a).run t := by
  rw [StateT.run_bind, h]
  rfl

/-! ## What a check leaves -/

section
variable {s t : State} (h : Kept s t)
include h

theorem refuses_of_kept (c : Nat) (pl : Place) : t.refuses c pl = s.refuses c pl := by
  have part : t.partOf c = s.partOf c := by
    obtain ⟨a, b, i, core⟩ := h.core c
    simp [State.partOf, core]
  unfold State.refuses
  rw [part]
  cases s.partOf c with
  | none => rfl
  | some p =>
    obtain ⟨m, same⟩ := h.part p
    simp [same]

theorem hands_of_kept (c k : Nat) : (t.core c).hands k = (s.core c).hands k := by
  obtain ⟨a, b, i, core⟩ := h.core c
  rw [core]; rfl

theorem lost_of_kept (w : Who) (pl : Place) : t.lost w pl = s.lost w pl := by
  rw [State.lost, hands_of_kept h]; rfl

theorem shadowOf_of_kept (l : Option Nat) : t.shadowOf l = s.shadowOf l := by
  unfold State.shadowOf State.launch
  rw [h.launches]

theorem version_of_kept (key a : Nat) : t.version key a = s.version key a := by
  unfold State.version State.copyPa
  rw [h.redirects, h.switched, h.copyAt]

theorem bytesAt_of_kept (l : Option Nat) (a n : Nat) : bytesAt t l a n = bytesAt s l a n := by
  rw [Machine.bytesAt, shadowOf_of_kept h, version_of_kept h, h.mem]; rfl


end

theorem packets_mark (s : State) (c u : Nat) (pl : Place) (l : Option Nat) (a : Nat) : (s.packets c u pl).mark l a = s.mark l a := by
  obtain ⟨q, e⟩ := packets_eq s c u pl
  rw [e]; rfl

/-! ## Bytes of an aligned access -/

/-- The bytes of a sector lie together in every version. -/
theorem version_add (s : State) (key : Nat) {a j : Nat} (ha : a % 32 = 0) (hj : j < 32) : s.version key (a + j) = s.version key a + j := by
  have block : (a + j) / 4096 = a / 4096 := by omega
  have rest : (a + j) % 4096 = a % 4096 + j := by omega
  have slice : 2 ^ 42 ≤ a + j ↔ 2 ^ 42 ≤ a := by omega
  unfold State.version State.copyPa
  simp only [block, rest, slice]
  split
  · rfl
  · split
    · rw [Nat.add_assoc]
    · split
      · rw [Nat.add_assoc]
      · rfl

theorem memory_bytes_eq (m : Memory) (a n : Nat) : m.bytes a n = (List.range n).map (fun j => m.get (a + j)) := by
  induction n generalizing a with
  | zero => rfl
  | succ n ih =>
    rw [Memory.bytes, ih, List.range_succ_eq_map, List.map_cons, List.map_map]
    simp [Function.comp_def, Nat.add_assoc, Nat.add_comm 1]

/-- A sector as an access of a launch reads it. -/
theorem bytesAt_sector (s : State) (l : Option Nat) {a : Nat} (ha : a % 32 = 0) :
    bytesAt s l a 32 = (List.range 32).map (fun j => s.mem.get (s.version (s.shadowOf l) (a + j))) := by
  rw [bytesAt, memory_bytes_eq]
  refine List.map_congr_left (fun j hj => ?_)
  rw [version_add s _ ha (List.mem_range.mp hj)]

/-- The two sectors of 64 aligned bytes make their number. -/
theorem leNat_sectors (s : State) (l : Option Nat) {a : Nat} (ha : a % 32 = 0) :
    leNat (bytesAt s l a 32 ++ bytesAt s l (a + 32) 32) = numAt s l a 64 := by
  have second : (a + 32) % 32 = 0 := by omega
  rw [bytesAt_sector s l ha, bytesAt_sector s l second, numAt, show (64 : Nat) = 32 + 32 from rfl, List.range_add, List.map_append, List.map_map]
  simp only [Function.comp_def, Nat.add_assoc]

/-! ## The stream unit reads an element -/

section
variable {s s1 : State} {w : Who} {x : Stream} {i a : Nat} {pl : Place}

theorem placeFlat_placeAdd {n : Nat} (flat : placeFlat pl = some a) : placeFlat (placeAdd pl n) = some (a + n) := by
  cases pl <;> simp_all [placeFlat, placeAdd, sliceFlat]
  omega

/-- Where every lower element has been read, no near one is waited for. -/
theorem nearBefore_fetched {ix : Nat} (done : ∀ n < ix, (mfind x.fetched (x.pos + n)).isSome) : nearBefore s w x (x.pos + ix) = false := by
  unfold nearBefore
  simp only [List.any_eq_false, Bool.and_eq_true, not_and, upTo, List.mem_range]
  intro n hn absent
  have := done n (by omega)
  simp_all

/-- An element of the package whose place passes the check is read whole (R84, R140, R328). -/
theorem run_readElt (hc : (eltPlace w x i).run s = .ok (pl, s1)) (near : nearBefore s w x i = false) (half : s.halfWritten pl = false)
    (flat : placeFlat pl = some a) (ha : a % 32 = 0) (lost1 : s.lost w pl = false) (lost2 : s.lost w (placeAdd pl 32) = false)
    (fence1 : s.refuses w.core pl = false) (fence2 : s.refuses w.core (placeAdd pl 32) = false)
    (mark1 : s1.mark w.launch a = none) (mark2 : s1.mark w.launch (a + 32) = none) :
    ∃ t, (readElt w x i).run s = .ok (BitVec.ofNat 512 (numAt s w.launch a 64), t) ∧ Kept s t := by
  have kept1 : Kept s s1 := keeps_check w .r (x.ptr i) 64 64 s pl s1 hc
  have kept2 := kept1.trans (kept_packets s1 w.core w.unit pl)
  have first := run_takeSector (s := s1) (w := w) (pl := pl) (x.ptr i) 32 (by rw [refuses_of_kept kept1, fence1]) (by rw [lost_of_kept kept1, lost1]) flat mark1
  have second := run_takeSector (s := s1.packets w.core w.unit pl) (w := w) (x.ptr i) 32 (by rw [refuses_of_kept kept2, fence2]) (by rw [lost_of_kept kept2, lost2])
    (placeFlat_placeAdd (n := 32) flat) (by rw [packets_mark, mark2])
  refine ⟨_, ?_, (kept2.trans (kept_packets _ w.core w.unit (placeAdd pl 32))).trans (kept_meterOf _ w.core (byteMeter w.core pl) 64)⟩
  rw [← leNat_sectors s w.launch ha, ← bytesAt_of_kept kept1, ← bytesAt_of_kept kept2]
  unfold readElt
  rw [run_bind_ok (StateT.run_get s), run_bind_ok hc]
  dsimp only
  rw [near, half, if_neg (by simp), run_bind_ok first, run_bind_ok second]
  rfl

end

theorem run_attempt_ok {α : Type} {w : Who} {m : M α} {s t : State} {v : α} (h : m.run s = .ok (v, t)) :
    (attempt w m).run s = .ok (.ok v, t) := by
  have h' : m s = .ok (v, t) := h
  show attempt w m s = _
  rw [attempt, h']

/-- An element that is wanted, all accesses before its SBIND having performed, is put among those that have been read (R140, R328). -/
theorem execStreamElementRead_reads {s t : State} {c k j ix : Nat} {x : Stream} {v : Vec} (hx : (s.str c k).st.toList[j]? = some (some x))
    (wanted : eltWanted (s.core c) k j x (x.pos + ix) = true) (released : (s.str c k).releases x.after = true)
    (read : (readElt (streamWho s c k x) x (x.pos + ix)).run s = .ok (v, t)) :
    ∃ used : Place → Bool, execStreamElementRead c k j ix s
      = .next ((t.modCore c (fun co => co.dropUsed (x.asks k) used)).modStr c k (fun y => y.setStream ⟨j % 4, Nat.mod_lt _ (by decide)⟩
          (some { x with fetched := mset x.fetched (x.pos + ix) (.data v), after := none }))) := by
  unfold execStreamElementRead
  rw [hx]
  dsimp only
  rw [wanted, released, if_neg (by simp), if_neg (by simp), run_attempt_ok read]
  exact ⟨_, rfl⟩

theorem setStream_stream {t : Str} {j : Nat} (hj : j < 4) (x : Stream) :
    (t.setStream ⟨j % 4, Nat.mod_lt _ (by decide)⟩ (some x)).st.toList[j]? = some (some x) := by
  have same : j % 4 = j := Nat.mod_eq_of_lt hj
  simp [Str.setStream, same, hj]

theorem stream_lt {t : Str} {j : Nat} {x : Option Stream} (hx : t.st.toList[j]? = some x) : j < 4 := by
  obtain ⟨h, -⟩ := List.getElem?_eq_some_iff.mp hx
  simpa using h

/-- Clause 6: the stream unit reads a wanted element ahead, whole (R140, R328). -/
theorem streamElementRead_whole {s s1 : State} {c k : Nat} (j : Nat) (x : Stream) (pl : Place) (a ix : Nat)
    (hx : (s.str c k).st.toList[j]? = some (some x)) (wanted : eltWanted (s.core c) k j x (x.pos + ix) = true)
    (lost1 : s.lost (streamWho s c k x) pl = false) (lost2 : s.lost (streamWho s c k x) (placeAdd pl 32) = false)
    (half : s.halfWritten pl = false) (released : (s.str c k).releases x.after = true) (fence1 : s.refuses c pl = false)
    (fence2 : s.refuses c (placeAdd pl 32) = false)
    (passes : (check (streamWho s c k x) .r (x.ptr (x.pos + ix)) 64 64).run s = .ok (pl, s1)) (flat : placeFlat pl = some a) (ha : a % 64 = 0)
    (done : ∀ n < ix, (mfind x.fetched (x.pos + n)).isSome) (mark1 : s1.mark (s.str c k).launch a = none)
    (mark2 : s1.mark (s.str c k).launch (a + 32) = none) :
    ∃ u, exec (.streamElementRead c k j ix) s = .next u ∧ u.mem = s.mem
      ∧ (u.str c k).st.toList[j]? = some (some { x with fetched := mset x.fetched (x.pos + ix) (.data (BitVec.ofNat 512 (numAt s (s.str c k).launch a 64))),
                                                        after := none }) := by
  obtain ⟨t, read, kept⟩ := run_readElt passes (nearBefore_fetched done) half flat (by omega) lost1 lost2 fence1 fence2 mark1 mark2
  obtain ⟨used, run⟩ := execStreamElementRead_reads hx wanted released read
  refine ⟨_, run, kept.mem, ?_⟩
  rw [State.modStr, str_setStr_self]
  exact setStream_stream (stream_lt hx) _
end Sys2Proof.Proofs
end

section
/-! SUPPORT. Stores and pushes of launches with no shadow write exactly their bytes (R99, R113, R140), and the statement `UnitEvents`. -/

namespace Sys2Proof.Proofs

open Sys2Proof Sys2Proof.Machine Sys2Proof.Laws Sys2Proof.Claims

/-! ## Bytes written at distinct addresses -/

section
variable {β : Type} (addr : β → Nat) (val : β → Byte)

/-- Bytes put one by one change no other address. -/
theorem get_foldl_put_out (bs : List β) (m : Memory) {z : Nat} (hz : ∀ b ∈ bs, z ≠ addr b) :
    (bs.foldl (fun m b => Memory.put m (addr b) (val b)) m).get z = m.get z :=
  List.foldlRecOn bs (motive := fun t : Memory => t.get z = m.get z) _ rfl (fun _ ht b hb => (get_put_ne _ _ (hz b hb)).trans ht)

/-- Bytes put one by one at distinct addresses are all there. -/
theorem get_foldl_put_in (bs : List β) (m : Memory) (distinct : (bs.map addr).Nodup) {b : β} (hb : b ∈ bs) :
    (bs.foldl (fun m b => Memory.put m (addr b) (val b)) m).get (addr b) = val b := by
  induction bs generalizing m with
  | nil => simp at hb
  | cons x xs ih =>
    rw [List.map_cons, List.nodup_cons] at distinct
    rw [List.foldl_cons]
    rcases List.mem_cons.mp hb with rfl | hb
    · rw [get_foldl_put_out addr val xs _ (fun y hy same => distinct.1 (List.mem_map.mpr ⟨y, hy, same.symm⟩)), get_put_self]
    · exact ih _ distinct.2 hb

end

/-! ## A write of a launch with no shadow performs -/

section
variable {s : State} {l : Option Nat}

theorem redirect_plain (plain : s.shadowOf l = 0) (a : Nat) : s.redirect l a = s := by
  simp [State.redirect, plain]

theorem spanned_plain (plain : s.shadowOf l = 0) (a : Nat) : s.spanned l a = s.inSpan (s.version 0 a) := by
  rw [State.spanned, redirect_plain plain]
  simp only [plain]

theorem touch_cores (s : State) (a : Nat) : (s.touch a).cores = s.cores := by
  obtain ⟨r, k, h⟩ := touch_eq s a
  rw [h]

/-- Where its bytes go, and that the strings stay. -/
theorem writeEv_plain (plain : s.shadowOf l = 0) (a : Nat) (bs : List (Nat × Nat)) (d : BitVec 4096) :
    (s.writeEv l a bs d).mem = bs.foldl (fun m b => Memory.put m (s.version 0 (a + b.1)) (dataByte d b.2)) s.mem
      ∧ (s.writeEv l a bs d).cores = s.cores := by
  unfold State.writeEv
  simp only [redirect_plain plain, plain]
  rw [if_neg (by simp), touch_mem]
  refine ⟨rfl, ?_⟩
  exact touch_cores _ _

theorem kept_meterWrite (s : State) (c : Nat) (l : Option Nat) (pl : Place) (n : Nat) : Kept s (s.meterWrite c l pl n) := by
  unfold State.meterWrite
  split
  · exact .refl s
  · exact kept_meterOf s c _ n

/-- A write of a launch with no shadow to a home of the package, of no listed span, is its bytes at that home. -/
theorem performStore_plain {c k : Nat} {x : Store} {e : SectorEv} {a : Nat} (fence : s.refuses c e.place = false)
    (flat : placeFlat e.place = some a) (plain : s.shadowOf x.launch = 0) (free : ∀ b, e.place = .phys b → s.inSpan (s.version 0 b) = false) :
    ∃ t, s.performStore c k x e = t.writeEv x.launch a e.bytes x.data ∧ Kept s t := by
  refine ⟨_, ?_, (kept_packets s c (coreUnit c) e.place).trans (kept_meterWrite _ c x.launch e.place e.bytes.length)⟩
  unfold State.performStore
  rw [fence, if_neg (by decide)]
  cases place : e.place with
  | slice d o =>
    obtain rfl : sliceFlat d o = a := by simpa [place, placeFlat] using flat
    rfl
  | phys b =>
    obtain rfl : b = a := by simpa [place, placeFlat] using flat
    have kept := kept_packets s c (coreUnit c) (.phys b)
    obtain ⟨q, packets⟩ := packets_eq s c (coreUnit c) (.phys b)
    have spans : (s.packets c (coreUnit c) (.phys b)).spanned x.launch b = false := by
      rw [spanned_plain ((shadowOf_of_kept kept _).trans plain), version_of_kept kept, packets]
      exact free b place
    dsimp only
    rw [spans, if_neg (by decide)]
  | host | remote | notice => simp [place, placeFlat] at flat

end

/-! ## A push performs -/

theorem dataByte_zeroExtend (v : Vec) {i : Nat} (hi : i < 64) : dataByte (v.zeroExtend 4096) i = BitVec.extractLsb' (8 * i) 8 v := by
  ext b hb
  simp [dataByte, BitVec.getElem_extractLsb', BitVec.getLsbD_setWidth]
  omega

/-- The events of stream `n`'s pushes that have not performed, as `Str.pushList` lists them. -/
def pushesOf (t : Str) (n : Nat) : List (Nat × Nat × Nat) :=
  match t.st.toList[n]? with
  | some (some x) => (upTo x.pushes.length).flatMap (fun i =>
      (upTo ((x.pushes[i]?.map (fun p => p.evs.length)).getD 0)).map (fun j => (n, i, j)))
  | _ => []

theorem pushList_eq (t : Str) : t.pushList = (upTo 4).flatMap (pushesOf t) := by
  unfold Str.pushList
  refine List.flatMap_congr (fun n _ => ?_)
  unfold pushesOf
  rcases t.st.toList[n]? with _ | _ | x <;> rfl

theorem pushesOf_stream {t : Str} {n : Nat} {p : Nat × Nat × Nat} (hp : p ∈ pushesOf t n) : p.1 = n := by
  unfold pushesOf at hp
  split at hp
  · obtain ⟨i, -, hi⟩ := List.mem_flatMap.mp hp
    obtain ⟨j, -, rfl⟩ := List.mem_map.mp hi
    rfl
  · exact absurd hp List.not_mem_nil

/-- The events of a string's pushes that are of stream `j`. -/
theorem pushList_filter (t : Str) {j : Nat} (hj : j < 4) : t.pushList.filter (fun p => p.1 == j) = pushesOf t j := by
  have own : (pushesOf t j).filter (fun p => p.1 == j) = pushesOf t j :=
    List.filter_eq_self.mpr (fun p hp => by simp [pushesOf_stream hp])
  have other (n : Nat) (hn : n ≠ j) : (pushesOf t n).filter (fun p => p.1 == j) = [] :=
    List.filter_eq_nil_iff.mpr (fun p hp => by simp [pushesOf_stream hp, hn])
  rw [pushList_eq, List.filter_flatMap]
  show List.flatMap _ [0, 1, 2, 3] = _
  interval_cases j <;> simp [own, other]

section
variable {s : State} {c k j : Nat} {x : Stream} {y : Push} {e : SectorEv}

theorem pushesOf_only {t : Str} (hx : t.st.toList[j]? = some (some x)) (hp : x.pushes = [y]) (he : y.evs = [e]) :
    pushesOf t j = [(j, 0, 0)] := by
  unfold pushesOf
  rw [hx]
  simp [upTo, hp, he]

/-- The only event of a stream's pushes leaves it and performs, the accesses before the SBIND having performed (R113, R140). -/
theorem execStreamPushPerform_only (hx : (s.str c k).st.toList[j]? = some (some x)) (hp : x.pushes = [y]) (he : y.evs = [e])
    (released : (s.str c k).releases x.after = true) :
    execStreamPushPerform c k j 0 s
      = .next ((s.modStr c k (fun t => t.setStream ⟨j % 4, Nat.mod_lt _ (by decide)⟩ (some { x with pushes := [], after := none }))).performStore c k
          { seq := 0, evs := [], data := y.data.zeroExtend 4096, near := false, rel := none, owner := x.owner, ptr := y.ptr,
            launch := (s.str c k).launch } e) := by
  have first : ((s.str c k).pushList.filter (fun p => p.1 == j))[0]? = some (j, 0, 0) := by
    rw [pushList_filter _ (stream_lt hx), pushesOf_only hx hp he]; rfl
  have ready : pushReady c x 0 0 y e = true := by simp [pushReady]
  have none : dropPush [y] 0 0 = [] := by simp [dropPush, he, dropAt]
  unfold execStreamPushPerform withPush
  rw [first]
  dsimp only
  rw [hx]
  simp [hp, he, ready, released, none]

theorem refuses_modStr (s : State) (c k : Nat) (f : Str → Str) (pl : Place) : (s.modStr c k f).refuses c pl = s.refuses c pl := by
  have part : (s.modStr c k f).partOf c = s.partOf c := by simp [State.partOf, State.modStr, State.setStr]
  unfold State.refuses
  rw [part]
  cases s.partOf c <;> rfl

/-- Clause 7: a push writes exactly its bytes (R113, R140). -/
theorem streamPush_writes {a : Nat} (hx : (s.str c k).st.toList[j]? = some (some x)) (hp : x.pushes = [y]) (he : y.evs = [e])
    (flat : placeFlat e.place = some a) (plain : s.shadowOf (s.str c k).launch = 0) (fence : s.refuses c e.place = false)
    (released : (s.str c k).releases x.after = true) (free : ∀ b, e.place = .phys b → s.inSpan (s.version 0 b) = false)
    (distinct : (e.bytes.map (fun b => s.version 0 (a + b.1))).Nodup) (bytes : ∀ b ∈ e.bytes, b.2 < 64) :
    ∃ u, exec (.streamPushPerform c k j 0) s = .next u ∧ (u.str c k).st.toList[j]? = some (some { x with pushes := [], after := none })
      ∧ (∀ b ∈ e.bytes, u.mem.get (s.version 0 (a + b.1)) = BitVec.extractLsb' (8 * b.2) 8 y.data)
      ∧ (∀ z, (∀ b ∈ e.bytes, z ≠ s.version 0 (a + b.1)) → u.mem.get z = s.mem.get z) := by
  set x' : Option Stream := some { x with pushes := [], after := none }
  set s' := s.modStr c k (fun t => t.setStream ⟨j % 4, Nat.mod_lt _ (by decide)⟩ x') with hs'
  obtain ⟨t, write, kept⟩ := performStore_plain (s := s') (c := c) (k := k) (e := e)
    (x := { seq := 0, evs := [], data := y.data.zeroExtend 4096, near := false, rel := none, owner := x.owner, ptr := y.ptr,
            launch := (s.str c k).launch }) ((refuses_modStr s c k _ _).trans fence) flat plain free
  obtain ⟨mem, cores⟩ := writeEv_plain (s := t) (l := (s.str c k).launch) ((shadowOf_of_kept kept _).trans plain) a e.bytes (y.data.zeroExtend 4096)
  have version (z : Nat) : t.version 0 z = s.version 0 z := version_of_kept kept 0 z
  simp only [version, kept.mem] at mem
  refine ⟨_, (execStreamPushPerform_only hx hp he released).trans (congrArg Host.Outcome.next write), ?_, ?_, ?_⟩
  · rw [str_of_cores cores, kept.string, hs', State.modStr, str_setStr_self]
    exact setStream_stream (stream_lt hx) _
  · intro b hb
    rw [mem, get_foldl_put_in (fun b => s.version 0 (a + b.1)) _ _ _ distinct hb, dataByte_zeroExtend _ (bytes b hb)]
  · intro z hz
    rw [mem]
    exact get_foldl_put_out (fun b : Nat × Nat => s.version 0 (a + b.1)) _ _ _ hz

end
/-! ## The seven clauses -/

section
variable {s : State} {c p va j o pkg off : Nat}

/-- Clause 1: the walker installs what it finds and hands it to the string (R33, R34). -/
theorem tlbWalk_finds {e : TlbEntry} (hj : j < 4) (hp : (s.core c).part = some p)
    (hm : (s.core c).misses.find? (fun m => match m with | .tlb _ _ => true | _ => false) = some (.tlb j va))
    (walked : walk s.seen (s.part p) va = .ok e) :
    ∃ u, exec (.tlbWalk c) s = .next u ∧ u.mem = s.mem ∧ (u.core c).tlb = tlbInstall (s.core c).tlb e
      ∧ (u.core c).misses = (s.core c).misses.filter (fun x => x != .tlb j va)
      ∧ u.str c j = { s.str c j with inHand := (s.str c j).inHand ++ [.page va e] } := by
  obtain ⟨mem, tlb, -, misses, str⟩ := serve_readAll_modCore s c (s.walkOf p va)
    (fun co => { co with tlb := tlbInstall co.tlb e }) (.tlb j va) (.page va e) hj rfl rfl
  have run := tlbWalk_serves hp hm
  rw [walked] at run
  exact ⟨_, run, mem, tlb, misses, str⟩

/-- Clause 2: a walk that fails gives the string its fault (R33, R40). -/
theorem tlbWalk_fails {x : Nat} (hj : j < 4) (hp : (s.core c).part = some p)
    (hm : (s.core c).misses.find? (fun m => match m with | .tlb _ _ => true | _ => false) = some (.tlb j va))
    (walked : walk s.seen (s.part p) va = .error x) :
    ∃ u, exec (.tlbWalk c) s = .next u ∧ u.mem = s.mem ∧ (u.core c).tlb = (s.core c).tlb
      ∧ u.str c j = { s.str c j with inHand := (s.str c j).inHand ++ [.noPage va x] } := by
  obtain ⟨mem, tlb, -, -, str⟩ := serve_readAll s c (s.walkOf p va) (.tlb j va) (.noPage va x) hj
  have run := tlbWalk_serves hp hm
  rw [walked] at run
  exact ⟨_, run, mem, tlb, str⟩

/-- Clause 3: the searcher installs the entry that it finds, and tells the string what it found (R53). -/
theorem plbSearch_answers (hj : j < 4) (hp : (s.core c).part = some p) (hm : (s.core c).misses.find? (s.core c).mayRead = some (.plb j o pkg off)) :
    ∃ u, exec (.plbSearch c) s = .next u ∧ u.mem = s.mem ∧ (u.core c).misses = (s.core c).misses.filter (fun x => x != .plb j o pkg off)
      ∧ (∀ e, search s.seen (s.part p) o pkg off = some e → (u.core c).plb = plbInstall (s.core c).plb { owner := o, entry := e }
          ∧ u.str c j = { s.str c j with inHand := (s.str c j).inHand ++ [.range o pkg off e] })
      ∧ (search s.seen (s.part p) o pkg off = none → (u.core c).plb = (s.core c).plb
          ∧ u.str c j = { s.str c j with inHand := (s.str c j).inHand ++ [.noRange o pkg off] }) := by
  have run := plbSearch_serves hp hm
  cases found : search s.seen (s.part p) o pkg off with
  | none =>
    obtain ⟨mem, -, plb, misses, str⟩ := serve_readAll s c (searchPath s.seen (s.part p) o pkg off) (.plb j o pkg off) (.noRange o pkg off) hj
    rw [found] at run
    exact ⟨_, run, mem, misses, fun e h => absurd h (by simp), fun _ => ⟨plb, str⟩⟩
  | some e =>
    obtain ⟨mem, -, plb, misses, str⟩ := serve_readAll_modCore s c (searchPath s.seen (s.part p) o pkg off)
      (fun co => { co with plb := plbInstall co.plb { owner := o, entry := e } }) (.plb j o pkg off) (.range o pkg off e) hj rfl rfl
    rw [found] at run
    refine ⟨_, run, mem, misses, ?_, fun h => absurd h (by simp)⟩
    rintro _ ⟨rfl⟩
    exact ⟨plb, str⟩

end

/-- Settles O53, clause by clause. -/
theorem unitEvents : Obligations.UnitEvents := by
  unfold Obligations.UnitEvents
  intro s s1 c k hk
  refine ⟨?_, ?_, ?_, ?_, ?_, ?_, ?_⟩
  · intro p va j e hj hp hm walked
    exact tlbWalk_finds hj hp hm walked
  · intro p va j x hj hp hm walked
    exact tlbWalk_fails hj hp hm walked
  · intro p j o pkg off hj hp hm
    exact plbSearch_answers hj hp hm
  · intro l e w hl hdue he hb _ ha hu hrun hlvl hact hh _ hc
    exact loadError_traps hk l e w hl hdue he hb ha hu hrun hlvl hact hh hc
  · intro x e w l o hx he hl ho _ _ hc ready
    exact storeError_reported hk x e w l o hx he hl ho hc ready
  · intro j x pl a ix hx wanted lost1 lost2 half released fence1 fence2 passes flat ha done _ mark1 mark2
    exact streamElementRead_whole j x pl a ix hx wanted lost1 lost2 half released fence1 fence2 passes flat ha done mark1 mark2
  · intro j x y e a hx hp he flat plain fence released free distinct bytes
    exact streamPush_writes hx hp he flat plain fence released free distinct bytes

end Sys2Proof.Proofs
end

section
/-! SUPPORT. What an access that performs, and the units that end launches and commands, leave of a partition, of the root core and of the
device: what the statements about notices and resets need of a state in which loads have been made to perform (log 13). -/

namespace Sys2Proof.Proofs

open Sys2Proof Sys2Proof.Machine Sys2Proof.Laws Sys2Proof.Claims

/-! ## The relation -/

/-- A partition keeps its clusters, its key generation, its spans, its notices and its reset. -/
def Holds (q r : Partition) : Prop :=
  r.clusters = q.clusters ∧ r.keyGen = q.keyGen ∧ r.spans = q.spans ∧ r.notices = q.notices ∧ r.resetKind = q.resetKind

theorem Holds.refl (q : Partition) : Holds q q := ⟨rfl, rfl, rfl, rfl, rfl⟩

theorem Holds.trans {q r x : Partition} (h : Holds q r) (g : Holds r x) : Holds q x := by
  obtain ⟨h1, h2, h3, h4, h5⟩ := h
  obtain ⟨g1, g2, g3, g4, g5⟩ := g
  exact ⟨g1.trans h1, g2.trans h2, g3.trans h3, g4.trans h4, g5.trans h5⟩

/-- From `s` to `t` nothing has changed that tells of failed banks, of spans and notices, of the trip, and of the resets that are due. -/
structure Steady (s t : State) : Prop where
  reports : t.root.bankReports = s.root.bankReports
  tripped : t.dev.tripped = s.dev.tripped
  pkg : t.pkg = s.pkg
  banks : t.badBanks = s.badBanks
  part : ∀ p, Holds (s.part p) (t.part p)
  entries : ∀ r ∈ t.parts, r ∈ s.parts ∨ Holds (s.part r.1) r.2

theorem part_of_parts {s t : State} (h : t.parts = s.parts) (p : Nat) : t.part p = s.part p := by rw [State.part, h]; rfl

/-- A change that leaves the partitions, and what else it tells of, as they are. -/
theorem Steady.of_parts {s t : State} (reports : t.root.bankReports = s.root.bankReports) (tripped : t.dev.tripped = s.dev.tripped)
    (pkg : t.pkg = s.pkg) (banks : t.badBanks = s.badBanks) (parts : t.parts = s.parts) : Steady s t :=
  ⟨reports, tripped, pkg, banks, fun p => by rw [part_of_parts parts]; exact .refl _, fun _ hr => .inl (parts ▸ hr)⟩

theorem Steady.refl (s : State) : Steady s s := .of_parts rfl rfl rfl rfl rfl

theorem Steady.trans {s t u : State} (h : Steady s t) (g : Steady t u) : Steady s u where
  reports := g.reports.trans h.reports
  tripped := g.tripped.trans h.tripped
  pkg := g.pkg.trans h.pkg
  banks := g.banks.trans h.banks
  part p := (h.part p).trans (g.part p)
  entries r hr := by
    rcases g.entries r hr with old | held
    · exact h.entries r old
    · exact .inr ((h.part r.1).trans held)

theorem Steady.foldl {β : Type} {l : List β} {f : State → β → State} (hf : ∀ s x, Steady s (f s x)) (s : State) : Steady s (l.foldl f s) :=
  List.foldlRecOn l f (.refl s) (fun t h x _ => h.trans (hf t x))

theorem mem_mins {α : Type} {m : Map α} {k : Nat} {v : α} {r : Nat × α} (h : r ∈ mins m k v) : r = (k, v) ∨ r ∈ m := by
  induction m with
  | nil => exact .inl (by simpa [mins] using h)
  | cons x t ih =>
    obtain ⟨i, w⟩ := x
    rw [mins] at h
    split at h
    · simpa using h
    · rcases List.mem_cons.mp h with rfl | h
      · exact .inr (List.mem_cons_self ..)
      · exact (ih h).imp id (List.mem_cons_of_mem _)

/-- An entry of a table after a change at `k` is the new one, or an old one of another number. -/
theorem mem_mset {α : Type} {m : Map α} {k : Nat} {v : α} {r : Nat × α} (h : r ∈ mset m k v) : r = (k, v) ∨ r ∈ m ∧ r.1 ≠ k := by
  refine (mem_mins h).imp id (fun h => ?_)
  simpa [mdel] using h

/-- A partition changes in what it need not keep. -/
theorem steady_modPart (s : State) (p : Nat) {f : Partition → Partition} (hf : ∀ q, Holds q (f q)) : Steady s (s.modPart p f) where
  reports := rfl
  tripped := rfl
  pkg := rfl
  banks := rfl
  part q := by
    by_cases same : q = p
    · rw [same, part_modPart_self]; exact hf _
    · rw [part_modPart_ne s f same]; exact .refl _
  entries r hr := by
    rcases mem_mset hr with rfl | ⟨old, -⟩
    · exact .inr (hf _)
    · exact .inl old

/-! ## The state's operations -/

theorem steady_setStr (s : State) (c k : Nat) (t : Str) : Steady s (s.setStr c k t) := .of_parts rfl rfl rfl rfl rfl
theorem steady_modCore (s : State) (c : Nat) (f : Core → Core) : Steady s (s.modCore c f) := .of_parts rfl rfl rfl rfl rfl
theorem steady_modVf (s : State) (f : Nat) (g : Vf → Vf) : Steady s (s.modVf f g) := .of_parts rfl rfl rfl rfl rfl
theorem steady_emit (s : State) (o : Out) : Steady s (s.emit o) := .of_parts rfl rfl rfl rfl rfl

theorem steady_modOn (s : State) (c l : Nat) (f : OnCore → OnCore) : Steady s (s.modOn c l f) := by
  unfold State.modOn
  split
  · exact steady_modCore s c _
  · exact .refl s

theorem steady_modLaunch (s : State) (l : Nat) (f : Launch → Launch) : Steady s (s.modLaunch l f) := by
  obtain ⟨x, h⟩ := modLaunch_eq s l f
  rw [h]; exact .of_parts rfl rfl rfl rfl rfl

theorem steady_meterOf (s : State) (c i n : Nat) : Steady s (s.meterOf c i n) := by
  unfold State.meterOf
  split
  · refine steady_modPart s _ (fun q => ?_)
    unfold Partition.meter
    split <;> exact ⟨rfl, rfl, rfl, rfl, rfl⟩
  · exact .refl s

theorem steady_meterWrite (s : State) (c : Nat) (l : Option Nat) (pl : Place) (n : Nat) : Steady s (s.meterWrite c l pl n) := by
  unfold State.meterWrite
  split
  · exact .refl s
  · exact steady_meterOf s c _ n

theorem steady_packets (s : State) (c u : Nat) (pl : Place) : Steady s (s.packets c u pl) := by
  obtain ⟨q, h⟩ := packets_eq s c u pl
  rw [h]; exact .of_parts rfl rfl rfl rfl rfl

theorem steady_poisonFound (s : State) (l : Option Nat) (a : Nat) : Steady s (s.poisonFound l a) := by
  unfold State.poisonFound
  split
  · exact .of_parts rfl rfl rfl rfl rfl
  · exact .refl s

theorem steady_touch (s : State) (a : Nat) : Steady s (s.touch a) := by
  obtain ⟨r, k, h⟩ := touch_eq s a
  rw [h]; exact .of_parts rfl rfl rfl rfl rfl

/-- What a write of a unit changes. -/
theorem putBytes_eq (s : State) (a : Nat) (b : List Byte) : ∃ m r k, s.putBytes a b = { s with mem := m, rows := r, ctrs := k } := by
  obtain ⟨r, k, h⟩ := touchRange_eq { s with mem := s.outsideSpans a b.length (s.mem.putBytes a b) } a b.length
  exact ⟨_, r, k, h⟩

theorem steady_putBytes (s : State) (a : Nat) (b : List Byte) : Steady s (s.putBytes a b) := by
  obtain ⟨m, r, k, h⟩ := putBytes_eq s a b
  rw [h]; exact .of_parts rfl rfl rfl rfl rfl

theorem steady_putLine (s : State) (a v : Nat) : Steady s (s.putLine a v) :=
  (steady_putBytes s a (leBytes 64 v)).trans (.of_parts rfl rfl rfl rfl rfl)

theorem steady_copyBlock (s : State) (a b : Nat) : Steady s (s.copyBlock a b) :=
  (steady_putBytes s b (s.mem.bytes a 4096)).trans (.of_parts rfl rfl rfl rfl rfl)

theorem steady_redirect (s : State) (l : Option Nat) (a : Nat) : Steady s (s.redirect l a) := by
  unfold State.redirect
  dsimp only
  split
  · exact .refl s
  · split
    · exact (steady_copyBlock s _ _).trans (.of_parts rfl rfl rfl rfl rfl)
    · exact steady_modLaunch s _ _
    · exact .refl s

theorem steady_writeEv (s : State) (l : Option Nat) (a : Nat) (bs : List (Nat × Nat)) (d : BitVec 4096) : Steady s (s.writeEv l a bs d) := by
  have first := steady_redirect s l a
  unfold State.writeEv
  dsimp only
  split
  · exact first
  · refine first.trans (Steady.trans ?_ (steady_touch _ _))
    exact .of_parts rfl rfl rfl rfl rfl

theorem steady_post (s : State) (unit : Nat) (f : Flight) : Steady s (s.post unit f) := by
  unfold State.post
  split
  · dsimp only; split <;> exact .of_parts rfl rfl rfl rfl rfl
  · exact .of_parts rfl rfl rfl rfl rfl

/-! ## Loads and stores that perform -/

theorem steady_readHome (s : State) (c : Nat) (la : Option Nat) (l : Load) (e : SectorEv) (d : Bool) : Steady s (s.readHome c la l e d).1 := by
  unfold State.readHome
  split
  · exact .refl s
  next a _ =>
    have sent := steady_packets s c (coreUnit c) e.place
    have counted := sent.trans (steady_meterOf _ c (byteMeter c e.place) e.bytes.length)
    dsimp only
    split
    · split
      · exact (counted.trans (steady_poisonFound _ la a)).trans (steady_meterOf _ c 15 1)
      · exact sent.trans (steady_poisonFound _ la a)
    · exact counted

theorem steady_performAtom (s : State) (c : Nat) (la : Option Nat) (l : Load) (e : SectorEv) : Steady s (s.performAtom c la l e).1 := by
  unfold State.performAtom
  split
  next at_ _ _ =>
    have sent := steady_packets s c (coreUnit c) e.place
    dsimp only
    split
    · exact sent.trans (steady_poisonFound _ la _)
    · split <;> split
      · exact (sent.trans (steady_meterWrite ..)).trans (steady_writeEv ..)
      · exact sent.trans (steady_meterWrite ..)
      · exact (sent.trans (steady_meterOf ..)).trans (steady_writeEv ..)
      · exact sent.trans (steady_meterOf ..)
  · exact .refl s

theorem steady_commitEarly (s : State) (c k : Nat) : Steady s (s.commitEarly c k) := by
  unfold State.commitEarly
  dsimp only
  split
  · split
    · exact .refl s
    · exact (steady_setStr s c k _).trans (.foldl (fun s m => steady_post s _ _) _)
  · exact .refl s

theorem steady_commitForLine (s : State) (c k : Nat) : Steady s (s.commitForLine c k) := by
  unfold State.commitForLine State.commitWhere
  refine Steady.trans (Steady.foldl (fun s k => ?_) s) (steady_commitEarly _ c k)
  split
  · split
    · exact steady_commitEarly s c k
    · exact .refl s
  · exact .refl s

theorem steady_journalLine (s : State) (c k n : Nat) : Steady s (s.journalLine c k n) := by
  unfold State.journalLine
  split
  · split
    · exact .refl s
    · split
      · exact steady_commitEarly s c k
      · split
        · exact steady_commitForLine s c k
        · exact steady_setStr s c k _
  · exact .refl s

theorem steady_commitFor (s : State) (c k : Nat) (pl : Place) (n : Nat) : Steady s (s.commitFor c k pl n) := by
  unfold State.commitFor
  split
  · split
    · exact .foldl (fun s _ => steady_journalLine s c k _) s
    · exact steady_commitEarly s c k
  · exact steady_commitEarly s c k

theorem steady_commitEvs (s : State) (c k : Nat) (l : List SectorEv) : Steady s (s.commitEvs c k l) := by
  unfold State.commitEvs
  exact .foldl (fun s e => steady_commitFor s c k _ 32) s

/-! ## Faults -/

theorem steady_drainEvs (s : State) (c : Nat) (evs : List SectorEv) (d : BitVec 4096) : Steady s (s.drainEvs c evs d) := by
  unfold State.drainEvs
  refine .foldl (fun s e => ?_) s
  split
  · exact (steady_meterOf s c _ _).trans (steady_writeEv _ _ _ _ _)
  · exact .refl s

theorem steady_drainOwn (s : State) (c k : Nat) : Steady s (s.drainOwn c k) := by
  unfold State.drainOwn
  dsimp only
  refine (Steady.trans (Steady.foldl (fun s x => steady_drainEvs s c _ _) s) (Steady.foldl (fun s x => ?_) _)).trans (steady_setStr _ c k _)
  split
  · exact .foldl (fun s p => steady_drainEvs s c _ _) s
  · exact .refl s

theorem steady_restoreJournal (s : State) (c : Nat) (a : Activation) : Steady s (s.restoreJournal c a) := by
  have line (s : State) (m : Memory) (b : List (Nat × Poison)) : Steady s { s with mem := m, bad := b } := .of_parts rfl rfl rfl rfl rfl
  unfold State.restoreJournal
  dsimp only
  split
  · refine Steady.trans ?_ (steady_modOn _ c _ _)
    exact Steady.trans (Steady.foldl (fun s j => line s _ _) s) (.of_parts rfl rfl rfl rfl rfl)
  · exact Steady.trans (Steady.foldl (fun s j => line s _ _) s) (.of_parts rfl rfl rfl rfl rfl)

theorem steady_placeRec {s t : State} {c : Nat} {r : Rec} (h : s.placeRec c r = some t) : Steady s t := by
  unfold State.placeRec at h
  dsimp only at h
  split at h
  · obtain ⟨sp, -, rfl⟩ := Option.map_eq_some_iff.mp h
    cases sp with
    | none => exact steady_modCore ..
    | some i => exact (steady_putLine ..).trans (steady_modCore ..)
  · exact absurd h (by simp)

theorem steady_returnRec (s : State) (c : Nat) (a : Activation) (redo : Nat) : Steady s (s.returnRec c a redo) := by
  unfold State.returnRec
  dsimp only
  cases placed : s.placeRec c _ with
  | none => rw [Option.getD_none]; exact steady_modCore s c _
  | some t => rw [Option.getD_some]; exact steady_placeRec placed

theorem steady_rollBack (s : State) (c k redo : Nat) : Steady s (s.rollBack c k redo) := by
  unfold State.rollBack
  split
  · exact (((steady_drainOwn s c k).trans (steady_restoreJournal ..)).trans (steady_setStr ..)).trans (steady_returnRec ..)
  · exact .refl s

theorem steady_takeFault (s : State) (c k : Nat) (pc : Word) (f : FaultInfo) : Steady s (s.takeFault c k pc f) := by
  unfold State.takeFault
  dsimp only
  split
  · exact .refl s
  · split
    · exact (steady_setStr ..).trans (steady_modCore ..)
    · split
      · exact steady_setStr ..
      · split
        · exact steady_rollBack ..
        · split
          · exact ((steady_drainOwn s c k).trans (steady_restoreJournal ..)).trans (steady_setStr ..)
          · exact steady_setStr ..

theorem steady_bindLoads (s : State) (c k : Nat) : Steady s (s.bindLoads c k) := by
  unfold State.bindLoads
  dsimp only
  split
  · exact (steady_setStr ..).trans (steady_commitEvs ..)
  · split
    · refine Steady.trans ?_ (steady_takeFault ..)
      split
      · exact ((steady_setStr ..).trans (steady_commitEvs ..)).trans (steady_modOn ..)
      · exact (steady_setStr ..).trans (steady_commitEvs ..)
    · exact .refl s

theorem steady_answerLoad (s : State) (c k seq : Nat) (f : Load → Load) : Steady s (s.answerLoad c k seq f) :=
  (steady_setStr ..).trans (steady_bindLoads ..)

theorem steady_performHome (s : State) (c k : Nat) (l : Load) (e : SectorEv) : Steady s (s.performHome c k l e) := by
  refine Steady.trans ?_ (steady_answerLoad ..)
  split
  · exact steady_performAtom ..
  · exact steady_readHome ..

theorem steady_reportStore (s : State) (c : Nat) (x : Store) (e : SectorEv) (code : Nat) : Steady s (s.reportStore c x e code) := by
  unfold State.reportStore State.reportWrite State.forwardRec
  split
  · split
    · exact .refl s
    · exact steady_post ..
  · exact .refl s

theorem steady_settleInval (s : State) (f : Nat) : Steady s (s.settleInval f) := by
  unfold State.settleInval
  dsimp only
  split
  · exact .refl s
  · exact Steady.trans (.foldl (fun s _ => steady_emit s _) s) (steady_modVf ..)

theorem steady_performStore (s : State) (c k : Nat) (x : Store) (e : SectorEv) : Steady s (s.performStore c k x e) := by
  unfold State.performStore
  split
  · exact .refl s
  · have sent := steady_packets s c (coreUnit c) e.place
    have counted := sent.trans (steady_meterWrite _ c x.launch e.place e.bytes.length)
    dsimp only
    split
    · exact counted.trans (steady_writeEv ..)
    · split
      · exact (sent.trans (steady_redirect ..)).trans (steady_reportStore ..)
      · exact counted.trans (steady_writeEv ..)
    · exact ((counted.trans (steady_emit ..)).trans (steady_setStr ..)).trans (steady_settleInval ..)
    · exact counted.trans (steady_emit ..)
    · exact .refl s

/-! ## Loads that are sure perform first -/

theorem steady_forceStores (s : State) (c k n : Nat) : Steady s (s.forceStores c k n) := by
  unfold State.forceStores
  refine .foldl (fun s x => ?_) s
  split
  · exact Steady.trans (steady_setStr s c k _) (.foldl (fun s e => steady_performStore s c k x e) _)
  · exact .refl s

theorem steady_forceLoad (s : State) (c k seq : Nat) : Steady s (s.forceLoad c k seq) := by
  unfold State.forceLoad
  cases (s.str c k).lds.find? (fun l => l.seq == seq) with
  | none => exact .refl s
  | some l =>
    refine .foldl (fun s e => ?_) s
    split
    · split
      · exact steady_performHome ..
      · exact .refl s
    · exact .refl s

theorem steady_forceTo (s : State) (c k n : Nat) : Steady s (s.forceTo c k n) := by
  unfold State.forceTo
  exact Steady.trans (.foldl (fun s l => (steady_forceStores s c k _).trans (steady_forceLoad _ c k _)) s) (steady_forceStores _ c k n)

theorem steady_forceEv (s : State) (c k seq : Nat) (e : SectorEv) : Steady s (s.forceEv c k seq e) := by
  have home (t : State) : Steady t (match (t.str c k).lds.find? (fun l => l.seq == seq) with
      | some l => if l.evs.contains e then t.performHome c k l e else t
      | none => t) := by
    split
    · split
      · exact steady_performHome t c k _ e
      · exact .refl t
    · exact .refl t
  unfold State.forceEv
  dsimp only
  refine Steady.trans ?_ (home _)
  split
  · split
    · exact steady_forceTo s c k seq
    · exact .refl s
  · exact .refl s

theorem steady_sureFirst (s : State) (hit : Nat → Bool) : Steady s (s.sureFirst hit) := by
  unfold State.sureFirst
  refine .foldl (fun s c => .foldl (fun s k => ?_) s) s
  unfold State.sureStr
  exact .foldl (fun s x => steady_forceEv s _ k _ _) s

/-- With no load that is sure, none performs. -/
theorem sureFirst_none {s : State} (h : NoneSure s) (hit : Nat → Bool) : s.sureFirst hit = s := by
  have none (c k : Nat) : s.sureStr hit c k = s := by
    have empty : (s.str c k).lds.filter (·.sure) = [] := List.filter_eq_nil_iff.mpr (fun l hl => by simp [h c k l hl])
    simp [State.sureStr, empty, dueFirst]
  exact List.foldlRecOn (motive := fun t => t = s) s.cores _ rfl (fun t ht c _ =>
    List.foldlRecOn (motive := fun t => t = s) strNums _ ht (fun t ht k _ => by rw [ht, none]))

end Sys2Proof.Proofs
end

section
/-! SUPPORT. Notice stores, and the entries of the event ring (R27, R402, R405, R406): lemmas for the statement `NoticesAndReset`. -/

namespace Sys2Proof.Proofs

open Sys2Proof Sys2Proof.Machine Sys2Proof.Laws Sys2Proof.Claims

/-! ## A notice store becomes an entry, waits or is discarded -/

section
variable {s : State} {c k ix f : Nat} {x : Store} {e : SectorEv}

theorem dropEv_last {t : Str} (hx : t.sb[ix]? = some x) (he : x.evs = [e]) : (t.dropEv ix 0).sb = dropAt t.sb ix := by
  simp [Str.dropEv, hx, he, dropAt]

/-- A ring whose check is not due, or is passed, has no error. -/
theorem ringChecked_zero {v : Vf} (ok : v.erchk = false ∨ ringCode v v.ercfg v.erbase 64 = 0) :
    (if v.erchk then ringCode v v.ercfg v.erbase 64 else 0) = 0 := by
  rcases ok with off | zero
  · simp [off]
  · simp [zero]

/-- NOTICE_POST of a notice store that may perform, by the state of the event ring (R402, R405, R406). -/
theorem execNoticePost_ready (hx : (s.str c k).sb[ix]? = some x) (he : x.evs = [e]) (hp : e.place = .notice f)
    (ready : storeReady c (s.str c k) ix 0 = true) :
    execNoticePost c k ix s =
      (let v := s.vf f
       let s1 := s.modStr c k (fun t => t.dropEv ix 0)
       let code := if v.erchk then ringCode v v.ercfg v.erbase 64 else 0
       if !bitAt v.ercfg.toNat 5 || v.ee then .next (s1.modVf f Vf.discardNotice)
       else if code ≠ 0 then .next ((s1.eventRingError f code).modVf f Vf.discardNotice)
       else if v.ringFull then .next s
       else .next (s1.putEntry f { bits := BitVec.ofNat 512 (x.data.toNat % 2 ^ 256 * 2 ^ 256 + 64), notify := true, msgOf := none })) := by
  unfold execNoticePost
  dsimp only
  rw [hx]
  simp only [Option.bind_some, he, List.getElem?_cons_zero, hp, ready] <;> rfl

/-- Clause 1: a notice store becomes an entry of type 4, waits, or is discarded and counted (R402, R405, R406). -/
theorem noticePost_answers (hx : (s.str c k).sb[ix]? = some x) (he : x.evs = [e]) (hp : e.place = .notice f)
    (ready : storeReady c (s.str c k) ix 0 = true) :
    let v := s.vf f
    let go := exec (.noticePost c k ix) s
    let ok : Prop := v.erchk = false ∨ ringCode v v.ercfg v.erbase 64 = 0
    (v.ercfg.getLsbD 5 = true → v.ee = false → ok → v.ringFull = false →
        ∃ u, go = .next u ∧ (u.str c k).sb = dropAt (s.str c k).sb ix ∧ u.mem = s.mem ∧ (u.vf f).entries = v.entries
          ++ [{ bits := BitVec.ofNat 512 (x.data.toNat % 2 ^ 256 * 2 ^ 256 + 64), notify := true, msgOf := none }])
      ∧ (v.ercfg.getLsbD 5 = true → v.ee = false → ok → v.ringFull = true → go = .next s)
      ∧ (v.ercfg.getLsbD 5 = false ∨ v.ee = true → ∃ u, go = .next u ∧ (u.str c k).sb = dropAt (s.str c k).sb ix
        ∧ (u.vf f).entries = v.entries ∧ (u.vf f).stale = if v.stale = BitVec.allOnes 32 then v.stale else v.stale + 1)
      ∧ (v.ercfg.getLsbD 5 = true → v.ee = false → ¬ok → ∃ u, go = .next u ∧ (u.str c k).sb = dropAt (s.str c k).sb ix
        ∧ (u.vf f).entries = v.entries ∧ (u.vf f).stale = (if v.stale = BitVec.allOnes 32 then v.stale else v.stale + 1)
        ∧ (u.vf f).ee = true ∧ (u.vf f).ecode = BitVec.ofNat 4 (ringCode v v.ercfg v.erbase 64) ∧ u.out = s.out ++ [.msix f 0 false]) := by
  have run := execNoticePost_ready hx he hp ready
  have dropped : ((s.modStr c k (fun t => t.dropEv ix 0)).str c k).sb = dropAt (s.str c k).sb ix := by
    rw [State.modStr, str_setStr_self, dropEv_last hx he]
  simp only [bitAt_toNat] at run
  refine ⟨?_, ?_, ?_, ?_⟩
  · intro enabled ee ok room
    rw [if_neg (by simp [enabled, ee]), if_neg (not_not.mpr (ringChecked_zero ok)), if_neg (by simp [room])] at run
    exact ⟨_, run, dropped, rfl, congrArg Vf.entries (vf_modVf_self (s.modStr c k _) f _)⟩
  · intro enabled ee ok full
    rwa [if_neg (by simp [enabled, ee]), if_neg (not_not.mpr (ringChecked_zero ok)), if_pos full] at run
  · intro off
    rw [if_pos (by simpa using off)] at run
    have vf := vf_modVf_self (s.modStr c k (fun t => t.dropEv ix 0)) f Vf.discardNotice
    exact ⟨_, run, dropped, (congrArg Vf.entries vf).trans rfl, (congrArg Vf.stale vf).trans rfl⟩
  · intro enabled ee bad
    obtain ⟨checked, code⟩ := not_or.mp bad
    have due : (s.vf f).erchk = true := by simpa using checked
    rw [if_neg (by simp [enabled, ee]), due, if_pos rfl, if_pos code] at run
    have vf := vf_modVf_self ((s.modStr c k (fun t => t.dropEv ix 0)).eventRingError f (ringCode (s.vf f) (s.vf f).ercfg (s.vf f).erbase 64)) f
      Vf.discardNotice
    rw [eventRingError_vf] at vf
    exact ⟨_, run, dropped, (congrArg Vf.entries vf).trans rfl, (congrArg Vf.stale vf).trans rfl, congrArg Vf.ee vf, congrArg Vf.ecode vf, rfl⟩

end

/-! ## The oldest entry goes to its slot -/

section
variable {s : State} {f : Nat} {e : EventEntry} {rest : List EventEntry}

theorem writeEntry_vf (s : State) (g slot : Nat) (b : BitVec 512) (f : Nat) : (s.writeEntry g slot b).vf f = s.vf f := rfl

/-- EVENT_ENTRY_WRITE of a function with an entry that waits, whose ring is enabled and not in error. -/
theorem execEventEntryWrite_waiting (sendable : Bool) (waits : (s.vf f).entries = e :: rest) (rdy : s.dev.rdy = true)
    (enabled : (s.vf f).ercfg.getLsbD 5 = true) (ee : (s.vf f).ee = false) :
    execEventEntryWrite f sendable s =
      (let v := s.vf f
       let code := if v.erchk then ringCode v v.ercfg v.erbase 64 else 0
       if code ≠ 0 then .next (s.eventRingError f code)
       else if 2 ^ (v.ercfg.toNat % 16) ≤ (v.ed - v.ep).toNat then .next s
       else if !(sendable && v.busMaster && !s.isInsecure f) then .next (s.eventRingError f 5)
       else
         let s1 := (s.modVf f (fun v => { v with entries := rest, ed := v.ed + 1, erchk := false })).writeEntry f
           (v.ed.toNat % 2 ^ (v.ercfg.toNat % 16)) (if v.ed.getLsbD (v.ercfg.toNat % 16) then e.bits else e.bits ||| 1)
         .next (if e.notify then s1.emit (.msix f 1 false) else s1)) := by
  unfold execEventEntryWrite
  dsimp only
  rw [waits]
  simp only [slotBits, bitAt_toNat, field_low, enabled, ee, rdy] <;> rfl

/-- Clause 2: the oldest entry goes to its slot and raises its vector, or the ring is in error (R405, R406). -/
theorem eventEntryWrite_places (waits : (s.vf f).entries = e :: rest) (rdy : s.dev.rdy = true) (enabled : (s.vf f).ercfg.getLsbD 5 = true)
    (ee : (s.vf f).ee = false) :
    let v := s.vf f
    let n := v.ercfg.toNat % 16
    (v.erchk = true → ringCode v v.ercfg v.erbase 64 ≠ 0 → ∃ u, exec (.eventEntryWrite f true) s = .next u
        ∧ (u.vf f).ee = true ∧ (u.vf f).ecode = BitVec.ofNat 4 (ringCode v v.ercfg v.erbase 64) ∧ u.out = s.out ++ [.msix f 0 false])
      ∧ ((v.erchk = false ∨ ringCode v v.ercfg v.erbase 64 = 0) → (v.ed - v.ep).toNat < 2 ^ n →
        (v.busMaster = true → s.isInsecure f = false → ∃ u, exec (.eventEntryWrite f true) s = .next u ∧ u.mem = s.mem
            ∧ u.vf f = { v with entries := rest, ed := v.ed + 1, erchk := false }
            ∧ u.out = s.out ++ (let slot := v.ed.toNat % 2 ^ n
                let bits := if v.ed.getLsbD n then e.bits else e.bits ||| 1
                [.eventEntry f slot 1 63 bits true, .eventEntry f slot 0 1 bits false]) ++ (if e.notify then [.msix f 1 false] else []))
          ∧ (v.busMaster = false → ∃ u, exec (.eventEntryWrite f true) s = .next u ∧ (u.vf f).ee = true ∧ (u.vf f).ecode = 5)
          ∧ (∃ u, exec (.eventEntryWrite f false) s = .next u ∧ (u.vf f).ee = true ∧ (u.vf f).ecode = 5)) := by
  have run (sendable : Bool) := execEventEntryWrite_waiting sendable waits rdy enabled ee
  dsimp only at run
  refine ⟨?_, ?_⟩
  · intro due code
    have fails := run true
    rw [due, if_pos rfl, if_pos code] at fails
    exact ⟨_, fails, by rw [eventRingError_vf], by rw [eventRingError_vf], rfl⟩
  · intro ok room
    have sound : (if (s.vf f).erchk then ringCode (s.vf f) (s.vf f).ercfg (s.vf f).erbase 64 else 0) = 0 := ringChecked_zero ok
    simp only [sound, if_neg (not_not.mpr (rfl : (0 : Nat) = 0)), if_neg (Nat.not_le.mpr room)] at run
    refine ⟨?_, ?_, ?_⟩
    · intro master secure
      have goes := run true
      rw [if_neg (by simp [master, secure])] at goes
      refine ⟨_, goes, ?_, ?_, ?_⟩
      · split <;> rfl
      · split <;> simp only [emit_vf, writeEntry_vf, vf_modVf_self]
      · split <;> simp only [State.writeEntry, State.emit, State.modVf, List.append_assoc, List.cons_append, List.nil_append, List.append_nil]
    · intro slave
      have fails := run true
      rw [if_pos (by simp [slave])] at fails
      exact ⟨_, fails, by rw [eventRingError_vf], by rw [eventRingError_vf]; rfl⟩
    · have fails := run false
      rw [if_pos (by simp)] at fails
      exact ⟨_, fails, by rw [eventRingError_vf], by rw [eventRingError_vf]; rfl⟩

end
end Sys2Proof.Proofs
end

section
/-! SUPPORT. What a scrub marks, reports and lists (R81 to R84, R87, R89): lemmas for the statement `NoticesAndReset`. -/

namespace Sys2Proof.Proofs

open Sys2Proof Sys2Proof.Machine Sys2Proof.Laws Sys2Proof.Claims

/-! ## What a scrub finds -/

section
variable {s : State} {a lvl b p : Nat}

/-- A line that has been written is marked, both sectors of it (R87, R92). -/
theorem markLine_written (m : Poison) (written : s.written a = true) :
    let u := s.markLine m a
    mfind u.bad (a / 64 * 2) = some m ∧ mfind u.bad (a / 64 * 2 + 1) = some m
      ∧ (NoneSure s → u.mem = s.mem ∧ ∀ k, k / 2 ≠ a / 64 → mfind u.bad k = mfind s.bad k) := by
  simp only [State.markLine, written, if_true]
  refine ⟨?_, mfind_mset_self _ _ _, ?_⟩
  · rw [mfind_mset_ne _ _ (by omega), mfind_mset_self]
  · intro none
    rw [sureFirst_none none]
    refine ⟨rfl, fun k hk => ?_⟩
    rw [mfind_mset_ne _ _ (by omega), mfind_mset_ne _ _ (by omega)]

theorem markLine_unwritten (m : Poison) (written : s.written a = false) : s.markLine m a = s := by
  simp [State.markLine, written]

/-- A bank fails and is reported (R81). -/
theorem bankFails_reports (s : State) (share b : Nat) :
    let u := s.bankFails share b
    u.badBanks = s.badBanks ++ [(share, b)] ∧ u.root.bankReports = s.root.bankReports ++ [(share, b)] ∧ (NoneSure s → u.mem = s.mem) := by
  have steady := steady_sureFirst s (fun i => isSram (32 * i) && shareOf (32 * i) == share)
  refine ⟨?_, ?_, ?_⟩
  · exact congrArg (· ++ [(share, b)]) steady.banks
  · exact congrArg (· ++ [(share, b)]) steady.reports
  · intro none
    simp [State.bankFails, sureFirst_none none]

/-- The span of a node of a level that the tree has. -/
theorem newSpan_eq (q : Partition) (low : 1 ≤ lvl) (high : lvl ≤ 7) :
    q.newSpan a lvl = (let lv := if (q.spans.filter (fun x => x.die == paDie a)).length < 32 then lvl else 7
      { die := paDie a, pa := a / spanLen lv * spanLen lv, len := spanLen lv, lvl := lv }) := by
  have level : Nat.min 7 (Nat.max 1 lvl) = lvl := by simp [Nat.max_eq_right low, Nat.min_eq_right high]
  unfold Partition.newSpan
  simp only [level, ← Nat.not_lt, ite_not]

/-- A new span enters the poison list of its partition, and a notice is due (R89, R90). -/
theorem addSpan_lists {x : Span} (holder : s.holderOf a = some p) (new : (s.part p).newSpan a lvl = x) (absent : x ∉ (s.part p).spans) :
    let u := s.addSpan a lvl
    (u.part p).spans = (s.part p).spans ++ [x] ∧ (u.part p).notices = (s.part p).notices ++ [x] ∧ (NoneSure s → u.mem = s.mem) := by
  unfold State.addSpan
  simp only [holder, new, List.contains_eq_mem, absent, decide_false]
  rw [if_neg (by decide)]
  obtain ⟨-, -, spans, notices, -⟩ := (steady_sureFirst s (fun i => overlaps x.pa x.len (32 * i) 32)).part p
  rw [part_modPart_self]
  refine ⟨congrArg (· ++ [x]) spans, congrArg (· ++ [x]) notices, fun none => ?_⟩
  rw [sureFirst_none none]
  rfl

end

/-- Clause 3: a scrub marks a line that has been written, reports a bank, and lists the span of a node (R81 to R84, R87, R89). -/
theorem patrolScrub_finds (s : State) (a lvl b : Nat) :
    (∀ x ∈ [(Scrub.sector, Poison.poisoned), (.line, .uncorrectable)],
          (s.written a = true → ∃ u, exec (.patrolScrub (.phys a) x.1) s = .next u ∧ mfind u.bad (a / 64 * 2) = some x.2
              ∧ mfind u.bad (a / 64 * 2 + 1) = some x.2
              ∧ (NoneSure s → u.mem = s.mem ∧ ∀ k, k / 2 ≠ a / 64 → mfind u.bad k = mfind s.bad k))
            ∧ (s.written a = false → exec (.patrolScrub (.phys a) x.1) s = .next s))
      ∧ (isSram a = true → b < 18 → (shareOf a, b) ∉ s.badBanks → ∃ u, exec (.patrolScrub (.phys a) (.bank b)) s = .next u
        ∧ u.badBanks = s.badBanks ++ [(shareOf a, b)] ∧ u.root.bankReports = s.root.bankReports ++ [(shareOf a, b)] ∧ (NoneSure s → u.mem = s.mem))
      ∧ (s.nodeRead a lvl = false → exec (.patrolScrub (.phys a) (.node lvl)) s = .next s)
      ∧ (∀ p, isDram a = true → s.holderOf a = some p → s.nodeRead a lvl = true → 1 ≤ lvl → lvl ≤ 7 →
        let lv := if ((s.part p).spans.filter (fun x => x.die == paDie a)).length < 32 then lvl else 7
        let x : Span := { die := paDie a, pa := a / spanLen lv * spanLen lv, len := spanLen lv, lvl := lv }
        x ∉ (s.part p).spans → ∃ u, exec (.patrolScrub (.phys a) (.node lvl)) s = .next u
          ∧ (u.part p).spans = (s.part p).spans ++ [x] ∧ (u.part p).notices = (s.part p).notices ++ [x] ∧ (NoneSure s → u.mem = s.mem)) := by
  refine ⟨?_, ?_, ?_, ?_⟩
  · intro x hx
    have run : exec (.patrolScrub (.phys a) x.1) s = .next (s.markLine x.2 a) := by
      rcases List.mem_cons.mp hx with rfl | hx
      · rfl
      · rw [List.mem_singleton.mp hx]; rfl
    exact ⟨fun written => ⟨_, run, markLine_written x.2 written⟩, fun unwritten => by rw [run, markLine_unwritten x.2 unwritten]⟩
  · intro sram small absent
    refine ⟨s.bankFails (shareOf a) b, ?_, bankFails_reports s _ b⟩
    simp [execPatrolScrub, sram, small, absent]
  · intro unread
    simp [execPatrolScrub, unread]
  · intro p dram holder read low high lv x absent
    refine ⟨s.addSpan a lvl, ?_, addSpan_lists holder (newSpan_eq _ low high) absent⟩
    simp [execPatrolScrub, dram, read]

end Sys2Proof.Proofs
end

section
/-! SUPPORT. The record of a notice in the ring of the home granule (R90, R394): lemmas for the statement `NoticesAndReset`. -/

namespace Sys2Proof.Proofs

open Sys2Proof Sys2Proof.Machine Sys2Proof.Laws Sys2Proof.Claims

/-! ## Numbers in memory -/

theorem getElem_leBytes (n v i : Nat) (h : i < (leBytes n v).length) : (leBytes n v)[i] = BitVec.ofNat 8 (v / 256 ^ i) := by
  induction n generalizing v i with
  | zero => simp [leBytes] at h
  | succ n ih =>
    cases i with
    | zero => simp [leBytes]
    | succ i =>
      simp only [leBytes, List.getElem_cons_succ]
      rw [ih, Nat.div_div_eq_div_mul, Nat.pow_succ']

theorem leNat_lt (l : List Byte) : leNat l < 256 ^ l.length := by
  induction l with
  | nil => simp [leNat]
  | cons b t ih =>
    have := b.isLt
    rw [leNat, List.length_cons, Nat.pow_succ]
    omega

theorem num_lt (m : Memory) (a n : Nat) : m.num a n < 256 ^ n := by
  have small := leNat_lt (m.bytes a n)
  rwa [memory_bytes_eq, List.length_map, List.length_range, ← memory_bytes_eq] at small

section
variable {s : State} {a n v : Nat}

/-- A number that a unit writes where no listed span lies is there, byte by byte. -/
theorem get_putNum_in (clear : ∀ x ∈ s.allSpans, overlaps x.pa x.len a n = false) {i : Nat} (hi : i < n) :
    (s.putNum a n v).mem.get (a + i) = BitVec.ofNat 8 (v / 256 ^ i) := by
  have len : i < (leBytes n v).length := by rwa [leBytes_length]
  rw [putNum_mem, outsideSpans_clear _ _ _ _ clear, Memory.putNum, get_putBytes_in _ _ _ _ len, getElem_leBytes]

/-- It changes no other byte. -/
theorem get_putNum_out {i : Nat} (hi : i < a ∨ a + n ≤ i) : (s.putNum a n v).mem.get i = s.mem.get i :=
  get_putBytes_mem_out s a (leBytes n v) i (by rwa [leBytes_length])

theorem putNum_parts (s : State) (a n v : Nat) : (s.putNum a n v).parts = s.parts := by
  obtain ⟨m, r, k, h⟩ := putBytes_eq s a (leBytes n v)
  rw [State.putNum, h]

theorem allSpans_of_parts {s t : State} (h : t.parts = s.parts) : t.allSpans = s.allSpans := by rw [State.allSpans, h]; rfl

end

/-! ## A notice goes to the ring of the home granule -/

theorem backAll_none {s : State} (h : s.switched = []) : s.backAll = s := by
  unfold State.backAll
  rw [h]
  rfl

/-- POISON_NOTICE where the ring has room: the record and the index are written, and a trap is due (R90, R394). -/
theorem execPoisonNotice_room {s : State} {p : Nat} {x : Span} {rest : List Span} (waits : (s.part p).notices = x :: rest) (none : s.switched = [])
    (lives : (s.part p).pstate = .stopped ∨ (s.part p).pstate = .running)
    (room : (s.mem.num ((s.part p).home + 0x20) 4 + 1 + 2 ^ 32 - s.mem.num ((s.part p).home + 0x24) 4) % 2 ^ 32 < 64) :
    let q := s.part p
    let w := s.mem.num (q.home + 0x20) 4
    let a := q.home + 0x41000 + 32 * (w % 64)
    execPoisonNotice p s = .next (((s.putNum a 32 (noticeBits x)).putNum (q.home + 0x20) 4 ((w + 1) % 2 ^ 32)).modPart p
      (fun q => { q with notices := rest, noticeDue := q.noticeDue ++ [devicePtr s.pkg a] })) := by
  have windex := num_lt s.mem ((s.part p).home + 0x20) 4
  have rindex := num_lt s.mem ((s.part p).home + 0x24) 4
  unfold execPoisonNotice
  dsimp only
  rw [waits]
  dsimp only
  rw [if_neg (by rcases lives with h | h <;> simp [h]), backAll_none none]
  rw [if_neg (by omega)]

/-- What the record and the index make of memory (R90, R394). -/
theorem noticeWrites_mem (s : State) (home w bits : Nat) :
    let a := home + 0x41000 + 32 * (w % 64)
    let u := (s.putNum a 32 bits).putNum (home + 0x20) 4 ((w + 1) % 2 ^ 32)
    ((∀ y ∈ s.allSpans, overlaps y.pa y.len a 32 = false ∧ overlaps y.pa y.len (home + 0x20) 4 = false) →
        (∀ j < 32, u.mem.get (a + j) = BitVec.ofNat 8 (bits / 256 ^ j))
          ∧ ∀ j < 4, u.mem.get (home + 0x20 + j) = BitVec.ofNat 8 ((w + 1) / 256 ^ j))
      ∧ (∀ y, (y < a ∨ a + 32 ≤ y) → (y < home + 0x20 ∨ home + 0x24 ≤ y) → u.mem.get y = s.mem.get y) := by
  dsimp only
  refine ⟨fun clear => ⟨fun j hj => ?_, fun j hj => ?_⟩, fun y hy hz => ?_⟩
  · rw [get_putNum_out (by omega), get_putNum_in (fun y hy => (clear y hy).1) hj]
  · rw [get_putNum_in (by rw [allSpans_of_parts (putNum_parts ..)]; exact fun y hy => (clear y hy).2) hj]
    have byte : j = 0 ∨ j = 1 ∨ j = 2 ∨ j = 3 := by omega
    apply BitVec.eq_of_toNat_eq
    simp only [BitVec.toNat_ofNat]
    rcases byte with rfl | rfl | rfl | rfl <;> omega
  · rw [get_putNum_out (by omega), get_putNum_out (by omega)]

/-- Clause 4: the record and its index are written, and a trap is due (R90, R394). -/
theorem poisonNotice_writes {s : State} {p : Nat} {x : Span} {rest : List Span} (waits : (s.part p).notices = x :: rest) (none : s.switched = [])
    (lives : (s.part p).pstate = .stopped ∨ (s.part p).pstate = .running)
    (room : (s.mem.num ((s.part p).home + 0x20) 4 + 1 + 2 ^ 32 - s.mem.num ((s.part p).home + 0x24) 4) % 2 ^ 32 < 64) :
    let q := s.part p
    let w := s.mem.num (q.home + 0x20) 4
    let a := q.home + 0x41000 + 32 * (w % 64)
    ∃ u, exec (.poisonNotice p) s = .next u ∧ u.part p = { q with notices := rest, noticeDue := q.noticeDue ++ [devicePtr s.pkg a] }
      ∧ ((∀ y ∈ s.allSpans, overlaps y.pa y.len a 32 = false ∧ overlaps y.pa y.len (q.home + 0x20) 4 = false) →
        (∀ j < 32, u.mem.get (a + j) = BitVec.ofNat 8 ((0x20 * 2 ^ 96 + x.pa * 2 ^ 48 + x.lvl * 2 ^ 40 + x.len) / 256 ^ j))
          ∧ ∀ j < 4, u.mem.get (q.home + 0x20 + j) = BitVec.ofNat 8 ((w + 1) / 256 ^ j))
      ∧ (∀ y, (y < a ∨ a + 32 ≤ y) → (y < q.home + 0x20 ∨ q.home + 0x24 ≤ y) → u.mem.get y = s.mem.get y) := by
  intro q w a
  refine ⟨_, execPoisonNotice_room waits none lives room, ?_, noticeWrites_mem s q.home w (noticeBits x)⟩
  rw [part_modPart_self, part_of_parts (putNum_parts _ _ _ _), part_of_parts (putNum_parts _ _ _ _)]

end Sys2Proof.Proofs
end

section
/-! SUPPORT. Strings in IDLE go on, and the trap of a notice (R347, R394): lemmas for the statement `NoticesAndReset`. -/

namespace Sys2Proof.Proofs

open Sys2Proof Sys2Proof.Machine Sys2Proof.Laws Sys2Proof.Claims

/-! ## Strings in IDLE go on -/

/-- String `k` of core `c` retires its IDLE, if it is in one: a step of `State.wakeIdle`. -/
def wakeStr (c : Nat) (s : State) (k : Nat) : State :=
  match (s.str c k).wait with
  | .idle => { ({ s with cur := (c, k) } : State).retire with cur := s.cur }
  | _ => s

theorem wakeIdle_eq (s : State) (c : Nat) : s.wakeIdle c = strNums.foldl (wakeStr c) s := by
  unfold State.wakeIdle
  refine List.foldl_ext _ _ s (fun s k _ => ?_)
  unfold wakeStr
  cases (s.str c k).wait <;> rfl

section
variable {s : State} {c k j : Nat}

theorem wake_idle (h : (s.str c k).wait = .idle) : wakeStr c s k = { ({ s with cur := (c, k) } : State).retire with cur := s.cur } := by
  rw [wakeStr, h]

theorem wake_not_idle (h : (s.str c k).wait ≠ .idle) : wakeStr c s k = s := by
  unfold wakeStr
  split
  · contradiction
  · rfl

theorem wake_mem (c : Nat) (s : State) (k : Nat) : (wakeStr c s k).mem = s.mem := by
  by_cases h : (s.str c k).wait = .idle
  · rw [wake_idle h]; exact retireTo_mem _ _
  · rw [wake_not_idle h]

theorem wake_str_self (h : (s.str c k).wait = .idle) :
    (wakeStr c s k).str c k = { s.str c k with pc := nextPtr (s.str c k).pc 4, inHand := [], wait := .none, routed := false } := by
  have cur := retireTo_curStr { s with cur := (c, k) } (nextPtr (s.str c k).pc 4)
  rw [State.curStr, retireTo_cur] at cur
  rw [wake_idle h]
  exact cur

theorem wake_str_ne (h : j ≠ k) : (wakeStr c s k).str c j = s.str c j := by
  by_cases idle : (s.str c k).wait = .idle
  · rw [wake_idle idle]
    exact retireTo_str { s with cur := (c, k) } _ (by simpa using h)
  · rw [wake_not_idle idle]

theorem wakeIdle_mem (s : State) (c : Nat) : (s.wakeIdle c).mem = s.mem := by
  rw [wakeIdle_eq]
  exact List.foldlRecOn (motive := fun t : State => t.mem = s.mem) strNums _ rfl (fun t ht k _ => (wake_mem c t k).trans ht)

/-- A string that is not in IDLE is left alone by every step. -/
theorem wake_str_not_idle (h : (s.str c j).wait ≠ .idle) (k : Nat) : (wakeStr c s k).str c j = s.str c j := by
  by_cases same : j = k
  · rw [← same, wake_not_idle h]
  · exact wake_str_ne same

/-- A string that is not in IDLE stays as it is. -/
theorem wakeIdle_str_not_idle (h : (s.str c j).wait ≠ .idle) : (s.wakeIdle c).str c j = s.str c j := by
  rw [wakeIdle_eq]
  exact List.foldlRecOn (motive := fun t : State => t.str c j = s.str c j) strNums _ rfl
    (fun t ht k _ => (wake_str_not_idle (by rwa [ht]) k).trans ht)

/-- A string has gone on from an IDLE at the next instruction. -/
def Woken (was now : Str) : Prop := now.wait = .none ∧ now.pc = nextPtr was.pc 4

/-- A string in IDLE goes on (R347). -/
theorem wakeIdle_str_idle (hj : j < 4) (h : (s.str c j).wait = .idle) :
    Woken (s.str c j) ((s.wakeIdle c).str c j) := by
  have keep (t : State) (k : Nat) (ht : Woken (s.str c j) (t.str c j)) : Woken (s.str c j) ((wakeStr c t k).str c j) := by
    rwa [wake_str_not_idle (by rw [ht.1]; exact fun x => nomatch x)]
  have woken (t : State) (ht : t.str c j = s.str c j) : Woken (s.str c j) ((wakeStr c t j).str c j) := by
    rw [wake_str_self (by rw [ht, h]), ht]
    exact ⟨rfl, rfl⟩
  rw [wakeIdle_eq]
  refine foldl_reaches (fun t => t.str c j = s.str c j ∨ Woken (s.str c j) (t.str c j)) (fun t => Woken (s.str c j) (t.str c j)) (wakeStr c) (x := j) ?_ ?_ keep ?_ (.inl rfl)
  · simp only [strNums, List.mem_cons, List.not_mem_nil, or_false]; omega
  · rintro t k (same | ht)
    · by_cases self : j = k
      · exact .inr (self ▸ woken t same)
      · exact .inl ((wake_str_ne self).trans same)
    · exact .inr (keep t k ht)
  · rintro t (same | ht)
    · exact woken t same
    · exact keep t j ht

end

/-! ## The trap of a notice -/

theorem trapped_str_trap (t : Str) (mentry : Word) (detail code : Nat) (v pc : Word) :
    Trapped t (t.trap mentry 0 detail code v pc) mentry 0 detail code v pc :=
  trapped_trap t t.act pc mentry { code := code, detail := detail, val := v }

theorem modPart_str (s : State) (p : Nat) (f : Partition → Partition) (c k : Nat) : (s.modPart p f).str c k = s.str c k := rfl

/-- A string takes a new state in which it is not in IDLE, and the others in IDLE go on. -/
theorem wakeIdle_setStr {s : State} {c k : Nat} {t : Str} (awake : t.wait ≠ .idle) :
    ((s.setStr c k t).wakeIdle c).mem = s.mem ∧ ((s.setStr c k t).wakeIdle c).str c k = t
      ∧ ∀ j < 4, j ≠ k → (s.str c j).wait = .idle → Woken (s.str c j) (((s.setStr c k t).wakeIdle c).str c j) := by
  have own := str_setStr_self s c k t
  refine ⟨(wakeIdle_mem _ c).trans rfl, (wakeIdle_str_not_idle (by rwa [own])).trans own, fun j hj other idle => ?_⟩
  have same : (s.setStr c k t).str c j = s.str c j := str_setStr_ne s t (by simpa using other)
  rw [← same] at idle ⊢
  exact wakeIdle_str_idle hj idle

section
variable {s : State} {p c k : Nat} {v pc : Word} {rest : List Word} {l : List Nat}

theorem execNoticeTrap_chosen (powered : s.dev.powered = true) (due : (s.part p).noticeDue = v :: rest) (live : s.liveCores p = c :: l)
    (lives : (s.part p).pstate = .stopped ∨ (s.part p).pstate = .running) (chosen : (s.core c).noticeStr = some (k, pc)) :
    execNoticeTrap p s = .next (((s.setStr c k (({ s.str c k with run := .running } : Str).trap (s.core c).mentry 0 1 0x20 v pc)).wakeIdle
      c).modPart p (fun q => { q with noticeDue := rest })) := by
  unfold execNoticeTrap
  dsimp only
  rw [due, live]
  dsimp only
  rw [if_neg (by rcases lives with h | h <;> simp [h, powered]), chosen]

/-- Clause 5: the trap of a notice is taken, and the core's other strings in IDLE go on (R347, R394). -/
theorem noticeTrap_traps (powered : s.dev.powered = true) (due : (s.part p).noticeDue = v :: rest) (live : s.liveCores p = c :: l)
    (lives : (s.part p).pstate = .stopped ∨ (s.part p).pstate = .running) (chosen : (s.core c).noticeStr = some (k, pc)) :
    ∃ u, exec (.noticeTrap p) s = .next u ∧ u.mem = s.mem ∧ (u.part p).noticeDue = rest
      ∧ Trapped { s.str c k with run := .running } (u.str c k) (s.core c).mentry 0 1 0x20 v pc
      ∧ ∀ j < 4, j ≠ k → (s.str c j).wait = .idle → (u.str c j).wait = .none ∧ (u.str c j).pc = nextPtr (s.str c j).pc 4 := by
  obtain ⟨mem, own, others⟩ := wakeIdle_setStr (s := s) (c := c) (k := k)
    (t := ({ s.str c k with run := .running } : Str).trap (s.core c).mentry 0 1 0x20 v pc) (fun x => nomatch x)
  refine ⟨_, execNoticeTrap_chosen powered due live lives chosen, ?_, ?_, ?_, ?_⟩
  · rw [modPart_mem, mem]
  · rw [part_modPart_self]
  · rw [modPart_str, own]
    exact trapped_str_trap ..
  · intro j hj other idle
    rw [modPart_str]
    exact others j hj other idle

end

end Sys2Proof.Proofs
end

section
/-! SUPPORT. The fence of a partition (R393, R396): lemmas for the statement `NoticesAndReset`. -/

namespace Sys2Proof.Proofs

open Sys2Proof Sys2Proof.Machine Sys2Proof.Laws Sys2Proof.Claims

/-! ## The fence of a partition -/

theorem mfind_map {α : Type} (g : α → α) (m : Map α) (k : Nat) : mfind (m.map (fun x => (x.1, g x.2))) k = (mfind m k).map g := by
  induction m with
  | nil => rfl
  | cons x t ih =>
    obtain ⟨i, v⟩ := x
    simp only [List.map_cons, mfind]
    split
    · rfl
    · exact ih

theorem halt_not_running (t : Str) : t.halt.run ≠ .running := by
  unfold Str.halt
  dsimp only
  split <;> exact fun x => nomatch x

/-- No string of a core runs behind the fence (R396). -/
theorem fence_str_run (co : Core) (k : Nat) : (co.fence.str k).run ≠ .running := by
  show (mget Str.init (co.strs.map (fun x => (x.1, x.2.halt))) k).run ≠ .running
  rw [mget, mfind_map]
  cases mfind co.strs k with
  | none => exact fun x => nomatch x
  | some t => exact halt_not_running t

/-- What the fence does before it reaches the cores changes no more than cores, launches and what comes from and goes to the host. -/
theorem abortOutstanding_eq (s : State) (p : Nat) : ∃ i o, s.abortOutstanding p = { s with inputs := i, out := o } := by
  unfold State.abortOutstanding
  dsimp only
  split
  · split <;> exact ⟨_, _, rfl⟩
  · split <;> exact ⟨_, _, rfl⟩
  · exact ⟨_, _, rfl⟩

/-- A core of no monitor fault stays so. -/
theorem modCore_monFault {s : State} {c d : Nat} {f : Core → Core} (hf : ∀ co, co.monFault = none → (f co).monFault = none)
    (h : (s.core c).monFault = none) : ((s.modCore d f).core c).monFault = none := by
  by_cases same : c = d
  · rw [← same, core_modCore_self]; exact hf _ h
  · rwa [core_modCore_ne _ _ same]

theorem endReset_monFault {s : State} {c : Nat} (sel : Launch → Bool) (h : (s.core c).monFault = none) :
    ((s.endReset sel).core c).monFault = none := by
  refine List.foldlRecOn (motive := fun t : State => (t.core c).monFault = none) _ _ h (fun t ht l _ => ?_)
  have launches : ((t.modLaunch l.1 (fun l => { l with phase := .ending 5 0 false, ends := [] })).core c).monFault = none := by
    obtain ⟨x, e⟩ := modLaunch_eq t l.1 (fun l => { l with phase := .ending 5 0 false, ends := [] })
    rw [e]; exact ht
  refine List.foldlRecOn (motive := fun t : State => (t.core c).monFault = none) _ _ launches (fun t ht d _ => ?_)
  refine modCore_monFault (fun _ h => h) ?_
  exact List.foldlRecOn (motive := fun t : State => (t.core c).monFault = none) _ _ ht (fun t ht k _ => modCore_monFault (fun _ h => h) ht)

/-- The fence of a partition (R396 steps 1 and 2). -/
theorem fence_stops (s : State) (p : Nat) (teardown : Bool) :
    let u := s.fence p teardown
    u.mem = s.mem ∧ (u.part p).pstate = .fenced ∧ (∀ d ∈ (s.part p).cores, ∀ k, (u.str d k).run ≠ .running)
      ∧ ∀ c, (s.core c).monFault = none → (u.core c).monFault = none := by
  obtain ⟨i, o, aborted⟩ := abortOutstanding_eq s p
  have ended := sameOutside_endReset (s.abortOutstanding p) (fun l => l.part == p)
  refine ⟨?_, by rw [State.fence, part_modPart_self], ?_, ?_⟩
  · have cores := sameOutside_foldl (s.part p).cores (fun s c => s.modCore c Core.fence) (fun s c => sameOutside_modCore s c _)
      ((s.abortOutstanding p).endReset (fun l => l.part == p))
    exact (ended.trans cores).mem.trans (by rw [aborted])
  · intro d hd
    refine foldl_reaches (fun _ => True) (fun t => ∀ k, (t.str d k).run ≠ .running) (fun s c => s.modCore c Core.fence) hd
      (fun _ _ _ => trivial) ?_ ?_ trivial
    · intro t e ht k
      by_cases same : d = e
      · rw [State.str, ← same, core_modCore_self]; exact fence_str_run _ k
      · rw [State.str, core_modCore_ne _ _ same]; exact ht k
    · intro t _ k
      rw [State.str, core_modCore_self]
      exact fence_str_run _ k
  · intro c hc
    have start : ((s.abortOutstanding p).core c).monFault = none := by rw [aborted]; exact hc
    exact List.foldlRecOn (motive := fun t : State => (t.core c).monFault = none) _ _ (endReset_monFault _ start)
      (fun t ht d _ => modCore_monFault (fun _ _ => rfl) ht)

/-- Clause 6: a core reports the fault of its monitor, which fences its partition (R393). -/
theorem monitorFaultReport_fences {s : State} {c p : Nat} {f : FaultInfo} (fault : (s.core c).monFault = some f) (part : (s.core c).part = some p) :
    ∃ u, exec (.monitorFaultReport c) s = .next u ∧ u.mem = s.mem ∧ (u.part p).pstate = .fenced ∧ (u.core c).monFault = none
      ∧ ∀ d ∈ (s.part p).cores, ∀ k, (u.str d k).run ≠ .running := by
  obtain ⟨mem, fenced, stopped, clear⟩ := fence_stops (s.modCore c (fun co => { co with monFault := none })) p false
  refine ⟨_, ?_, mem, fenced, clear c (by rw [core_modCore_self]), stopped⟩
  rw [exec_monitorFaultReport, execMonitorFaultReport, fault, part]

end Sys2Proof.Proofs
end

section
/-! SUPPORT. What the clearing of a partition that is reset leaves, and the end of a thermal trip (R396, R452): lemmas for the statement
`NoticesAndReset`. -/

namespace Sys2Proof.Proofs

open Sys2Proof Sys2Proof.Machine Sys2Proof.Laws Sys2Proof.Claims

/-! ## The cores are cleared and the launches complete -/

theorem steady_copyBack (s : State) (key b : Nat) : Steady s (s.copyBack key b) :=
  ((steady_sureFirst s _).trans (steady_copyBlock _ _ _)).trans (.of_parts rfl rfl rfl rfl rfl)

theorem steady_keyBack (s : State) (key : Nat) : Steady s (s.keyBack key) := by
  unfold State.keyBack
  exact .foldl (fun s r => steady_copyBack s _ _) s

theorem steady_dropCopy (s : State) (key b : Nat) : Steady s (s.dropCopy key b) := .of_parts rfl rfl rfl rfl rfl

theorem steady_discardShadow (s : State) (key : Nat) : Steady s (s.discardShadow key) := by
  unfold State.discardShadow
  exact Steady.trans (.foldl (fun s b => steady_dropCopy s key b) s) (.of_parts rfl rfl rfl rfl rfl)

theorem steady_snapshot (s : State) (p cause fn status : Nat) (serial : Word) : Steady s (s.snapshot p cause fn status serial) := by
  unfold State.snapshot
  dsimp only
  split
  · refine Steady.trans ?_ (steady_emit _ _)
    exact steady_modPart s p (fun q => ⟨rfl, rfl, rfl, rfl, rfl⟩)
  · exact steady_modPart s p (fun q => ⟨rfl, rfl, rfl, rfl, rfl⟩)

theorem steady_finishCmd (s : State) (st : Nat) (res : Word) : Steady s (s.finishCmd st res) := .of_parts rfl rfl rfl rfl rfl

theorem steady_stopPart (s : State) (p : Nat) : Steady s (s.stopPart p) := by
  unfold State.stopPart
  dsimp only
  refine Steady.trans ?_ (.foldl (fun s c => steady_modCore s c _) _)
  exact steady_modPart s p (fun q => ⟨rfl, rfl, rfl, rfl, rfl⟩)

theorem steady_settleCmd (s : State) : Steady s s.settleCmd := by
  unfold State.settleCmd
  dsimp only
  split
  · exact .refl s
  · split
    · split
      · exact (steady_stopPart s _).trans (steady_finishCmd _ _ _)
      · exact steady_finishCmd s _ _
    · split
      · exact steady_finishCmd s _ _
      · exact .refl s

theorem steady_tellParent (s : State) (l : Launch) (bits : BitVec 512) : Steady s (s.tellParent l bits) := by
  unfold State.tellParent
  split
  · exact .refl s
  · exact .of_parts rfl rfl rfl rfl rfl
  · exact steady_post s _ _

theorem steady_complete (s : State) (i : Nat) (l : Launch) (status value : Nat) : Steady s (s.complete i l status value) := by
  have asked : Steady s (if l.reading then s.modCore (4100 + l.part) (fun co => co.dropFor (· == 8 + l.vf)) else s) := by
    split
    · exact steady_modCore s _ _
    · exact .refl s
  have shadow (t : State) : Steady t (if l.shadow = 0 then t
      else (t.keyBack (shadowKey l.part l.shadow)).discardShadow (shadowKey l.part l.shadow)) := by
    split
    · exact .refl t
    · exact (steady_keyBack t _).trans (steady_discardShadow _ _)
  have told (t : State) (bits : BitVec 512) : Steady t (if bitAt l.record.toNat 722 then t.tellParent l bits else t) := by
    split
    · exact steady_tellParent t l bits
    · exact .refl t
  have gone (t : State) (x : List (Nat × Launch)) : Steady t { t with launches := x } := .of_parts rfl rfl rfl rfl rfl
  unfold State.complete
  dsimp only
  refine Steady.trans (Steady.trans (Steady.trans ?_ (told _ _)) (gone _ _)) (steady_settleCmd _)
  exact (((asked.trans (shadow _)).trans (steady_snapshot _ _ _ _ _ _)).trans (steady_modVf _ _ _)).trans (steady_modVf _ _ _)

theorem steady_completeAll (s : State) (p : Nat) : Steady s (s.completeAll p) := by
  unfold State.completeAll
  refine .foldl (fun s l => ?_) s
  split
  · exact steady_complete s _ _ _ _
  · exact .refl s

theorem steady_dropSwitched (s : State) (p : Nat) : Steady s (s.dropSwitched p) := by
  unfold State.dropSwitched
  exact Steady.trans (.foldl (fun s r => steady_dropCopy s _ _) s) (.of_parts rfl rfl rfl rfl rfl)

theorem steady_clearCore (s : State) (c : Nat) : Steady s (s.clearCore c) := .of_parts rfl rfl rfl rfl rfl

theorem steady_retireCore (s : State) (c : Nat) : Steady s (s.retireCore c) := by
  unfold State.retireCore
  dsimp only
  split
  · exact .of_parts rfl rfl rfl rfl rfl
  · exact .refl s

/-- The snapshot of a reset, the clearing of the cores and the completion records leave the partition and the device as far as they matter to what
follows (R396 steps 4 and 5). -/
theorem steady_meterAndClear (s : State) (p : Nat) : Steady s (s.meterAndClear p) := by
  unfold State.meterAndClear
  dsimp only
  refine Steady.trans (Steady.trans ?_ (steady_completeAll _ p)) (steady_dropSwitched _ p)
  refine Steady.trans (Steady.trans (steady_snapshot s p 3 0 0 0) (Steady.foldl (fun s c => ?_) _)) (.of_parts rfl rfl rfl rfl rfl)
  exact (steady_clearCore s c).trans (steady_retireCore _ c)

/-! ## What a reset keeps -/

/-- No other partition than `p` is being reset. -/
def LastReset (p : Nat) (s : State) : Prop := ∀ r ∈ s.parts, r.1 ≠ p → r.2.resetKind = none

/-- What the reset of partition `p` keeps until the partition is created again or freed. -/
structure Remains (p : Nat) (s t : State) : Prop where
  pkg : t.pkg = s.pkg
  tripped : t.dev.tripped = s.dev.tripped
  clusters : (t.part p).clusters = (s.part p).clusters
  keyGen : (t.part p).keyGen = (s.part p).keyGen
  last : LastReset p s → LastReset p t

theorem Remains.trans {p : Nat} {s t u : State} (h : Remains p s t) (g : Remains p t u) : Remains p s u :=
  ⟨g.pkg.trans h.pkg, g.tripped.trans h.tripped, g.clusters.trans h.clusters, g.keyGen.trans h.keyGen, fun x => g.last (h.last x)⟩

theorem mem_of_mfind {α : Type} {m : Map α} {k : Nat} {v : α} (h : mfind m k = some v) : (k, v) ∈ m := by
  induction m with
  | nil => simp [mfind] at h
  | cons x t ih =>
    obtain ⟨i, w⟩ := x
    rw [mfind] at h
    split at h
    · simp_all
    · exact List.mem_cons_of_mem _ (ih h)

theorem lastReset_part {p q : Nat} {s : State} (h : LastReset p s) (other : q ≠ p) : (s.part q).resetKind = none := by
  unfold State.part mget
  cases found : mfind s.parts q with
  | none => rfl
  | some x => exact h _ (mem_of_mfind found) other

theorem Steady.remains {s t : State} (h : Steady s t) (p : Nat) : Remains p s t where
  pkg := h.pkg
  tripped := h.tripped
  clusters := (h.part p).1
  keyGen := (h.part p).2.1
  last last r hr other := by
    rcases h.entries r hr with old | ⟨-, -, -, -, same⟩
    · exact last r old other
    · exact same.trans (lastReset_part last other)

/-- A partition after a granule of number `g` has been initialised. -/
def withoutSpans (g : Nat) (q : Partition) : Partition :=
  { q with spans := q.spans.filter (fun x => !overlaps (granuleBase g) 0x4000000 x.pa x.len) }

theorem initGranule_parts (s : State) (g : Nat) : (s.initGranule g).parts = s.parts.map (fun r => (r.1, withoutSpans g r.2)) := rfl

theorem initGranule_part (s : State) (g p : Nat) : (s.initGranule g).part p = withoutSpans g (s.part p) := by
  rw [State.part, State.part, initGranule_parts, mget, mget, mfind_map]
  cases mfind s.parts p <;> rfl

theorem remains_initGranule (p : Nat) (s : State) (g : Nat) : Remains p s (s.initGranule g) := by
  refine ⟨rfl, rfl, by rw [initGranule_part]; rfl, by rw [initGranule_part]; rfl, fun last r hr other => ?_⟩
  rw [initGranule_parts] at hr
  obtain ⟨x, hx, rfl⟩ := List.mem_map.mp hr
  exact last x hx other

theorem remains_initGranules (p : Nat) (l : List Nat) (s : State) : Remains p s (l.foldl State.initGranule s) :=
  List.foldlRecOn l _ ((Steady.refl s).remains p) (fun t h g _ => h.trans (remains_initGranule p t g))

/-! ## The end of a thermal trip -/

/-- Two states agree on the partition and the monitor entry of every core. -/
def SameHolders (s t : State) : Prop := ∀ d, (t.core d).part = (s.core d).part ∧ (t.core d).mentry = (s.core d).mentry

theorem clearCore_holders (s : State) (c : Nat) : SameHolders s (s.clearCore c) := by
  intro d
  show ((s.setCore c _).core d).part = _ ∧ ((s.setCore c _).core d).mentry = _
  by_cases same : d = c
  · rw [same, core_setCore_self]; exact ⟨rfl, rfl⟩
  · rw [core_setCore_ne _ _ same]; exact ⟨rfl, rfl⟩

theorem clearCores_keep (l : List Nat) (s : State) :
    let t := l.foldl State.clearCore s
    t.parts = s.parts ∧ SameHolders s t :=
  List.foldlRecOn (motive := fun t : State => t.parts = s.parts ∧ SameHolders s t) l _ ⟨rfl, fun _ => ⟨rfl, rfl⟩⟩ (fun t ht c _ =>
    ⟨ht.1, fun d => ⟨((clearCore_holders t c d).1).trans (ht.2 d).1, ((clearCore_holders t c d).2).trans (ht.2 d).2⟩⟩)

theorem tripDone_keeps (s : State) : s.tripDone.parts = s.parts ∧ SameHolders s s.tripDone := by
  unfold State.tripDone
  split
  · exact clearCores_keep _ s
  · exact ⟨rfl, fun d => ⟨rfl, rfl⟩⟩

/-- The last reset of a trip takes the power (R452). -/
theorem tripDone_powered {s : State} (tripped : s.dev.tripped = true) (done : ∀ r ∈ s.parts, r.2.resetKind = none) :
    s.tripDone.dev.powered = false := by
  have all : s.parts.all (fun p => p.2.resetKind.isNone) = true := List.all_eq_true.mpr (fun r hr => by simp [done r hr])
  simp [State.tripDone, tripped, all]

end Sys2Proof.Proofs
end

section
/-! SUPPORT. A partition is freed or created again at the end of its reset (R396, R404): lemmas for the statement `NoticesAndReset`. -/

namespace Sys2Proof.Proofs

open Sys2Proof Sys2Proof.Machine Sys2Proof.Laws Sys2Proof.Claims

/-! ## A command ends and the map is measured -/

theorem finishReset_eq (s : State) (p : Nat) : ∃ r o, s.finishReset p = { s with root := r, out := o } := by
  unfold State.finishReset
  dsimp only
  split <;> exact ⟨_, _, rfl⟩

theorem extendMap_eq (s : State) : ∃ r, s.extendMap = { s with root := r } := by
  unfold State.extendMap State.extend
  split <;> exact ⟨_, rfl⟩

/-- What a partition, the device and the holders of the cores are once its reset is reported and a trip has ended. -/
theorem resetEnds (s : State) (p : Nat) :
    let u := (s.finishReset p).tripDone
    (∀ q, u.part q = s.part q) ∧ SameHolders s u
      ∧ (s.dev.tripped = true → (∀ r ∈ s.parts, r.2.resetKind = none) → u.dev.powered = false) := by
  obtain ⟨r, o, finished⟩ := finishReset_eq s p
  obtain ⟨parts, holders⟩ := tripDone_keeps (s.finishReset p)
  refine ⟨fun q => ?_, ?_, fun tripped done => tripDone_powered (by rw [finished]; exact tripped) (by rw [finished]; exact done)⟩
  · rw [part_of_parts parts, finished]; rfl
  · rw [finished] at holders ⊢
    exact holders

/-! ## A partition is freed -/

theorem SameOutside.parts {s t : State} (h : SameOutside s t) : t.parts = s.parts := by rw [h]

/-- What a partition held is freed (R404). -/
theorem freePart_frees (s : State) (p : Nat) :
    let u := s.freePart p
    u.part p = { Partition.init with keyGen := (s.part p).keyGen + 1 } ∧ u.dev = s.dev
      ∧ (∀ c ∈ (s.part p).cores, (u.core c).part = none) ∧ (LastReset p s → ∀ r ∈ u.parts, r.2.resetKind = none) := by
  unfold State.freePart
  dsimp only
  obtain ⟨r, measured⟩ := extendMap_eq (State.installKey _ p)
  rw [measured]
  have cores := sameOutside_foldl (s.part p).cores (fun s c => s.modCore c (fun co => { co with part := none, mentry := 0 }))
    (fun s c => sameOutside_modCore s c _) s
  refine ⟨mget_mset_self _ _ _ _, cores.dev, fun c hc => ?_, fun last r hr => ?_⟩
  · refine foldl_reaches (fun _ => True) (fun t => (t.core c).part = none) (fun s c => s.modCore c (fun co => { co with part := none, mentry := 0 })) hc
      (fun _ _ _ => trivial) ?_ ?_ trivial
    · intro t d ht
      by_cases same : c = d
      · rw [← same, core_modCore_self]
      · rwa [core_modCore_ne _ _ same]
    · intro t _
      rw [core_modCore_self]
  · rcases mem_mset hr with rfl | ⟨old, other⟩
    · rfl
    · exact last r (cores.parts ▸ old) other

/-! ## A partition is created again -/

/-- `t` differs from `s` in what memory holds, and in the numbers of packets. -/
def InMemory (s t : State) : Prop := t = { s with mem := t.mem, bad := t.bad, rows := t.rows, ctrs := t.ctrs, seqs := t.seqs }

theorem InMemory.refl (s : State) : InMemory s s := rfl

theorem InMemory.trans {s t u : State} (h : InMemory s t) (g : InMemory t u) : InMemory s u := Eq.trans g (by rw [h])

theorem InMemory.foldl {β : Type} {l : List β} {f : State → β → State} (hf : ∀ s x, InMemory s (f s x)) (s : State) : InMemory s (l.foldl f s) :=
  List.foldlRecOn l f (.refl s) (fun t h x _ => h.trans (hf t x))

theorem inMemory_putBytes (s : State) (a : Nat) (b : List Byte) : InMemory s (s.putBytes a b) := by
  obtain ⟨m, r, k, h⟩ := putBytes_eq s a b
  rw [h]; rfl

theorem inMemory_putNum (s : State) (a n v : Nat) : InMemory s (s.putNum a n v) := inMemory_putBytes s a _

theorem inMemory_touchRange (s : State) (a n : Nat) : InMemory s (s.touchRange a n) := by
  obtain ⟨r, k, h⟩ := touchRange_eq s a n
  rw [h]; rfl

theorem inMemory_traffic (s : State) (unit home p : Nat) : InMemory s (s.traffic unit home p) := rfl

theorem inMemory_writeTable (s : State) (unit p o : Nat) (l : List RightsEntry) : InMemory s (s.writeTable unit p o l) := by
  unfold State.writeTable
  dsimp only
  refine InMemory.trans (InMemory.trans (InMemory.trans (InMemory.trans ?_ (inMemory_touchRange _ _ _)) (inMemory_touchRange _ _ _))
    (inMemory_traffic _ _ _ _)) (inMemory_traffic _ _ _ _)
  rfl

theorem inMemory_describe (s : State) (p : Nat) : InMemory s (s.describe p) := by
  unfold State.describe
  exact .foldl (fun s x => inMemory_putNum s _ _ _) s

theorem inMemory_buildHome (s : State) (p : Nat) : InMemory s (s.buildHome p) := by
  unfold State.buildHome
  dsimp only
  refine InMemory.trans (InMemory.trans (InMemory.trans ?_ (inMemory_putNum _ _ _ _)) (inMemory_writeTable _ _ _ _ _)) (inMemory_describe _ p)
  exact .foldl (fun s x => inMemory_putNum s _ _ _) s

theorem snapshot_eq (s : State) (p cause fn status : Nat) (serial : Word) : ∃ o h, s.snapshot p cause fn status serial
    = { s.modPart p (fun q => { q with whead := h, wseq := q.wseq + 1 }) with out := o } := by
  unfold State.snapshot
  dsimp only
  split <;> exact ⟨_, _, rfl⟩

/-- A core becomes one of partition `p`, with the first entry of its monitor: a step of `State.startMonitor`. -/
def enterMonitor (p : Nat) (s : State) (c : Nat) : State :=
  s.modCore c (fun co => { co with part := some p, mentry := firstEntry s.pkg })

theorem enterMonitor_self (p : Nat) (s : State) (c : Nat) :
    ((enterMonitor p s c).core c).mentry = firstEntry s.pkg ∧ ((enterMonitor p s c).core c).part = some p := by
  rw [enterMonitor, core_modCore_self]
  exact ⟨rfl, rfl⟩

/-- The monitor starts: every core of the partition is its, with the first entry (R344, R404). -/
theorem startMonitor_starts (s : State) (p : Nat) :
    let u := s.startMonitor p
    u.parts = s.parts ∧ u.dev = s.dev ∧ ∀ c ∈ (s.part p).cores, (u.core c).mentry = firstEntry s.pkg ∧ (u.core c).part = some p := by
  have outside : SameOutside s ((s.part p).cores.foldl (enterMonitor p) s) := sameOutside_foldl _ (enterMonitor p) (fun s c => sameOutside_modCore s c _) s
  have holds (c : Nat) (hc : c ∈ (s.part p).cores) : ((((s.part p).cores.foldl (enterMonitor p) s).core c).mentry = firstEntry s.pkg
      ∧ (((s.part p).cores.foldl (enterMonitor p) s).core c).part = some p) ∧ ((s.part p).cores.foldl (enterMonitor p) s).pkg = s.pkg := by
    refine foldl_reaches (fun t => t.pkg = s.pkg) (fun t => ((t.core c).mentry = firstEntry s.pkg ∧ (t.core c).part = some p) ∧ t.pkg = s.pkg)
      (enterMonitor p) hc
      (fun _ _ h => h) ?_ ?_ rfl
    · rintro t d ⟨ht, pkg⟩
      refine ⟨?_, pkg⟩
      by_cases same : c = d
      · rw [← same, ← pkg]; exact enterMonitor_self p t c
      · rwa [enterMonitor, core_modCore_ne _ _ same]
    · intro t pkg
      exact ⟨pkg ▸ enterMonitor_self p t c, pkg⟩
  unfold State.startMonitor
  dsimp only
  split
  next d rest _ _ =>
    refine ⟨outside.parts, outside.dev, fun c hc => ?_⟩
    have own := (holds c hc).1
    by_cases same : c = d
    · subst same
      show ((State.modCore _ c _).core c).mentry = _ ∧ ((State.modCore _ c _).core c).part = _
      rw [core_modCore_self]
      exact own
    · show ((State.modCore _ d _).core c).mentry = _ ∧ ((State.modCore _ d _).core c).part = _
      rw [core_modCore_ne _ _ same]
      exact own
  · exact ⟨outside.parts, outside.dev, fun c hc => (holds c hc).1⟩

theorem modPart_modPart (s : State) (p : Nat) (f g : Partition → Partition) :
    ((s.modPart p f).modPart p g).parts = (s.modPart p (fun q => g (f q))).parts := by
  show mset (mset s.parts p (f (s.part p))) p (g ((s.modPart p f).part p)) = _
  rw [part_modPart_self, mset_mset]
  rfl

theorem modPart_parts_congr {s t : State} (h : t.parts = s.parts) (p : Nat) (f : Partition → Partition) :
    (t.modPart p f).parts = (s.modPart p f).parts := by
  simp only [State.modPart, State.part, h]

/-- What a partition is created with, its home granule being built: the state before its monitor starts. -/
theorem createPart_eq (s : State) (p : Nat) (b : List Byte) : ∃ (w : State) (h : BitVec 384), s.createPart p b = w.startMonitor p
    ∧ w.parts = (s.modPart p (fun q => { q.afresh b with whead := h, wseq := 0 + 1 })).parts ∧ w.dev = s.dev ∧ w.pkg = s.pkg := by
  have built (t : State) (a : Nat) : InMemory t ((t.putBytes a b).buildHome p) := (inMemory_putBytes t a b).trans (inMemory_buildHome _ p)
  have rest (t : State) : ∃ h, (((t.snapshot p 0 0 0 0).extendMap).parts = (t.modPart p (fun q => { q with whead := h, wseq := q.wseq + 1 })).parts)
      ∧ ((t.snapshot p 0 0 0 0).extendMap).dev = t.dev ∧ ((t.snapshot p 0 0 0 0).extendMap).pkg = t.pkg := by
    obtain ⟨o, h, snap⟩ := snapshot_eq t p 0 0 0 0
    obtain ⟨r, map⟩ := extendMap_eq (t.snapshot p 0 0 0 0)
    rw [map, snap]
    exact ⟨h, rfl, rfl, rfl⟩
  unfold State.createPart
  dsimp only
  obtain ⟨h, parts, dev, pkg⟩ := rest (State.buildHome _ p)
  refine ⟨_, h, rfl, ?_, ?_, ?_⟩
  · refine parts.trans ((modPart_parts_congr (s := s.modPart p (fun q => q.afresh b)) ?_ p _).trans (modPart_modPart s p (fun q => q.afresh b) _))
    rw [built]
    rfl
  · rw [dev, built]
    rfl
  · rw [pkg, built]
    rfl

/-- What a partition is created again with (R396 step 7, R404). -/
theorem createPart_creates (s : State) (p : Nat) (b : List Byte) :
    let u := s.createPart p b
    ((u.part p).pstate = .stopped ∧ (u.part p).clusters = (s.part p).clusters ∧ (u.part p).monMeas = monitorMeasure b
        ∧ (u.part p).keyGen = (s.part p).keyGen + 1 ∧ (u.part p).spans = [] ∧ (u.part p).serial = 0)
      ∧ u.dev = s.dev ∧ (∀ c ∈ (s.part p).cores, (u.core c).mentry = firstEntry s.pkg ∧ (u.core c).part = some p)
      ∧ (LastReset p s → ∀ r ∈ u.parts, r.2.resetKind = none) := by
  obtain ⟨w, h, create, parts, dev, pkg⟩ := createPart_eq s p b
  obtain ⟨started, device, cores⟩ := startMonitor_starts w p
  have final (q : Nat) : (w.startMonitor p).part q = (s.modPart p (fun q => { q.afresh b with whead := h, wseq := 0 + 1 })).part q :=
    part_of_parts (started.trans parts) q
  have own := (final p).trans (part_modPart_self s p _)
  have clusters : (w.part p).clusters = (s.part p).clusters := by
    rw [part_of_parts parts, part_modPart_self]; rfl
  have same : (w.part p).cores = (s.part p).cores := by rw [Partition.cores, clusters]; rfl
  rw [create]
  refine ⟨?_, device.trans dev, fun c hc => ?_, fun last r hr => ?_⟩
  · rw [own]
    exact ⟨rfl, rfl, rfl, rfl, rfl, rfl⟩
  · have entered := cores c (by rwa [same])
    rwa [pkg] at entered
  · rw [started, parts] at hr
    rcases mem_mset hr with rfl | ⟨old, other⟩
    · rfl
    · exact last r old other

end Sys2Proof.Proofs
end

section
/-! SUPPORT. The end of a reset (R396), and the statement `NoticesAndReset`. -/

namespace Sys2Proof.Proofs

open Sys2Proof Sys2Proof.Machine Sys2Proof.Laws Sys2Proof.Claims

/-! ## The end of a reset -/

section
variable {s : State} {p : Nat}

theorem cores_of_clusters {q r : Partition} (h : r.clusters = q.clusters) : r.cores = q.cores := by rw [Partition.cores, h]; rfl

theorem execResetDrainComplete_teardown (drained : s.drainedPart p = true) (kind : (s.part p).resetKind = some true) :
    execResetDrainComplete p none s = .next (((s.meterAndClear p).freePart p).finishReset p).tripDone := by
  unfold execResetDrainComplete
  dsimp only
  rw [kind]
  dsimp only
  rw [drained, if_pos rfl]

theorem execResetDrainComplete_reset (drained : s.drainedPart p = true) (b : List Byte) (kind : (s.part p).resetKind = some false)
    (whole : b.length = (s.part p).imageLen) :
    execResetDrainComplete p (some b) s
      = .next ((((s.part p).granules.foldl State.initGranule (s.meterAndClear p)).createPart p b).finishReset p).tripDone := by
  unfold execResetDrainComplete
  dsimp only
  rw [kind]
  dsimp only
  rw [if_neg (by simp [drained, whole])]

/-- A partition that is torn down is free once it has drained (R396, R404). -/
theorem teardown_frees (drained : s.drainedPart p = true) (kind : (s.part p).resetKind = some true) :
    ∃ u, exec (.resetDrainComplete p none) s = .next u ∧ (u.part p).pstate = .free
      ∧ (u.part p).clusters = [] ∧ (u.part p).granules = [] ∧ (∀ c ∈ (s.part p).cores, (u.core c).part = none)
      ∧ (s.dev.tripped = true ∧ LastReset p s → u.dev.powered = false) := by
  have cleared := (steady_meterAndClear s p).remains p
  obtain ⟨part, dev, cores, last⟩ := freePart_frees (s.meterAndClear p) p
  obtain ⟨kept, holders, off⟩ := resetEnds ((s.meterAndClear p).freePart p) p
  refine ⟨_, execResetDrainComplete_teardown drained kind, ?_, ?_, ?_, fun c hc => ?_, fun ⟨tripped, alone⟩ => ?_⟩
  · rw [kept, part]; rfl
  · rw [kept, part]; rfl
  · rw [kept, part]; rfl
  · rw [(holders c).1, cores c (by rwa [cores_of_clusters cleared.clusters])]
  · exact off (by rw [dev, cleared.tripped, tripped]) (last (cleared.last alone))

/-- A partition that is reset is created again once it has drained, from the image that the host's memory gives (R396 steps 3 to 7). -/
theorem reset_creates (drained : s.drainedPart p = true) (b : List Byte) (kind : (s.part p).resetKind = some false)
    (whole : b.length = (s.part p).imageLen) :
    ∃ u, exec (.resetDrainComplete p (some b)) s = .next u
      ∧ (u.part p).pstate = .stopped ∧ (u.part p).clusters = (s.part p).clusters ∧ (u.part p).monMeas = monitorMeasure b
      ∧ (u.part p).keyGen = (s.part p).keyGen + 1 ∧ (u.part p).spans = [] ∧ (u.part p).serial = 0
      ∧ (∀ c ∈ (s.part p).cores, (u.core c).mentry = firstEntry s.pkg ∧ (u.core c).part = some p)
      ∧ (s.dev.tripped = true ∧ LastReset p s → u.dev.powered = false) := by
  have ready := ((steady_meterAndClear s p).remains p).trans (remains_initGranules p (s.part p).granules (s.meterAndClear p))
  obtain ⟨⟨pstate, clusters, meas, key, spans, serial⟩, dev, cores, last⟩ :=
    createPart_creates ((s.part p).granules.foldl State.initGranule (s.meterAndClear p)) p b
  obtain ⟨kept, holders, off⟩ := resetEnds (((s.part p).granules.foldl State.initGranule (s.meterAndClear p)).createPart p b) p
  refine ⟨_, execResetDrainComplete_reset drained b kind whole, by rw [kept, pstate], by rw [kept, clusters, ready.clusters], by rw [kept, meas], by rw [kept, key, ready.keyGen],
    by rw [kept, spans], by rw [kept, serial], fun c hc => ?_, fun ⟨tripped, alone⟩ => ?_⟩
  · obtain ⟨mentry, part⟩ := cores c (by rwa [cores_of_clusters ready.clusters])
    rw [(holders c).1, (holders c).2, mentry, part, ready.pkg]
    exact ⟨rfl, rfl⟩
  · exact off (by rw [dev, ready.tripped, tripped]) (last (ready.last alone))

end

/-- Settles O55, clause by clause. -/
theorem noticesAndReset : Obligations.NoticesAndReset := by
  unfold Obligations.NoticesAndReset
  intro s
  refine ⟨?_, ?_, ?_, ?_, ?_, ?_, ?_⟩
  · intro c k ix f x e hx he hp ready
    exact noticePost_answers hx he hp ready
  · intro f e rest v n waits rdy enabled ee
    exact eventEntryWrite_places waits rdy enabled ee
  · intro a lvl b
    exact patrolScrub_finds s a lvl b
  · intro p x rest q w r a waits none lives room
    exact poisonNotice_writes waits none lives room
  · intro p c k v pc rest l q powered due live lives chosen
    exact noticeTrap_traps powered due live lives chosen
  · intro c p f fault part
    exact monitorFaultReport_fences fault part
  · intro p drained last
    exact ⟨fun kind => teardown_frees drained kind, fun b kind whole => reset_creates drained b kind whole⟩

end Sys2Proof.Proofs
end

section
/-! SUPPORT. A running string that is chosen to issue executes what its bytes decode to (R253, R376), and the statement `StepRunsDecoded`. -/

namespace Sys2Proof.Proofs

open Sys2Proof Sys2Proof.Machine Sys2Proof.Laws Sys2Proof.Claims

/-! ## The step of a chosen string -/

/-- A chosen move is the one that is made. -/
theorem step_of_turn {s : State} {m : Turn} (chosen : s.turn = some m) :
    step s = makeMove m { s with turn := none, tick := s.tick + 1 } := by
  simp only [step, nextMove, chosen]

section
variable {s s2 : State} {c k : Nat} {b : List Byte}

/-- A string that runs and is not held performs the instruction that its bytes name. -/
theorem issue_decoded {i : Instr} {r : List Byte} (hc : c ≤ 4096) (hk : k < 4) (run : (s.str c k).run = .running)
    (free : (s.str c k).held = false) (got : fetch { s with cur := (c, k) } = .ok (b, s2)) (named : decode b = .ok (i, r)) :
    issue c k s = exec i (State.afterFetch { s with cur := (c, k) } s2) := by
  have goes : ¬((s.str c k).run ≠ .running ∨ (s.str c k).held = true) := by simp [run, free]
  have here : ({ s with cur := (c, k) } : State).curStr = s.str c k := rfl
  simp only [issue, here, if_neg (show ¬(4096 < c ∨ 4 ≤ k) by omega), if_neg goes, got, named]

/-- Where they name none, it raises ILLEGAL (R253). -/
theorem issue_undecoded {e} (hc : c ≤ 4096) (hk : k < 4) (run : (s.str c k).run = .running)
    (free : (s.str c k).held = false) (got : fetch { s with cur := (c, k) } = .ok (b, s2)) (none : decode b = .error e) :
    issue c k s = execIllegalEncoding (BitVec.ofNat 32 (leNat b)) (State.afterFetch { s with cur := (c, k) } s2) := by
  have goes : ¬((s.str c k).run ≠ .running ∨ (s.str c k).held = true) := by simp [run, free]
  have here : ({ s with cur := (c, k) } : State).curStr = s.str c k := rfl
  simp only [issue, here, if_neg (show ¬(4096 < c ∨ 4 ≤ k) by omega), if_neg goes, got, none]

end

/-- A word that names no instruction faults with ILLEGAL, with no load outstanding. -/
theorem execIllegalEncoding_ready {s : State} (w : BitVec 32) (quiet : s.curStr.lds = []) :
    execIllegalEncoding w s = .next (s.fault { code := 0x01, detail := 0, val := 0 }) := by
  simp [execIllegalEncoding, runInstr, quiet]

/-! ## What a step adds to its fetch (R73) -/

theorem afterFetch_first {s : State} (s2 : State) (first : s.curStr.routed = false) :
    s.afterFetch s2 = s2.setCurStr { s2.curStr with routed := true } := by
  simp only [State.afterFetch, first]

theorem afterFetch_again {s : State} (s2 : State) {p : Nat} (again : s.curStr.routed = true) (part : (s.core s.cur.1).part = some p) :
    s.afterFetch s2 = s2.modPart p (fun q => { q with meters := q.meters.set 14 (s.part p).meters[14] }) := by
  simp only [State.afterFetch, again, part]

/-- Whatever it adds, it leaves the loads of the string as they are. -/
theorem afterFetch_lds (s s2 : State) : (s.afterFetch s2).curStr.lds = s2.curStr.lds := by
  unfold State.afterFetch
  split
  · rfl
  · rw [curStr_setCurStr]

/-- Settles O4, by what `issue` does with the bytes of its fetch. -/
theorem stepRunsDecoded : Obligations.StepRunsDecoded := by
  unfold Obligations.StepRunsDecoded
  intro s s2 c k b s1 chosen hc hk run rights host got
  have free : (s.str c k).held = false := by rw [Str.held, rights, host]; rfl
  have moved : step s = issue c k { s with turn := none, tick := s.tick + 1 } := step_of_turn chosen
  refine ⟨s1.afterFetch s2, fun i r named => ?_, fun e none quiet => ?_, fun first => ?_, fun again p part => ?_⟩
  · rw [moved]
    exact issue_decoded hc hk run free got named
  · have raised := issue_undecoded (s := { s with turn := .none, tick := s.tick + 1 }) hc hk run free got none
    rw [moved, raised]
    exact execIllegalEncoding_ready _ ((afterFetch_lds s1 s2).trans quiet)
  · exact afterFetch_first s2 first
  · rw [afterFetch_again (s := s1) s2 again part, part_modPart_self]
    refine ⟨?_, rfl, fun q other => part_modPart_ne _ _ other, _, rfl⟩
    exact Vector.getElem_set_self _

end Sys2Proof.Proofs
end

section
/-! SUPPORT. What writing a control register does (R336 to R342), and the statement `ControlRegisterWrites`. -/

namespace Sys2Proof.Proofs

open Sys2Proof Sys2Proof.Machine Sys2Proof.Laws Sys2Proof.Claims

/-! ## What passing cycles leave of the executing core's launches and functions -/

theorem elapse_core_self (s : State) (c : Nat) (i : Bool) (l : Option Nat) (n : Nat) :
    (s.elapse c i l n).core c = (s.core c).pass (s.liveOn c) i l n := by
  unfold State.elapse
  dsimp only
  split <;> simp

theorem mfind_chargeLaunch {res : List (Nat × OnCore)} {l : Nat} {o : OnCore} (on : mfind res l = some o) (i : Option Nat) (u : Nat) :
    ∃ w, mfind (chargeLaunch res i u) l = some { o with wearu := w } := by
  unfold chargeLaunch
  split
  · rename_i j
    split
    · rename_i x found
      by_cases same : l = j
      · subst same
        obtain rfl : o = x := Option.some.inj (on.symm.trans found)
        exact ⟨_, mfind_mset_self _ _ _⟩
      · exact ⟨_, (mfind_mset_ne _ _ same).trans on⟩
    · exact ⟨_, on⟩
  · exact ⟨_, on⟩

/-- Of a launch on the core, only the wear changes. -/
theorem pass_on {co : Core} {l : Nat} {o : OnCore} (on : co.on l = some o) (live : List Nat) (i : Bool) (x : Option Nat) (n : Nat) :
    ∃ w, (co.pass live i x n).on l = some { o with wearu := w } := by
  obtain ⟨v, first⟩ := mfind_chargeLaunch on x ((if i then Nat.min 1 n else 0) * (if co.busy then co.wear.stress.toNat * 256 else 0))
  exact mfind_chargeLaunch first co.lowest _

/-- A change of every entry that keeps their numbers. -/
theorem mfind_map_entries {α : Type} {g : Nat × α → Nat × α} (number : ∀ q, (g q).1 = q.1) (m : Map α) (k : Nat) :
    mfind (m.map g) k = (mfind m k).map (fun v => (g (k, v)).2) := by
  induction m with
  | nil => rfl
  | cons q t ih =>
    obtain ⟨i, v⟩ := q
    by_cases h : i = k
    · subst h
      simp [mfind, number]
    · simp [mfind, number, h, ih]

/-- What a function allows of atomics stays as it is. -/
theorem pass_amofb (co : Core) (live : List Nat) (i : Bool) (x : Option Nat) (n f : Nat) :
    ((co.pass live i x n).vfc f).amofb = (co.vfc f).amofb := by
  simp only [Core.pass, Core.vfc, mget]
  rw [mfind_map_entries (fun q => by split_ifs <;> rfl)]
  cases mfind co.vfs f with
  | none => rfl
  | some v =>
    rw [Option.map_some, Option.getD_some, Option.getD_some]
    split_ifs <;> rfl

theorem modOn_core_self {s : State} {c l : Nat} {o : OnCore} (on : (s.core c).on l = some o) (f : OnCore → OnCore) :
    (s.modOn c l f).core c = { s.core c with res := mset (s.core c).res l (f o) } := by
  simp [State.modOn, on]

theorem curCore_setCurStr (s : State) (t : Str) : (s.setCurStr t).curCore = s.curCore.setStr s.cur.2 t :=
  core_modCore_self s s.cur.1 _

/-- An instruction of the launch counts as it retires; what else a core holds of the launch stays, but for its wear (R337, R442). -/
theorem retireTo_on {s : State} {l : Nat} {o : OnCore} (launch : s.curStr.launch = some l) (on : s.curCore.on l = some o) (pc : Word) :
    ∃ w, (s.retireTo pc).curCore.on l = some { o with opcnt := o.opcnt + 1, wearu := w } := by
  have before (t : Str) : (((s.setCurStr t).modCore s.cur.1 (fun co => co.dropMisses s.cur.2)).core s.cur.1).on l = some o := by
    rw [core_modCore_self, State.setCurStr, State.setStr, core_modCore_self]
    exact on
  rw [State.curCore, retireTo_cur]
  simp only [State.retireTo, launch, State.pass, elapse_core_self, modOn_core_self (before _)]
  refine pass_on (o := o.count) ?_ _ _ _ _
  exact mfind_mset_self _ _ _

theorem retireTo_amofb (s : State) (pc : Word) (f : Nat) : ((s.retireTo pc).curCore.vfc f).amofb = (s.curCore.vfc f).amofb := by
  have before (t : Str) : (((s.setCurStr t).modCore s.cur.1 (fun co => co.dropMisses s.cur.2)).core s.cur.1).vfs = s.curCore.vfs := by
    rw [core_modCore_self, State.setCurStr, State.setStr, core_modCore_self]
    rfl
  rw [State.curCore, retireTo_cur]
  simp only [State.retireTo, State.pass]
  rw [elapse_core_self, pass_amofb, Core.vfc]
  split
  · rename_i l _
    obtain ⟨r, kept⟩ := modOn_core ((s.setCurStr { s.curStr with pc := pc, inHand := [], wait := .none, routed := false }).modCore s.cur.1
      (fun co => co.dropMisses s.cur.2)) s.cur.1 l OnCore.count s.cur.1
    rw [kept, before]
    rfl
  · rw [before]
    rfl

theorem retireTo_mentry (s : State) (pc : Word) : (s.retireTo pc).curCore.mentry = s.curCore.mentry := by
  obtain ⟨t, m, r, y, v, w, kept⟩ := retireTo_core s pc s.cur.1
  rw [State.curCore, retireTo_cur, kept]
  rfl

/-- The bits of a line address (R340). -/
theorem clearLow_toNat (a : Word) : (a &&& 0xFFFFFFFFFFFFFFC0).toNat = a.toNat / 64 * 64 := by
  have shifted : a &&& (0xFFFFFFFFFFFFFFC0 : Word) = (a >>> 6 <<< 6 : Word) := by
    have mask : ∀ j : Fin 64, (0xFFFFFFFFFFFFFFC0 : Word)[j] = decide (6 ≤ j.val) := by decide
    ext i hi
    have bit : (0xFFFFFFFFFFFFFFC0 : Word)[i] = decide (6 ≤ i) := mask ⟨i, hi⟩
    rw [BitVec.getElem_and, bit, BitVec.getElem_shiftLeft, BitVec.getElem_ushiftRight]
    by_cases low : i < 6
    · simp [low]
    · simp [low, Nat.not_lt.mp low, Nat.add_sub_cancel' (Nat.not_lt.mp low), BitVec.getLsbD_eq_getElem hi]
  have small := a.isLt
  rw [shifted, BitVec.toNat_shiftLeft, BitVec.toNat_ushiftRight, Nat.shiftLeft_eq, Nat.shiftRight_eq_div_pow]
  omega

theorem retireTo_getX (s : State) (pc : Word) (r : XReg) : (s.retireTo pc).curStr.getX r = s.curStr.getX r := by
  rw [retireTo_curStr]
  rfl

/-! ## A write of a control register -/

/-- A write of PRIV (R338; log 20). -/
theorem setPp_eq (t : Str) (c : Nat) (v : Word) : t.setPp (c == 4096) v
    = { t with pp := if v.extractLsb' 8 2 = 3 ∨ v.extractLsb' 8 2 = 2 ∧ c ≠ 4096 then t.pp else v.extractLsb' 8 2 } := by
  have root : (!(c == 4096)) = true ↔ c ≠ 4096 := by simp
  simp only [Str.setPp, root]
  split <;> rfl

section
variable {s : State} {rd ra : XReg} {n : BitVec 12} {f : Str → Word → Word}

/-- What the executing string writes, and what its core and its launch hold then. -/
def csrWritten (s : State) (n : Nat) (v : Word) : State := (s.setCurStr (s.curStr.setCsr (s.cur.1 == 4096) n v)).setSharedCsr n v

/-- A write that the string's mode may make, of a register that both modes or the monitor alone may write, is made, and the old value returned
(R336, R337). -/
theorem csrInstr_writes (quiet : Quiet s) (defined : csrDefined n = true) (writes : csrMonitorWrites n.toNat = true)
    (mode : s.curStr.lvl ≠ 0 ∨ (csrHidden n.toNat || !csrUserWrites n.toNat) = false)
    (owner : n.toNat = 0 → (f s.curStr (s.csr n.toNat)).toNat < s.ownLimit s.cur.1) :
    let w := csrWritten s n.toNat (f s.curStr (s.csr n.toNat))
    runInstr (csrInstr rd ra n (some f)) s = .next (w.setCurStr (w.curStr.setX rd (s.csr n.toNat))).retire := by
  have settled := run_settle_ready (if n = 0x011 then flagReg :: xRegs [rd, ra] else xRegs [rd, ra]) s quiet
  have allowed : (decide (s.curStr.lvl = 0) && (csrHidden n.toNat || !csrUserWrites n.toNat)) = false := by
    rcases mode with monitor | user
    · rw [decide_eq_false monitor]; rfl
    · rw [user, Bool.and_false]
  have inLimit : ¬(n.toNat = 0 ∧ s.ownLimit s.cur.1 ≤ (f s.curStr (s.csr n.toNat)).toNat) := fun h => Nat.not_le.mpr (owner h.1) h.2
  have run : (csrInstr rd ra n (some f)).run s = .ok (.step, (csrWritten s n.toNat (f s.curStr (s.csr n.toNat))).setCurStr
      ((csrWritten s n.toNat (f s.curStr (s.csr n.toNat))).curStr.setX rd (s.csr n.toNat))) := by
    unfold csrInstr
    rw [run_bind_ok settled, run_bind_ok (StateT.run_get s)]
    simp only [defined, Option.isSome_some, Bool.true_and, allowed, writes, if_neg inLimit, Bool.not_true, Bool.false_eq_true, if_false, if_true]
    rfl
  simp only [runInstr, run]

/-- No other register than these four stands outside the string. -/
theorem setSharedCsr_own {k : Nat} (own : k ∉ [0x022, 0x048, 0x053, 0x060]) (v : Word) : s.setSharedCsr k v = s := by
  unfold State.setSharedCsr
  split <;> simp_all

/-- A register of the string itself takes the value, and the old one is returned. -/
theorem csrInstr_writesOwn (quiet : Quiet s) (defined : csrDefined n = true) (writes : csrMonitorWrites n.toNat = true)
    (mode : s.curStr.lvl ≠ 0 ∨ (csrHidden n.toNat || !csrUserWrites n.toNat) = false)
    (owner : n.toNat = 0 → (f s.curStr (s.csr n.toNat)).toNat < s.ownLimit s.cur.1) (own : n.toNat ∉ [0x022, 0x048, 0x053, 0x060]) :
    runInstr (csrInstr rd ra n (some f)) s = .next (s.setCurStr
      ((s.curStr.setCsr (s.cur.1 == 4096) n.toNat (f s.curStr (s.csr n.toNat))).setX rd (s.csr n.toNat))).retire := by
  rw [csrInstr_writes quiet defined writes mode owner, csrWritten, setSharedCsr_own own, setCurStr_setCurStr, curStr_setCurStr]

/-- The registers that either mode writes are such ones. -/
theorem csrInstr_writesUser (quiet : Quiet s) (user : csrUserWrites n.toNat = true) :
    runInstr (csrInstr rd ra n (some f)) s = .next (s.setCurStr
      ((s.curStr.setCsr (s.cur.1 == 4096) n.toNat (f s.curStr (s.csr n.toNat))).setX rd (s.csr n.toNat))).retire := by
  have each : ∀ k ∈ [0x010, 0x011, 0x012, 0x013, 0x014, 0x020, 0x021, 0x023], csrNumbers.contains k = true ∧ csrMonitorWrites k = true
      ∧ (csrHidden k || !csrUserWrites k) = false ∧ k ≠ 0 ∧ k ∉ [0x022, 0x048, 0x053, 0x060] := by decide
  obtain ⟨defined, writes, mode, other, own⟩ := each n.toNat (List.contains_iff_mem.mp user)
  exact csrInstr_writesOwn quiet defined writes (.inr mode) (fun zero => absurd zero other) own

/-- In monitor mode the registers of the string that the monitor alone writes are such ones too. -/
theorem csrInstr_writesMonitor (quiet : Quiet s) (monitor : s.curStr.lvl ≠ 0) (listed : n.toNat ∈ [0x000, 0x001, 0x050, 0x051, 0x052])
    (owner : n.toNat = 0 → (f s.curStr (s.csr n.toNat)).toNat < s.ownLimit s.cur.1) :
    runInstr (csrInstr rd ra n (some f)) s = .next (s.setCurStr
      ((s.curStr.setCsr (s.cur.1 == 4096) n.toNat (f s.curStr (s.csr n.toNat))).setX rd (s.csr n.toNat))).retire := by
  have each : ∀ k ∈ [0x000, 0x001, 0x050, 0x051, 0x052], csrNumbers.contains k = true ∧ csrMonitorWrites k = true
      ∧ k ∉ [0x022, 0x048, 0x053, 0x060] := by decide
  obtain ⟨defined, writes, own⟩ := each n.toNat listed
  exact csrInstr_writesOwn quiet defined writes (.inl monitor) owner own

/-- A value of OWNER that the partition does not have faults with ILLEGAL (R42, R339). -/
theorem csrw_owner_faults (quiet : Quiet s) (monitor : s.curStr.lvl ≠ 0) (beyond : s.ownLimit s.cur.1 ≤ (s.curStr.getX ra).toNat) :
    Faults (.csrw rd ra 0x000) s 0x01 0 0 := by
  have run : (csrInstr rd ra 0x000 (some (fun t _ => t.getX ra))).run s = .error (.fault { code := 0x01, detail := 0, val := 0 }) := by
    unfold csrInstr
    rw [run_bind_ok (run_settle_ready _ s quiet), run_bind_ok (StateT.run_get s)]
    have limit : (0x000 : BitVec 12).toNat = 0x000 ∧ s.ownLimit s.cur.1 ≤ (s.curStr.getX ra).toNat := ⟨rfl, beyond⟩
    have defined : csrDefined 0x000 = true := rfl
    simp only [defined, decide_eq_false monitor, Bool.false_and, Bool.not_true, Bool.false_eq_true, if_false]
    rw [if_pos limit, run_raise]
  rw [Faults, exec_csrw, execCsrw]
  simp only [runInstr, run]
  exact faultDue_ready s _ quiet

/-! ## The registers outside the string -/

theorem setSharedCsr_mxcorr {l : Nat} (launch : s.curStr.launch = some l) (v : Word) :
    s.setSharedCsr 0x022 v = s.modOn s.cur.1 l (fun o => { o with mxcorr := v.extractLsb' 0 32 }) := by
  simp only [State.setSharedCsr, launch]

theorem setSharedCsr_opcnt {l : Nat} (launch : s.curStr.launch = some l) (v : Word) :
    s.setSharedCsr 0x048 v = s.modOn s.cur.1 l (fun o => { o with opcnt := v }) := by
  simp only [State.setSharedCsr, launch]

/-- The string as it is, with the old value in `rd`, retires in the state that the write of the register leaves. -/
theorem csrw_shared (quiet : Quiet s) (monitor : s.curStr.lvl ≠ 0) (shared : n.toNat ∈ [0x022, 0x048, 0x053, 0x060]) :
    let w := (s.setCurStr s.curStr).setSharedCsr n.toNat (s.curStr.getX ra)
    exec (.csrw rd ra n) s = .next (w.setCurStr (w.curStr.setX rd (s.csr n.toNat))).retire := by
  have each : ∀ k ∈ [0x022, 0x048, 0x053, 0x060], csrNumbers.contains k = true ∧ csrMonitorWrites k = true ∧ k ≠ 0 := by decide
  obtain ⟨defined, writes, other⟩ := each n.toNat shared
  have same : s.curStr.setCsr (s.cur.1 == 4096) n.toNat (s.curStr.getX ra) = s.curStr := by
    unfold Str.setCsr
    split <;> simp_all
  have run := csrInstr_writes (rd := rd) (ra := ra) (f := fun t _ => t.getX ra) quiet defined writes (.inl monitor) (fun zero => absurd zero other)
  rwa [csrWritten, same] at run

/-- A write to a register that a launch holds changes the launch on the executing core, before the instruction counts there. -/
theorem csrw_launch {l : Nat} {o : OnCore} {g : OnCore → OnCore} (quiet : Quiet s) (monitor : s.curStr.lvl ≠ 0)
    (launch : s.curStr.launch = some l) (on : s.curCore.on l = some o) (shared : n.toNat ∈ [0x022, 0x048, 0x053, 0x060])
    (changes : ∀ x : State, x.curStr.launch = some l → x.setSharedCsr n.toNat (s.curStr.getX ra) = x.modOn x.cur.1 l g) :
    ∃ u w, exec (.csrw rd ra n) s = .next u ∧ u.curCore.on l = some { g o with opcnt := (g o).opcnt + 1, wearu := w } ∧ u.mem = s.mem := by
  have cur : ((s.setCurStr s.curStr).modOn s.cur.1 l g).cur = s.cur := modOn_cur ..
  have str : ((s.setCurStr s.curStr).modOn s.cur.1 l g).curStr = s.curStr := by
    rw [State.curStr, cur, modOn_str]
    exact curStr_setCurStr s s.curStr
  have core : ((s.setCurStr s.curStr).core s.cur.1).on l = some o := (congrArg (Core.on · l) (curCore_setCurStr s s.curStr)).trans on
  have changed := changes (s.setCurStr s.curStr) (by rw [curStr_setCurStr, launch])
  have run := csrw_shared (rd := rd) (ra := ra) quiet monitor shared
  simp only [changed, setCurStr_cur, str] at run
  obtain ⟨w, counted⟩ := retireTo_on (s := ((s.setCurStr s.curStr).modOn s.cur.1 l g).setCurStr (s.curStr.setX rd (s.csr n.toNat)))
    (l := l) (o := g o) (by rw [curStr_setCurStr, Str.launch, setX_act]; exact launch) (by
      rw [curCore_setCurStr, State.curCore, cur, modOn_core_self core]
      exact mfind_mset_self _ _ _) _
  exact ⟨_, w, run, counted, by simp [State.retire]⟩

/-- A write to a register of the core. -/
theorem csrw_core {g : Core → Core} (quiet : Quiet s) (monitor : s.curStr.lvl ≠ 0) (shared : n.toNat ∈ [0x022, 0x048, 0x053, 0x060])
    (changes : ∀ x : State, x.setSharedCsr n.toNat (s.curStr.getX ra) = x.modCore x.cur.1 g) (strs : ∀ co, (g co).strs = co.strs) :
    ∃ w : State, exec (.csrw rd ra n) s = .next w.retire
      ∧ w.curCore = (g (s.curCore.setStr s.cur.2 s.curStr)).setStr s.cur.2 (s.curStr.setX rd (s.csr n.toNat)) ∧ w.mem = s.mem
      ∧ w.curStr.getX rd = if rd = 0 then 0 else s.csr n.toNat := by
  have str : ((s.setCurStr s.curStr).modCore s.cur.1 g).curStr = s.curStr := by
    rw [State.curStr, str_modCore _ _ _ (strs _)]
    exact curStr_setCurStr s s.curStr
  have run := csrw_shared (rd := rd) (ra := ra) quiet monitor shared
  simp only [changes, setCurStr_cur, str] at run
  have core : ((s.setCurStr s.curStr).modCore s.cur.1 g).curCore = g (s.curCore.setStr s.cur.2 s.curStr) := by
    rw [← curCore_setCurStr]
    exact core_modCore_self _ _ g
  refine ⟨_, run, ?_, rfl, ?_⟩
  · rw [curCore_setCurStr, core]
    rfl
  · rw [curStr_setCurStr]
    split
    · next zero => rw [zero]; rfl
    · next reg => exact getX_setX_self _ _ _ reg

end

/-- Settles O20, register by register: those of the string, those of its launch, AMOFB, OWNER and MENTRY. -/
theorem controlRegisterWrites : Obligations.ControlRegisterWrites := by
  unfold Obligations.ControlRegisterWrites
  intro s rd ra quiet t a
  have user (n : BitVec 12) (h : csrUserWrites n.toNat = true) := csrInstr_writesUser (rd := rd) (ra := ra) (f := fun t _ => t.getX ra) quiet h
  have flag (b : Bool) : BitVec.ofNat 64 (b2n b) = if b then 1 else 0 := by cases b <;> rfl
  refine ⟨user 0x010 rfl, user 0x011 rfl, user 0x012 rfl, user 0x013 rfl, user 0x014 rfl, ?_, user 0x021 rfl, user 0x023 rfl,
    fun reg => ⟨?_, ?_⟩, fun lvl => ?_⟩
  · rw [← flag]
    exact user 0x020 rfl
  · have run := csrInstr_writesUser (rd := rd) (ra := ra) (n := 0x011) (f := fun t old => old ||| t.getX ra) quiet rfl
    have bits : (t.fflg.zeroExtend 64 ||| a).extractLsb' 0 5 = t.fflg ||| a.extractLsb' 0 5 := by
      ext i hi
      simp [show i < 64 by omega, BitVec.getLsbD_eq_getElem hi]
    rw [Gives, exec_csrs, execCsrs, if_neg reg, run, ← bits]
    rfl
  · have run := csrInstr_writesUser (rd := rd) (ra := ra) (n := 0x011) (f := fun t old => old &&& ~~~(t.getX ra)) quiet rfl
    have bits : (t.fflg.zeroExtend 64 &&& ~~~a).extractLsb' 0 5 = t.fflg &&& ~~~(a.extractLsb' 0 5) := by
      ext i hi
      simp [show i < 64 by omega, BitVec.getLsbD_eq_getElem hi]
    rw [Gives, exec_csrc, execCsrc, if_neg reg, run, ← bits]
    rfl
  have monitor (n : BitVec 12) (h : n.toNat ∈ [0x001, 0x050, 0x051, 0x052]) := csrInstr_writesMonitor (rd := rd) (ra := ra)
    (f := fun t _ => t.getX ra) quiet lvl (List.mem_cons_of_mem _ h) (fun zero => by rw [zero] at h; simp at h)
  refine ⟨?_, fun l o launch on => ⟨?_, ?_⟩, ?_, monitor 0x050 (by decide), monitor 0x051 (by decide), monitor 0x052 (by decide),
    csrw_owner_faults quiet lvl, fun below => csrInstr_writesMonitor (n := 0x000) quiet lvl (by decide) (fun _ => below), ?_⟩
  · have taken := monitor 0x001 (by decide)
    rw [show (0x001 : BitVec 12).toNat = 0x001 from rfl, Str.setCsr, setPp_eq] at taken
    exact taken
  · obtain ⟨u, w, run, counted, mem⟩ := csrw_launch (rd := rd) (ra := ra) (n := 0x022) (g := fun o => { o with mxcorr := a.extractLsb' 0 32 })
      quiet lvl launch on (by decide) (fun x h => setSharedCsr_mxcorr h a)
    exact ⟨u, _, run, counted, rfl, rfl, mem⟩
  · obtain ⟨u, w, run, counted, mem⟩ := csrw_launch (rd := rd) (ra := ra) (n := 0x048) (g := fun o => { o with opcnt := a })
      quiet lvl launch on (by decide) (fun x h => setSharedCsr_opcnt h a)
    exact ⟨u, _, run, counted, rfl, rfl, mem⟩
  · obtain ⟨w, run, core, mem, old⟩ := csrw_core (rd := rd) (ra := ra) (n := 0x060)
      (g := fun co => { co with vfs := mset co.vfs co.fn { co.vfc co.fn with amofb := a.getLsbD 0 } })
      quiet lvl (by decide) (fun _ => rfl) (fun _ => rfl)
    refine ⟨_, run, ?_, ?_, ?_⟩
    · rw [State.retire, retireTo_amofb, core]
      exact congrArg VfCore.amofb (mget_mset_self ..)
    · rw [State.retire, retireTo_mem, mem]
    · rw [State.retire, retireTo_getX, old, ← flag]
      rfl
  · obtain ⟨w, run, core, mem, old⟩ := csrw_core (rd := rd) (ra := ra) (n := 0x053)
      (g := fun co => { co with mentry := a &&& 0xFFFFFFFFFFFFFFC0 }) quiet lvl (by decide) (fun _ => rfl) (fun _ => rfl)
    refine ⟨_, run, ?_, ?_, ?_⟩
    · rw [State.retire, retireTo_mentry, core]
      exact clearLow_toNat a
    · rw [State.retire, retireTo_mem, mem]
    · rw [State.retire, retireTo_getX, old]
      rfl

end Sys2Proof.Proofs
end

section
/-! SUPPORT. The statement `QueriesAndInvalidations` fails, on a state whose matrix unit has 2^24 commands queued: MXST adds their number to the
error, which stands from bit 24 on, and the statement puts no bound on it. -/

namespace Sys2Proof.Proofs

open Sys2Proof Sys2Proof.Machine Sys2Proof.Laws Sys2Proof.Claims

/-! ## MXST of a string of a launch (R332) -/

/-- The error of the matrix unit is cleared for its holder. -/
def clearErr (l : Nat) (s : State) : State :=
  s.modCore s.cur.1 (fun co => if co.mxu.holder = some l then { co with mxu := { co.mxu with err := 0 } } else co)

theorem clearErr_curStr (l : Nat) (s : State) : (clearErr l s).curStr = s.curStr :=
  str_modCore s _ _ (by split <;> rfl) _ _

/-- MXST returns its word in `rd`, and retires. -/
theorem execMxst_launch {s u : State} {l : Nat} {rd : XReg} (quiet : Quiet s) (launch : s.curStr.launch = some l)
    (run : exec (.mxst rd) s = .next u) : u.curStr = retired (s.curStr.setX rd (mxstWord s.curCore s.cur.2 l)) := by
  have body : execMxst rd s = .next (clearErr l (s.setCurStr (s.curStr.setX rd (mxstWord s.curCore s.cur.2 l)))).retire := by
    simp only [execMxst, runInstr]
    rw [run_bind_ok (run_settle_ready (xRegs [rd]) s quiet), run_bind_ok (StateT.run_get s)]
    simp only [launch]
    rfl
  obtain rfl := Host.Outcome.next.inj (body.symm.trans run)
  have str : (clearErr l (s.setCurStr (s.curStr.setX rd (mxstWord s.curCore s.cur.2 l)))).curStr
      = s.curStr.setX rd (mxstWord s.curCore s.cur.2 l) :=
    (clearErr_curStr l _).trans (curStr_setCurStr s _)
  rw [State.retire, retireTo_curStr, str]
  rfl

theorem b2n_le_one (b : Bool) : b2n b ≤ 1 := by cases b <;> decide

/-- The parts of that word. -/
theorem mxstWord_parts (co : Core) (k l : Nat) : ∃ busy ≤ 1, ∃ mine ≤ 31, mxstWord co k l = BitVec.ofNat 64
    ((if co.mxu.holder = some l then co.mxu.err.toNat else 0) * 2 ^ 24 + busy * 2 ^ 16 + mine * 2 ^ 8
      + (co.mxu.queue.filter (fun c => c.launch == some l)).length) :=
  ⟨b2n _, b2n_le_one _, Nat.min 31 _, Nat.min_le_left .., rfl⟩

/-- With no holder the error of the word is 0, and a number of commands of 2^24 stands in its place. -/
theorem mxstWord_overflow {co : Core} {l : Nat} (k : Nat) (free : co.mxu.holder = none)
    (many : (co.mxu.queue.filter (fun c => c.launch == some l)).length = 2 ^ 24) : (mxstWord co k l).toNat / 2 ^ 24 = 1 := by
  obtain ⟨busy, hb, mine, hm, word⟩ := mxstWord_parts co k l
  rw [word, many, if_neg (by rw [free]; nofun), BitVec.toNat_ofNat]
  omega

theorem retired_getX (t : Str) (r : XReg) : (retired t).getX r = t.getX r := rfl

/-! ## A state with a long queue -/

/-- A string that runs an activation of launch 5, selected by a record of it. -/
def launchedStr : Str :=
  let r : Rec := { launch := 5, hid := 1, key := 0, op := 0, src := 0, payload := 0, count := 0, armed := false, c := false, flags := 0,
                   wrap := 0, nc := false, redo := 0, since := 0, ord := 0, spill := none }
  { Str.init with
    run := .running, pc := 0x1000, owner := 7,
    act := some { id := 1, launch := 5, trig := r, epri := 0, ec := true, rst := false, outbox := [], journal := [], jmarks := [], mask0 := none } }

/-- MX.ZERO of the launch (R358), as ENQ puts it in the queue. -/
def queuedCmd : Cmd :=
  { word := BitVec.ofNat 256 (4 * 2 ^ 248), shape := 0, owner := 7, ity := false, mscla := 0, mxinj := 0, launch := some 5, str := 0,
    actId := 1, tmpl := 0x1004, ring := none, waitOn := none, waited := false, done := 0, fin := none }

/-- The string on core 0 of partition 0, whose matrix unit nothing holds, with a queue of commands. ENQ appends none to a queue of 16
(R331). -/
def crowded (q : List Cmd) : State :=
  { State.reset with
    cur := (0, 0), cores := [(0, { Core.init with part := some 0, strs := [(0, launchedStr)], mxu := { Mxu.init with queue := q } })] }

/-- MXST does not return 0 in the bits of the error. -/
theorem mxst_crowded {q : List Cmd} (many : (q.filter (fun c => c.launch == some 5)).length = 2 ^ 24) (u : State)
    (run : exec (.mxst 3) (crowded q) = .next u) (v : Word) (gives : u.curStr = retired ((crowded q).curStr.setX 3 v)) : v.toNat / 2 ^ 24 = 1 := by
  have returned : u.curStr = _ := execMxst_launch (s := crowded q) (l := 5) rfl rfl run
  have same := congrArg (Str.getX · 3) (gives.symm.trans returned)
  simp only [retired_getX] at same
  rw [getX_setX_self _ _ _ (by decide), getX_setX_self _ _ _ (by decide)] at same
  rw [same]
  exact mxstWord_overflow _ rfl many

/-- Refutes O44: where the matrix unit holds 2^24 commands of the launch and nothing holds the unit, MXST returns 1 in the bits of the
error, and not 0. -/
theorem not_queriesAndInvalidations : ¬ Obligations.QueriesAndInvalidations := by
  unfold Obligations.QueriesAndInvalidations
  intro h
  have many (n : Nat) : ((List.replicate n queuedCmd).filter (fun c => c.launch == some 5)).length = n := by
    rw [List.filter_replicate, if_pos (by decide), List.length_replicate]
  obtain ⟨-, -, mxst, -⟩ := h (crowded (List.replicate (2 ^ 24) queuedCmd)) 3 0 0 0 rfl rfl
  obtain ⟨u, v, run, gives, -, -, err, -⟩ := mxst 5 rfl
  have one := mxst_crowded (many (2 ^ 24)) u run v gives
  have free : (crowded (List.replicate (2 ^ 24) queuedCmd)).curCore.mxu.holder ≠ some 5 := nofun
  rw [one, if_neg free] at err
  exact absurd err one_ne_zero

end Sys2Proof.Proofs
end

section
/-! SUPPORT. GRANT and REVOKE as a string issues them, and the requests of the rights unit up to their HOLD and from their RELEASE on (R57 to
R61, R63, R66, R333): lemmas for the statement `RightsChanges`. -/

namespace Sys2Proof.Proofs

open Sys2Proof Sys2Proof.Machine Sys2Proof.Laws Sys2Proof.Claims

/-! ## The instruction -/

section
variable {s : State} {rd ra rb rc : XReg} {n : Nat}

/-- What GRANT, or REVOKE, of the executing string asks of the rights unit. -/
def rightsReqOf (s : State) (isGrant : Bool) (ra rb rc : XReg) : RightsReq :=
  { core := s.cur.1, str := s.cur.2, isGrant := isGrant, xa := s.curStr.getX ra, xb := s.curStr.getX rb, xc := s.curStr.getX rc,
    owner := s.curStr.owner }

theorem sw_refused_iff (s : State) (rc : XReg) : (bitAt (s.curStr.getX rc).toNat 25 && !(s.curStr.lvl != 0 && s.curStr.owner == 0)) = true
    ↔ (s.curStr.getX rc).getLsbD 25 = true ∧ ¬(s.curStr.lvl ≠ 0 ∧ s.curStr.owner = 0) := by
  rw [bitAt_toNat, Bool.and_eq_true, Bool.not_eq_true', ← Bool.not_eq_true, Bool.and_eq_true, bne_iff_ne, beq_iff_eq]

/-- SW is for the monitor alone, with OWNER = 0 (R333; log 51). -/
theorem rightsInstr_sw_faults (quiet : Quiet s) (isGrant : Bool) (sw : (s.curStr.getX rc).getLsbD 25 = true)
    (not0 : s.curStr.lvl = 0 ∨ s.curStr.owner ≠ 0) :
    runInstr (rightsInstr isGrant rd ra rb rc) s = .next (s.fault { code := 0x02, detail := 0, val := 0 }) := by
  have refused := (sw_refused_iff s rc).mpr ⟨sw, fun monitor => not0.elim monitor.1 (fun other => other monitor.2)⟩
  have run : (rightsInstr isGrant rd ra rb rc).run s = .error (.fault { code := 0x02, detail := 0, val := 0 }) := by
    unfold rightsInstr
    rw [run_bind_ok (run_settle_ready _ s quiet), run_bind_ok (StateT.run_get s)]
    simp only [refused, if_true, run_raise]
  simp only [runInstr, run]
  exact faultDue_ready s _ quiet

/-- What the string may ask for is put in the rights unit of its partition, and the string waits for the status (R60). -/
theorem rightsInstr_queues (quiet : Quiet s) (part : s.curCore.part = some n) (isGrant : Bool)
    (may : (s.curStr.getX rc).getLsbD 25 = false ∨ s.curStr.lvl ≠ 0 ∧ s.curStr.owner = 0) (fresh : ∀ r, s.curStr.wait ≠ .rights r) :
    runInstr (rightsInstr isGrant rd ra rb rc) s = .next ((s.modPart n (fun q => { q with rights :=
      { q.rights with queue := q.rights.queue ++ [rightsReqOf s isGrant ra rb rc] } })).setCurStr { s.curStr with wait := .rights rd }) := by
  have allowed := mt (sw_refused_iff s rc).mp (fun h => may.elim (fun off => Bool.false_ne_true (off.symm.trans h.1)) h.2)
  have run : (rightsInstr isGrant rd ra rb rc).run s = .ok (.again, (s.modPart n (fun q => { q with rights :=
      { q.rights with queue := q.rights.queue ++ [rightsReqOf s isGrant ra rb rc] } })).setCurStr { s.curStr with wait := .rights rd }) := by
    unfold rightsInstr
    rw [run_bind_ok (run_settle_ready _ s quiet), run_bind_ok (StateT.run_get s)]
    simp only [if_neg allowed, part]
    rfl
  simp only [runInstr, run]

theorem rightsInstr_waits (quiet : Quiet s) (isGrant : Bool)
    (may : (s.curStr.getX rc).getLsbD 25 = false ∨ s.curStr.lvl ≠ 0 ∧ s.curStr.owner = 0) {r : XReg} (waits : s.curStr.wait = .rights r) :
    runInstr (rightsInstr isGrant rd ra rb rc) s = .next s := by
  have allowed := mt (sw_refused_iff s rc).mp (fun h => may.elim (fun off => Bool.false_ne_true (off.symm.trans h.1)) h.2)
  have run : (rightsInstr isGrant rd ra rb rc).run s = .error (.stall none) := by
    unfold rightsInstr
    rw [run_bind_ok (run_settle_ready _ s quiet), run_bind_ok (StateT.run_get s)]
    simp only [if_neg allowed, waits, run_stall]
  simp only [runInstr, run]
  rfl

end

/-! ## The end of a request -/

section
variable {s : State} {p : Nat} {r : RightsReq}

/-- The unit without its first request. -/
def rightsFinished (s : State) (p : Nat) : State :=
  s.modPart p (fun q => { q with rights := { queue := q.rights.queue.drop 1, validated := false, written := false } })

/-- The string of a request that is finished, with its status, about to retire. -/
def rightsStatused (s : State) (p : Nat) (r : RightsReq) (d : XReg) (st : Nat) : State :=
  { (rightsFinished s p).modStr r.core r.str (fun t => t.setX d (BitVec.ofNat 64 st)) with cur := (r.core, r.str) }

theorem finishRights_waiting {d : XReg} (waits : (s.str r.core r.str).wait = .rights d) (st : Nat) :
    s.finishRights p r st = { (rightsStatused s p r d st).retire with cur := s.cur } := by
  have here : ((s.modPart p (fun q => { q with rights := { queue := q.rights.queue.drop 1, validated := false, written := false } })).str
      r.core r.str).wait = .rights d := waits
  unfold State.finishRights
  simp only [here]
  rfl

theorem finishRights_cases (s : State) (p : Nat) (r : RightsReq) (st : Nat) : s.finishRights p r st = rightsFinished s p
    ∨ ∃ d, s.finishRights p r st = { (rightsStatused s p r d st).retire with cur := s.cur } := by
  by_cases waits : ∃ d, (s.str r.core r.str).wait = .rights d
  · obtain ⟨d, waits⟩ := waits
    exact .inr ⟨d, finishRights_waiting waits st⟩
  · refine .inl ?_
    unfold State.finishRights
    dsimp only
    split
    · next d here => exact absurd ⟨d, here⟩ waits
    · rfl

/-- Of a core, a change of a string changes its strings alone. -/
theorem setStr_core (s : State) (c k : Nat) (t : Str) (d : Nat) : ∃ l, (s.setStr c k t).core d = { s.core d with strs := l } := by
  by_cases same : d = c
  · rw [same, State.setStr, core_modCore_self]
    exact ⟨_, rfl⟩
  · rw [State.setStr, core_modCore_ne _ _ same]
    exact ⟨_, rfl⟩

theorem rightsFinished_rights (s : State) (p : Nat) :
    ((rightsFinished s p).part p).rights = { queue := (s.part p).rights.queue.drop 1, validated := false, written := false } := by
  rw [rightsFinished, part_modPart_self]

/-- The first request leaves the unit. -/
theorem finishRights_rights (s : State) (p : Nat) (r : RightsReq) (st : Nat) :
    ((s.finishRights p r st).part p).rights = { queue := (s.part p).rights.queue.drop 1, validated := false, written := false } := by
  obtain gone | ⟨d, waits⟩ := finishRights_cases s p r st
  · rw [gone, rightsFinished_rights]
  · obtain ⟨m, w, kept⟩ := retireTo_part (rightsStatused s p r d st) (nextPtr (rightsStatused s p r d st).curStr.pc 4) p
    have rights := congrArg Partition.rights kept
    rw [waits, ← rightsFinished_rights]
    exact rights

theorem finishRights_mem (s : State) (p : Nat) (r : RightsReq) (st : Nat) : (s.finishRights p r st).mem = s.mem := by
  obtain gone | ⟨d, waits⟩ := finishRights_cases s p r st
  · rw [gone]
    rfl
  · rw [waits]
    exact retireTo_mem _ _

theorem finishRights_hold (s : State) (p : Nat) (r : RightsReq) (st c : Nat) : ((s.finishRights p r st).core c).hold = (s.core c).hold := by
  obtain gone | ⟨d, waits⟩ := finishRights_cases s p r st
  · rw [gone]
    rfl
  · obtain ⟨t, m, x, y, v, w, retires⟩ := retireTo_core (rightsStatused s p r d st) (nextPtr (rightsStatused s p r d st).curStr.pc 4) c
    obtain ⟨l, changed⟩ := setStr_core (rightsFinished s p) r.core r.str (((rightsFinished s p).str r.core r.str).setX d (BitVec.ofNat 64 st)) c
    have before := congrArg Core.hold changed
    have after := congrArg Core.hold retires
    rw [waits]
    exact after.trans before

/-- The string of a request has its status and goes on, if it waits for it. -/
def StatusReturned (s : State) (r : RightsReq) (u : State) (st : Nat) : Prop :=
  ∀ d, (s.str r.core r.str).wait = .rights d → u.str r.core r.str = retired ((s.str r.core r.str).setX d (BitVec.ofNat 64 st))

theorem finishRights_ends (s : State) (p : Nat) (r : RightsReq) (st : Nat) : StatusReturned s r (s.finishRights p r st) st := by
  intro d waits
  have own : (rightsStatused s p r d st).curStr = (s.str r.core r.str).setX d (BitVec.ofNat 64 st) := str_setStr_self (rightsFinished s p) _ _ _
  have after := retireTo_curStr (rightsStatused s p r d st) (nextPtr (rightsStatused s p r d st).curStr.pc 4)
  rw [own, State.curStr, retireTo_cur] at after
  rw [finishRights_waiting waits, State.retire, own]
  exact after

/-! ## A request is validated -/

theorem sendAll_eq (s : State) (c k id after : Nat) (ms : List Msg) : ∃ q n, s.sendAll c k id after ms = { s with seqs := q, net := n } := by
  have post (t : State) (unit : Nat) (f : Flight) : ∃ q n, t.post unit f = { t with seqs := q, net := n } := by
    unfold State.post State.packet
    split
    · dsimp only
      split <;> exact ⟨_, _, rfl⟩
    · exact ⟨_, _, rfl⟩
  refine List.foldlRecOn (motive := fun t : State => ∃ q n, t = { s with seqs := q, net := n }) ms _ ⟨_, _, rfl⟩ (fun t ht m _ => ?_)
  obtain ⟨q, n, rfl⟩ := ht
  obtain ⟨q', n', sent⟩ := post { s with seqs := q, net := n } (coreUnit c)
    { msg := m, fromCore := c, fromStr := k, after := after, slot := true, actId := id, nacks := 0, nacked := false }
  exact ⟨q', n', sent⟩

/-- What an early commit leaves of a string with its activation. -/
def committed (t : Str) (a : Activation) : Str :=
  { t with act := some { a with ec := true, rst := false, outbox := [], journal := [], jmarks := [], mask0 := none } }

/-- A string has nothing to commit early, or it is committed and its messages are sent (R166). -/
theorem commitEarly_cases (s : State) (c k : Nat) :
    (s.commitEarly c k = s ∧ ∀ a, (s.str c k).act = some a → a.ec = true) ∨ ∃ a q n, (s.str c k).act = some a
      ∧ s.commitEarly c k = { s.setStr c k (committed (s.str c k) a) with seqs := q, net := n } := by
  unfold State.commitEarly
  dsimp only
  split
  · next a act =>
    split
    · next ec => exact .inl ⟨rfl, fun b same => by rw [← Option.some.inj (act.symm.trans same), ec]⟩
    · obtain ⟨q, n, sent⟩ := sendAll_eq (s.setStr c k (committed (s.str c k) a)) c k a.id (s.str c k).seq a.outbox
      exact .inr ⟨a, q, n, act, sent⟩
  · next none => exact .inl ⟨rfl, fun a act => nomatch none.symm.trans act⟩

/-- An activation that commits early has nothing left in its outbox and its journal; nothing else changes of the cores, of memory and of
the partitions. -/
theorem commitEarly_commits (s : State) (c k : Nat) :
    let u := s.commitEarly c k
    u.mem = s.mem ∧ u.parts = s.parts ∧ (∀ d, (u.core d).wear = (s.core d).wear) ∧ (u.str c k).wait = (s.str c k).wait
      ∧ ∀ a, (s.str c k).act = some a → a.ec = false → ∃ b, (u.str c k).act = some b ∧ b.ec = true ∧ b.outbox = [] ∧ b.journal = [] := by
  obtain ⟨none, all⟩ | ⟨a, q, n, act, commit⟩ := commitEarly_cases s c k
  · rw [none]
    exact ⟨rfl, rfl, fun d => rfl, rfl, fun a act uncommitted => absurd (all a act) (by simp [uncommitted])⟩
  · have str : (s.commitEarly c k).str c k = (committed (s.str c k) a) := by
      rw [commit]
      exact str_setStr_self s c k _
    refine ⟨by rw [commit]; rfl, by rw [commit]; rfl, fun d => ?_, (congrArg Str.wait str).trans rfl,
      fun _ _ _ => ⟨_, congrArg Str.act str, rfl, rfl, rfl⟩⟩
    obtain ⟨l, changed⟩ := setStr_core s c k (committed (s.str c k) a) d
    have same := congrArg Core.wear changed
    rw [commit]
    exact same

/-! ## HOLD and RELEASE -/

/-- Every core of a list holds, or none does any more (R60). -/
def holdAll (l : List Nat) (h : Option HoldReq) (s : State) : State := l.foldl (fun s c => s.modCore c (fun co => { co with hold := h })) s

theorem sameOutside_holdAll (l : List Nat) (h : Option HoldReq) (s : State) : SameOutside s (holdAll l h s) :=
  sameOutside_foldl l _ (fun s c => sameOutside_modCore s c _) s

theorem holdAll_str (l : List Nat) (h : Option HoldReq) (s : State) (c k : Nat) : (holdAll l h s).str c k = s.str c k :=
  List.foldlRecOn (motive := fun t : State => t.str c k = s.str c k) l _ rfl (fun t ht d _ => (str_modCore t d _ rfl c k).trans ht)

theorem holdAll_hold {l : List Nat} {c : Nat} (hc : c ∈ l) (h : Option HoldReq) (s : State) : ((holdAll l h s).core c).hold = h := by
  refine foldl_reaches (fun _ => True) (fun t => (t.core c).hold = h) _ hc (fun _ _ _ => trivial) (fun t d ht => ?_)
    (fun t _ => by rw [core_modCore_self]) trivial
  by_cases same : c = d
  · rw [same, core_modCore_self]
  · rwa [core_modCore_ne _ _ same]

/-! ## The unit's steps -/

section
variable {s : State} {n : Nat} {r : RightsReq} {rest : List RightsReq}

/-- The state once the unit has read the owner directory for a request (R76). -/
def rightsLooked (s : State) (n : Nat) (r : RightsReq) : State :=
  s.traffic (rightsNi n) (homeUnit (.phys (dirAddr (s.part n) r.args.g))) n

theorem rightsLooked_returned {u : State} {st : Nat} (h : StatusReturned (rightsLooked s n r) r u st) : StatusReturned s r u st := h

/-- A request that fails a check is finished with the status that names it (R58, R60 step 1). -/
theorem rightsRequest_refuses (queue : (s.part n).rights.queue = r :: rest) (new : (s.part n).rights.validated = false)
    (fails : rightsStatus s.seen (s.part n) r ≠ 0) :
    ∃ u, exec (.rightsRequest n) s = .next u ∧ u.mem = s.mem
      ∧ (u.part n).rights = { queue := rest, validated := false, written := false }
      ∧ StatusReturned s r u (rightsStatus s.seen (s.part n) r) := by
  have run : execRightsRequest n s = .next ((rightsLooked s n r).finishRights n r (rightsStatus s.seen (s.part n) r)) := by
    simp only [execRightsRequest, queue, new, Bool.false_eq_true, if_false, if_pos fails]
    rfl
  have rights := finishRights_rights (rightsLooked s n r) n r (rightsStatus s.seen (s.part n) r)
  have same : (rightsLooked s n r).part n = s.part n := rfl
  rw [same, queue] at rights
  exact ⟨_, run, finishRights_mem (rightsLooked s n r) n r _, rights, rightsLooked_returned (finishRights_ends (rightsLooked s n r) n r _)⟩

/-- The state in which a request has been validated, before the cores hold. -/
def rightsValidated (s : State) (n : Nat) (r : RightsReq) : State :=
  ((rightsLooked s n r).commitEarly r.core r.str).modPart n (fun q => { q with rights := { q.rights with validated := true } })

/-- A request that passes them is validated: its activation commits early, and every core that is in use holds (R60 steps 1 and 2, R66; log
37). -/
theorem rightsRequest_holds (queue : (s.part n).rights.queue = r :: rest) (new : (s.part n).rights.validated = false)
    (passes : rightsStatus s.seen (s.part n) r = 0) :
    ∃ u, exec (.rightsRequest n) s = .next u ∧ u.mem = s.mem ∧ (u.part n).rights = { (s.part n).rights with validated := true }
      ∧ (u.str r.core r.str).wait = (s.str r.core r.str).wait
      ∧ (∀ a, (s.str r.core r.str).act = some a → a.ec = false →
          ∃ b, (u.str r.core r.str).act = some b ∧ b.ec = true ∧ b.outbox = [] ∧ b.journal = [])
      ∧ ∀ c ∈ s.liveCores n, (u.core c).hold = some r.holdReq := by
  have run : execRightsRequest n s = .next (holdAll ((rightsValidated s n r).liveCores n) (some r.holdReq) (rightsValidated s n r)) := by
    simp only [execRightsRequest, queue, new, passes, Bool.false_eq_true, if_false, ne_eq, not_true_eq_false]
    rfl
  obtain ⟨mem, parts, wear, wait, acts⟩ := commitEarly_commits (rightsLooked s n r) r.core r.str
  have outside := sameOutside_holdAll ((rightsValidated s n r).liveCores n) (some r.holdReq) (rightsValidated s n r)
  have str := holdAll_str ((rightsValidated s n r).liveCores n) (some r.holdReq) (rightsValidated s n r) r.core r.str
  have own : (rightsValidated s n r).part n = { s.part n with rights := { (s.part n).rights with validated := true } } := by
    rw [rightsValidated, part_modPart_self, part_of_parts parts]
    rfl
  have live : (rightsValidated s n r).liveCores n = s.liveCores n := by
    have cores : ((rightsValidated s n r).part n).cores = (s.part n).cores := by rw [own]; rfl
    rw [State.liveCores, State.liveCores, cores]
    exact List.filter_congr (fun c _ => by rw [← show ((rightsLooked s n r).core c).wear = (s.core c).wear from rfl, ← wear c]; rfl)
  refine ⟨_, run, outside.mem.trans mem, ?_, ?_, ?_, fun c hc => holdAll_hold (live ▸ hc) _ _⟩
  · rw [part_of_parts outside.parts, own]
  · rw [str]
    exact wait
  · rw [str]
    exact acts

/-- RELEASE: no core holds any more, and the request is finished with status 0 (R60 steps 7 and 8). -/
theorem release_ends (queue : (s.part n).rights.queue = r :: rest) (done : (s.part n).rights.written = true) :
    ∃ u, exec (.release n) s = .next u ∧ u.mem = s.mem ∧ StatusReturned s r u 0
      ∧ (u.part n).rights = { queue := rest, validated := false, written := false } ∧ ∀ c ∈ (s.part n).cores, (u.core c).hold = none := by
  have run : execRelease n s = .next ((holdAll (s.part n).cores none s).finishRights n r 0) := by
    simp only [execRelease, queue, done, Bool.not_true, Bool.false_eq_true, if_false]
    rfl
  have outside := sameOutside_holdAll (s.part n).cores none s
  have rights := finishRights_rights (holdAll (s.part n).cores none s) n r 0
  have ends := finishRights_ends (holdAll (s.part n).cores none s) n r 0
  rw [part_of_parts outside.parts, queue] at rights
  rw [StatusReturned, holdAll_str] at ends
  exact ⟨_, run, (finishRights_mem ..).trans outside.mem, ends, rights,
    fun c hc => (finishRights_hold ..).trans (holdAll_hold hc none s)⟩

end

end

end Sys2Proof.Proofs
end

section
/-! SUPPORT. What of the rights tables is written, and what of them lies in a listed span and is not (R60 step 6, R89): lemmas for the statement
`RightsChanges`. -/

namespace Sys2Proof.Proofs

open Sys2Proof Sys2Proof.Machine Sys2Proof.Laws Sys2Proof.Claims

/-! ## A range that takes the bytes of another memory -/

theorem mfind_append {α : Type} (u v : Map α) (k : Nat) : mfind (u ++ v) k = (mfind u k).or (mfind v k) := by
  induction u with
  | nil => rfl
  | cons c t ih => by_cases h : c.1 = k <;> simp [mfind, h, ih]

theorem low_of_mem_range {m : Memory} {a n : Nat} {c : Host.Cell} (h : c ∈ m.filter (fun c => decide (a ≤ c.1) && decide (c.1 < a + n))) :
    a ≤ c.1 :=
  of_decide_eq_true (Bool.and_eq_true_iff.mp (List.mem_filter.mp h).2).1

/-- The bytes of a range by offset, from its first address on, are the cells of the range. -/
theorem shift_part (m : Memory) (a n : Nat) :
    (m.part a n).shift a = m.filter (fun c => decide (a ≤ c.1) && decide (c.1 < a + n)) := by
  unfold Memory.shift Memory.part
  rw [List.map_map]
  refine (List.map_congr_left (fun c hc => ?_)).trans (List.map_id _)
  exact Prod.ext (Nat.sub_add_cancel (low_of_mem_range hc)) rfl

/-- Of a memory in canonical form whose addresses start at the bound, all cells rise from there. -/
theorem rising_wf {m : Memory} (wf : m.wf = true) {lo : Nat} (low : ∀ c ∈ m, lo ≤ c.1) : Memory.rising lo m = m := by
  induction m generalizing lo with
  | nil => rfl
  | cons c t ih =>
    obtain ⟨a, b⟩ := c
    obtain ⟨bytes, order⟩ := (wf_iff _).mp wf
    obtain ⟨first, order'⟩ := List.pairwise_cons.mp order
    have rest := ih ((wf_iff t).mpr ⟨fun c hc => bytes c (List.mem_cons_of_mem _ hc), order'⟩) (lo := a + 1) (fun c hc => first c hc)
    rw [Memory.rising, if_pos ⟨low _ List.mem_cons_self, bytes _ List.mem_cons_self⟩, rest]

/-- A range that takes the bytes which another memory has there reads as that one. -/
theorem get_splice_own {m w : Memory} (wf : w.wf = true) {a n i : Nat} (low : a ≤ i) (high : i < a + n) :
    (m.splice a n ((w.part a n).shift a)).get i = w.get i := by
  have rises : Memory.rising a ((w.part a n).shift a) = w.filter (fun c => decide (a ≤ c.1) && decide (c.1 < a + n)) := by
    rw [shift_part]
    exact rising_wf (wf_filter w _ wf) (fun c hc => low_of_mem_range hc)
  have found : mfind (m.splice a n ((w.part a n).shift a)) i = mfind w i := by
    rw [Memory.splice, rises, mfind_append, mfind_append, mfind_filter_in m (fun c => decide (c < a)) i (by simpa using low),
      mfind_filter_in m (fun c => decide (a + n ≤ c)) i (by simpa using high),
      mfind_filter_out _ (fun c => decide (c < a + n)) i (by simpa using high),
      mfind_filter_out w (fun c => decide (a ≤ c) && decide (c < a + n)) i (by simp [low, high])]
    simp
  rw [Memory.get, mget, found]
  rfl

/-! ## What a listed span keeps of a write (R89) -/

section
variable {s : State} {a n y : Nat} {m : Memory} {x : Span}

/-- Memory where the part of a range that lies in a span is as it was. -/
def spare (s : State) (a n : Nat) (m : Memory) (x : Span) : Memory :=
  m.splice (x.cut a n).1 (x.cut a n).2 ((s.mem.part (x.cut a n).1 (x.cut a n).2).shift (x.cut a n).1)

theorem outsideSpans_eq (s : State) (a n : Nat) (m : Memory) : s.outsideSpans a n m
    = if 2 ^ 42 ≤ a then m else (s.allSpans.filter (fun x => overlaps x.pa x.len a n)).foldl (spare s a n) m := rfl

theorem spare_keeps (wf : s.mem.wf = true) (x : Span) (h : m.get y = s.mem.get y) : (spare s a n m x).get y = s.mem.get y := by
  by_cases inside : (x.cut a n).1 ≤ y ∧ y < (x.cut a n).1 + (x.cut a n).2
  · exact get_splice_own wf inside.1 inside.2
  · rw [spare, get_splice_out _ _ _ _ _ (by omega), h]

theorem spare_restores (wf : s.mem.wf = true) (low : x.pa ≤ y) (high : y < x.pa + x.len) (start : a ≤ y) (stop : y < a + n) :
    (spare s a n m x).get y = s.mem.get y := by
  have first : (x.cut a n).1 ≤ y := Nat.max_le.mpr ⟨low, start⟩
  have last : y < (x.cut a n).1 + (x.cut a n).2 := by
    have bound : y < Nat.min (x.pa + x.len) (a + n) := Nat.lt_min.mpr ⟨high, stop⟩
    simp only [Span.cut] at first ⊢
    omega
  exact get_splice_own wf first last

theorem spareAll_keeps (wf : s.mem.wf = true) (l : List Span) (h : m.get y = s.mem.get y) :
    (l.foldl (spare s a n) m).get y = s.mem.get y :=
  List.foldlRecOn (motive := fun t : Memory => t.get y = s.mem.get y) l _ h (fun _ ht x _ => spare_keeps wf x ht)

theorem outsideSpans_keeps (wf : s.mem.wf = true) (h : m.get y = s.mem.get y) : (s.outsideSpans a n m).get y = s.mem.get y := by
  rw [outsideSpans_eq]
  split
  · exact h
  · exact spareAll_keeps wf _ h

/-- Nothing of a span is written. -/
theorem outsideSpans_restores (wf : s.mem.wf = true) (listed : x ∈ s.allSpans) (low : x.pa ≤ y) (high : y < x.pa + x.len)
    (dram : y < 2 ^ 42) (start : a ≤ y) (stop : y < a + n) : (s.outsideSpans a n m).get y = s.mem.get y := by
  have meets : x ∈ s.allSpans.filter (fun x => overlaps x.pa x.len a n) :=
    List.mem_filter.mpr ⟨listed, by simp only [overlaps, Bool.and_eq_true, decide_eq_true_eq]; omega⟩
  obtain ⟨before, after, split⟩ := List.append_of_mem meets
  rw [outsideSpans_eq, if_neg (by omega), split, List.foldl_append, List.foldl_cons]
  exact spareAll_keeps wf _ (spare_restores wf low high start stop)

end

/-! ## A table is written -/

section
variable {s : State} {y : Nat}

/-- Address of an owner's table (R42). -/
def tableAt (m : Memory) (q : Partition) (o : Nat) : Nat := field (dirEntry m q o) 0 42

theorem get_memory_putNum_out (m : Memory) (a n v i : Nat) (out : i < a ∨ a + n ≤ i) : (m.putNum a n v).get i = m.get i :=
  get_putBytes_out _ m a i (by rwa [leBytes_length])

/-- Beside the table and the directory entry nothing is written. -/
theorem get_putTable_out (m : Memory) (q : Partition) (o : Nat) (l : List RightsEntry)
    (table : y < tableAt m q o ∨ tableAt m q o + 32 * l.length ≤ y) (entry : y < dirAddr q o ∨ dirAddr q o + 16 ≤ y) :
    (putTable m q o l).get y = m.get y := by
  rw [putTable, get_memory_putNum_out _ _ _ _ _ (by omega)]
  refine List.foldlRecOn (motive := fun t : Memory => t.get y = m.get y) (upTo l.length) _ rfl (fun t ht i hi => ?_)
  have inTable : i < l.length := List.mem_range.mp hi
  split
  · exact (get_memory_putNum_out _ _ _ _ _ (by unfold tableAt at table; omega)).trans ht
  · exact ht

theorem wf_putTable (m : Memory) (q : Partition) (o : Nat) (l : List RightsEntry) (wf : m.wf = true) : (putTable m q o l).wf = true := by
  refine wf_putNum _ _ _ _ (wf_foldl _ _ (fun m i h => ?_) m wf)
  split
  · exact wf_putNum _ _ _ _ h
  · exact h

theorem writeTable_mem (s : State) (unit p o : Nat) (l : List RightsEntry) : (s.writeTable unit p o l).mem
    = s.outsideSpans (dirAddr (s.part p) o) 16
      (s.outsideSpans (tableAt s.mem (s.part p) o) (32 * l.length) (putTable s.mem (s.part p) o l)) := by
  unfold State.writeTable
  dsimp only
  show State.mem (State.touchRange (State.touchRange _ _ _) _ _) = _
  rw [touchRange_mem, touchRange_mem]
  rfl

theorem writeTable_wf (unit p o : Nat) (l : List RightsEntry) (wf : s.mem.wf = true) : (s.writeTable unit p o l).mem.wf = true := by
  rw [writeTable_mem]
  exact wf_outsideSpans _ _ _ _ (wf_outsideSpans _ _ _ _ (wf_putTable _ _ _ _ wf))

/-- Nothing of a listed span is written. -/
theorem writeTable_spares (unit p o : Nat) (l : List RightsEntry) (wf : s.mem.wf = true) {x : Span} (listed : x ∈ s.allSpans) (low : x.pa ≤ y)
    (high : y < x.pa + x.len) (dram : y < 2 ^ 42) : (s.writeTable unit p o l).mem.get y = s.mem.get y := by
  rw [writeTable_mem]
  by_cases entry : dirAddr (s.part p) o ≤ y ∧ y < dirAddr (s.part p) o + 16
  · exact outsideSpans_restores wf listed low high dram entry.1 entry.2
  refine outsideSpans_keeps wf ?_
  by_cases table : tableAt s.mem (s.part p) o ≤ y ∧ y < tableAt s.mem (s.part p) o + 32 * l.length
  · exact outsideSpans_restores wf listed low high dram table.1 table.2
  · exact outsideSpans_keeps wf (get_putTable_out _ _ _ _ (by omega) (by omega))

/-! ## All tables of a request are written -/

theorem InMemory.parts {s t : State} (h : InMemory s t) : t.parts = s.parts := by rw [h]

/-- The tables, one after the other. -/
def writeAll (unit p : Nat) (l : List (Nat × List RightsEntry)) (s : State) : State := l.foldl (fun s x => s.writeTable unit p x.1 x.2) s

theorem inMemory_writeAll (unit p : Nat) (l : List (Nat × List RightsEntry)) (s : State) : InMemory s (writeAll unit p l s) :=
  InMemory.foldl (fun s (x : Nat × List RightsEntry) => inMemory_writeTable s unit p x.1 x.2) s

/-- With no listed span, all of every table is written. -/
theorem writeAll_mem (unit p : Nat) (l : List (Nat × List RightsEntry)) {s : State} (none : s.allSpans = []) :
    (writeAll unit p l s).mem = l.foldl (fun m x => putTable m (s.part p) x.1 x.2) s.mem := by
  induction l generalizing s with
  | nil => rfl
  | cons x t ih =>
    have parts := (inMemory_writeTable s unit p x.1 x.2).parts
    have first : (s.writeTable unit p x.1 x.2).mem = putTable s.mem (s.part p) x.1 x.2 := by
      rw [writeTable_mem, outsideSpans_clear _ _ _ _ (by simp [none]), outsideSpans_clear _ _ _ _ (by simp [none])]
    have rest := ih (s := s.writeTable unit p x.1 x.2) ((allSpans_of_parts parts).trans none)
    rwa [part_of_parts parts, first] at rest

/-- Nothing of a listed span is written. -/
theorem writeAll_spares (unit p : Nat) (l : List (Nat × List RightsEntry)) {s : State} (wf : s.mem.wf = true) {x : Span}
    (listed : x ∈ s.allSpans) (low : x.pa ≤ y) (high : y < x.pa + x.len) (dram : y < 2 ^ 42) :
    (writeAll unit p l s).mem.get y = s.mem.get y := by
  induction l generalizing s with
  | nil => rfl
  | cons t l ih =>
    have parts := (inMemory_writeTable s unit p t.1 t.2).parts
    have rest := ih (s := s.writeTable unit p t.1 t.2) (writeTable_wf unit p t.1 t.2 wf) (allSpans_of_parts parts ▸ listed)
    exact rest.trans (writeTable_spares unit p t.1 t.2 wf listed low high dram)

end

end Sys2Proof.Proofs
end

section
/-! SUPPORT. The tables are written once every core has acknowledged its HOLD, and what a core does of its HOLD (R60), and the statement
`RightsChanges`. -/

namespace Sys2Proof.Proofs

open Sys2Proof Sys2Proof.Machine Sys2Proof.Laws Sys2Proof.Claims

/-! ## The tables are written (R60 step 6, R89) -/

section
variable {s : State} {n : Nat} {r : RightsReq} {rest : List RightsReq}

theorem seen_unswitched (h : s.switched = []) : s.seen = s.mem := by
  unfold State.seen
  rw [h]
  rfl

/-- Once all cores in use have acknowledged, the tables are written, but for what of them lies in a listed span. -/
theorem rightsTableWrite_writes (queue : (s.part n).rights.queue = r :: rest) (valid : (s.part n).rights.validated = true)
    (pending : (s.part n).rights.written = false) (unswitched : s.switched = [])
    (acked : ∀ c ∈ s.liveCores n, ∃ h, (s.core c).hold = some h ∧ h.acked = true) :
    ∃ u, exec (.rightsTableWrite n) s = .next u ∧ (u.part n).rights = { (s.part n).rights with written := true }
      ∧ (s.allSpans = [] → u.mem = (newTables s.mem (s.part n) r.args).foldl (fun m x => putTable m (s.part n) x.1 x.2) s.mem)
      ∧ (s.Inv → ∀ x ∈ s.allSpans, ∀ y, x.pa ≤ y → y < x.pa + x.len → y < 2 ^ 42 → u.mem.get y = s.mem.get y) := by
  have all : (s.liveCores n).all (fun c => (s.core c).hasAcked) = true := by
    refine List.all_eq_true.mpr (fun c hc => ?_)
    obtain ⟨h, hold, ack⟩ := acked c hc
    simp only [Core.hasAcked, hold, ack]
  have tables : s.writeTables n r.args = writeAll (rightsNi n) n (newTables s.mem (s.part n) r.args) s := by
    rw [State.writeTables, seen_unswitched unswitched, backAll_none unswitched]
    rfl
  have run : execRightsTableWrite n s = .next ((writeAll (rightsNi n) n (newTables s.mem (s.part n) r.args) s).modPart n
      (fun q => { q with rights := { q.rights with written := true } })) := by
    simp only [execRightsTableWrite, queue, valid, pending, all, tables, Bool.not_true, Bool.or_false, Bool.false_eq_true, if_false]
  have parts := (inMemory_writeAll (rightsNi n) n (newTables s.mem (s.part n) r.args) s).parts
  refine ⟨_, run, ?_, fun none => writeAll_mem _ _ _ none, fun inv x listed y low high dram => writeAll_spares _ _ _ inv.mem listed low high dram⟩
  rw [part_modPart_self, part_of_parts parts]

end

/-! ## A core and its HOLD (R60 steps 3 to 5) -/

section
variable {s : State} {c : Nat} {h : HoldReq}

/-- The core drops the PLB entries of the named owners that meet the range. -/
theorem hold_drops (hold : (s.core c).hold = some h) (new : h.removed = false) :
    ∃ u, exec (.hold c) s = .next u ∧ u.mem = s.mem ∧ (u.core c).hold = some { h with removed := true }
      ∧ (u.core c).plb = (s.core c).plb.filter (fun e => !h.takes e.owner e.entry) ∧ (u.core c).tlb = (s.core c).tlb := by
  have run : execHold c s = .next (s.modCore c (fun co => { co.dropRights h.owned h.takes with hold := some { h with removed := true } })) := by
    simp only [execHold, hold, new, Bool.false_eq_true, if_false]
  refine ⟨_, run, rfl, ?_⟩
  rw [core_modCore_self]
  exact ⟨rfl, rfl, rfl⟩

theorem holdAcknowledge_acks (hold : (s.core c).hold = some h) (dropped : h.removed = true) (new : h.acked = false)
    (drained : h.drain = true → (s.core c).drainedFor h = true) :
    exec (.holdAcknowledge c) s = .next (s.modCore c (fun co => { co with hold := some { h with acked := true } })) := by
  have done : (!h.removed || h.acked || (h.drain && !(s.core c).drainedFor h)) = false := by
    rw [dropped, new]
    cases drain : h.drain with
    | false => rfl
    | true => rw [drained drain]; rfl
  show execHoldAcknowledge c s = _
  simp only [execHoldAcknowledge, hold, done, Bool.false_eq_true, if_false]

/-- A core that has accesses to drain does not acknowledge yet. -/
theorem holdAcknowledge_waits (hold : (s.core c).hold = some h) (drain : h.drain = true) (busy : (s.core c).drainedFor h = false) :
    exec (.holdAcknowledge c) s = .next s := by
  have left : (!h.removed || h.acked || (h.drain && !(s.core c).drainedFor h)) = true := by rw [drain, busy]; simp
  show execHoldAcknowledge c s = _
  simp only [execHoldAcknowledge, hold, left, if_true]

end

/-- Settles O54: the instruction, the steps of the rights unit, and those of a core with its HOLD. -/
theorem rightsChanges : Obligations.RightsChanges := by
  unfold Obligations.RightsChanges
  intro s rd ra rb rc n quiet part t req q forms
  have each (P : Instr × Bool → Prop) (grant : P (.grant rd ra rb rc, true)) (revoke : P (.revoke rd ra rb rc, false)) : ∀ x ∈ forms, P x := by
    intro x hx
    rcases List.mem_pair.mp hx with rfl | rfl
    · exact grant
    · exact revoke
  have waiting (g : Bool) (i : Instr) (runs : exec i s = runInstr (rightsInstr g rd ra rb rc) s)
      (may : (t.getX rc).getLsbD 25 = false ∨ t.lvl ≠ 0 ∧ t.owner = 0) :
      ((∀ r, t.wait ≠ .rights r) → ∃ u, exec i s = .next u ∧ u.curStr = { t with wait := .rights rd } ∧ u.mem = s.mem
        ∧ (u.part n).rights.queue = q.rights.queue ++ [req g]) ∧ (∀ r, t.wait = .rights r → exec i s = .next s) := by
    refine ⟨fun fresh => ⟨_, runs.trans (rightsInstr_queues quiet part g may fresh), curStr_setCurStr _ _, rfl, ?_⟩,
      fun r waits => runs.trans (rightsInstr_waits quiet g may waits)⟩
    rw [setCurStr_part, part_modPart_self]
    rfl
  refine ⟨fun sw not0 => each _ (rightsInstr_sw_faults quiet true sw not0) (rightsInstr_sw_faults quiet false sw not0),
    each _ (waiting true _ rfl) (waiting false _ rfl), fun r rest queue => ⟨?_, ?_, ?_, ?_⟩, fun c h hold => ⟨?_, ?_, ?_⟩⟩
  · exact rightsRequest_refuses queue
  · intro new passes
    obtain ⟨u, run, mem, rights, wait, acts, holds⟩ := rightsRequest_holds queue new passes
    exact ⟨u, run, mem, rights, wait, acts, fun c hc =>
      ⟨r.holdReq, holds c hc, field_low .., congrArg (· + r.xb.toNat) (field_low ..), rfl, rfl, rfl⟩⟩
  · exact rightsTableWrite_writes queue
  · exact release_ends queue
  · exact hold_drops hold
  · exact holdAcknowledge_acks hold
  · exact fun _ drain busy => holdAcknowledge_waits hold drain busy

end Sys2Proof.Proofs
end

section
/-! SUPPORT. The statement `OutstandingPerform` fails, on a state whose table of partitions holds one number twice. -/

namespace Sys2Proof.Proofs

open Sys2Proof Sys2Proof.Machine Sys2Proof.Laws Sys2Proof.Claims

/-- Four bytes of the sector at physical 0. -/
def spanEvent : SectorEv := ⟨.phys 0, [(0, 0), (1, 1), (2, 2), (3, 3)]⟩

/-- A monitor-mode load of those bytes by owner 7, into X3. -/
def diagnosticLoad : Load :=
  { seq := 0, dst := .x 3 .w, evs := [spanEvent], got := [], bad := none, flags := 0, near := true, acq := none, owner := 7, ptr := 0,
    pc := 0x1000, mon := true }

/-- A directory at 0x4000000 in which owner 7 is live, with a table of one entry at 0x4020000 that gives it D over the first 4 KiB
(R49). -/
def diagnosticTables : Memory :=
  Memory.putNum (Memory.putNum [] (0x4000000 + 0x1000 + 16 * 7) 16 (0x4020000 + 8 * 2 ^ 64 + 2 ^ 80 + 2 ^ 96)) 0x4020000 32
    (2 ^ 64 * 0x1000 + 0x2A * 2 ^ 128 + 33 * 2 ^ 136 + 3 * 2 ^ 144)

/-- Partition 0 stands twice: the first entry has the directory, the second lists a poisoned span at physical 0. No step makes such a table:
`mset` leaves one entry of a number. -/
def twiceListedDirectory : Map Partition :=
  [(0, { Partition.init with pstate := .running, ownlim := 4, home := 0x4000000 }),
   (0, { Partition.init with spans := [{ die := 0, pa := 0, len := 512, lvl := 1 }] })]

/-- The monitor-mode string with the load. -/
def diagnosticStr : Str := { Str.init with run := .running, lvl := 1, lds := [diagnosticLoad] }

/-- A state in which string 0 of core 0 of partition 0 has that load outstanding. -/
def diagnosticState : State :=
  { State.reset with
    mem := diagnosticTables, cores := [(0, { Core.init with part := some 0, strs := [(0, diagnosticStr)] })], parts := twiceListedDirectory }

/-- The diagnostic read counts in POISONRD, which leaves one entry of the partition, without the span: its sector has no mark left. -/
theorem mark_loadResponse_diagnosticState : ∀ u, exec (.loadResponse 0 0 0 0 .home) diagnosticState = .next u →
    u.mark none 0 ≠ some .poisoned := by
  have run : (match exec (.loadResponse 0 0 0 0 .home) diagnosticState with | .next u => u.mark none 0 | _ => none) = none := by decide +kernel
  intro u h
  rw [h] at run
  simp [run]

/-- Refutes O23: the monitor's diagnostic read of a sector of a listed span leaves the sector without a mark where the table of partitions holds
its partition twice. -/
theorem not_outstandingPerform : ¬ Obligations.OutstandingPerform := by
  unfold Obligations.OutstandingPerform
  intro h
  obtain ⟨-, -, faults⟩ := h diagnosticState 0 0 spanEvent 0 rfl (by decide +kernel)
  have due : Due 0 (diagnosticState.str 0 0) diagnosticLoad spanEvent := by unfold Due; decide +kernel
  obtain ⟨u, hu, -, -, -, diagnostic⟩ := faults diagnosticLoad .poisoned (by decide +kernel) due rfl rfl rfl nofun (by decide +kernel)
    (by decide +kernel)
  obtain ⟨-, poisoned, -⟩ := diagnostic 3 .w rfl rfl (by decide +kernel)
  exact mark_loadResponse_diagnosticState u hu poisoned

end Sys2Proof.Proofs
end

section
/-! SUPPORT. The statement `EngineReadsAndCompletions` fails, on a state whose table of partitions holds one number twice. -/

namespace Sys2Proof.Proofs

open Sys2Proof Sys2Proof.Machine Sys2Proof.Laws Sys2Proof.Claims

/-- A command of the copy engine of owner 7 and of no launch. -/
def ownerCmd : Cmd :=
  { word := 0, shape := 0, owner := 7, ity := false, mscla := 0, mxinj := 0, launch := none, str := 0, actId := 0,
    tmpl := 0, ring := none, waitOn := none, waited := false, done := 0, fin := none }

/-- Core 0 of partition 0 has the command at the head of its copy engine, and has cached a leaf that maps virtual address 0 to physical 0 and
the rights of owner 7 over its first 2 MiB. -/
def copyCore : Core :=
  { Core.init with
    part := some 0, bce := [ownerCmd],
    tlb := [{ va := 0, size := 2 ^ 30, target := 0, host := false, home := false, hcl := 0 }],
    plb := [{ owner := 7, entry := { base := 0, len := 0x200000, pkg := 0, colour := 0, rights := 15, q := false, grantor := 0 } }] }

/-- Partition 0 stands twice in the table of partitions; the second entry lists a poisoned span at physical 0. No step makes such a table: `mset`
leaves one entry of a number. -/
def twiceListed : Map Partition :=
  [(0, { Partition.init with pstate := .running }), (0, { Partition.init with spans := [{ die := 0, pa := 0, len := 512, lvl := 1 }] })]

/-- The state with that core and that table. -/
def copyState : State := { State.reset with cores := [(0, copyCore)], parts := twiceListed }

/-- The command's access of pointer 0 passes every check, and its home is physical 0. -/
theorem check_copyState : ∃ s1, (check (engWho copyState 0 .bce ownerCmd) .r 0 4 1).run copyState = .ok (.phys 0, s1) := by
  have passes : (match (check (engWho copyState 0 .bce ownerCmd) .r 0 4 1).run copyState with
      | .ok (pl, _) => decide (pl = .phys 0) | .error _ => false) = true := by decide +kernel
  split at passes
  case h_1 pl s1 run => exact ⟨s1, by rw [run, of_decide_eq_true passes]⟩
  case h_2 => cases passes

/-- The read counts in BYTESLOCAL, which leaves one entry of the partition, without the span: its sector has no mark left. -/
theorem mark_readPiece_copyState : (copyState.readPiece 0 .bce 0 0 4).mark none 0 ≠ some .poisoned := by decide +kernel

/-- Refutes O48: a command reads a sector of a listed span where the table of partitions holds its partition twice, and the sector is not poisoned
afterwards. -/
theorem not_engineReadsAndCompletions : ¬ Obligations.EngineReadsAndCompletions := by
  unfold Obligations.EngineReadsAndCompletions
  rintro ⟨reads, -⟩
  obtain ⟨s1, passes⟩ := check_copyState
  obtain ⟨-, -, poisons⟩ := reads copyState s1 0 .bce 0 4 0 0 ownerCmd (.phys 0) (by decide +kernel) passes rfl (by decide +kernel)
  exact mark_readPiece_copyState (poisons (by decide +kernel))

end Sys2Proof.Proofs
end

section
/-! SUPPORT. Payloads and counts of combining records, and the arrival of messages and ARMs (R174 to R183, R188), and the statement
`Arrivals`. -/

namespace Sys2Proof.Proofs

open Sys2Proof Sys2Proof.Machine Sys2Proof.Laws Sys2Proof.Claims

/-! ## Lanes of a payload -/

theorem lane_lt (p : BitVec 256) (i : Nat) : lane p i < 2 ^ 64 := by
  rw [lane, field_eq]
  exact Nat.mod_lt _ (by decide)

/-- Element `i` of joined elements. -/
theorem joinElems_elem (w : Nat) (l : List Nat) (i : Nat) : joinElems w l / 2 ^ (w * i) % 2 ^ w = l.getD i 0 % 2 ^ w := by
  induction l generalizing i with
  | nil => simp [joinElems]
  | cons x l ih =>
    cases i with
    | zero => simp [joinElems]
    | succ i =>
      have tail : (x % 2 ^ w + 2 ^ w * joinElems w l) / 2 ^ w = joinElems w l := by
        rw [Nat.add_mul_div_left _ _ (Nat.two_pow_pos w), Nat.div_eq_of_lt (Nat.mod_lt _ (Nat.two_pow_pos w)), Nat.zero_add]
      rw [joinElems, show w * (i + 1) = w + w * i by ring, Nat.pow_add, ← Nat.div_div_eq_div_mul, tail, ih, List.getD_cons_succ]

theorem lane_ofLanes (l : List Nat) {i : Nat} (hi : i < 4) : lane (ofLanes l) i = l.getD i 0 % 2 ^ 64 := by
  rw [lane, field_eq, ofLanes, BitVec.toNat_ofNat, ← joinElems_elem 64 l i]
  generalize joinElems 64 l = x
  interval_cases i <;> omega

/-- A payload is made of its lanes. -/
theorem ofLanes_lanes (p : BitVec 256) : ofLanes ((upTo 4).map (lane p)) = p := by
  have bound := p.isLt
  apply BitVec.eq_of_toNat_eq
  simp only [ofLanes, upTo, List.range, List.range.loop, List.map, joinElems, lane, field_eq, BitVec.toNat_ofNat]
  omega

/-! ## Folding one lane (R177) -/

/-- What is folded into the identity of an operator is what comes out (R175). -/
theorem foldLane_identity {op m : Nat} (plain : op ∉ [2, 7, 8]) (hm : m < 2 ^ 64) : foldLane op (opIdentity op) m = (m, 0) := by
  have small : m % 2 ^ 64 = m := Nat.mod_eq_of_lt hm
  have greatest : sfield 0x7FFFFFFFFFFFFFFF 64 = 2 ^ 63 - 1 := by decide
  have least : sfield 0x8000000000000000 64 = -2 ^ 63 := by decide
  unfold foldLane opIdentity
  split
  case h_6 | h_7 => simp at plain
  all_goals refine Prod.ext ?_ rfl
  case h_1 =>
    show (0 + m) % 2 ^ 64 = m
    rw [Nat.zero_add, small]
  case h_2 =>
    show (if sfield m 64 < sfield 0x7FFFFFFFFFFFFFFF 64 then m else 0x7FFFFFFFFFFFFFFF) = m
    rw [greatest]
    split
    · rfl
    · rename_i h
      simp only [sfield] at h
      split at h <;> omega
  case h_3 =>
    show (if sfield 0x8000000000000000 64 < sfield m 64 then m else 0x8000000000000000) = m
    rw [least]
    split
    · rfl
    · rename_i h
      simp only [sfield] at h
      split at h <;> omega
  case h_4 => exact Nat.min_eq_right (Nat.le_of_lt_succ hm)
  case h_5 => exact Nat.zero_max m
  case h_8 => exact Nat.zero_or m
  case h_9 => exact (Nat.and_comm _ m).trans ((Nat.and_two_pow_sub_one_eq_mod m 64).trans small)
  case h_10 => exact Nat.zero_xor m
  case h_11 => rfl

/-- The first contribution to a lane of IADD does not wrap (R179). -/
theorem iaddWrap_zero (m : Nat) : iaddWrap 0 m = 0 := by
  have zero : sfield 0 64 = 0 := by decide
  have range : -2 ^ 63 ≤ sfield m 64 ∧ sfield m 64 ≤ 2 ^ 63 - 1 := by
    unfold sfield
    split <;> omega
  simp only [iaddWrap, zero]
  rw [if_neg (by omega), if_neg (by omega)]

/-- What folding leaves of a lane, for the operators of `foldOf`. -/
theorem foldLane_foldOf {op a b v : Nat} (ha : a < 2 ^ 64) (hb : b < 2 ^ 64) (h : foldOf op a b = some v) :
    (foldLane op a b).1 = v ∧ v < 2 ^ 64 := by
  unfold foldOf at h
  split at h <;> simp only [Option.some.injEq, reduceCtorEq] at h <;> subst h
  · exact ⟨rfl, Nat.mod_lt _ (by decide)⟩
  · exact ⟨rfl, by split <;> assumption⟩
  · exact ⟨rfl, by split <;> assumption⟩
  · exact ⟨rfl, lt_of_le_of_lt (Nat.min_le_left a b) ha⟩
  · exact ⟨rfl, Nat.max_lt.mpr ⟨ha, hb⟩⟩
  · exact ⟨rfl, Nat.or_lt_two_pow ha hb⟩
  · exact ⟨rfl, Nat.and_lt_two_pow a hb⟩
  · exact ⟨rfl, Nat.xor_lt_two_pow ha hb⟩

/-- Folding a lane raises no flag but NAN (R180). -/
theorem foldLane_flags (op p m : Nat) : (foldLane op p m).2 = 0 ∨ (foldLane op p m).2 = flagNan := by
  unfold foldLane
  split
  case h_6 | h_7 =>
    split
    · exact .inr rfl
    · exact .inl rfl
  all_goals exact .inl rfl

/-! ## Folding a payload (R177 to R180) -/

/-- An accumulator of FXADD keeps what it holds of MIXED. -/
theorem fxAdd_mixed (x : Fx) (w m : Nat) : (x.add w m).flags.testBit 7 = x.flags.testBit 7 := by
  have inx : flagInx.testBit 7 = false := by decide
  have ovf : Nat.testBit 1 7 = false := by decide
  unfold Fx.add
  split
  · extract_lets num den t f
    clear_value num den t
    have kept : f.testBit 7 = x.flags.testBit 7 := by
      show (if num % den = 0 then x.flags else x.flags ||| flagInx).testBit 7 = _
      split
      · rfl
      · rw [Nat.testBit_or, inx, Bool.or_false]
    split
    · show (f ||| 1).testBit 7 = _
      rw [Nat.testBit_or, ovf, Bool.or_false, kept]
    · exact kept
  · show (x.flags ||| 1).testBit 7 = _
    rw [Nat.testBit_or, ovf, Bool.or_false]

/-- ORing flags of lanes keeps MIXED. -/
theorem orFlags_mixed (l : List (Nat × Nat)) (hl : ∀ x ∈ l, x.2 = 0 ∨ x.2 = flagNan) (f : BitVec 8) :
    (l.foldl (fun f x => f ||| BitVec.ofNat 8 x.2) f).getLsbD 7 = f.getLsbD 7 := by
  induction l generalizing f with
  | nil => rfl
  | cons x l ih =>
    obtain ⟨first, rest⟩ := List.forall_mem_cons.mp hl
    rw [List.foldl_cons, ih rest, BitVec.getLsbD_or]
    rcases first with h | h <;> rw [h] <;> simp [flagNan]

/-- Folding changes the payload, the wrap counts and the flags, of them not MIXED. -/
theorem foldPayload_keeps (r : Rec) (w : Nat) (m : BitVec 256) :
    ∃ p f x, foldPayload r w m = { r with payload := p, flags := f, wrap := x } ∧ f.getLsbD 7 = r.flags.getLsbD 7 := by
  unfold foldPayload
  split
  · refine ⟨_, _, _, rfl, ?_⟩
    have mixed (l : List Nat) (x : Fx) : (l.foldl (fun (x : Fx) i => x.add w (lane m i)) x).flags.testBit 7 = x.flags.testBit 7 := by
      induction l generalizing x with
      | nil => rfl
      | cons i l ih => rw [List.foldl_cons, ih, fxAdd_mixed]
    rw [BitVec.getLsbD_ofNat, mixed, BitVec.testBit_toNat]
    rfl
  · refine ⟨_, _, _, rfl, orFlags_mixed _ ?_ _⟩
    intro x hx
    obtain ⟨i, -, rfl⟩ := List.mem_map.mp hx
    exact foldLane_flags _ _ _

theorem foldPayload_lane {r : Rec} (w : Nat) {m : BitVec 256} {i v : Nat} (hi : i < 4)
    (h : foldOf r.op (lane r.payload i) (lane m i) = some v) : lane (foldPayload r w m).payload i = v := by
  have not2 : r.op ≠ 2 := fun e => by rw [e] at h; cases h
  obtain ⟨fold, small⟩ := foldLane_foldOf (lane_lt _ _) (lane_lt _ _) h
  rw [foldPayload, if_neg not2, lane_ofLanes _ hi]
  have get : (((upTo 4).map (fun i => foldLane r.op (lane r.payload i) (lane m i))).map (·.1)).getD i 0
      = (foldLane r.op (lane r.payload i) (lane m i)).1 := by
    simp [upTo, List.getD_eq_getElem?_getD, hi]
  rw [get, fold, Nat.mod_eq_of_lt small]

/-- The first contribution to a record is its payload. -/
theorem foldPayload_fresh (m : Msg) (w : Nat) (plain : m.op ∉ [2, 7, 8]) :
    foldPayload (Rec.fresh m) w m.payload = { Rec.fresh m with payload := m.payload } := by
  have not2 : (Rec.fresh m).op ≠ 2 := fun e => plain (by simp [show m.op = 2 from e])
  have identity (i : Nat) (hi : i < 4) : lane (Rec.fresh m).payload i = opIdentity m.op := by
    have small : opIdentity m.op < 2 ^ 64 := by unfold opIdentity; split <;> decide
    have get : ((upTo 4).map (fun _ => opIdentity m.op)).getD i 0 = opIdentity m.op := by interval_cases i <;> rfl
    show lane (ofLanes ((upTo 4).map (fun _ => opIdentity m.op))) i = _
    rw [lane_ofLanes _ hi, get, Nat.mod_eq_of_lt small]
  have lanes : (upTo 4).map (fun i => foldLane m.op (lane (Rec.fresh m).payload i) (lane m.payload i))
      = (upTo 4).map (fun i => (lane m.payload i, 0)) := by
    apply List.map_congr_left
    intro i hi
    rw [identity i (List.mem_range.mp hi), foldLane_identity plain (lane_lt _ _)]
  have wraps : (upTo 4).map (fun i => (field (Rec.fresh m).wrap.toNat (8 * i) 8
      + (if m.op = 1 then iaddWrap (lane (Rec.fresh m).payload i) (lane m.payload i) else 0)) % 256) = (upTo 4).map (fun _ => 0) := by
    apply List.map_congr_left
    intro i hi
    rw [identity i (List.mem_range.mp hi)]
    have none : (if m.op = 1 then iaddWrap (opIdentity m.op) (lane m.payload i) else 0) = 0 := by
      split
      · rename_i add
        rw [add]
        exact iaddWrap_zero _
      · rfl
    rw [none]
    simp [Rec.fresh, field_eq]
  have op : (Rec.fresh m).op = m.op := rfl
  rw [foldPayload, if_neg not2]
  simp only [op, lanes, wraps, List.map_map]
  have payload : ofLanes ((upTo 4).map ((fun x : Nat × Nat => x.1) ∘ fun i => (lane m.payload i, 0))) = m.payload := ofLanes_lanes m.payload
  have flags : ((upTo 4).map (fun i => (lane m.payload i, 0))).foldl (fun f (x : Nat × Nat) => f ||| BitVec.ofNat 8 x.2) (Rec.fresh m).flags
      = (Rec.fresh m).flags := by simp [upTo, List.range, List.range.loop]
  have wrap : BitVec.ofNat 32 (joinElems 8 ((upTo 4).map (fun _ => 0))) = (Rec.fresh m).wrap := rfl
  rw [payload, flags, wrap, ← op]

/-! ## Counting (R180 to R182) -/

/-- What a message or an ARM adds to the count of its record (R181). -/
def countArg (m : Msg) : Int :=
  match m.arm with
  | some a => a.toInt
  | none => if m.cnt then -1 else 0

/-- It counts. -/
def counted (m : Msg) : Bool := m.arm.isSome || m.cnt

theorem ofInt_toInt_small {n : Int} (low : -2 ^ 31 ≤ n) (high : n < 2 ^ 31) : (BitVec.ofInt 32 n).toInt = n := by
  rw [BitVec.toInt_ofInt]
  exact Int.bmod_eq_of_le (by omega) (by omega)

theorem countBy_inRange {r : Rec} {d : Int} (fresh : Bool) (low : -2 ^ 31 ≤ r.count.toInt + d) (high : r.count.toInt + d < 2 ^ 31) :
    r.countBy fresh d = { r with
      count := BitVec.ofInt 32 (r.count.toInt + d), c := true,
      flags := if !fresh && !r.c then r.flags ||| BitVec.ofNat 8 flagMixed else r.flags } := by
  have fits : ¬(2 ^ 31 - 1 < r.count.toInt + d ∨ r.count.toInt + d < -(2 ^ 31)) := by omega
  simp only [Rec.countBy, if_neg fits]

/-- What a record has become that a message or an ARM of its identity has folded into. -/
def Folded (m : Msg) (r q : Rec) : Prop :=
  q.launch = r.launch ∧ q.hid = r.hid ∧ q.key = r.key ∧ q.op = r.op ∧ q.src = r.src ∧ q.redo = r.redo
    ∧ q.count.toInt = r.count.toInt + countArg m ∧ q.c = (r.c || counted m) ∧ q.armed = (r.armed || m.arm.isSome)
    ∧ (q.flags.getLsbD 7 = (r.flags.getLsbD 7 || (r.c != counted m)))
    ∧ (m.arm.isSome = true → q.payload = r.payload)
    ∧ (m.arm = none → ∀ i < 4, ∀ v, foldOf m.op (lane r.payload i) (lane m.payload i) = some v → lane q.payload i = v)

theorem apply_folds {r : Rec} {m : Msg} (w : Nat) (op : r.op = m.op) (low : -2 ^ 31 ≤ r.count.toInt + countArg m)
    (high : r.count.toInt + countArg m < 2 ^ 31) : Folded m r (r.apply false w m) := by
  cases arm : m.arm with
  | some a =>
    have arg : countArg m = a.toInt := by simp [countArg, arm]
    rw [arg] at low high
    have counts : counted m = true := by simp [counted, arm]
    simp only [Folded, Rec.apply, arm, countBy_inRange false low high, arg, counts]
    refine ⟨trivial, trivial, trivial, trivial, trivial, trivial, ofInt_toInt_small low high, by simp, by simp, ?_, by simp, by simp⟩
    cases r.c <;> simp [flagMixed]
  | none =>
    obtain ⟨p, f, x, fold, keeps⟩ := foldPayload_keeps r w m.payload
    have kept : f[7] = r.flags[7] := keeps
    have lanes (i : Nat) (hi : i < 4) (v : Nat) (h : foldOf m.op (lane r.payload i) (lane m.payload i) = some v) : lane p i = v := by
      have := foldPayload_lane w hi (op.symm ▸ h)
      rwa [fold] at this
    cases cnt : m.cnt with
    | true =>
      have arg : countArg m = -1 := by simp [countArg, arm, cnt]
      rw [arg] at low high
      have counts : counted m = true := by simp [counted, cnt]
      have count := countBy_inRange (r := foldPayload r w m.payload) (d := -1) false (by rw [fold]; exact low) (by rw [fold]; exact high)
      simp only [Folded, Rec.apply, arm, cnt, if_true, count, arg, counts]
      simp only [fold]
      refine ⟨trivial, trivial, trivial, trivial, trivial, trivial, ofInt_toInt_small low high, by simp, by simp, ?_, by simp,
        fun _ => lanes⟩
      cases r.c <;> simp [kept, flagMixed]
    | false =>
      have arg : countArg m = 0 := by simp [countArg, arm, cnt]
      have counts : counted m = false := by simp [counted, arm, cnt]
      simp only [Folded, Rec.apply, arm, cnt, Bool.false_eq_true, if_false, fold, arg, counts]
      cases hc : r.c with
      | true =>
        simp only [Bool.not_false, Bool.true_and, if_true]
        exact ⟨trivial, trivial, trivial, trivial, trivial, trivial, by simp, by simp, by simp, by simp [flagMixed], by simp,
          fun _ => lanes⟩
      | false =>
        simp only [Bool.not_false, Bool.true_and, Bool.false_eq_true, if_false]
        exact ⟨trivial, trivial, trivial, trivial, trivial, trivial, by simp, by simp, by simp, by simp [kept], by simp,
          fun _ => lanes⟩

/-- What a record is that a message or an ARM has made. -/
def Made (m : Msg) (r : Rec) : Prop :=
  r.launch = m.launch ∧ r.hid = m.hid ∧ r.key = m.key ∧ r.op = m.op ∧ r.src = m.src ∧ r.nc = false ∧ r.redo = 0
    ∧ r.count.toInt = countArg m ∧ r.c = counted m ∧ r.armed = m.arm.isSome ∧ r.flags = 0 ∧ r.wrap = 0 ∧ r.spill = none
    ∧ (m.arm = none → r.payload = m.payload)

theorem apply_makes (m : Msg) (w : Nat) (plain : m.op ∉ [2, 7, 8]) : Made m ((Rec.fresh m).apply true w m) := by
  have count : (Rec.fresh m).count.toInt = 0 := by simp [Rec.fresh]
  cases arm : m.arm with
  | some a =>
    have low := BitVec.le_toInt a
    have high := BitVec.toInt_lt (x := a)
    have arg : countArg m = a.toInt := by simp [countArg, arm]
    have made := countBy_inRange (r := Rec.fresh m) (d := a.toInt) true (by rw [count]; omega) (by rw [count]; omega)
    simp only [Made, Rec.apply, arm, made, count, arg, counted]
    exact ⟨rfl, rfl, rfl, rfl, rfl, rfl, rfl, by rw [zero_add]; exact ofInt_toInt_small (by omega) (by omega),
      by simp, by simp, rfl, rfl, rfl, by simp⟩
  | none =>
    cases cnt : m.cnt with
    | true =>
      have arg : countArg m = -1 := by simp [countArg, arm, cnt]
      have made := countBy_inRange (r := { Rec.fresh m with payload := m.payload }) (d := -1) true (by simp [Rec.fresh]) (by simp [Rec.fresh])
      simp only [Made, Rec.apply, arm, cnt, if_true, foldPayload_fresh m w plain, made, arg, counted]
      exact ⟨rfl, rfl, rfl, rfl, rfl, rfl, rfl, by simp [Rec.fresh], by simp, by simp [Rec.fresh], rfl, rfl, rfl,
        by simp⟩
    | false =>
      have arg : countArg m = 0 := by simp [countArg, arm, cnt]
      simp only [Made, Rec.apply, arm, cnt, Bool.false_eq_true, if_false, foldPayload_fresh m w plain, arg, counted, Bool.not_true, Bool.false_and]
      exact ⟨rfl, rfl, rfl, rfl, rfl, rfl, rfl, by simp [Rec.fresh], by simp [Rec.fresh], by simp [Rec.fresh], rfl, rfl,
        rfl, by simp⟩

/-- A stamp changes nothing but the age (R165, R183). -/
theorem stampIf_eq (r : Rec) (was : Bool) (cycle : Word) (ord : Nat) : ∃ a b, r.stampIf was cycle ord = { r with since := a, ord := b } := by
  unfold Rec.stampIf
  split <;> exact ⟨_, _, rfl⟩

theorem stampIf_folded {m : Msg} {r q : Rec} (h : Folded m r q) (was : Bool) (cycle : Word) (ord : Nat) :
    Folded m r (q.stampIf was cycle ord) := by
  obtain ⟨a, b, e⟩ := stampIf_eq q was cycle ord
  rw [e]
  exact h

theorem stampIf_made {m : Msg} {r : Rec} (h : Made m r) (was : Bool) (cycle : Word) (ord : Nat) : Made m (r.stampIf was cycle ord) := by
  obtain ⟨a, b, e⟩ := stampIf_eq r was cycle ord
  rw [e]
  exact h

/-! ## A place for a record (R186, R188) -/

section
variable {s : State} {c : Nat} {l : Launch} {o : OnCore}

/-- A core takes a record into its list. -/
def withRec (s : State) (c : Nat) (r : Rec) : State :=
  s.modCore c (fun co => { co with records := co.records ++ [r], stamp := co.stamp + 1 })

theorem placeRec_slot {r : Rec} (launch : s.launch r.launch = some l) (on : (s.core c).on r.launch = some o) (unspilled : r.spill = none)
    (room : ((s.core c).records.filter (fun x => x.spill.isNone)).length < 256) : s.placeRec c r = some (withRec s c r) := by
  have same : ({ r with spill := none } : Rec) = r := by rw [← unspilled]
  simp only [State.placeRec, launch, on, unspilled, if_pos room, Option.map_some, same]
  rfl

theorem placeRec_full {r : Rec} (launch : s.launch r.launch = some l) (on : (s.core c).on r.launch = some o) (unspilled : r.spill = none)
    (full : 256 ≤ ((s.core c).records.filter (fun x => x.spill.isNone)).length) (noTable : l.qspn = 0) : s.placeRec c r = none := by
  simp [State.placeRec, launch, on, unspilled, Nat.not_lt.mpr full, noTable, upTo]

/-! ## Delivery (R174 to R176) -/

/-- The test by which a core looks for the record of a message. -/
theorem isRecordOf_eq (m : Msg) : (fun r : Rec => m.op != 0 && !r.nc && r.launch == m.launch && r.hid == m.hid && r.key == m.key && r.op == m.op)
    = isRecordOf m := by
  funext r
  simp [isRecordOf, Bool.decide_and, Bool.and_assoc, beq_eq_decide, bne]

/-- The record that a message without one makes. -/
def newRec (s : State) (c : Nat) (l : Launch) (m : Msg) : Rec :=
  ((Rec.fresh m).apply true (field (l.handler m.hid) 40 8) m).stampIf false (s.core c).cycle (s.core c).stamp

theorem newRec_place (s : State) (c : Nat) (l : Launch) (m : Msg) :
    (newRec s c l m).launch = m.launch ∧ (newRec s c l m).spill = none := by
  obtain ⟨a, b, stamp⟩ := stampIf_eq ((Rec.fresh m).apply true (field (l.handler m.hid) 40 8) m) false (s.core c).cycle (s.core c).stamp
  obtain ⟨p, g, x, fold, -⟩ := foldPayload_keeps (Rec.fresh m) (field (l.handler m.hid) 40 8) m.payload
  rw [newRec, stamp]
  cases arm : m.arm with
  | some _ =>
    simp only [Rec.apply, arm, Rec.countBy]
    exact ⟨rfl, rfl⟩
  | none =>
    cases cnt : m.cnt <;> simp only [Rec.apply, arm, cnt, if_true, Bool.false_eq_true, if_false, Bool.not_true, Bool.false_and, Rec.countBy, fold]
    · exact ⟨rfl, rfl⟩
    · exact ⟨rfl, rfl⟩

theorem deliver_new {m : Msg} (handled : l.handlerV m.hid = true) (none : ∀ r ∈ (s.core c).records, isRecordOf m r = false) :
    s.deliver c l m = s.placeRec c (newRec s c l m) := by
  have absent : (s.core c).records.find? (isRecordOf m) = Option.none := List.find?_eq_none.mpr (fun r hr => by simp [none r hr])
  simp only [State.deliver, handled, Bool.not_true, Bool.false_eq_true, if_false, isRecordOf_eq, absent]
  rfl

/-- What the record of a message becomes. -/
def mergedRec (s : State) (c : Nat) (l : Launch) (m : Msg) (r : Rec) : Rec :=
  (r.apply false (field (l.handler m.hid) 40 8) m).stampIf r.runnable (s.core c).cycle (s.core c).stamp

theorem deliver_folds {m : Msg} {r : Rec} (handled : l.handlerV m.hid = true) (found : (s.core c).records.find? (isRecordOf m) = some r)
    (unspilled : r.spill = none) : s.deliver c l m = some (s.foldRec c r (mergedRec s c l m r)) := by
  have now : s.recNow c r = some r := by simp only [State.recNow, unspilled]
  simp only [State.deliver, handled, Bool.not_true, Bool.false_eq_true, if_false, isRecordOf_eq, found, now]
  rfl

theorem foldRec_slot {r : Rec} (unspilled : r.spill = none) (q : Rec) : s.foldRec c r q
    = s.modCore c (fun co => { co with records := co.records.map (fun x => if x == r then q else x), stamp := co.stamp + 1 }) := by
  simp only [State.foldRec, State.putSpill, unspilled]

end

/-! ## Arrival -/

section
variable {s : State} {ix n : Nat} {f : Flight} {l : Launch} {o : OnCore}

theorem answers_eq (s : State) (f : Flight) : ∃ q, s.answers f = { s with seqs := q } := by
  unfold State.answers
  split
  · split <;> exact ⟨_, rfl⟩
  · exact ⟨_, rfl⟩

/-- The event of a flight's arrival. -/
noncomputable def arrivalOf (f : Flight) (ix : Nat) (ok : Bool) : Instr := if f.msg.arm.isSome then .armArrival ix ok else .messageArrival ix ok

theorem exec_arrivalOf (f : Flight) (ix : Nat) (ok : Bool) (s : State) : exec (arrivalOf f ix ok) s = .next (arrival f.msg.arm.isSome ix ok s) := by
  unfold arrivalOf
  cases f.msg.arm <;> rfl

theorem arrival_ok (flies : s.net[ix]? = some f) (due : s.arrives f = true) : arrival f.msg.arm.isSome ix true s = s.arrive ix f := by
  simp [arrival, flies, due]

theorem arrival_fails (flies : s.net[ix]? = some f) (due : s.arrives f = true) (mesh : f.unit ≠ f.sender) :
    arrival f.msg.arm.isSome ix false s = s.tagFails ix f := by
  simp [arrival, flies, due, mesh]

/-- The state in which a flight that has arrived is delivered. -/
def landed (s : State) (ix : Nat) (f : Flight) : State := ({ s with net := dropAt s.net ix } : State).answers f

theorem landed_eq (s : State) (ix : Nat) (f : Flight) : ∃ q, landed s ix f = { s with net := dropAt s.net ix, seqs := q } := answers_eq _ f

theorem landed_core (s : State) (ix : Nat) (f : Flight) (c : Nat) : (landed s ix f).core c = s.core c := by
  obtain ⟨q, h⟩ := landed_eq s ix f
  rw [h]; rfl

theorem landed_launch (s : State) (ix : Nat) (f : Flight) (i : Nat) : (landed s ix f).launch i = s.launch i := by
  obtain ⟨q, h⟩ := landed_eq s ix f
  rw [h]; rfl

theorem landed_net (s : State) (ix : Nat) (f : Flight) : (landed s ix f).net = dropAt s.net ix := by
  obtain ⟨q, h⟩ := landed_eq s ix f
  rw [h]

theorem landed_mem (s : State) (ix : Nat) (f : Flight) : (landed s ix f).mem = s.mem := by
  obtain ⟨q, h⟩ := landed_eq s ix f
  rw [h]

/-- A message of a running launch that is no fault record is delivered, or waits and stops its launch's messages (R188). -/
theorem arrive_delivers (dest : f.msg.dest = .core n) (launch : s.launch f.msg.launch = some l) (running : l.phase = .running)
    (plain : f.msg.mon = false ∨ f.msg.hid ≠ 63) : s.arrive ix f = ((landed s ix f).deliver (l.phys n) l f.msg).getD
      (s.modCore (l.phys n) (fun co => { co with niStop := f.msg.launch :: co.niStop })) := by
  have noRecord : (f.msg.mon && f.msg.hid == 63) = false := by rcases plain with h | h <;> simp [h]
  unfold State.arrive
  simp only [dest, launch, running, noRecord, Bool.false_eq_true, if_false]
  rfl

theorem arrive_ending (dest : f.msg.dest = .core n) (launch : s.launch f.msg.launch = some l) (ending : ∃ a b k, l.phase = .ending a b k) :
    s.arrive ix f = (landed s ix f).countAt f.unit := by
  obtain ⟨a, b, k, phase⟩ := ending
  unfold State.arrive
  simp only [dest, launch, phase]
  rfl

/-- A launch whose messages an NI has stopped accepting has none that arrives there (R188). -/
theorem arrives_stopped (dest : f.msg.dest = .core n) (launch : s.launch f.msg.launch = some l) (running : l.phase = .running)
    (stopped : f.msg.launch ∈ (s.core (l.phys n)).niStop) : s.arrives f = false := by
  simp [State.arrives, dest, launch, running, stopped]

end

/-! ## The clauses of the statement -/

section
variable {s : State} {ix n : Nat} {f : Flight} {l : Launch} {o : OnCore} (flies : s.net[ix]? = some f) (dest : f.msg.dest = .core n)
  (launch : s.launch f.msg.launch = some l) (due : s.arrives f = true)
include flies dest launch due

section
variable (running : l.phase = .running) (on : (s.core (l.phys n)).on f.msg.launch = some o) (handled : l.handlerV f.msg.hid = true)
  (plain : f.msg.mon = false ∨ f.msg.hid ≠ 63)
include running on handled plain

theorem arrival_makes (room : ((s.core (l.phys n)).records.filter (fun x => x.spill.isNone)).length < 256)
    (none : ∀ r ∈ (s.core (l.phys n)).records, isRecordOf f.msg r = false) (op : f.msg.op ∉ [2, 7, 8]) :
    ∃ u r, exec (arrivalOf f ix true) s = .next u ∧ u.net = dropAt s.net ix
      ∧ (u.core (l.phys n)).records = (s.core (l.phys n)).records ++ [r] ∧ u.mem = s.mem ∧ Made f.msg r := by
  have made : Made f.msg (newRec (landed s ix f) (l.phys n) l f.msg) := stampIf_made (apply_makes f.msg _ op) _ _ _
  obtain ⟨ofLaunch, unspilled⟩ := newRec_place (landed s ix f) (l.phys n) l f.msg
  have place : (landed s ix f).deliver (l.phys n) l f.msg = some (withRec (landed s ix f) (l.phys n) (newRec (landed s ix f) (l.phys n) l f.msg)) := by
    rw [deliver_new handled (by rw [landed_core]; exact none)]
    exact placeRec_slot (l := l) (o := o) (by rw [ofLaunch, landed_launch]; exact launch) (by rw [ofLaunch, landed_core]; exact on) unspilled
      (by rw [landed_core]; exact room)
  refine ⟨_, newRec (landed s ix f) (l.phys n) l f.msg, exec_arrivalOf f ix true s, ?_⟩
  rw [arrival_ok flies due, arrive_delivers dest launch running plain, place, Option.getD_some]
  refine ⟨landed_net s ix f, ?_, landed_mem s ix f, made⟩
  rw [withRec, core_modCore_self, landed_core]

omit on in
theorem arrival_folds {r : Rec} (found : (s.core (l.phys n)).records.find? (isRecordOf f.msg) = some r) (unspilled : r.spill = none)
    (low : -2 ^ 31 ≤ r.count.toInt + countArg f.msg) (high : r.count.toInt + countArg f.msg < 2 ^ 31) :
    ∃ u q, exec (arrivalOf f ix true) s = .next u ∧ u.net = dropAt s.net ix
      ∧ (u.core (l.phys n)).records = (s.core (l.phys n)).records.map (fun x => if x = r then q else x) ∧ u.mem = s.mem ∧ Folded f.msg r q := by
  have op : r.op = f.msg.op := by
    have is := List.find?_some found
    simp only [isRecordOf, decide_eq_true_eq] at is
    exact is.2.2.2.2.2
  have place := deliver_folds (s := landed s ix f) (c := l.phys n) handled (by rw [landed_core]; exact found) unspilled
  refine ⟨_, mergedRec (landed s ix f) (l.phys n) l f.msg r, exec_arrivalOf f ix true s, ?_⟩
  rw [arrival_ok flies due, arrive_delivers dest launch running plain, place, Option.getD_some, foldRec_slot unspilled]
  refine ⟨landed_net s ix f, ?_, landed_mem s ix f, stampIf_folded (apply_folds _ op low high) _ _ _⟩
  rw [core_modCore_self, landed_core]
  simp only [beq_iff_eq]

theorem arrival_waits (full : 256 ≤ ((s.core (l.phys n)).records.filter (fun x => x.spill.isNone)).length) (noTable : l.qspn = 0)
    (none : ∀ r ∈ (s.core (l.phys n)).records, isRecordOf f.msg r = false) :
    ∃ u, exec (arrivalOf f ix true) s = .next u ∧ u.net = s.net ∧ (u.core (l.phys n)).records = (s.core (l.phys n)).records ∧ u.mem = s.mem
      ∧ u.arrives f = false := by
  obtain ⟨ofLaunch, unspilled⟩ := newRec_place (landed s ix f) (l.phys n) l f.msg
  have noPlace : (landed s ix f).deliver (l.phys n) l f.msg = Option.none := by
    rw [deliver_new handled (by rw [landed_core]; exact none)]
    exact placeRec_full (l := l) (o := o) (by rw [ofLaunch, landed_launch]; exact launch) (by rw [ofLaunch, landed_core]; exact on) unspilled
      (by rw [landed_core]; exact full) noTable
  refine ⟨_, exec_arrivalOf f ix true s, ?_⟩
  rw [arrival_ok flies due, arrive_delivers dest launch running plain, noPlace, Option.getD_none]
  refine ⟨rfl, by rw [core_modCore_self], rfl, arrives_stopped (n := n) dest launch running ?_⟩
  rw [core_modCore_self]
  exact List.mem_cons_self

end

/-- A message to a launch whose state departs (R95). -/
theorem arrival_discards (ending : ∃ a b k, l.phase = .ending a b k) :
    ∃ u, exec (arrivalOf f ix true) s = .next u ∧ u.net = dropAt s.net ix ∧ (∀ c, (u.core c).records = (s.core c).records) ∧ u.mem = s.mem
      ∧ mget 0 u.counts f.unit = mget 0 s.counts f.unit + 1 := by
  obtain ⟨q, land⟩ := landed_eq s ix f
  refine ⟨_, exec_arrivalOf f ix true s, ?_⟩
  rw [arrival_ok flies due, arrive_ending dest launch ending, land]
  exact ⟨rfl, fun _ => rfl, rfl, mget_mset_self _ _ _ _⟩

end

section
variable {s : State} {ix : Nat} {f : Flight} {p : Nat}

/-- A message that fails its tag check at its destination (R77). -/
theorem arrival_tagFails (flies : s.net[ix]? = some f) (due : s.arrives f = true) (mesh : f.unit ≠ f.sender) (part : (s.vf f.vf).part = some p) :
    ∃ u, exec (arrivalOf f ix false) s = .next u ∧ u.net = setAt s.net ix { f with nacked := true } ∧ u.mem = s.mem
      ∧ (∀ c, (u.core c).records = (s.core c).records)
      ∧ ((u.part p).meters[13]).toNat = min (((s.part p).meters[13]).toNat + 1) (2 ^ 64 - 1) := by
  obtain ⟨q, answered⟩ := answers_eq { s with net := setAt s.net ix { f with nacked := true } } f
  refine ⟨_, exec_arrivalOf f ix false s, ?_⟩
  rw [arrival_fails flies due mesh, State.tagFails, part, answered]
  refine ⟨rfl, rfl, fun _ => rfl, ?_⟩
  rw [part_modPart_self]
  exact meter_tagFail _

/-- A message is sent again (R77). -/
theorem nack_resends (flies : s.net[ix]? = some f) (nacked : f.nacked = true) (few : f.nacks < 3) (part : (s.vf f.vf).part = some p) :
    ∃ u, exec (.nack ix) s = .next u
      ∧ u.net = setAt s.net ix { f with nacked := false, nacks := f.nacks + 1, seq := (s.seqOf f.sender p).toNat } ∧ u.mem = s.mem
      ∧ u.seqOf f.sender p = s.seqOf f.sender p + 1 := by
  refine ⟨(({ s with net := setAt s.net ix { f with nacked := false, nacks := f.nacks + 1, seq := (s.seqOf f.sender p).toNat } } : State).packet
    f.sender p), ?_, rfl, rfl, mget_mset_self _ _ _ _⟩
  show execNack ix s = _
  simp only [execNack, flies, nacked, Bool.not_true, Bool.false_eq_true, if_false, if_pos few, part]

/-- A fault record that a core forwards to its launch (R389, R390). -/
theorem forwardRec_sends {c i : Nat} {o : OnCore} (on : (s.core c).on i = some o) (x4 ptr pc info : Nat) :
    ∃ g, (s.forwardRec c i x4 ptr pc info).net = s.net ++ [g] ∧ g.msg.launch = i ∧ g.msg.dest = .core o.lcore ∧ g.msg.hid = 63 ∧ g.msg.mon = true
      ∧ g.msg.payload = BitVec.ofNat 256 (x4 + ptr * 2 ^ 64 + pc * 2 ^ 128 + info * 2 ^ 192) := by
  simp only [State.forwardRec, on]
  obtain ⟨g, net, msg⟩ := post_net s (coreUnit c)
    { msg := { launch := i, dest := .core o.lcore, hid := 63, key := 0, op := 0, cnt := false, src := o.lcore,
               payload := BitVec.ofNat 256 (x4 + ptr * 2 ^ 64 + pc * 2 ^ 128 + info * 2 ^ 192), arm := none, mon := true },
      fromCore := c, fromStr := 0, after := 0, slot := false, actId := 0, nacks := 0, nacked := false }
  exact ⟨g, net, by rw [msg], by rw [msg], by rw [msg], by rw [msg], by rw [msg]⟩

/-- The fourth failure of a message is reported (R77). -/
theorem nack_reports {q : OnCore} (flies : s.net[ix]? = some f) (nacked : f.nacked = true) (many : 3 ≤ f.nacks)
    (on : (s.core f.fromCore).on f.msg.launch = some q) :
    ∃ u x, exec (.nack ix) s = .next u ∧ u.net = dropAt s.net ix ++ [x] ∧ x.msg.hid = 63 ∧ x.msg.dest = .core q.lcore
      ∧ x.msg.payload.toNat % 2 ^ 64 = 2 * 2 ^ 20 + 0x21 := by
  obtain ⟨x, net, -, dest, hid, -, payload⟩ := forwardRec_sends (s := { s with net := dropAt s.net ix }) (c := f.fromCore) on
    (recWord 0 0 2 0 0 0x21) 0 0 (msgInfo f.msg)
  refine ⟨s.giveUp ix f, x, ?_, net, hid, dest, ?_⟩
  · show execNack ix s = _
    simp only [execNack, flies, nacked, Bool.not_true, Bool.false_eq_true, if_false, if_neg (Nat.not_lt.mpr many)]
  · rw [payload, BitVec.toNat_ofNat, recWord]
    omega

end

/-- Settles O49: what each event does to a flight whose launch the package knows. -/
theorem arrivals : Obligations.Arrivals := by
  unfold Obligations.Arrivals
  intro s ix f l o n flies dest launch
  refine ⟨fun due running on handled plain room => ⟨?_, ?_⟩, ?_, ?_, ?_, ?_, ?_⟩
  · exact fun none op => arrival_makes flies dest launch due running on handled plain room none op
  · exact fun r found unspilled low high => arrival_folds flies dest launch due running handled plain found unspilled low high
  · exact fun due running on handled plain full noTable none => arrival_waits flies dest launch due running on handled plain full noTable none
  · intro due ending
    obtain ⟨u, run, net, records, mem, counts⟩ := arrival_discards flies dest launch due ending
    exact ⟨u, run, net, records _, mem, counts⟩
  · intro p due mesh part
    obtain ⟨u, run, net, mem, records, meter⟩ := arrival_tagFails flies due mesh part
    exact ⟨u, run, net, mem, records _, meter⟩
  · exact fun p nacked few part => nack_resends flies nacked few part
  · exact fun nacked many q on => nack_reports flies nacked many on

end Sys2Proof.Proofs
end

section
/-! SUPPORT. What cycles leave, the walk through the quantum table, QUANTUM_START, writes of the table, and SWITCH that waits (R377 to R381): lemmas for the
statement `Rotation`. -/

namespace Sys2Proof.Proofs

open Sys2Proof Sys2Proof.Machine Sys2Proof.Laws Sys2Proof.Claims

/-! ## Cycles that pass on cores -/

/-- All that cycles which pass without an instruction may change (R384, R436, R442). -/
structure Waited (s u : State) : Prop where
  rest : u = { s with cores := u.cores, parts := u.parts }
  core : ∀ d, ∃ r y v w, u.core d = { s.core d with res := r, cycle := y, vfs := v, wear := w } ∧ w.state = (s.core d).wear.state
  part : ∀ p, ∃ m w, u.part p = { s.part p with meters := m, wearSub := w }
  spans : ∀ x ∈ u.allSpans, x ∈ s.allSpans

theorem Waited.refl (s : State) : Waited s s := ⟨rfl, fun _ => ⟨_, _, _, _, rfl, rfl⟩, fun _ => ⟨_, _, rfl⟩, fun _ hx => hx⟩

theorem Waited.trans {s t u : State} (h : Waited s t) (g : Waited t u) : Waited s u where
  rest := g.rest.trans (by rw [h.rest])
  core d := by
    obtain ⟨r, y, v, w, e, hw⟩ := h.core d
    obtain ⟨r', y', v', w', e', hw'⟩ := g.core d
    exact ⟨r', y', v', w', by rw [e', e], by rw [hw', e]; exact hw⟩
  part p := by
    obtain ⟨m, w, e⟩ := h.part p
    obtain ⟨m', w', e'⟩ := g.part p
    exact ⟨m', w', by rw [e', e]⟩
  spans x hx := h.spans x (g.spans x hx)

/-- A change of a partition that keeps its spans lists no new span. -/
theorem modPart_spans {s : State} {p : Nat} {f : Partition → Partition} (hf : (f (s.part p)).spans = (s.part p).spans) :
    ∀ x ∈ (s.modPart p f).allSpans, x ∈ s.allSpans := by
  intro x hx
  obtain ⟨⟨q, v⟩, entry, spans⟩ := List.mem_flatMap.mp hx
  rcases mem_mset entry with h | ⟨old, -⟩
  · obtain ⟨rfl, rfl⟩ := Prod.mk.inj h
    dsimp only at spans
    rw [hf, State.part, mget] at spans
    cases found : mfind s.parts q with
    | none => rw [found] at spans; cases spans
    | some v => rw [found] at spans; exact List.mem_flatMap.mpr ⟨_, mem_of_mfind found, spans⟩
  · exact List.mem_flatMap.mpr ⟨_, old, spans⟩

theorem pass_wear_state (co : Core) (live : List Nat) (i : Bool) (l : Option Nat) (n : Nat) :
    (co.pass live i l n).wear.state = co.wear.state := rfl

theorem meter_spans (q : Partition) (i n : Nat) : (q.meter i n).spans = q.spans := by
  unfold Partition.meter
  split <;> rfl

theorem waited_wait (s : State) (c : Nat) : Waited s (s.wait c) where
  rest := by
    unfold State.wait State.elapse
    dsimp only
    split <;> rfl
  core d := by
    obtain ⟨r, y, v, w, e⟩ := elapse_core s c false none (Config.cycles (s.tick + c)) d
    refine ⟨r, y, v, w, e, ?_⟩
    by_cases same : d = c
    · subst same
      rw [elapse_core_self] at e
      exact (congrArg (fun co : Core => co.wear.state) e).symm.trans (pass_wear_state ..)
    · have keep : (s.wait c).core d = s.core d := by
        unfold State.wait State.elapse
        dsimp only
        split
        · rw [core_modPart, core_modCore_ne _ _ same]
        · rw [core_modCore_ne _ _ same]
      exact (congrArg (fun co : Core => co.wear.state) (e.symm.trans keep))
  part p := elapse_part ..
  spans := by
    unfold State.wait State.elapse
    dsimp only
    split
    · exact modPart_spans (by exact meter_spans ..)
    · exact fun x hx => hx

theorem waited_foldl (l : List Nat) (s : State) : Waited s (l.foldl State.wait s) :=
  List.foldlRecOn (motive := fun u => Waited s u) l _ (.refl s) (fun u hu c _ => hu.trans (waited_wait u c))

section
variable {s u : State}

theorem Waited.mem (h : Waited s u) : u.mem = s.mem := by rw [h.rest]

theorem Waited.launch (h : Waited s u) (l : Nat) : u.launch l = s.launch l := by rw [h.rest]; rfl

theorem Waited.vf (h : Waited s u) (f : Nat) : u.vf f = s.vf f := by rw [h.rest]; rfl

theorem Waited.liveCores (h : Waited s u) (p : Nat) : u.liveCores p = s.liveCores p := by
  obtain ⟨m, w, part⟩ := h.part p
  unfold State.liveCores
  rw [part]
  refine List.filter_congr (fun d _ => ?_)
  obtain ⟨r, y, v, w, core, state⟩ := h.core d
  rw [core]
  dsimp only
  rw [state]

theorem Waited.walkTable (h : Waited s u) (p : Nat) : u.walkTable p = s.walkTable p := by
  obtain ⟨m, w, part⟩ := h.part p
  have admitted : u.hasAdmitted = s.hasAdmitted := by rw [h.rest]; rfl
  have same : u.qualifies p = s.qualifies p := by
    funext i
    unfold State.qualifies
    dsimp only
    rw [part, admitted, h.vf]
    rfl
  unfold State.walkTable
  rw [same, part]

end

/-! ## Telling the cores of a partition -/

section
variable {w : Core → CoreSw}

/-- Every core of the list that is told the same state has it, and the others keep theirs. -/
theorem core_tell (told : ∀ co, w { co with sw := w co } = w co) (l : List Nat) (s : State) (d : Nat) :
    (l.foldl (fun s c => s.modCore c (fun co => { co with sw := w co })) s).core d
      = if d ∈ l then { s.core d with sw := w (s.core d) } else s.core d := by
  induction l generalizing s with
  | nil => simp
  | cons c t ih =>
    rw [List.foldl_cons, ih]
    by_cases first : d = c
    · subst first
      by_cases again : d ∈ t <;> simp [again, told]
    · by_cases later : d ∈ t <;> simp [later, first, core_modCore_ne _ _ first]

theorem tellCores_rest (s : State) (p : Nat) (w : Core → CoreSw) : s.tellCores p w = { s with cores := (s.tellCores p w).cores } :=
  List.foldlRecOn (motive := fun u : State => u = { s with cores := u.cores }) _ _ rfl (fun u hu c _ => by
    conv_lhs => rw [hu]
    rfl)

theorem tellCores_core (told : ∀ co, w { co with sw := w co } = w co) (s : State) (p d : Nat) :
    (s.tellCores p w).core d = if d ∈ s.liveCores p then { s.core d with sw := w (s.core d) } else s.core d :=
  core_tell told _ s d

theorem tellCores_mem (s : State) (p : Nat) (w : Core → CoreSw) : (s.tellCores p w).mem = s.mem := by rw [tellCores_rest]

theorem tellCores_part (s : State) (p : Nat) (w : Core → CoreSw) (q : Nat) : (s.tellCores p w).part q = s.part q := by
  rw [tellCores_rest]; rfl

end

theorem liveCores_modPart (s : State) (p : Nat) {f : Partition → Partition} (hf : (f (s.part p)).clusters = (s.part p).clusters) :
    (s.modPart p f).liveCores p = s.liveCores p := by
  unfold State.liveCores
  rw [part_modPart_self, Partition.cores, hf]
  rfl

/-! ## QUANTUM_EXPIRY (R378, R380) -/

/-- A partition is as given, meters apart. -/
def SameBut (u : State) (p : Nat) (r : Partition) : Prop := u.part p = { r with meters := (u.part p).meters, wearSub := (u.part p).wearSub }

theorem sameBut_of_waited {s u v : State} {p : Nat} (h : Waited s u) {f : Partition → Partition}
    (hf : ∀ q m w, f { q with meters := m, wearSub := w } = { f q with meters := m, wearSub := w }) (hv : v.part p = f (u.part p)) :
    SameBut v p (f (s.part p)) := by
  obtain ⟨m, w, part⟩ := h.part p
  rw [part, hf] at hv
  rw [SameBut, hv]

section
variable {s : State} {p i : Nat}

theorem exec_quantumExpiry_runs (steady : (s.part p).rot = .steady true) (running : (s.part p).pstate = .running) :
    exec (.quantumExpiry p) s = .next (((s.liveCores p).foldl State.wait s).schedStep p) := by
  change execQuantumExpiry p s = _
  unfold execQuantumExpiry
  rw [steady]
  simp [running]

theorem modPart_again (s : State) (p : Nat) (f g : Partition → Partition) : (s.modPart p f).modPart p g = s.modPart p (fun q => g (f q)) :=
  congrArg (fun x => { s with parts := x }) (modPart_modPart s p f g)

/-- The walk comes to the function that stands: it stays. -/
theorem schedStep_stays {f : Nat} (found : s.walkTable p = some i) (entry : field ((s.part p).qent i) 32 9 = f) (stands : (s.part p).sched = some f) :
    s.schedStep p = s.modPart p (fun q => { q with qpos := (i + 1) % 32, rot := .steady true }) := by
  unfold State.schedStep
  dsimp only
  rw [found]
  dsimp only
  rw [stands, entry]
  dsimp only
  rw [if_pos rfl, modPart_again]

/-- It comes to another one: the cores are told to switch. -/
theorem schedStep_switches {f o : Nat} (found : s.walkTable p = some i) (entry : field ((s.part p).qent i) 32 9 = f) (stands : (s.part p).sched = some o)
    (other : o ≠ f) : s.schedStep p
      = (s.modPart p (fun q => { q with qpos := (i + 1) % 32, rot := .saving o f })).tellCores p (fun co => .told o f co.cycle) := by
  unfold State.schedStep
  dsimp only
  rw [found]
  dsimp only
  rw [stands, entry]
  dsimp only
  rw [if_neg other, modPart_again]

theorem quantumExpiry_stays (steady : (s.part p).rot = .steady true) (running : (s.part p).pstate = .running) (found : s.walkTable p = some i)
    (stands : (s.part p).sched = some (field ((s.part p).qent i) 32 9)) :
    ∃ u, exec (.quantumExpiry p) s = .next u ∧ SameBut u p { s.part p with qpos := (i + 1) % 32, rot := .steady true } ∧ u.mem = s.mem := by
  have waited := waited_foldl (s.liveCores p) s
  obtain ⟨m, w, part⟩ := waited.part p
  refine ⟨_, exec_quantumExpiry_runs steady running, ?_, ?_⟩ <;>
    rw [schedStep_stays ((waited.walkTable p).trans found) rfl (by rw [part]; exact stands)]
  · exact sameBut_of_waited waited (f := fun q => { q with qpos := (i + 1) % 32, rot := .steady true }) (fun _ _ _ => rfl) (part_modPart_self ..)
  · exact waited.mem

theorem quantumExpiry_switches {o : Nat} (steady : (s.part p).rot = .steady true) (running : (s.part p).pstate = .running)
    (found : s.walkTable p = some i) (stands : (s.part p).sched = some o) (other : o ≠ field ((s.part p).qent i) 32 9) :
    let f := field ((s.part p).qent i) 32 9
    ∃ u, exec (.quantumExpiry p) s = .next u ∧ SameBut u p { s.part p with qpos := (i + 1) % 32, rot := .saving o f } ∧ u.mem = s.mem
      ∧ ∀ c ∈ s.liveCores p, (u.core c).sw = .told o f (u.core c).cycle := by
  have waited := waited_foldl (s.liveCores p) s
  obtain ⟨m, w, part⟩ := waited.part p
  refine ⟨_, exec_quantumExpiry_runs steady running, ?_⟩
  rw [schedStep_switches ((waited.walkTable p).trans found) (by rw [part]; rfl) (by rw [part]; exact stands) other]
  refine ⟨?_, (tellCores_mem ..).trans waited.mem, fun c live => ?_⟩
  · exact sameBut_of_waited waited (f := fun q => { q with qpos := (i + 1) % 32, rot := .saving o _ }) (fun _ _ _ => rfl)
      ((tellCores_part ..).trans (part_modPart_self ..))
  · rw [tellCores_core (w := fun co => .told o (field ((s.part p).qent i) 32 9) co.cycle) (fun _ => rfl), liveCores_modPart _ _ (by rfl),
      waited.liveCores, if_pos live]

end

/-! ## QUANTUM_START (R379, R381) -/

theorem quantumStart_starts {s : State} {p f : Nat} (restoring : (s.part p).rot = .restoring f) (all : ∀ c ∈ s.liveCores p, (s.core c).sw = .restored) :
    ∃ u, exec (.quantumStart p) s = .next u ∧ SameBut u p { s.part p with sched := some f, rot := .steady true } ∧ u.mem = s.mem
      ∧ ∀ c ∈ s.liveCores p, (u.core c).sw = .none := by
  have waited := waited_foldl (s.liveCores p) s
  refine ⟨((((s.liveCores p).foldl State.wait s).tellCores p (fun _ => .none)).modPart p
    (fun q => { q with sched := some f, rot := .steady true })), ?_, ?_, ?_, fun c live => ?_⟩
  · change execQuantumStart p s = _
    unfold execQuantumStart
    rw [restoring]
    exact if_pos (List.all_eq_true.mpr (fun c hc => by simp [all c hc]))
  · exact sameBut_of_waited waited (f := fun q => { q with sched := some f, rot := .steady true }) (fun _ _ _ => rfl)
      ((part_modPart_self ..).trans (by rw [tellCores_part]))
  · rw [modPart_mem, tellCores_mem, waited.mem]
  · rw [core_modPart, tellCores_core (w := fun _ => .none) (fun _ => rfl), waited.liveCores, if_pos live]

/-! ## The quantum table (R377) -/

/-- Of a word, the bits of an entry that are not reserved. -/
theorem toNat_entryBits (v : Word) : (v &&& 0x000101FFFFFFFFFF).toNat
    = v.toNat % 2 ^ 40 + (if v.getLsbD 40 then 2 ^ 40 else 0) + (if v.getLsbD 48 then 2 ^ 48 else 0) := by
  have mask : (0x000101FFFFFFFFFF : Word).toNat = 2 ^ 48 ||| (2 ^ 41 - 1) := by decide
  have bit (i : Nat) : 2 ^ i * (v.toNat.testBit i).toNat = if v.getLsbD i then 2 ^ i else 0 := by
    rw [← BitVec.testBit_toNat]
    cases v.toNat.testBit i <;> simp
  have low : v.toNat % 2 ^ 41 < 2 ^ 48 := lt_trans (Nat.mod_lt _ (by decide)) (by decide)
  rw [BitVec.toNat_and, mask, Nat.and_or_distrib_left, Nat.and_two_pow_sub_one_eq_mod, Nat.and_two_pow, Nat.mul_comm,
    ← Nat.two_pow_add_eq_or_of_lt low, Nat.mod_pow_succ, ← Nat.toNat_testBit, bit, bit]
  exact Nat.add_comm _ _

/-- A step of the walk changes neither memory nor the table. -/
theorem schedStep_keeps (s : State) (p : Nat) : (s.schedStep p).mem = s.mem ∧ ((s.schedStep p).part p).qt = (s.part p).qt := by
  unfold State.schedStep
  dsimp only
  split
  · exact ⟨rfl, by rw [part_modPart_self]⟩
  · split
    · exact ⟨tellCores_mem .., by rw [tellCores_part, modPart_again, part_modPart_self]⟩
    · split
      · exact ⟨rfl, by rw [modPart_again, part_modPart_self]⟩
      · exact ⟨tellCores_mem .., by rw [tellCores_part, modPart_again, part_modPart_self]⟩

theorem schedAgain_keeps (s : State) (p : Nat) : (s.schedAgain p).mem = s.mem ∧ ((s.schedAgain p).part p).qt = (s.part p).qt := by
  unfold State.schedAgain
  split
  · exact ⟨rfl, rfl⟩
  · split
    · exact schedStep_keeps s p
    · exact schedStep_keeps s p
    · exact ⟨rfl, rfl⟩

theorem quantumTableWrite_writes {s : State} (p : Nat) {i : Nat} (h : i < 32) (v : Word) (ready : s.dev.rdy = true) :
    ∃ u, exec (.quantumTableWrite p i v) s = .next u ∧ u.mem = s.mem ∧ (u.part p).qt = (s.part p).qt.set i (v &&& 0x000101FFFFFFFFFF) h := by
  obtain ⟨mem, table⟩ := schedAgain_keeps (s.modPart p (fun q => { q with qt := q.qt.set i (v &&& 0x000101FFFFFFFFFF) h })) p
  refine ⟨_, ?_, mem, table.trans (by rw [part_modPart_self])⟩
  change execQuantumTableWrite p i v s = _
  unfold execQuantumTableWrite
  rw [ready]
  exact dif_pos h

/-! ## SWITCH that waits (R380) -/

/-- No activation of the strings is restartable: nothing is rolled back. -/
theorem rollBackAll_none {s : State} {c : Nat} {ks : List Nat} (keeps : ∀ k ∈ ks, ∀ a, (s.str c k).act = some a → a.rst = false) :
    s.rollBackAll c ks = s := by
  induction ks with
  | nil => rfl
  | cons k t ih =>
    have rest := ih (fun k hk => keeps k (List.mem_cons_of_mem _ hk))
    unfold State.rollBackAll at rest ⊢
    rw [List.foldl_cons]
    split
    · rename_i a ha
      rw [keeps k List.mem_cons_self a ha]
      exact rest
    · exact rest

section
variable {s : State} {c f g n : Nat} {since : Word}

/-- What SWITCH makes of a core that no string holds back, and on which nothing is rolled back. -/
theorem execSwitch_eq (told : (s.core c).sw = .told f g since) (part : (s.core c).part = some n)
    (free : ∀ k ∈ s.vfStrs c f, ((s.core c).str k).holdsSwitch = false)
    (keeps : ∀ k ∈ s.vfStrs c f, ∀ a, ((s.core c).str k).act = some a → a.rst = false) :
    execSwitch c s = if (s.liveCores n).all (fun d => s.coreQuiet d f) then .next (((s.wait c).saveVf c f).goIfSaved n) else .next s := by
  unfold execSwitch
  dsimp only
  rw [told, part]
  dsimp only
  rw [if_neg (by simpa using free), rollBackAll_none keeps]

theorem switch_waits {d : Nat} (told : (s.core c).sw = .told f g since) (part : (s.core c).part = some n)
    (free : ∀ k ∈ s.vfStrs c f, ((s.core c).str k).holdsSwitch = false)
    (keeps : ∀ k ∈ s.vfStrs c f, ∀ a, ((s.core c).str k).act = some a → a.rst = false)
    (live : d ∈ s.liveCores n) (busy : s.coreQuiet d f = false) : exec (.switch c) s = .next s := by
  refine (execSwitch_eq told part free keeps).trans (if_neg (fun all => ?_))
  rw [List.all_eq_true.mp all d live] at busy
  cases busy

theorem switch_quiet (told : (s.core c).sw = .told f g since) (part : (s.core c).part = some n)
    (free : ∀ k ∈ s.vfStrs c f, ((s.core c).str k).holdsSwitch = false)
    (keeps : ∀ k ∈ s.vfStrs c f, ∀ a, ((s.core c).str k).act = some a → a.rst = false)
    (quiet : ∀ d ∈ s.liveCores n, s.coreQuiet d f = true) : exec (.switch c) s = .next (((s.wait c).saveVf c f).goIfSaved n) :=
  (execSwitch_eq told part free keeps).trans (if_pos (List.all_eq_true.mpr quiet))

end

end Sys2Proof.Proofs
end

section
/-! SUPPORT. What a launch holds of a core stays, whatever performs before switched blocks are copied back (R170): lemmas for the statement `Rotation`. -/

namespace Sys2Proof.Proofs

open Sys2Proof Sys2Proof.Machine Sys2Proof.Laws Sys2Proof.Claims

/-! ## What a launch holds of a core -/

/-- A launch on a core with what it holds there: its window and its strings. -/
def holding (r : Nat × OnCore) : Nat × Nat × List Nat := (r.1, r.2.wbase, r.2.strs)

/-- The entries of a table in order stay in their places as one of them changes. -/
theorem mset_holding {m : List (Nat × OnCore)} (sorted : (m.map (·.1)).Pairwise (· < ·)) {k : Nat} {o v : OnCore} (found : mfind m k = some o)
    (same : holding (k, v) = holding (k, o)) : (mset m k v).map holding = m.map holding := by
  induction m with
  | nil => cases found
  | cons x t ih =>
    obtain ⟨i, w⟩ := x
    obtain ⟨first, rest⟩ := List.pairwise_cons.mp sorted
    have above : ∀ y ∈ t, i < y.1 := fun y hy => first _ (List.mem_map_of_mem hy)
    by_cases here : i = k
    · subst here
      obtain rfl : w = o := by simpa [mfind] using found
      have others : mdel ((i, w) :: t) i = t := by
        rw [mdel, List.filter_cons_of_neg (by simp)]
        exact List.filter_eq_self.mpr (fun y hy => by simpa using (above y hy).ne')
      have place : mins t i v = (i, v) :: t := by
        cases t with
        | nil => rfl
        | cons y t => exact if_pos (above y List.mem_cons_self)
      rw [mset, others, place, List.map_cons, List.map_cons, same]
    · have inside : mfind t k = some o := by simpa [mfind, here] using found
      have below : ¬k < i := Nat.not_lt.mpr (above _ (mem_of_mfind inside)).le
      have others : mdel ((i, w) :: t) k = (i, w) :: mdel t k := List.filter_cons_of_pos (by simpa using here)
      rw [mset, others, mins, if_neg below, List.map_cons, List.map_cons]
      exact congrArg _ (ih rest inside)

/-- The launches on a core stand in order. -/
def InOrder (co : Core) : Prop := (co.res.map (·.1)).Pairwise (· < ·)

theorem inOrder_of_holding {co co' : Core} (same : co'.res.map holding = co.res.map holding) (sorted : InOrder co) : InOrder co' := by
  have numbers (l : List (Nat × OnCore)) : l.map (·.1) = (l.map holding).map (·.1) := by rw [List.map_map]; rfl
  unfold InOrder
  rwa [numbers, same, ← numbers]

/-- From `s` to `t` no launch has another function, and on no core whose launches stand in order does one hold anything else. -/
structure Resident (s t : State) : Prop where
  fn : ∀ i, (t.launch i).map (·.vf) = (s.launch i).map (·.vf)
  holds : ∀ c, InOrder (s.core c) → (t.core c).res.map holding = (s.core c).res.map holding

theorem Resident.of_eq {s t : State} (cores : t.cores = s.cores) (launches : t.launches = s.launches) : Resident s t :=
  ⟨fun i => by rw [State.launch, launches]; rfl, fun c _ => by rw [State.core, cores]; rfl⟩

theorem Resident.refl (s : State) : Resident s s := .of_eq rfl rfl

theorem Resident.trans {s t u : State} (h : Resident s t) (g : Resident t u) : Resident s u where
  fn i := (g.fn i).trans (h.fn i)
  holds c sorted := (g.holds c (inOrder_of_holding (h.holds c sorted) sorted)).trans (h.holds c sorted)

theorem Resident.foldl {β : Type} {l : List β} {f : State → β → State} (hf : ∀ s x, Resident s (f s x)) (s : State) : Resident s (l.foldl f s) :=
  List.foldlRecOn l f (.refl s) (fun t h x _ => h.trans (hf t x))

/-! ## The state's operations -/

theorem resident_modRes (s : State) (c : Nat) {f : Core → Core}
    (hf : InOrder (s.core c) → (f (s.core c)).res.map holding = (s.core c).res.map holding) : Resident s (s.modCore c f) where
  fn _ := rfl
  holds d sorted := by
    by_cases same : d = c
    · subst same
      rw [core_modCore_self]
      exact hf sorted
    · rw [core_modCore_ne s f same]

theorem resident_modCore (s : State) (c : Nat) {f : Core → Core} (hf : ∀ co, (f co).res = co.res) : Resident s (s.modCore c f) :=
  resident_modRes s c (fun _ => by rw [hf])

theorem resident_setStr (s : State) (c k : Nat) (t : Str) : Resident s (s.setStr c k t) := resident_modCore s c (fun _ => rfl)

theorem resident_modOn (s : State) (c l : Nat) {f : OnCore → OnCore} (hf : ∀ o, (f o).wbase = o.wbase ∧ (f o).strs = o.strs) :
    Resident s (s.modOn c l f) := by
  unfold State.modOn
  split
  next o found =>
    obtain ⟨base, strs⟩ := hf o
    exact resident_modRes s c (fun sorted => mset_holding sorted found (by rw [holding, base, strs]; rfl))
  next => exact .refl s

theorem resident_modLaunch (s : State) (l : Nat) {f : Launch → Launch} (hf : ∀ v, (f v).vf = v.vf) : Resident s (s.modLaunch l f) := by
  unfold State.modLaunch
  split
  next v found =>
    refine ⟨fun i => ?_, fun _ _ => rfl⟩
    by_cases same : i = l
    · subst same
      exact (congrArg _ (mfind_mset_self ..)).trans (by rw [found]; exact congrArg some (hf v))
    · exact congrArg _ (mfind_mset_ne _ _ same)
  next => exact .refl s

theorem resident_emit (s : State) (o : Out) : Resident s (s.emit o) := .of_eq rfl rfl
theorem resident_modVf (s : State) (f : Nat) (g : Vf → Vf) : Resident s (s.modVf f g) := .of_eq rfl rfl
theorem resident_memory (s : State) (m : Memory) (b : List (Nat × Poison)) : Resident s { s with mem := m, bad := b } := .of_eq rfl rfl

theorem resident_meterOf (s : State) (c i n : Nat) : Resident s (s.meterOf c i n) := by
  unfold State.meterOf
  split <;> exact .of_eq rfl rfl

theorem resident_meterWrite (s : State) (c : Nat) (l : Option Nat) (pl : Place) (n : Nat) : Resident s (s.meterWrite c l pl n) := by
  unfold State.meterWrite
  split
  · exact .refl s
  · exact resident_meterOf s c _ n

theorem resident_packets (s : State) (c u : Nat) (pl : Place) : Resident s (s.packets c u pl) := by
  obtain ⟨q, h⟩ := packets_eq s c u pl
  rw [h]; exact .of_eq rfl rfl

theorem resident_poisonFound (s : State) (l : Option Nat) (a : Nat) : Resident s (s.poisonFound l a) := by
  unfold State.poisonFound
  split <;> exact .of_eq rfl rfl

theorem resident_touch (s : State) (a : Nat) : Resident s (s.touch a) := by
  obtain ⟨r, k, h⟩ := touch_eq s a
  rw [h]; exact .of_eq rfl rfl

theorem resident_putBytes (s : State) (a : Nat) (b : List Byte) : Resident s (s.putBytes a b) := by
  obtain ⟨m, r, k, h⟩ := putBytes_eq s a b
  rw [h]; exact .of_eq rfl rfl

theorem resident_putLine (s : State) (a v : Nat) : Resident s (s.putLine a v) := (resident_putBytes s a (leBytes 64 v)).trans (.of_eq rfl rfl)

theorem resident_copyBlock (s : State) (a b : Nat) : Resident s (s.copyBlock a b) :=
  (resident_putBytes s b (s.mem.bytes a 4096)).trans (.of_eq rfl rfl)

theorem resident_redirect (s : State) (l : Option Nat) (a : Nat) : Resident s (s.redirect l a) := by
  unfold State.redirect
  dsimp only
  split
  · exact .refl s
  · split
    · exact (resident_copyBlock s _ _).trans (.of_eq rfl rfl)
    · exact resident_modLaunch s _ (fun _ => rfl)
    · exact .refl s

theorem resident_writeEv (s : State) (l : Option Nat) (a : Nat) (bs : List (Nat × Nat)) (d : BitVec 4096) : Resident s (s.writeEv l a bs d) := by
  have first := resident_redirect s l a
  unfold State.writeEv
  dsimp only
  split
  · exact first
  · refine first.trans (Resident.trans ?_ (resident_touch _ _))
    exact .of_eq rfl rfl

theorem resident_post (s : State) (unit : Nat) (f : Flight) : Resident s (s.post unit f) := by
  unfold State.post
  split
  · dsimp only; split <;> exact .of_eq rfl rfl
  · exact .of_eq rfl rfl

/-! ## Loads and stores that perform -/

theorem resident_readHome (s : State) (c : Nat) (la : Option Nat) (l : Load) (e : SectorEv) (d : Bool) : Resident s (s.readHome c la l e d).1 := by
  unfold State.readHome
  split
  · exact .refl s
  next a _ =>
    have sent := resident_packets s c (coreUnit c) e.place
    have counted := sent.trans (resident_meterOf _ c (byteMeter c e.place) e.bytes.length)
    dsimp only
    split
    · split
      · exact (counted.trans (resident_poisonFound _ la a)).trans (resident_meterOf _ c 15 1)
      · exact sent.trans (resident_poisonFound _ la a)
    · exact counted

theorem resident_performAtom (s : State) (c : Nat) (la : Option Nat) (l : Load) (e : SectorEv) : Resident s (s.performAtom c la l e).1 := by
  unfold State.performAtom
  split
  next at_ _ _ =>
    have sent := resident_packets s c (coreUnit c) e.place
    dsimp only
    split
    · exact sent.trans (resident_poisonFound _ la _)
    · split <;> split
      · exact (sent.trans (resident_meterWrite ..)).trans (resident_writeEv ..)
      · exact sent.trans (resident_meterWrite ..)
      · exact (sent.trans (resident_meterOf ..)).trans (resident_writeEv ..)
      · exact sent.trans (resident_meterOf ..)
  next => exact .refl s

theorem resident_commitEarly (s : State) (c k : Nat) : Resident s (s.commitEarly c k) := by
  unfold State.commitEarly
  dsimp only
  split
  · split
    · exact .refl s
    · exact (resident_setStr s c k _).trans (.foldl (fun s m => resident_post s _ _) _)
  · exact .refl s

theorem resident_commitForLine (s : State) (c k : Nat) : Resident s (s.commitForLine c k) := by
  unfold State.commitForLine State.commitWhere
  refine Resident.trans (Resident.foldl (fun s k => ?_) s) (resident_commitEarly _ c k)
  split
  · split
    · exact resident_commitEarly s c k
    · exact .refl s
  · exact .refl s

theorem resident_journalLine (s : State) (c k n : Nat) : Resident s (s.journalLine c k n) := by
  unfold State.journalLine
  split
  · split
    · exact .refl s
    · split
      · exact resident_commitEarly s c k
      · split
        · exact resident_commitForLine s c k
        · exact resident_setStr s c k _
  · exact .refl s

theorem resident_commitFor (s : State) (c k : Nat) (pl : Place) (n : Nat) : Resident s (s.commitFor c k pl n) := by
  unfold State.commitFor
  split
  · split
    · exact .foldl (fun s _ => resident_journalLine s c k _) s
    · exact resident_commitEarly s c k
  · exact resident_commitEarly s c k

theorem resident_commitEvs (s : State) (c k : Nat) (l : List SectorEv) : Resident s (s.commitEvs c k l) := by
  unfold State.commitEvs
  exact .foldl (fun s e => resident_commitFor s c k _ 32) s

/-! ## Faults -/

theorem resident_drainEvs (s : State) (c : Nat) (evs : List SectorEv) (d : BitVec 4096) : Resident s (s.drainEvs c evs d) := by
  unfold State.drainEvs
  refine .foldl (fun s e => ?_) s
  split
  · exact (resident_meterOf s c _ _).trans (resident_writeEv _ _ _ _ _)
  · exact .refl s

theorem resident_drainOwn (s : State) (c k : Nat) : Resident s (s.drainOwn c k) := by
  unfold State.drainOwn
  dsimp only
  refine (Resident.trans (Resident.foldl (fun s x => resident_drainEvs s c _ _) s) (Resident.foldl (fun s x => ?_) _)).trans (resident_setStr _ c k _)
  split
  · exact .foldl (fun s p => resident_drainEvs s c _ _) s
  · exact .refl s

theorem resident_restoreJournal (s : State) (c : Nat) (a : Activation) : Resident s (s.restoreJournal c a) := by
  have lines : Resident s (a.journal.foldl (fun s j =>
      { s with mem := s.mem.putNum (sliceFlat c (64 * j.1)) 64 j.2.toNat, bad := clearMarks s.bad (sliceFlat c (64 * j.1)) 64 }) s) :=
    .foldl (fun s j => resident_memory s _ _) s
  unfold State.restoreJournal
  dsimp only
  split
  · refine Resident.trans ?_ (resident_modOn _ c _ (fun _ => ⟨rfl, rfl⟩))
    exact lines.trans (.of_eq rfl rfl)
  · exact lines.trans (.of_eq rfl rfl)

theorem resident_placeRec {s t : State} {c : Nat} {r : Rec} (h : s.placeRec c r = some t) : Resident s t := by
  unfold State.placeRec at h
  dsimp only at h
  split at h
  · obtain ⟨sp, -, rfl⟩ := Option.map_eq_some_iff.mp h
    cases sp with
    | none => exact resident_modCore s c (fun _ => rfl)
    | some i => exact (resident_putLine s _ _).trans (resident_modCore _ c (fun _ => rfl))
  · exact absurd h (by simp)

theorem resident_returnRec (s : State) (c : Nat) (a : Activation) (redo : Nat) : Resident s (s.returnRec c a redo) := by
  unfold State.returnRec
  dsimp only
  cases placed : s.placeRec c _ with
  | none => rw [Option.getD_none]; exact resident_modCore s c (fun _ => rfl)
  | some t => rw [Option.getD_some]; exact resident_placeRec placed

theorem resident_rollBack (s : State) (c k redo : Nat) : Resident s (s.rollBack c k redo) := by
  unfold State.rollBack
  split
  · exact (((resident_drainOwn s c k).trans (resident_restoreJournal ..)).trans (resident_setStr ..)).trans (resident_returnRec ..)
  · exact .refl s

theorem resident_takeFault (s : State) (c k : Nat) (pc : Word) (f : FaultInfo) : Resident s (s.takeFault c k pc f) := by
  unfold State.takeFault
  dsimp only
  split
  · exact .refl s
  · split
    · exact (resident_setStr ..).trans (resident_modCore _ c (fun _ => rfl))
    · split
      · exact resident_setStr ..
      · split
        · exact resident_rollBack ..
        · split
          · exact ((resident_drainOwn s c k).trans (resident_restoreJournal ..)).trans (resident_setStr ..)
          · exact resident_setStr ..

theorem resident_bindLoads (s : State) (c k : Nat) : Resident s (s.bindLoads c k) := by
  unfold State.bindLoads
  dsimp only
  split
  · exact (resident_setStr ..).trans (resident_commitEvs ..)
  · split
    · refine Resident.trans ?_ (resident_takeFault ..)
      split
      · exact ((resident_setStr ..).trans (resident_commitEvs ..)).trans (resident_modOn _ c _ (fun _ => ⟨rfl, rfl⟩))
      · exact (resident_setStr ..).trans (resident_commitEvs ..)
    · exact .refl s

theorem resident_performHome (s : State) (c k : Nat) (l : Load) (e : SectorEv) : Resident s (s.performHome c k l e) := by
  refine Resident.trans ?_ ((resident_setStr ..).trans (resident_bindLoads ..))
  split
  · exact resident_performAtom ..
  · exact resident_readHome ..

theorem resident_reportStore (s : State) (c : Nat) (x : Store) (e : SectorEv) (code : Nat) : Resident s (s.reportStore c x e code) := by
  unfold State.reportStore State.reportWrite State.forwardRec
  split
  · split
    · exact .refl s
    · exact resident_post ..
  · exact .refl s

theorem resident_settleInval (s : State) (f : Nat) : Resident s (s.settleInval f) := by
  unfold State.settleInval
  dsimp only
  split
  · exact .refl s
  · exact Resident.trans (.foldl (fun s _ => resident_emit s _) s) (resident_modVf ..)

theorem resident_performStore (s : State) (c k : Nat) (x : Store) (e : SectorEv) : Resident s (s.performStore c k x e) := by
  unfold State.performStore
  split
  · exact .refl s
  · have sent := resident_packets s c (coreUnit c) e.place
    have counted := sent.trans (resident_meterWrite _ c x.launch e.place e.bytes.length)
    dsimp only
    split
    · exact counted.trans (resident_writeEv ..)
    · split
      · exact (sent.trans (resident_redirect ..)).trans (resident_reportStore ..)
      · exact counted.trans (resident_writeEv ..)
    · exact ((counted.trans (resident_emit ..)).trans (resident_setStr ..)).trans (resident_settleInval ..)
    · exact counted.trans (resident_emit ..)
    · exact .refl s

/-! ## Loads that are sure perform before blocks are copied back -/

theorem resident_forceStores (s : State) (c k n : Nat) : Resident s (s.forceStores c k n) := by
  unfold State.forceStores
  refine .foldl (fun s x => ?_) s
  split
  · exact Resident.trans (resident_setStr s c k _) (.foldl (fun s e => resident_performStore s c k x e) _)
  · exact .refl s

theorem resident_forceLoad (s : State) (c k seq : Nat) : Resident s (s.forceLoad c k seq) := by
  unfold State.forceLoad
  cases (s.str c k).lds.find? (fun l => l.seq == seq) with
  | none => exact .refl s
  | some l =>
    refine .foldl (fun s e => ?_) s
    split
    · split
      · exact resident_performHome ..
      · exact .refl s
    · exact .refl s

theorem resident_forceTo (s : State) (c k n : Nat) : Resident s (s.forceTo c k n) := by
  unfold State.forceTo
  exact Resident.trans (.foldl (fun s l => (resident_forceStores s c k _).trans (resident_forceLoad _ c k _)) s) (resident_forceStores _ c k n)

theorem resident_forceEv (s : State) (c k seq : Nat) (e : SectorEv) : Resident s (s.forceEv c k seq e) := by
  have home (t : State) : Resident t (match (t.str c k).lds.find? (fun l => l.seq == seq) with
      | some l => if l.evs.contains e then t.performHome c k l e else t
      | none => t) := by
    split
    · split
      · exact resident_performHome t c k _ e
      · exact .refl t
    · exact .refl t
  unfold State.forceEv
  dsimp only
  refine Resident.trans ?_ (home _)
  split
  · split
    · exact resident_forceTo s c k seq
    · exact .refl s
  · exact .refl s

theorem resident_sureFirst (s : State) (hit : Nat → Bool) : Resident s (s.sureFirst hit) := by
  unfold State.sureFirst
  refine .foldl (fun s c => .foldl (fun s k => ?_) s) s
  unfold State.sureStr
  exact .foldl (fun s x => resident_forceEv s _ k _ _) s

theorem resident_copyBack (s : State) (key b : Nat) : Resident s (s.copyBack key b) :=
  ((resident_sureFirst s _).trans (resident_copyBlock _ _ _)).trans (.of_eq rfl rfl)

theorem resident_backAll (s : State) : Resident s s.backAll := by
  unfold State.backAll
  exact .foldl (fun s r => resident_copyBack s _ _) s

end Sys2Proof.Proofs
end

section
/-! SUPPORT. SWITCH that saves: the block, the slice in it, and the core that is cleared (R380, R382, R383): lemmas for the statement `Rotation`. -/

namespace Sys2Proof.Proofs

open Sys2Proof Sys2Proof.Machine Sys2Proof.Laws Sys2Proof.Claims

/-! ## The launches of a function on a core -/

/-- Cycles change nothing that a launch holds. -/
theorem resident_wait (s : State) (c : Nat) : Resident s (s.wait c) := by
  have passed : Resident s (s.modCore c (fun co => co.pass (s.liveOn c) false none (Config.cycles (s.tick + c)))) := by
    refine resident_modRes s c (fun sorted => ?_)
    unfold Core.pass chargeLaunch
    dsimp only
    split
    · split
      · rename_i found
        exact mset_holding sorted found rfl
      · rfl
    · rfl
  unfold State.wait State.elapse
  dsimp only
  split
  · exact passed.trans (.of_eq rfl rfl)
  · exact passed

/-- Of launches that hold the same, those chosen by number hold the same. -/
theorem filter_holding {l l' : List (Nat × OnCore)} (same : l'.map holding = l.map holding) (q : Nat → Bool) :
    (l'.filter (fun r => q r.1)).map holding = (l.filter (fun r => q r.1)).map holding := by
  have numbers (m : List (Nat × OnCore)) : (m.filter (fun r => q r.1)).map holding = (m.map holding).filter (fun r => q r.1) := by
    rw [List.filter_map]; rfl
  rw [numbers, same, ← numbers]

theorem numbers_holding {l l' : List (Nat × OnCore)} (same : l'.map holding = l.map holding) : l'.map (·.1) = l.map (·.1) := by
  have numbers (m : List (Nat × OnCore)) : m.map (·.1) = (m.map holding).map (·.1) := by rw [List.map_map]; rfl
  rw [numbers, same, ← numbers]

theorem strs_holding {l l' : List (Nat × OnCore)} (same : l'.map holding = l.map holding) : l'.flatMap (·.2.strs) = l.flatMap (·.2.strs) := by
  have strs (m : List (Nat × OnCore)) : m.flatMap (·.2.strs) = (m.map holding).flatMap (·.2.2) := by rw [List.flatMap_map]; rfl
  rw [strs, same, ← strs]

theorem Resident.vfStrs {s t : State} (h : Resident s t) {c : Nat} (sorted : InOrder (s.core c)) (f : Nat) : t.vfStrs c f = s.vfStrs c f := by
  refine strs_holding ?_
  unfold State.vfRes
  simp only [h.fn]
  exact filter_holding (h.holds c sorted) (fun i => (s.launch i).map (·.vf) == some f)

/-- A launch is one of the function and has not ended. -/
def lives (s : State) (f i : Nat) : Bool :=
  (s.launch i).map (·.vf) == some f && (match s.launch i with
    | some l => (match l.phase with | .ending _ _ _ => false | _ => true)
    | none => false)

theorem vfLive_eq (s : State) (c f : Nat) : s.vfLive c f = (s.core c).res.filter (fun r => lives s f r.1) := by
  unfold State.vfLive State.vfRes
  rw [List.filter_filter]
  exact List.filter_congr (fun _ _ => Bool.and_comm _ _)

theorem vfLive_wait (s : State) {c : Nat} (sorted : InOrder (s.core c)) (f : Nat) :
    ((s.wait c).vfLive c f).map holding = (s.vfLive c f).map holding := by
  have same : lives (s.wait c) f = lives s f := by
    funext i
    unfold lives
    rw [(waited_wait s c).launch]
  rw [vfLive_eq, vfLive_eq, same]
  exact filter_holding ((resident_wait s c).holds c sorted) _

/-- Which bytes of the slice lie in windows follows from what the launches hold. -/
theorem inWindows_congr {s t : State} (launch : ∀ i, t.launch i = s.launch i) {l l' : List (Nat × OnCore)} (same : l'.map holding = l.map holding)
    (o : Nat) : t.inWindows l' o = s.inWindows l o := by
  have windows (u : State) (m : List (Nat × OnCore)) : u.inWindows m o = (m.map holding).any (fun r => match u.launch r.1 with
      | some v => overlaps r.2.1 v.winBytes o 1
      | none => false) := by
    rw [List.any_map]; rfl
  rw [windows, windows, same]
  simp only [launch]

theorem inWindows_iff (s : State) (l : List (Nat × OnCore)) (o : Nat) :
    s.inWindows l o = true ↔ ∃ r ∈ l, ∃ v, s.launch r.1 = some v ∧ r.2.wbase ≤ o ∧ o < r.2.wbase + v.winBytes := by
  unfold State.inWindows
  rw [List.any_eq_true]
  refine exists_congr (fun r => and_congr_right (fun _ => ?_))
  cases s.launch r.1 with
  | none => simp
  | some v => simp [overlaps]

/-! ## What is saved -/

theorem headStopped_congr {co co' : Core} (rings : co'.rings = co.rings) (q : List Cmd) : headStopped co' q = headStopped co q := by
  cases q with
  | nil => rfl
  | cons h t =>
    unfold headStopped waitOver Core.ring
    rw [rings]

/-- The cycles that pass before a core saves a function change nothing of what it saves. -/
theorem saveBlock_wait {s : State} {c f g : Nat} {since : Word} (told : (s.core c).sw = .told f g since) (sorted : InOrder (s.core c)) :
    (s.wait c).saveBlock c f = s.saveBlock c f := by
  have numbers := numbers_holding (vfLive_wait s sorted f)
  have strs := strs_holding (vfLive_wait s sorted f)
  obtain ⟨r, y, v, w, core, -⟩ := (waited_wait s c).core c
  unfold State.saveBlock Core.switchedAt
  dsimp only
  rw [numbers, strs, core]
  dsimp only
  rw [told, headStopped_congr (co := s.core c) (by rfl)]
  rfl

/-! ## Where a block lies -/

theorem trafficTo_eq (s : State) (unit a n p : Nat) : ∃ q, s.trafficTo unit a n p = { s with seqs := q } :=
  List.foldlRecOn (motive := fun u : State => ∃ q, u = { s with seqs := q }) _ _ ⟨_, rfl⟩ (fun u hu h _ => by
    obtain ⟨q, hq⟩ := hu
    rw [hq]
    exact ⟨_, rfl⟩)

/-- With no block switched, moving a block of the save area changes the numbers of packets alone. -/
theorem blockTraffic_eq (s : State) (c f : Nat) : ∃ q, s.blockTraffic c f = { s.backAll with seqs := q } := by
  unfold State.blockTraffic
  split
  · exact trafficTo_eq ..
  · exact ⟨_, rfl⟩

theorem blockBase_wait (s : State) (c f : Nat) : (s.wait c).blockBase c f = s.blockBase c f := by
  obtain ⟨r, y, v, w, core, -⟩ := (waited_wait s c).core c
  unfold State.blockBase
  rw [core, (waited_wait s c).vf]
  dsimp only
  cases (s.core c).part with
  | none => rfl
  | some p =>
    obtain ⟨m, w, part⟩ := (waited_wait s c).part p
    dsimp only
    rw [part]
    rfl

/-! ## Bytes of a range -/

section
variable {m x : Memory} {a n i : Nat}

theorem mfind_shift (m : Memory) (a i : Nat) : mfind (m.shift a) (a + i) = mfind m i := by
  induction m with
  | nil => rfl
  | cons c t ih =>
    have numbers : (c.1 + a = a + i) ↔ (c.1 = i) := by omega
    rw [Memory.shift, List.map_cons, mfind, mfind]
    exact if_congr numbers rfl ih

/-- A range that takes other bytes reads as they do. -/
theorem get_splice_shift (wf : x.wf = true) (h : i < n) : (m.splice a n (x.shift a)).get (a + i) = x.get i := by
  have low : ∀ c ∈ x.shift a, a ≤ c.1 := by
    intro c hc
    obtain ⟨y, -, rfl⟩ := List.mem_map.mp hc
    exact Nat.le_add_left _ _
  have found : mfind (m.splice a n (x.shift a)) (a + i) = mfind x i := by
    rw [Memory.splice, rising_wf (wf_shift x a wf) low, mfind_append, mfind_append, mfind_filter_in m (fun c => decide (c < a)) _ (by simp),
      mfind_filter_in m (fun c => decide (a + n ≤ c)) _ (by simpa using h), mfind_filter_out _ (fun c => decide (c < a + n)) _ (by simpa using h),
      mfind_shift]
    simp
  rw [Memory.get, mget, found]
  rfl

theorem get_part (h : i < n) : (m.part a n).get i = m.get (a + i) := by
  have found := mfind_shift (m.part a n) a i
  rw [shift_part, mfind_filter_out m (fun c => decide (a ≤ c) && decide (c < a + n)) _ (by simpa using h)] at found
  rw [Memory.get, mget, ← found]
  rfl

theorem get_filter (m : Memory) (q : Nat → Bool) (i : Nat) : Memory.get (m.filter (fun c => q c.1)) i = if q i then m.get i else 0 := by
  unfold Memory.get mget
  split
  next chosen => rw [mfind_filter_out m q i chosen]
  next other => rw [mfind_filter_in m q i (by simpa using other)]; rfl

end

/-! ## The block in memory (R383) -/

/-- The slice with the windows of the launches that have not ended, by offset (R382). -/
def savedSlice (s : State) (c f : Nat) : Memory :=
  (s.mem.part (sliceFlat c 0) 0x80000).filter (fun y => s.inWindows (s.vfLive c f) y.1)

/-- The bytes that a core writes: what it saves, and the slice behind it. -/
def blockMem (s : State) (c f : Nat) (b : SaveBlock) : Memory :=
  (blockBytes s c f b).splice 0x28000 0x80000 ((savedSlice s c f).shift 0x28000)

theorem wf_nil : Memory.wf [] = true := rfl

theorem wf_blockBytes (s : State) (c f : Nat) (b : SaveBlock) : (blockBytes s c f b).wf = true := by
  unfold blockBytes
  dsimp only
  refine wf_foldl _ _ (fun m i hm => wf_splice _ _ _ _ hm) _ (wf_splice _ _ _ _ ?_)
  exact wf_foldl _ _ (fun m x hm => wf_putNum _ _ _ _ hm) _ wf_nil

theorem wf_blockMem (s : State) (c f : Nat) (b : SaveBlock) : (blockMem s c f b).wf = true := wf_splice _ _ _ _ (wf_blockBytes s c f b)

theorem get_savedSlice (s : State) (c f : Nat) {j : Nat} (h : j < 0x80000) :
    (savedSlice s c f).get j = if s.inWindows (s.vfLive c f) j then s.mem.get (sliceFlat c 0 + j) else 0 := by
  unfold savedSlice
  rw [get_filter, get_part h]

/-- Byte by byte, the end of the block is the slice. -/
theorem get_blockMem_slice (s : State) (c f : Nat) (b : SaveBlock) (wf : s.mem.wf = true) {j : Nat} (h : j < 0x80000) :
    (blockMem s c f b).get (0x28000 + j) = if s.inWindows (s.vfLive c f) j then s.mem.get (sliceFlat c 0 + j) else 0 := by
  have slice : (savedSlice s c f).wf = true := wf_filter _ _ (wf_part _ _ _ wf)
  unfold blockMem
  rw [get_splice_shift slice h, get_savedSlice s c f h]

/-- What a core writes of a function, and what else it changes. -/
theorem writeBlock_eq (s : State) (c f : Nat) (b : SaveBlock) : let t := s.blockTraffic c f
    ∃ d r k, s.writeBlock c f b = { t with
      mem := t.outsideSpans (t.blockBase c f) 0xA8000 (t.mem.splice (t.blockBase c f) 0xA8000 ((blockMem t c f b).shift (t.blockBase c f))),
      bad := d, rows := r, ctrs := k } := by
  intro t
  unfold State.writeBlock
  obtain ⟨r, k, touched⟩ := touchRange_eq { t with
      mem := t.outsideSpans (t.blockBase c f) 0xA8000 (t.mem.splice (t.blockBase c f) 0xA8000 ((blockMem t c f b).shift (t.blockBase c f))),
      bad := addMarks (clearMarks t.bad (t.blockBase c f) 0xA8000)
        (moveMarks (t.bad.filter (fun y => t.inWindows (t.vfLive c f) (32 * y.1 - sliceFlat c 0))) (sliceFlat c 0) 0x80000 (t.blockBase c f + 0x28000)
          ++ b.mxu.accBad.map (fun i => ((t.blockBase c f + 0xF000) / 32 + i, .poisoned))) } (t.blockBase c f) 0xA8000
  exact ⟨_, r, k, touched⟩

/-- Memory after a core has written its block. -/
def savedMem (s : State) (c f : Nat) (b : SaveBlock) : Memory :=
  s.outsideSpans (s.blockBase c f) 0xA8000 (s.mem.splice (s.blockBase c f) 0xA8000 ((blockMem s c f b).shift (s.blockBase c f)))

theorem writeBlock_mem {s : State} (copied : s.switched = []) (c f : Nat) (b : SaveBlock) : (s.writeBlock c f b).mem = savedMem s c f b := by
  obtain ⟨q, traffic⟩ := blockTraffic_eq s c f
  obtain ⟨d, r, k, written⟩ := writeBlock_eq s c f b
  rw [backAll_none copied] at traffic
  rw [written, traffic]
  rfl

theorem resident_writeBlock (s : State) (c f : Nat) (b : SaveBlock) : Resident s (s.writeBlock c f b) := by
  obtain ⟨q, traffic⟩ := blockTraffic_eq s c f
  obtain ⟨d, r, k, written⟩ := writeBlock_eq s c f b
  rw [written, traffic]
  exact (resident_backAll s).trans (.of_eq rfl rfl)

section
variable {s : State} {c f : Nat} {b : SaveBlock}

theorem get_savedMem_out {y : Nat} (out : y < s.blockBase c f ∨ s.blockBase c f + 0xA8000 ≤ y) : (savedMem s c f b).get y = s.mem.get y := by
  unfold savedMem
  rw [get_outsideSpans_out _ _ _ _ _ out, get_splice_out _ _ _ _ _ out]

theorem get_savedMem_slice (wf : s.mem.wf = true) (clear : ∀ x ∈ s.allSpans, overlaps x.pa x.len (s.blockBase c f) 0xA8000 = false)
    {j : Nat} (h : j < 0x80000) : (savedMem s c f b).get (s.blockBase c f + 0x28000 + j)
      = if s.inWindows (s.vfLive c f) j then s.mem.get (sliceFlat c 0 + j) else 0 := by
  unfold savedMem
  rw [outsideSpans_clear _ _ _ _ clear, Nat.add_assoc, get_splice_shift (wf_blockMem s c f b) (by omega), get_blockMem_slice s c f b wf h]

end

/-! ## The core is cleared, and reports (R380 steps 7 and 8) -/

/-- Strings that are freed have no activation. -/
theorem freed_act {ks : List Nat} {m : Map Str} {k : Nat} (h : k ∈ ks ∨ (mget Str.init m k).act = none) :
    (mget Str.init (ks.foldl (fun m k => mset m k (mget Str.init m k).freed) m) k).act = none := by
  induction ks generalizing m with
  | nil => exact h.resolve_left (by simp)
  | cons j t ih =>
    rw [List.foldl_cons]
    refine ih ?_
    by_cases first : k = j
    · subst first
      right
      rw [mget_mset_self]
      rfl
    · rw [mget_mset_ne _ _ _ first]
      exact h.imp_left (fun h => (List.mem_cons.mp h).resolve_left first)

section
variable (s : State) (c f : Nat)

theorem core_clearRange (a n : Nat) : (s.clearRange a n).core c = s.core c := rfl

theorem clearVf_strs : ((s.clearVf c f).core c).strs = (s.vfStrs c f).foldl (fun m k => mset m k (mget Str.init m k).freed) (s.core c).strs := by
  unfold State.clearVf
  dsimp only
  rw [core_clearRange, core_modCore_self]

theorem clearVf_mem : (s.clearVf c f).mem = s.mem.clear (sliceFlat c 0) 524288 := by
  unfold State.clearVf
  dsimp only
  rw [clearRange_mem, modCore_mem]

/-- A core has cleared a function and reports, its block being `b`. -/
def reported (b : SaveBlock) : State :=
  (s.clearVf c f).modCore c (fun co => { co with vf := none, sw := .saved, vfs := mset co.vfs f { co.vfc f with saved := some b } })

theorem saveVf_eq : s.saveVf c f = reported (s.writeBlock c f (s.saveBlock c f)) c f (s.saveBlock c f) := rfl

theorem reported_mem (b : SaveBlock) : (reported s c f b).mem = s.mem.clear (sliceFlat c 0) 524288 := clearVf_mem s c f

theorem reported_core (b : SaveBlock) : (reported s c f b).core c = { (s.clearVf c f).core c with
    vf := none, sw := .saved, vfs := mset ((s.clearVf c f).core c).vfs f { ((s.clearVf c f).core c).vfc f with saved := some b } } :=
  core_modCore_self ..

theorem reported_act (b : SaveBlock) {k : Nat} (h : k ∈ s.vfStrs c f) : (((reported s c f b).core c).str k).act = none := by
  rw [reported_core, Core.str]
  dsimp only
  rw [clearVf_strs]
  exact freed_act (.inl h)

theorem reported_saved (b : SaveBlock) : (((reported s c f b).core c).vfc f).saved = some b := by
  rw [reported_core, Core.vfc]
  dsimp only
  rw [mget_mset_self]

end

/-- GO is sent when every core has reported; nothing else changes on a core. -/
theorem goIfSaved_core (s : State) (p d : Nat) :
    ∃ x, (s.goIfSaved p).core d = { s.core d with sw := x } ∧ (x = (s.core d).sw ∨ ∃ f, x = .go f) := by
  unfold State.goIfSaved
  split
  next f _ =>
    split
    · rw [tellCores_core (w := fun _ => .go f) (fun _ => rfl)]
      split
      · exact ⟨_, rfl, .inr ⟨f, rfl⟩⟩
      · exact ⟨_, rfl, .inl rfl⟩
    · exact ⟨_, rfl, .inl rfl⟩
  next => exact ⟨_, rfl, .inl rfl⟩

/-! The core's other registers do not show what it has been told. -/

theorem vf_sw (co : Core) (x : CoreSw) : ({ co with sw := x } : Core).vf = co.vf := rfl

theorem vfc_sw (co : Core) (x : CoreSw) (f : Nat) : ({ co with sw := x } : Core).vfc f = co.vfc f := rfl

theorem str_sw (co : Core) (x : CoreSw) (k : Nat) : ({ co with sw := x } : Core).str k = co.str k := rfl

theorem goIfSaved_mem (s : State) (p : Nat) : (s.goIfSaved p).mem = s.mem := by
  unfold State.goIfSaved
  split
  · split
    · exact tellCores_mem ..
    · rfl
  · rfl

/-! ## SWITCH that saves (R380 to R383) -/

section
variable {s : State} {c f : Nat}

/-- The state that a core leaves which saves a function, before GO may be sent. -/
def departed (s : State) (c f : Nat) : State := (s.wait c).saveVf c f

theorem departed_mem : (departed s c f).mem = ((s.wait c).writeBlock c f ((s.wait c).saveBlock c f)).mem.clear (sliceFlat c 0) 524288 := by
  rw [departed, saveVf_eq, reported_mem]

theorem departed_act (sorted : InOrder (s.core c)) {k : Nat} (h : k ∈ s.vfStrs c f) : (((departed s c f).core c).str k).act = none := by
  have holds := (resident_wait s c).trans (resident_writeBlock (s.wait c) c f ((s.wait c).saveBlock c f))
  rw [departed, saveVf_eq]
  exact reported_act _ c f _ (by rwa [holds.vfStrs sorted])

theorem departed_saved {g : Nat} {since : Word} (told : (s.core c).sw = .told f g since) (sorted : InOrder (s.core c)) :
    (((departed s c f).core c).vfc f).saved = some (s.saveBlock c f) := by
  rw [departed, saveVf_eq, reported_saved, saveBlock_wait told sorted]

theorem wait_switched (s : State) (c : Nat) : (s.wait c).switched = s.switched := by rw [(waited_wait s c).rest]

theorem sliceFlat_low (c : Nat) : 2 ^ 42 ≤ sliceFlat c 0 := by unfold sliceFlat; omega

theorem get_departed_slice {j : Nat} (h : j < 524288) : (departed s c f).mem.get (sliceFlat c 0 + j) = 0 := by
  rw [departed_mem, get_clear, if_pos (by omega)]

/-- Outside the slice memory is as the block leaves it. -/
theorem get_departed_other (copied : s.switched = []) {y : Nat} (out : y < sliceFlat c 0 ∨ sliceFlat c 0 + 524288 ≤ y) :
    (departed s c f).mem.get y = (savedMem (s.wait c) c f ((s.wait c).saveBlock c f)).get y := by
  rw [departed_mem, get_clear, if_neg (by omega), writeBlock_mem ((wait_switched s c).trans copied)]

theorem get_departed_block (wf : s.mem.wf = true) (copied : s.switched = []) (sorted : InOrder (s.core c)) (dram : s.blockBase c f + 0xA8000 ≤ 2 ^ 42)
    (clear : ∀ x ∈ s.allSpans, overlaps x.pa x.len (s.blockBase c f) 0xA8000 = false) {j : Nat} (h : j < 524288) :
    (departed s c f).mem.get (s.blockBase c f + 0x28000 + j)
      = if s.inWindows (s.vfLive c f) j then s.mem.get (sliceFlat c 0 + j) else 0 := by
  have waited := waited_wait s c
  have above := sliceFlat_low c
  rw [get_departed_other copied (.inl (by omega)), ← blockBase_wait,
    get_savedMem_slice (by rwa [waited.mem]) (by rw [blockBase_wait]; exact fun x hx => clear x (waited.spans x hx)) h,
    inWindows_congr waited.launch (vfLive_wait s sorted f), waited.mem]

theorem get_departed_out (copied : s.switched = []) {y : Nat} (slice : y < sliceFlat c 0 ∨ sliceFlat c 0 + 524288 ≤ y)
    (block : y < s.blockBase c f ∨ s.blockBase c f + 0xA8000 ≤ y) : (departed s c f).mem.get y = s.mem.get y := by
  rw [get_departed_other copied slice, get_savedMem_out (by rwa [blockBase_wait]), (waited_wait s c).mem]

end

/-- What a core saves of the slice, as the statement says it. -/
theorem windows_cases {s : State} {l : List (Nat × OnCore)} {j : Nat} {x y : Byte} (h : x = if s.inWindows l j then y else 0) :
    let live : Prop := ∃ r ∈ l, ∃ v, s.launch r.1 = some v ∧ r.2.wbase ≤ j ∧ j < r.2.wbase + v.winBytes
    (live → x = y) ∧ (¬live → x = 0) := by
  intro live
  refine ⟨fun yes => ?_, fun no => ?_⟩
  · rw [h, if_pos ((inWindows_iff s l j).mpr yes)]
  · rw [h, if_neg (fun yes => no ((inWindows_iff s l j).mp yes))]

theorem switch_saves {s : State} {c f g n : Nat} {since : Word} (told : (s.core c).sw = .told f g since) (part : (s.core c).part = some n)
    (free : ∀ k ∈ s.vfStrs c f, ((s.core c).str k).holdsSwitch = false)
    (keeps : ∀ k ∈ s.vfStrs c f, ∀ a, ((s.core c).str k).act = some a → a.rst = false)
    (quiet : ∀ d ∈ s.liveCores n, s.coreQuiet d f = true) (sorted : InOrder (s.core c)) : let a := s.blockBase c f
    ∃ u, exec (.switch c) s = .next u ∧ (u.core c).vf = none ∧ ((u.core c).sw = .saved ∨ ∃ h, (u.core c).sw = .go h)
      ∧ ((u.core c).vfc f).saved = some (s.saveBlock c f)
      ∧ (∀ k ∈ s.vfStrs c f, ((u.core c).str k).act = none) ∧ (∀ j < 524288, u.mem.get (sliceFlat c 0 + j) = 0)
      ∧ (s.Inv → s.switched = [] → a + 0xA8000 ≤ 2 ^ 42 → (∀ x ∈ s.allSpans, overlaps x.pa x.len a 0xA8000 = false) → ∀ j < 524288,
          let live : Prop := ∃ r ∈ s.vfLive c f, ∃ l, s.launch r.1 = some l ∧ r.2.wbase ≤ j ∧ j < r.2.wbase + l.winBytes
          (live → u.mem.get (a + 0x28000 + j) = s.mem.get (sliceFlat c 0 + j)) ∧ (¬live → u.mem.get (a + 0x28000 + j) = 0))
      ∧ (s.switched = [] → ∀ y, (y < sliceFlat c 0 ∨ sliceFlat c 0 + 524288 ≤ y) → (y < a ∨ a + 0xA8000 ≤ y) → u.mem.get y = s.mem.get y) := by
  intro a
  have sw : ((departed s c f).core c).sw = .saved := by rw [departed, saveVf_eq, reported_core]
  have vf : ((departed s c f).core c).vf = none := by rw [departed, saveVf_eq, reported_core]
  refine ⟨_, switch_quiet told part free keeps quiet, ?_⟩
  rw [← departed, goIfSaved_mem]
  obtain ⟨x, core, state⟩ := goIfSaved_core (departed s c f) n c
  rw [sw] at state
  rw [core, vf_sw, vfc_sw, departed_saved told sorted]
  refine ⟨vf, state, rfl, fun k hk => ?_, fun j hj => get_departed_slice hj,
    fun inv copied dram clear j hj => windows_cases (get_departed_block inv.mem copied sorted dram clear hj),
    fun copied y slice block => get_departed_out copied slice block⟩
  rw [str_sw]
  exact departed_act sorted hk

end Sys2Proof.Proofs
end

section
/-! SUPPORT. GO that restores, and the statement `Rotation` (R370, R381, R382). -/

namespace Sys2Proof.Proofs

open Sys2Proof Sys2Proof.Machine Sys2Proof.Laws Sys2Proof.Claims

/-! ## GO with nothing saved (R381) -/

theorem go_first {s : State} {c f : Nat} (told : (s.core c).sw = .go f) (nothing : ((s.core c).vfc f).saved = none) :
    ∃ u, exec (.go c) s = .next u ∧ (u.core c).vf = some f ∧ (u.core c).sw = .restored ∧ u.mem = s.mem := by
  refine ⟨(s.wait c).modCore c (fun co => { co with vf := some f, sw := .restored }), ?_, ?_, ?_, (waited_wait s c).mem⟩
  · change execGo c s = _
    unfold execGo
    dsimp only
    rw [told]
    dsimp only
    rw [nothing]
  · rw [core_modCore_self]
  · rw [core_modCore_self]

/-! ## What a core reads back (R370) -/

section
variable {m : Map Str} {g : Nat × Str → Str → Str} {l : List (Nat × Str)}

/-- Strings that take their places again, each by what it and its place hold. -/
def placeAll (g : Nat × Str → Str → Str) (l : List (Nat × Str)) (m : Map Str) : Map Str :=
  l.foldl (fun m p => mset m p.1 (g p (mget Str.init m p.1))) m

theorem placeAll_other {k : Nat} (out : ∀ p ∈ l, p.1 ≠ k) : mget Str.init (placeAll g l m) k = mget Str.init m k := by
  induction l generalizing m with
  | nil => rfl
  | cons p t ih =>
    have first : k ≠ p.1 := (out p List.mem_cons_self).symm
    exact (ih (fun q hq => out q (List.mem_cons_of_mem _ hq))).trans (mget_mset_ne _ _ _ first)

theorem placeAll_placed (distinct : (l.map (·.1)).Nodup) {x : Nat × Str} (hx : x ∈ l) :
    mget Str.init (placeAll g l m) x.1 = g x (mget Str.init m x.1) := by
  induction l generalizing m with
  | nil => cases hx
  | cons p t ih =>
    obtain ⟨new, distinct⟩ := List.nodup_cons.mp distinct
    have apart : ∀ q ∈ t, q.1 ≠ p.1 := fun q hq same => new (List.mem_map.mpr ⟨q, hq, same⟩)
    rcases List.mem_cons.mp hx with rfl | later
    · exact (placeAll_other apart).trans (mget_mset_self ..)
    · exact (ih distinct later).trans (by rw [mget_mset_ne _ _ _ (apart x later)])

end

/-- A number's last byte. -/
theorem num_last (m : Memory) (a : Nat) : BitVec.ofNat 8 (field (m.num a 8) 56 8) = m.get (a + 7) := by
  have byte (b : Byte) (r : Nat) : (b.toNat + 256 * r) / 256 = r := by have := b.isLt; omega
  have last : field (m.num a 8) 56 8 = (m.get (a + 7)).toNat := by
    have split : (2 : Nat) ^ 56 = 256 * (256 * (256 * (256 * (256 * (256 * 256))))) := by decide
    rw [field_eq, split, show a + 7 = a + 1 + 1 + 1 + 1 + 1 + 1 + 1 from rfl]
    simp only [Memory.num, Memory.bytes, leNat, ← Nat.div_div_eq_div_mul, byte]
    have := (m.get (a + 1 + 1 + 1 + 1 + 1 + 1 + 1)).isLt
    omega
  rw [last, BitVec.ofNat_toNat, BitVec.setWidth_eq]

theorem length_readQueue (g : Nat → Cmd → Cmd) (a n : Nat) (q : List Cmd) : (readQueue g a n q).length = q.length := by
  unfold readQueue upTo
  have all : ∀ i ∈ List.range q.length, ((q[i]?).map (g (a + n * i))).isSome := by
    intro i hi
    rw [List.getElem?_eq_getElem (List.mem_range.mp hi)]
    rfl
  rw [List.length_filterMap_eq_countP, List.countP_eq_length.mpr all, List.length_range]

theorem length_resumeHead (h : Nat) (q : List Cmd) : (resumeHead h q).length = q.length := by cases q <;> rfl

/-- The matrix unit is read back from its stop record, its checksum columns being formed anew. -/
theorem readMxu_reads (m : Memory) (bad : List (Nat × Poison)) (e : Nat) (x : Mxu) : let r := readMxu m bad e x
    r.holder = x.holder ∧ r.err = m.get (e + 7) ∧ r.queue.length = x.queue.length
      ∧ ∀ i (h : i < 4), (∀ j < 0x4000, (r.macros[i]).tile.get j = m.get (e + 0x9000 + 0x4000 * i + j))
        ∧ (r.macros[i]).csum = tileSums (r.macros[i]).ity (r.macros[i]).tile := by
  intro r
  refine ⟨rfl, num_last m e, (length_resumeHead ..).trans (length_readQueue ..), fun i h => ?_⟩
  have read : r.macros[i] = readMacro m e i := Vector.getElem_ofFn h
  rw [read]
  exact ⟨fun j hj => get_part hj, rfl⟩

/-- The stop record begins 0xE000 bytes into the block, and the tiles 0x9000 bytes behind that. -/
theorem stopRecord_places (a i j : Nat) : a + 0xE000 + 7 = a + 0xE007 ∧ a + 0xE000 + 0x9000 + 0x4000 * i + j = a + 0x17000 + 0x4000 * i + j := by omega

/-! ## GO that restores (R370, R381, R382) -/

/-- What a core becomes that restores the launches `kept` of a function from its block at `a`, the state being `s`. -/
def restored (s : State) (f a : Nat) (b : SaveBlock) (kept : List (Nat × OnCore)) (co : Core) : Core :=
  let ls := kept.map (·.1)
  let ks := kept.flatMap (·.2.strs)
  let mine (x : Option Nat) : Bool := match x with | some l => ls.contains l | none => false
  { co with strs := placeAll (fun p t => t.resume (readStr s.mem (a + 0x1000 + 0x2000 * p.1) p.2)) (b.strs.filter (fun p => ks.contains p.1)) co.strs,
            records := co.records ++ (readRecs s.mem a b.cycle co.cycle b.records).filter (fun r => ls.contains r.launch),
            rings := (b.rings.filter (fun r => (ringsOf ks).contains r.1)).foldl (fun m r => mset m r.1 (readRing s.mem (a + 0xD000 + 32 * r.1) r.2)) co.rings,
            bce := co.bce ++ (readQueue (readBce s.mem) (a + 0xD840) 128 b.bce).filter (fun x => mine x.launch),
            mxu := if mine b.mxu.holder then readMxu s.mem s.bad (a + 0xE000) b.mxu else Mxu.init, vfs := mset co.vfs f { co.vfc f with saved := none } }

/-- The state in which a core begins to read a block. -/
def reading (s : State) (c f : Nat) : State := (s.blockTraffic c f).poisonBlock (s.blockBase c f) 0xA8000

/-- With no record in the spill table among those saved, a restore is that of the slice and of the core. -/
theorem restoreVf_eq (s : State) (c f : Nat) {b : SaveBlock} (slots : ∀ r ∈ b.records, r.spill = none) : let t := reading s c f
    s.restoreVf c f b = (t.restoreSlice c f (t.blockBase c f) b).modCore c (restored t f (t.blockBase c f) b (t.kept c f b)) := by
  intro t
  have spilled (ls : List Nat) : b.records.filter (fun r => r.spill.isSome && ls.contains r.launch) = [] :=
    List.filter_eq_nil_iff.mpr (fun r hr => by simp [slots r hr])
  unfold State.restoreVf
  dsimp only
  rw [spilled]
  rfl

theorem reading_eq {s : State} (copied : s.switched = []) (c f : Nat) : ∃ q d, reading s c f = { s with seqs := q, bad := d } := by
  obtain ⟨q, traffic⟩ := blockTraffic_eq s c f
  rw [reading, traffic, backAll_none copied]
  exact ⟨q, _, rfl⟩

/-- The windows of the launches whose state the block at `a` holds, by offset. -/
def savedWindows (s : State) (c f a : Nat) (b : SaveBlock) : Memory :=
  (s.mem.part (a + 0x28000) 0x80000).filter (fun y => s.inWindows (s.kept c f b) y.1)

theorem restoreSlice_mem (s : State) (c f a : Nat) (b : SaveBlock) : (s.restoreSlice c f a b).mem
    = (s.mem.clear (sliceFlat c 0) 0x80000).splice (sliceFlat c 0) 0x80000 ((savedWindows s c f a b).shift (sliceFlat c 0)) := rfl

theorem restoreSlice_core (s : State) (c f a : Nat) (b : SaveBlock) (d : Nat) : (s.restoreSlice c f a b).core d = s.core d := rfl

theorem get_restoreSlice {s : State} (wf : s.mem.wf = true) (c f a : Nat) (b : SaveBlock) {j : Nat} (h : j < 0x80000) :
    (s.restoreSlice c f a b).mem.get (sliceFlat c 0 + j) = if s.inWindows (s.kept c f b) j then s.mem.get (a + 0x28000 + j) else 0 := by
  have windows : (savedWindows s c f a b).wf = true := wf_filter _ _ (wf_part _ _ _ wf)
  rw [restoreSlice_mem, get_splice_shift windows h, savedWindows, get_filter, get_part h]

/-! ## What is kept of a block -/

theorem kept_wait {s : State} {c : Nat} (sorted : InOrder (s.core c)) (f : Nat) (b : SaveBlock) :
    ((s.wait c).kept c f b).map holding = (s.kept c f b).map holding :=
  filter_holding (vfLive_wait s sorted f) _

section
variable {s : State} {f a : Nat} {b : SaveBlock} {kept : List (Nat × OnCore)} {co : Core}

theorem restored_strs : (restored s f a b kept co).strs
    = placeAll (fun p t => t.resume (readStr s.mem (a + 0x1000 + 0x2000 * p.1) p.2)) (b.strs.filter (fun p => (kept.flatMap (·.2.strs)).contains p.1))
      co.strs := rfl

theorem contains_strs (k : Nat) : (kept.flatMap (·.2.strs)).contains k = true ↔ ∃ r ∈ kept, k ∈ r.2.strs := by
  rw [List.contains_iff_mem, List.mem_flatMap]

theorem contains_numbers (i : Nat) : (kept.map (·.1)).contains i = true ↔ ∃ o, (i, o) ∈ kept := by
  rw [List.contains_iff_mem, List.mem_map]
  exact ⟨fun ⟨r, hr, same⟩ => ⟨r.2, by rw [← same]; exact hr⟩, fun ⟨o, ho⟩ => ⟨_, ho, rfl⟩⟩

/-- A string of no kept launch stays. -/
theorem restored_str_other {k : Nat} (out : ∀ r ∈ kept, k ∉ r.2.strs) : (restored s f a b kept co).str k = co.str k := by
  rw [Core.str, restored_strs]
  refine placeAll_other (fun p hp same => ?_)
  obtain ⟨r, hr, held⟩ := (contains_strs p.1).mp (List.mem_filter.mp hp).2
  exact out r hr (same ▸ held)

/-- One of a kept launch is read back. -/
theorem restored_str_kept (distinct : (b.strs.map (·.1)).Nodup) {x : Nat × Str} (hx : x ∈ b.strs) {r : Nat × OnCore} (hr : r ∈ kept)
    (held : x.1 ∈ r.2.strs) : (restored s f a b kept co).str x.1 = (co.str x.1).resume (readStr s.mem (a + 0x1000 + 0x2000 * x.1) x.2) := by
  rw [Core.str, restored_strs]
  exact placeAll_placed (distinct.sublist (List.filter_sublist.map _)) (List.mem_filter.mpr ⟨hx, (contains_strs x.1).mpr ⟨r, hr, held⟩⟩)

theorem restored_records {r : Rec} (h : r ∈ (restored s f a b kept co).records) : r ∈ co.records ∨ ∃ o, (r.launch, o) ∈ kept := by
  rcases List.mem_append.mp h with old | new
  · exact .inl old
  · exact .inr ((contains_numbers r.launch).mp (List.mem_filter.mp new).2)

theorem restored_saved : ((restored s f a b kept co).vfc f).saved = none := by
  unfold restored Core.vfc
  dsimp only
  rw [mget_mset_self]

theorem restored_mxu_other (h : ∀ i, b.mxu.holder = some i → ¬∃ o, (i, o) ∈ kept) : (restored s f a b kept co).mxu = Mxu.init := by
  refine if_neg ?_
  dsimp only
  split
  · rename_i i held
    rw [contains_numbers]
    exact h i held
  · exact Bool.false_ne_true

theorem restored_mxu_kept {i : Nat} (held : b.mxu.holder = some i) (h : ∃ o, (i, o) ∈ kept) :
    (restored s f a b kept co).mxu = readMxu s.mem s.bad (a + 0xE000) b.mxu := by
  refine if_pos ?_
  rw [held]
  exact (contains_numbers i).mpr h

end

/-! ## The state after GO -/

/-- A core runs a function from now on, and reports. -/
def arrived (f : Nat) (co : Core) : Core := { co with vf := some f, sw := .restored }

theorem arrived_vf (f : Nat) (co : Core) : (arrived f co).vf = some f := rfl
theorem arrived_sw (f : Nat) (co : Core) : (arrived f co).sw = .restored := rfl
theorem arrived_str (f : Nat) (co : Core) (k : Nat) : (arrived f co).str k = co.str k := rfl
theorem arrived_records (f : Nat) (co : Core) : (arrived f co).records = co.records := rfl
theorem arrived_vfc (f : Nat) (co : Core) (g : Nat) : (arrived f co).vfc g = co.vfc g := rfl
theorem arrived_mxu (f : Nat) (co : Core) : (arrived f co).mxu = co.mxu := rfl

/-- The state after GO. -/
def resumed (s : State) (c f : Nat) (b : SaveBlock) : State := ((s.wait c).restoreVf c f b).modCore c (arrived f)

section
variable {s : State} {c f : Nat} {b : SaveBlock}

theorem go_resumes (told : (s.core c).sw = .go f) (saved : ((s.core c).vfc f).saved = some b) (free : ∀ x ∈ b.strs, ((s.core c).str x.1).run = .free) :
    exec (.go c) s = .next (resumed s c f b) := by
  change execGo c s = _
  unfold execGo
  dsimp only
  rw [told]
  dsimp only
  rw [saved]
  exact if_neg (by simpa using free)

/-- When a core begins to read its block, memory, launches and what is kept are as the cycles left them. -/
theorem reading_wait (copied : s.switched = []) : (reading (s.wait c) c f).mem = s.mem ∧ (∀ i, (reading (s.wait c) c f).launch i = s.launch i)
    ∧ (reading (s.wait c) c f).blockBase c f = s.blockBase c f ∧ (reading (s.wait c) c f).core c = (s.wait c).core c
    ∧ (reading (s.wait c) c f).kept c f b = (s.wait c).kept c f b := by
  have waited := waited_wait s c
  obtain ⟨q, d, read⟩ := reading_eq ((wait_switched s c).trans copied) c f
  rw [read]
  exact ⟨waited.mem, waited.launch, blockBase_wait s c f, rfl, rfl⟩

theorem wait_core (s : State) (c : Nat) : ((s.wait c).core c).str = (s.core c).str ∧ ((s.wait c).core c).records = (s.core c).records := by
  obtain ⟨r, y, v, w, core, -⟩ := (waited_wait s c).core c
  rw [core]
  exact ⟨rfl, rfl⟩

theorem resumed_core (slots : ∀ r ∈ b.records, r.spill = none) (copied : s.switched = []) : (resumed s c f b).core c
    = arrived f (restored (reading (s.wait c) c f) f (s.blockBase c f) b ((s.wait c).kept c f b) ((s.wait c).core c)) := by
  obtain ⟨-, -, base, core, kept⟩ := reading_wait (s := s) (c := c) (f := f) (b := b) copied
  rw [resumed, core_modCore_self, restoreVf_eq _ c f slots, core_modCore_self, restoreSlice_core, base, core, kept]

theorem mem_kept_wait (sorted : InOrder (s.core c)) (i : Nat) : (∃ o, (i, o) ∈ (s.wait c).kept c f b) ↔ ∃ o, (i, o) ∈ s.kept c f b := by
  rw [← contains_numbers, ← contains_numbers, numbers_holding (kept_wait sorted f b)]

theorem strs_kept_wait (sorted : InOrder (s.core c)) (k : Nat) : (∃ r ∈ (s.wait c).kept c f b, k ∈ r.2.strs)
    ↔ ∃ r ∈ s.kept c f b, k ∈ r.2.strs := by
  rw [← contains_strs, ← contains_strs, strs_holding (kept_wait sorted f b)]

variable (slots : ∀ r ∈ b.records, r.spill = none) (copied : s.switched = []) (sorted : InOrder (s.core c))
include slots copied

theorem resumed_saved : (((resumed s c f b).core c).vfc f).saved = none := by
  rw [resumed_core slots copied, arrived_vfc, restored_saved]

theorem get_resumed_slice_of_wait (wf : s.mem.wf = true) {j : Nat} (h : j < 524288) : (resumed s c f b).mem.get (sliceFlat c 0 + j)
    = if (reading (s.wait c) c f).inWindows ((s.wait c).kept c f b) j then s.mem.get (s.blockBase c f + 0x28000 + j) else 0 := by
  obtain ⟨mem, -, base, -, kept⟩ := reading_wait (s := s) (c := c) (f := f) (b := b) copied
  rw [resumed, modCore_mem, restoreVf_eq _ c f slots, modCore_mem, get_restoreSlice (by rwa [mem]) c f _ b h, kept, mem, base]

include sorted

theorem resumed_str_other {k : Nat} (out : ∀ r ∈ s.kept c f b, k ∉ r.2.strs) : (resumed s c f b).str c k = s.str c k := by
  have other : ∀ r ∈ (s.wait c).kept c f b, k ∉ r.2.strs := fun r hr held => by
    obtain ⟨r', hr', held'⟩ := (strs_kept_wait sorted k).mp ⟨r, hr, held⟩
    exact out r' hr' held'
  rw [State.str, resumed_core slots copied, arrived_str, restored_str_other other, (wait_core s c).1]
  rfl

theorem resumed_str_kept (distinct : (b.strs.map (·.1)).Nodup) {x : Nat × Str} (hx : x ∈ b.strs) {r : Nat × OnCore} (hr : r ∈ s.kept c f b)
    (held : x.1 ∈ r.2.strs) :
    (resumed s c f b).str c x.1 = ((s.core c).str x.1).resume (readStr s.mem (s.blockBase c f + 0x1000 + 0x2000 * x.1) x.2) := by
  obtain ⟨mem, -⟩ := reading_wait (s := s) (c := c) (f := f) (b := b) copied
  obtain ⟨r', hr', held'⟩ := (strs_kept_wait sorted x.1).mpr ⟨r, hr, held⟩
  rw [State.str, resumed_core slots copied, arrived_str, restored_str_kept distinct hx hr' held', (wait_core s c).1, mem]

theorem resumed_records {r : Rec} (h : r ∈ ((resumed s c f b).core c).records) : r ∈ (s.core c).records ∨ ∃ o, (r.launch, o) ∈ s.kept c f b := by
  rw [resumed_core slots copied, arrived_records] at h
  rw [← mem_kept_wait sorted, ← (wait_core s c).2]
  exact restored_records h

theorem resumed_mxu_other (h : ∀ i, b.mxu.holder = some i → ¬∃ o, (i, o) ∈ s.kept c f b) : ((resumed s c f b).core c).mxu = Mxu.init := by
  rw [resumed_core slots copied, arrived_mxu]
  exact restored_mxu_other (fun i held => by rw [mem_kept_wait sorted]; exact h i held)

theorem resumed_mxu_kept {i : Nat} (held : b.mxu.holder = some i) (h : ∃ o, (i, o) ∈ s.kept c f b) :
    ∃ bad, ((resumed s c f b).core c).mxu = readMxu s.mem bad (s.blockBase c f + 0xE000) b.mxu := by
  obtain ⟨mem, -⟩ := reading_wait (s := s) (c := c) (f := f) (b := b) copied
  refine ⟨(reading (s.wait c) c f).bad, ?_⟩
  rw [resumed_core slots copied, arrived_mxu, restored_mxu_kept held ((mem_kept_wait sorted i).mpr h), mem]

theorem get_resumed_slice (wf : s.mem.wf = true) {j : Nat} (h : j < 524288) : (resumed s c f b).mem.get (sliceFlat c 0 + j)
    = if s.inWindows (s.kept c f b) j then s.mem.get (s.blockBase c f + 0x28000 + j) else 0 := by
  obtain ⟨-, launch, -⟩ := reading_wait (s := s) (c := c) (f := f) (b := b) copied
  rw [get_resumed_slice_of_wait slots copied wf h, inWindows_congr launch (kept_wait sorted f b)]

end

/-- A string that takes its place again keeps the monitor bank and the trap registers of the place, and counts on from the higher number. -/
theorem resume_placed {t y z : Str} (h : t = z.resume y) :
    y.seq ≤ t.seq ∧ t = { y with xm := z.xm, trapc := z.trapc, trapv := z.trapv, trappc := z.trappc, seq := t.seq } := by
  subst h
  unfold Str.resume
  exact ⟨Nat.le_max_right .., rfl⟩

theorem readStr_seq (m : Memory) (a : Nat) (t : Str) : (readStr m a t).seq = t.seq := by
  unfold readStr
  rfl

/-- The matrix unit is read back, byte by byte. -/
theorem resumed_mxu_reads {s : State} {c f : Nat} {b : SaveBlock} (slots : ∀ r ∈ b.records, r.spill = none) (copied : s.switched = [])
    (sorted : InOrder (s.core c)) {i : Nat} (held : b.mxu.holder = some i) (h : ∃ o, (i, o) ∈ s.kept c f b) :
    let a := s.blockBase c f
    let m := ((resumed s c f b).core c).mxu
    m.holder = b.mxu.holder ∧ m.err = s.mem.get (a + 0xE007) ∧ m.queue.length = b.mxu.queue.length
      ∧ ∀ i (h : i < 4), (∀ j < 0x4000, (m.macros[i]).tile.get j = s.mem.get (a + 0x17000 + 0x4000 * i + j))
        ∧ (m.macros[i]).csum = tileSums (m.macros[i]).ity (m.macros[i]).tile := by
  obtain ⟨bad, read⟩ := resumed_mxu_kept slots copied sorted held h
  obtain ⟨holder, err, queue, macros⟩ := readMxu_reads s.mem bad (s.blockBase c f + 0xE000) b.mxu
  rw [read]
  exact ⟨holder, err.trans (congrArg s.mem.get (stopRecord_places (s.blockBase c f) 0 0).1), queue, fun i hi =>
    ⟨fun j hj => ((macros i hi).1 j hj).trans (congrArg s.mem.get (stopRecord_places (s.blockBase c f) i j).2), (macros i hi).2⟩⟩

theorem go_restores {s : State} {c f : Nat} {b : SaveBlock} (told : (s.core c).sw = .go f) (saved : ((s.core c).vfc f).saved = some b)
    (free : ∀ x ∈ b.strs, ((s.core c).str x.1).run = .free) (distinct : (b.strs.map (·.1)).Nodup) (slots : ∀ r ∈ b.records, r.spill = none)
    (sorted : InOrder (s.core c)) (copied : s.switched = []) : let a := s.blockBase c f
    let kept := s.kept c f b
    let has (i : Nat) : Prop := ∃ o, (i, o) ∈ kept
    ∃ u, exec (.go c) s = .next u ∧ (u.core c).vf = some f ∧ (u.core c).sw = .restored
      ∧ (∀ x ∈ b.strs, let t := u.str c x.1
          let y := readStr s.mem (a + 0x1000 + 0x2000 * x.1) x.2
          ((∀ r ∈ kept, x.1 ∉ r.2.strs) → t = s.str c x.1)
            ∧ (∀ r ∈ kept, x.1 ∈ r.2.strs → let z := (s.core c).str x.1
                x.2.seq ≤ t.seq ∧ t = { y with xm := z.xm, trapc := z.trapc, trapv := z.trapv, trappc := z.trappc, seq := t.seq }))
      ∧ (∀ r ∈ (u.core c).records, r ∈ (s.core c).records ∨ has r.launch)
      ∧ ((u.core c).vfc f).saved = none
      ∧ (s.Inv → ∀ j < 524288,
          let inWindow : Prop := ∃ r ∈ kept, ∃ l, s.launch r.1 = some l ∧ r.2.wbase ≤ j ∧ j < r.2.wbase + l.winBytes
          (inWindow → u.mem.get (sliceFlat c 0 + j) = s.mem.get (a + 0x28000 + j)) ∧ (¬inWindow → u.mem.get (sliceFlat c 0 + j) = 0))
      ∧ ((∀ i, b.mxu.holder = some i → ¬has i) → (u.core c).mxu = Mxu.init)
      ∧ (∀ q, b.mxu.holder = some q → has q → let m := (u.core c).mxu
        m.holder = b.mxu.holder ∧ m.err = s.mem.get (a + 0xE007) ∧ m.queue.length = b.mxu.queue.length
          ∧ ∀ i (h : i < 4), (∀ j < 0x4000, (m.macros[i]).tile.get j = s.mem.get (a + 0x17000 + 0x4000 * i + j))
            ∧ (m.macros[i]).csum = tileSums (m.macros[i]).ity (m.macros[i]).tile) := by
  intro a kept has
  have core := resumed_core (c := c) (f := f) slots copied
  refine ⟨resumed s c f b, go_resumes told saved free, by rw [core, arrived_vf], by rw [core, arrived_sw], fun x hx => ⟨?_, ?_⟩,
    fun r hr => resumed_records slots copied sorted hr, resumed_saved slots copied,
    fun inv j hj => windows_cases (get_resumed_slice slots copied sorted inv.mem hj), resumed_mxu_other slots copied sorted,
    fun i held has => resumed_mxu_reads slots copied sorted held has⟩
  · exact resumed_str_other slots copied sorted
  · intro r hr held
    have placed := resume_placed (resumed_str_kept slots copied sorted distinct hx hr held)
    rwa [readStr_seq] at placed

/-! ## The statement -/

/-- Settles O52, clause by clause. -/
theorem rotation : Obligations.Rotation := by
  unfold Obligations.Rotation
  intro s p c
  refine ⟨fun i steady running found => ⟨quantumExpiry_stays steady running found,
      fun o stands other => quantumExpiry_switches steady running found stands other⟩,
    fun f g n since told part free keeps quiet sorted => switch_saves told part free keeps quiet sorted,
    fun f g n d since told part free keeps live busy => switch_waits told part free keeps live busy,
    fun f told nothing => go_first told nothing,
    fun f b told saved free distinct slots sorted copied => go_restores told saved free distinct slots sorted copied,
    fun f restoring all => quantumStart_starts restoring all, fun i h v ready => ?_⟩
  obtain ⟨u, run, mem, table⟩ := quantumTableWrite_writes p h v ready
  refine ⟨u, run, mem, ?_, fun j hj other => ?_⟩
  · rw [table, Vector.getElem_set_self]
    exact toNat_entryBits v
  · rw [table, Vector.getElem_set_ne _ _ other.symm]

end Sys2Proof.Proofs
end

section
/-! SUPPORT. How an instruction ends, FENCE and WAIT (R109, R110, R283, R284), and the statement `FenceAndWait`. -/

namespace Sys2Proof.Proofs

open Sys2Proof Sys2Proof.Machine Sys2Proof.Laws Sys2Proof.Claims

/-! ## How an instruction ends -/

/-- What an instruction comes to, by the answer of its steps. -/
def ended (s : State) : Except Stop (Adv × State) → Out1
  | .error (.fault e) => s.faultDue (·.fault e)
  | .error (.met e v b a) => s.faultDue (·.faultAt e v b a)
  | .error (.stall m) => .next (s.queueMiss s.cur.1 m)
  | .ok (.step, t) => .next t.retire
  | .ok (.to pc, t) => .next (t.retireTo pc)
  | .ok (.again, t) => .next t
  | .ok (.placed, t) => .next t

theorem runInstr_ended (f : M Adv) (s : State) : runInstr f s = ended s (f.run s) := rfl

/-! ## An instruction that waits for its string, and then changes no more than a note -/

/-- The note in the last outstanding load changes nothing else, and no event of a load. -/
theorem passLoads_eq (t : Str) : ∃ ls, t.passLoads = { t with lds := ls } ∧ ls.map (·.evs) = t.lds.map (·.evs) := by
  unfold Str.passLoads
  split
  · exact ⟨t.lds, rfl, rfl⟩
  · rename_i l r last
    refine ⟨_, rfl, ?_⟩
    rw [← List.reverse_reverse t.lds, last]
    simp

/-- An instruction that retires with a change of its string once a test of the state passes. -/
def whenDone (done : State → Bool) (f : Str → Str) : M Adv := do
  let s ← get
  await (done s)
  modStr f
  return .step

theorem runInstr_whenDone (done : State → Bool) (f : Str → Str) (s : State) :
    runInstr (whenDone done f) s = if done s then .next (s.setCurStr (f s.curStr)).retire else .next s := by
  have run : (whenDone done f).run s
      = if done s then .ok (.step, s.setCurStr (f s.curStr)) else .error (.stall none) := by
    unfold whenDone
    rw [StateT.run_bind, StateT.run_get]
    show ((await (done s) >>= fun _ => modStr f >>= fun _ => return .step : M Adv)).run s = _
    rw [StateT.run_bind, run_await]
    split <;> rfl
  rw [runInstr_ended, run]
  cases done s <;> rfl

/-- All is done that FENCE waits for, of loads where `loads` and of stores where `stores` (R109, R134). -/
theorem exec_fence_whenDone (kind : BitVec 4) (sc : Scope) (s : State) :
    exec (.fence kind sc) s = if fenceDone s sc (kind.getLsbD 0 || kind.getLsbD 1) (kind.getLsbD 2 || kind.getLsbD 3) then
      .next (s.setCurStr s.curStr.passLoads).retire else .next s :=
  runInstr_whenDone (fun s => fenceDone s sc (kind.getLsbD 0 || kind.getLsbD 1) (kind.getLsbD 2 || kind.getLsbD 3)) Str.passLoads s

/-- Every counter is within its field of WAIT (R284). -/
def waitDone (ld st cp mx : BitVec 6) (s : State) : Bool :=
  let n := counters s.curCore s.cur.2
  bounds n.1 ld && bounds n.2.1 st && bounds n.2.2.1 cp && bounds n.2.2.2 mx

theorem exec_wait_whenDone (ld st cp mx : BitVec 6) (s : State) :
    exec (.wait ld st cp mx) s = if waitDone ld st cp mx s then .next (s.setCurStr s.curStr.passLoads).retire else .next s :=
  runInstr_whenDone (waitDone ld st cp mx) Str.passLoads s

/-! ## What they wait for -/

/-- FENCE waits for loads, for stores and pushes, and for what commands have still to access. -/
theorem fenceDone_iff (s : State) (sc : Scope) (loads stores : Bool) :
    let t := s.curStr
    let hit (e : SectorEv) : Bool := inScope s.cur.1 sc e.place
    fenceDone s sc loads stores = true ↔
      ¬(∃ l ∈ t.lds, (loads = true ∨ l.isAtomic = true) ∧ ∃ e ∈ l.evs, hit e = true)
        ∧ ¬(stores = true ∧ ((∃ x ∈ t.sb, ∃ e ∈ x.evs, hit e = true) ∨ t.pushAny hit = true))
        ∧ cmdsOpen s s.cur.1 s.cur.2 sc loads stores = false := by
  dsimp only
  unfold fenceDone
  simp only [Bool.and_eq_true, Bool.or_eq_true, Bool.not_eq_true', ← Bool.not_eq_true, List.any_eq_true, and_assoc]
  cases stores <;> simp

theorem bounds_iff (n : Nat) (f : BitVec 6) : bounds n f = true ↔ ¬(f ≠ 63 ∧ f.toNat < n) := by
  simp only [bounds, Bool.or_eq_true, beq_iff_eq, decide_eq_true_eq]
  rw [not_and, Nat.not_lt, or_iff_not_imp_left]

theorem waitDone_iff (ld st cp mx : BitVec 6) (s : State) :
    let n := counters s.curCore s.cur.2
    let above (m : Nat) (f : BitVec 6) : Prop := f ≠ 63 ∧ f.toNat < m
    waitDone ld st cp mx s = true ↔ ¬above n.1 ld ∧ ¬above n.2.1 st ∧ ¬above n.2.2.1 cp ∧ ¬above n.2.2.2 mx := by
  simp only [waitDone, Bool.and_eq_true, bounds_iff, and_assoc]

/-- Settles O26: each retires, once what it waits for is done, and waits until then. -/
theorem fenceAndWait : Obligations.FenceAndWait := by
  unfold Obligations.FenceAndWait
  intro s kind sc ld st cp mx
  obtain ⟨ls, passed, evs⟩ := passLoads_eq s.curStr
  have fence := fenceDone_iff s sc (kind.getLsbD 0 || kind.getLsbD 1) (kind.getLsbD 2 || kind.getLsbD 3)
  have wait := waitDone_iff ld st cp mx s
  refine ⟨fun load store cmd => ?_, fun left => ?_, ⟨fun l t c m => ?_, fun above => ?_⟩, ?_, ?_, ?_⟩
  · rw [Gives, exec_fence_whenDone, if_pos (fence.mpr ⟨load, store, cmd⟩)]
  · rw [exec_fence_whenDone, if_neg]
    intro done
    obtain ⟨load, store, cmd⟩ := fence.mp done
    rcases left with h | h | h
    · exact load h
    · exact store h
    · rw [cmd] at h; cases h
  · rw [Gives, exec_wait_whenDone, if_pos (wait.mpr ⟨l, t, c, m⟩)]
  · rw [exec_wait_whenDone, if_neg]
    intro done
    obtain ⟨l, t, c, m⟩ := wait.mp done
    rcases above with h | h | h | h
    · exact l h
    · exact t h
    · exact c h
    · exact m h
  · rw [passed]
    exact ⟨rfl, rfl, rfl, rfl, rfl, rfl, rfl, rfl, rfl, rfl, rfl, rfl, rfl, rfl, rfl, rfl, rfl, rfl, rfl, rfl⟩
  · rw [passed]
  · rw [passed]
    exact evs

end Sys2Proof.Proofs
end

section
/-! SUPPORT. BAR (R111, R159, R286), and the statement `BarrierCompletes`. -/

namespace Sys2Proof.Proofs

open Sys2Proof Sys2Proof.Machine Sys2Proof.Laws Sys2Proof.Claims

/-! ## Retiring as it is -/

/-- An instruction that retires with its string as it is retires the state as it is. -/
theorem retire_setCurStr_curStr (s : State) : (s.setCurStr s.curStr).retire = s.retire := by
  simp only [State.retire, State.retireTo, curStr_setCurStr, setCurStr_setCurStr, setCurStr_cur]

/-! ## The barrier of a string's quire -/

/-- Cores of a quire (R159). -/
def quireSize (l : Launch) : Nat := l.f 320 8 * 16

/-- Number of the quire of the executing string's core. -/
def quireOf (s : State) (i : Nat) (l : Launch) : Nat := s.lcoreOf s.cur.1 (some i) / quireSize l

/-- Its barrier. -/
def barrierOf (s : State) (i : Nat) (l : Launch) : Barrier := mget { gen := 0, arrived := [] } l.barriers (quireOf s i l)

/-- The barrier once the executing string's core has arrived. -/
def barrierNext (s : State) (i : Nat) (l : Launch) : Barrier := (barrierOf s i l).arrive s.cur.1 (quireSize l)

/-- The state in which the core has arrived. -/
def arrivedAt (s : State) (i : Nat) (l : Launch) : State :=
  s.modLaunch i (fun v => { v with barriers := mset v.barriers (quireOf s i l) (barrierNext s i l) })

/-- No store, load or push of the executing string has still to perform at a home on its die. -/
def nearDone (s : State) : Bool :=
  let near (e : SectorEv) : Bool := nearTo s.cur.1 e.place
  !s.curStr.sb.any (fun x => x.evs.any near) && !s.curStr.lds.any (fun x => x.evs.any near) && !s.curStr.pushAny near

section
variable {s : State} {a : Activation} {l : Launch}

/-- With no load outstanding, a store or a push alone keeps a string from its barrier. -/
theorem nearDone_iff (quiet : Quiet s) :
    nearDone s = true ↔ ¬((∃ x ∈ s.curStr.sb, ∃ e ∈ x.evs, nearTo s.cur.1 e.place = true)
      ∨ s.curStr.pushAny (fun e => nearTo s.cur.1 e.place) = true) := by
  have lds : s.curStr.lds = [] := quiet
  simp [nearDone, lds]

theorem exec_bar_noLaunch (quiet : Quiet s) (free : s.curStr.act = none) : Faults .bar s 0x35 0 0 := by
  have run : needLaunch.run s = .error (.fault { code := 0x35, detail := 0, val := 0 }) := by
    simp only [needLaunch, StateT.run_bind, StateT.run_get, pure_bind, free, run_raise]
  rw [Faults, exec_bar, execBar, runInstr, run_bind_ok (run_settle_ready [] s quiet), run_bind_ok (StateT.run_get s),
    StateT.run_bind, run]
  exact faultDue_ready s _ quiet

theorem launch_arrivedAt {i : Nat} (launch : s.launch i = some l) :
    ∃ v, (arrivedAt s i l).launch i = some v ∧ v.barriers = mset l.barriers (quireOf s i l) (barrierNext s i l) := by
  simp only [arrivedAt, State.modLaunch, launch]
  exact ⟨_, mfind_mset_self _ _ _, rfl⟩

theorem arrivedAt_curStr (s : State) (i : Nat) (l : Launch) : (arrivedAt s i l).curStr = s.curStr := by
  unfold arrivedAt State.modLaunch
  split <;> rfl

variable (act : s.curStr.act = some a) (launch : s.launch a.launch = some l)
include act launch

theorem run_needLaunch : needLaunch.run s = .ok ((a, l), s) := by
  simp only [needLaunch, StateT.run_bind, StateT.run_get, pure_bind, act, launch]
  rfl

variable (quiet : Quiet s)
include quiet

/-- A string that waits at its barrier goes on once the barrier has moved on (R159). -/
theorem exec_bar_waiting {g} (wait : s.curStr.wait = .bar g) :
    exec .bar s = if (barrierOf s a.launch l).gen ≠ g then .next s.retire else .next s := by
  rw [exec_bar, execBar, runInstr_ended, run_bind_ok (run_settle_ready [] s quiet), run_bind_ok (StateT.run_get s),
    run_bind_ok (run_needLaunch act launch)]
  dsimp only
  rw [wait]
  show ended s ((if (barrierOf s a.launch l).gen ≠ g then return .step else stall : M Adv).run s) = _
  split <;> rfl

/-- One that does not wait commits early first (R166), then stays until its near stores have performed, and then arrives: it goes on if that
moves the barrier on, and waits there otherwise (R159, R286). -/
theorem exec_bar_arriving (wait : ∀ g, s.curStr.wait ≠ .bar g) :
    exec .bar s = if a.ec = false then .next (s.commitEarly s.cur.1 s.cur.2)
      else if nearDone s = false then .next s
      else if (barrierNext s a.launch l).gen ≠ (barrierOf s a.launch l).gen then .next (arrivedAt s a.launch l).retire
      else .next ((arrivedAt s a.launch l).modStr s.cur.1 s.cur.2 (fun t => { t with wait := .bar (barrierOf s a.launch l).gen })) := by
  rw [exec_bar, execBar, runInstr_ended, run_bind_ok (run_settle_ready [] s quiet), run_bind_ok (StateT.run_get s),
    run_bind_ok (run_needLaunch act launch)]
  dsimp only
  cases present : s.curStr.wait with
  | bar g => exact absurd present (wait g)
  | _ =>
    cases a.ec with
    | false => rfl
    | true =>
      show ended s ((await (nearDone s) >>= _ : M Adv).run s) = _
      rw [StateT.run_bind, run_await]
      cases nearDone s with
      | false => rfl
      | true =>
        show ended s ((if (barrierNext s a.launch l).gen ≠ (barrierOf s a.launch l).gen then return .step
          else modify _ >>= fun _ => return .again : M Adv).run (arrivedAt s a.launch l)) = _
        by_cases moved : (barrierNext s a.launch l).gen ≠ (barrierOf s a.launch l).gen
        · rw [if_pos moved, if_neg (by decide), if_neg (by decide), if_pos moved]; rfl
        · rw [if_neg moved, if_neg (by decide), if_neg (by decide), if_neg moved]; rfl

/-- One that arrives and does not move the barrier on waits there, its arrival recorded. -/
theorem exec_bar_stays (wait : ∀ g, s.curStr.wait ≠ .bar g) (early : a.ec = true) (free : nearDone s = true)
    (same : (barrierNext s a.launch l).gen = (barrierOf s a.launch l).gen) :
    ∃ u v, exec .bar s = .next u ∧ u.curStr = { s.curStr with wait := .bar (barrierOf s a.launch l).gen } ∧ u.mem = s.mem
      ∧ u.launch a.launch = some v ∧ v.barriers = mset l.barriers (quireOf s a.launch l) (barrierNext s a.launch l) := by
  rw [exec_bar_arriving act launch quiet wait, if_neg (by simp [early]), if_neg (by simp [free]), if_neg (not_not.mpr same)]
  obtain ⟨v, told, barriers⟩ := launch_arrivedAt launch
  refine ⟨_, v, rfl, ?_, modLaunch_mem .., told, barriers⟩
  obtain ⟨x, arrived⟩ := modLaunch_eq s a.launch (fun v => { v with barriers := mset v.barriers (quireOf s a.launch l) (barrierNext s a.launch l) })
  rw [arrivedAt, arrived]
  exact str_setStr_self ..

/-- The last to arrive goes on. -/
theorem exec_bar_goesOn (wait : ∀ g, s.curStr.wait ≠ .bar g) (early : a.ec = true) (free : nearDone s = true)
    (moved : (barrierNext s a.launch l).gen ≠ (barrierOf s a.launch l).gen) :
    ∃ u v, exec .bar s = .next u ∧ u.curStr = retired s.curStr ∧ u.mem = s.mem
      ∧ u.launch a.launch = some v ∧ v.barriers = mset l.barriers (quireOf s a.launch l) (barrierNext s a.launch l) := by
  rw [exec_bar_arriving act launch quiet wait, if_neg (by simp [early]), if_neg (by simp [free]), if_pos moved]
  obtain ⟨v, told, barriers⟩ := launch_arrivedAt launch
  refine ⟨_, v, rfl, ?_, ?_, ?_, barriers⟩
  · rw [State.retire, retireTo_curStr, arrivedAt_curStr, retired]
  · rw [State.retire, retireTo_mem]
    exact modLaunch_mem ..
  · rw [State.launch, State.retire, retireTo_launches]
    exact told

end

/-- Settles O27, by whether the string waits at its barrier already. -/
theorem barrierCompletes : Obligations.BarrierCompletes := by
  unfold Obligations.BarrierCompletes
  refine ⟨fun s quiet free => exec_bar_noLaunch quiet free, fun s a l quiet act launch => ?_⟩
  have near := nearDone_iff quiet
  have arriving := exec_bar_arriving act launch quiet
  refine ⟨fun wait late => ?_, fun wait early free same => exec_bar_stays act launch quiet wait early (near.mpr free) same,
    fun wait early free moved => exec_bar_goesOn act launch quiet wait early (near.mpr free) moved, fun wait early left => ?_, fun wait => ?_,
    fun g wait moved => ?_⟩
  · rw [arriving wait, if_pos late]
  · rw [arriving wait, if_neg (by simp [early]), if_pos (Bool.eq_false_iff.mpr (fun done => near.mp done left))]
  · exact (exec_bar_waiting act launch quiet wait).trans (if_neg (not_not.mpr rfl))
  · rw [Gives, retire_setCurStr_curStr]
    exact (exec_bar_waiting act launch quiet wait).trans (if_pos moved.symm)

end Sys2Proof.Proofs
end

section
/-! SUPPORT. What a scalar load does as it issues (R99, R100, R102, R274, R276), and the statement `ScalarLoads`. -/

namespace Sys2Proof.Proofs

open Sys2Proof Sys2Proof.Machine Sys2Proof.Laws Sys2Proof.Claims

/-! ## Changes of the executing string alone -/

/-- `u` differs from `s` in the executing string, and in nothing that the statements about accesses keep of the rest. -/
structure OnlyCurrent (s u : State) : Prop where
  cur : u.cur = s.cur
  mem : u.mem = s.mem
  others : ∀ c k, (c, k) ≠ s.cur → u.str c k = s.str c k
  units : SameUnits s u

theorem OnlyCurrent.refl (s : State) : OnlyCurrent s s :=
  ⟨rfl, rfl, fun _ _ _ => rfl, rfl, rfl, rfl, rfl, fun _ => ⟨rfl, rfl, rfl, rfl, rfl, rfl, rfl⟩⟩

theorem OnlyCurrent.trans {s t u : State} (h : OnlyCurrent s t) (g : OnlyCurrent t u) : OnlyCurrent s u := by
  obtain ⟨launches, vfs, root, dev, core⟩ := h.units
  obtain ⟨launches', vfs', root', dev', core'⟩ := g.units
  refine ⟨g.cur.trans h.cur, g.mem.trans h.mem, fun c k other => (g.others c k (by rw [h.cur]; exact other)).trans (h.others c k other),
    launches'.trans launches, vfs'.trans vfs, root'.trans root, dev'.trans dev, fun c => ?_⟩
  obtain ⟨mxu, bce, rings, records, mentry, part, vf⟩ := core c
  obtain ⟨mxu', bce', rings', records', mentry', part', vf'⟩ := core' c
  exact ⟨mxu'.trans mxu, bce'.trans bce, rings'.trans rings, records'.trans records, mentry'.trans mentry, part'.trans part, vf'.trans vf⟩

/-- The checks of an access change no string (R39). -/
theorem OnlyCurrent.of_kept {s u : State} (h : Kept s u) : OnlyCurrent s u where
  cur := h.cur
  mem := h.mem
  others c k _ := h.string c k
  units := by
    refine ⟨h.launches, h.vfs, h.root, h.dev, fun c => ?_⟩
    obtain ⟨a, b, i, core⟩ := h.core c
    dsimp only
    rw [core]
    exact ⟨rfl, rfl, rfl, rfl, rfl, rfl, rfl⟩

theorem onlyCurrent_setStr {s : State} {c k : Nat} (here : s.cur = (c, k)) (t : Str) : OnlyCurrent s (s.setStr c k t) where
  cur := rfl
  mem := rfl
  others d j other := str_setStr_ne s t (by rwa [here] at other)
  units := by
    refine ⟨rfl, rfl, rfl, rfl, fun d => ?_⟩
    dsimp only
    by_cases same : d = c
    · subst same
      rw [State.setStr, core_modCore_self]
      exact ⟨rfl, rfl, rfl, rfl, rfl, rfl, rfl⟩
    · rw [State.setStr, core_modCore_ne s _ same]
      exact ⟨rfl, rfl, rfl, rfl, rfl, rfl, rfl⟩

/-- An instruction that retires changes its string, and what counts (R256, R337). -/
theorem onlyCurrent_retire (s : State) : OnlyCurrent s s.retire where
  cur := retireTo_cur ..
  mem := retireTo_mem ..
  others c k other := retireTo_str s _ other
  units := by
    refine ⟨retireTo_launches .., retireTo_vfs .., retireTo_root .., retireTo_dev .., fun c => ?_⟩
    obtain ⟨t, m, r, y, v, w, core⟩ := retireTo_core s (nextPtr s.curStr.pc 4) c
    dsimp only
    rw [State.retire, core]
    exact ⟨rfl, rfl, rfl, rfl, rfl, rfl, rfl⟩

theorem curStr_of_cur {s : State} {c k : Nat} (here : s.cur = (c, k)) : s.curStr = s.str c k := by rw [State.curStr, here]

/-! ## A load enters the table -/

/-- The only load of a string, which has still to perform and may fault, stays in the table. -/
theorem bindLoads_waits {s : State} {c k : Nat} {l : Load} (only : (s.str c k).lds = [l]) (open_ : l.evs ≠ []) (unsure : l.sure = false)
    (live : l.dead = false) : s.bindLoads c k = s.setStr c k (s.str c k) := by
  have waits : l.evs.isEmpty = false := by simpa using open_
  have go : bindGo (s.str c k).lds (s.str c k) = (s.str c k, [l], none) := by simp [only, bindGo, waits, unsure, live]
  have pushes : boundPushes (s.str c k).lds [l] = [] := by simp [only, boundPushes]
  unfold State.bindLoads
  simp only [go, pushes, State.commitEvs, List.foldl_nil]
  rw [← only]

/-- The only load of a string, all of whose bytes have come, writes its register (R274). -/
theorem bindLoads_scalar {s : State} {c k : Nat} {l : Load} {rd : XReg} {q : LdKind} (only : (s.str c k).lds = [l]) (done : l.evs = [])
    (live : l.dead = false) (good : l.bad = none) (dst : l.dst = .x rd q) : s.bindLoads c k = s.setStr c k { (s.str c k).bind l with lds := [] } := by
  simp [State.bindLoads, only, bindGo, done, live, good, boundPushes, dst, State.commitEvs]

/-- A load as the table holds it: it writes the bank of the mode in which it issues (R343). -/
def tabled (t : Str) (l : Load) : Load := { l with mon := t.lvl != 0 }

/-- The string behind an instruction that has entered `l` as its only load. -/
def behind (t : Str) (l : Load) : Str := { retired t with lds := [l], seq := t.seq + 1 }

/-- The state in which a load stands in the table and its instruction has retired. -/
def entering (s : State) (l : Load) : State :=
  (s.setCurStr { s.curStr with lds := s.curStr.lds ++ [tabled s.curStr l], seq := s.curStr.seq + 1 }).retire

theorem enterLoad_eq (s : State) (l : Load) : s.enterLoad l = (entering s l).bindLoads s.cur.1 s.cur.2 := rfl

theorem onlyCurrent_entering (s : State) (l : Load) : OnlyCurrent s (entering s l) :=
  (onlyCurrent_setStr rfl _).trans (onlyCurrent_retire _)

theorem str_entering {s : State} (quiet : s.curStr.lds = []) (l : Load) :
    (entering s l).str s.cur.1 s.cur.2 = behind s.curStr (tabled s.curStr l) := by
  rw [← curStr_of_cur (onlyCurrent_entering s l).cur, entering, State.retire, retireTo_curStr, curStr_setCurStr, quiet]
  rfl

/-- A load that has still to perform enters the table (R102). -/
theorem enterLoad_waits {s : State} {l : Load} (quiet : s.curStr.lds = []) (open_ : l.evs ≠ []) (unsure : l.sure = false) (live : l.dead = false) :
    OnlyCurrent s (s.enterLoad l) ∧ (s.enterLoad l).curStr = behind s.curStr (tabled s.curStr l) := by
  have str := str_entering quiet l
  have only := onlyCurrent_entering s l
  rw [enterLoad_eq, bindLoads_waits (l := tabled s.curStr l) (by rw [str]; rfl) open_ unsure live, str]
  have bound := onlyCurrent_setStr only.cur (behind s.curStr (tabled s.curStr l))
  exact ⟨only.trans bound, (curStr_of_cur (bound.cur.trans only.cur)).trans (str_setStr_self ..)⟩

/-- A register that is written behind the load, which is then gone, might have been written before it. -/
theorem setX_behind {t : Str} (quiet : t.lds = []) (l : Load) (rd : XReg) (v : Word) :
    { (behind t l).setX rd v with lds := [] } = retired { t.setX rd v with seq := t.seq + 1 } := by
  rw [← quiet]
  unfold Str.setX
  by_cases zero : rd = 0
  · rw [if_pos zero, if_pos zero]; rfl
  · rw [if_neg zero, if_neg zero]
    by_cases user : t.lvl = 0
    · rw [if_pos user, if_pos (show (behind t l).lvl = 0 from user)]; rfl
    · rw [if_neg user, if_neg (show (behind t l).lvl ≠ 0 from user)]; rfl

/-- One whose bytes have all come writes its register at once (R100, R274). -/
theorem enterLoad_comes {s : State} {l : Load} {rd : XReg} {q : LdKind} (quiet : s.curStr.lds = []) (done : l.evs = []) (live : l.dead = false)
    (good : l.bad = none) (dst : l.dst = .x rd q) :
    OnlyCurrent s (s.enterLoad l) ∧ (s.enterLoad l).curStr
      = retired { s.curStr.setX rd (loadValue q (gotNum l.got (ldBytes q))) with seq := s.curStr.seq + 1 } := by
  have str := str_entering quiet l
  have only := onlyCurrent_entering s l
  rw [enterLoad_eq, bindLoads_scalar (l := tabled s.curStr l) (by rw [str]; rfl) done live good dst, str]
  have written := onlyCurrent_setStr only.cur { (behind s.curStr (tabled s.curStr l)).bind (tabled s.curStr l) with lds := [] }
  refine ⟨only.trans written, (curStr_of_cur (written.cur.trans only.cur)).trans ((str_setStr_self ..).trans ?_)⟩
  have bank (v : Word) : (behind s.curStr (tabled s.curStr l)).inBank (s.curStr.lvl != 0) (fun y => y.setX rd v)
      = (behind s.curStr (tabled s.curStr l)).setX rd v := if_pos rfl
  have bound : (behind s.curStr (tabled s.curStr l)).bind (tabled s.curStr l)
      = (behind s.curStr (tabled s.curStr l)).setX rd (loadValue q (gotNum l.got (ldBytes q))) := by
    rw [← bank]
    simp only [Str.bind, Str.bindNow, tabled, dst]
  rw [bound]
  exact setX_behind quiet ..

/-! ## A load issues -/

/-- A request of a load leaves the strings, the cores and memory as they are (R37, R147). -/
theorem sendLoad_eq (s : State) (c k : Nat) (l : Load) (e : SectorEv) :
    ∃ q r i o, s.sendLoad c k l e = { s with seqs := q, hostReqs := r, nextId := i, out := o } := by
  obtain ⟨q, packets⟩ := packets_eq s c (coreUnit c) e.place
  unfold State.sendLoad
  split
  · rw [packets]; exact ⟨_, _, _, _, rfl⟩
  · rw [packets]; exact ⟨_, _, _, _, rfl⟩
  · exact ⟨_, _, _, _, rfl⟩

/-- The only load of a string is sent (R37): that its request waits is noted no more. -/
theorem sendEv_load {s : State} {l : Load} {e : SectorEv} (only : s.curStr.lds = [l]) (plain : l.isAtomic = false) (norel : l.rel = none) :
    OnlyCurrent s (s.sendEv s.cur.1 s.cur.2 l.seq e)
      ∧ (s.sendEv s.cur.1 s.cur.2 l.seq e).curStr = { s.curStr with lds := [{ l with unsent := l.unsent.erase e }] } := by
  have lds : (s.str s.cur.1 s.cur.2).lds = [l] := only
  have sent : s.sendEv s.cur.1 s.cur.2 l.seq e
      = (s.setCurStr { s.curStr with lds := [{ l with unsent := l.unsent.erase e }] }).sendLoad s.cur.1 s.cur.2 l e := by
    simp [State.sendEv, lds, flushFirst, norel, plain, State.modStr]
    rfl
  obtain ⟨q, r, i, o, eq⟩ := sendLoad_eq (s.setCurStr { s.curStr with lds := [{ l with unsent := l.unsent.erase e }] }) s.cur.1 s.cur.2 l e
  rw [sent, eq]
  exact ⟨(onlyCurrent_setStr rfl _).trans ⟨rfl, rfl, fun _ _ _ => rfl, rfl, rfl, rfl, rfl, fun _ => ⟨rfl, rfl, rfl, rfl, rfl, rfl, rfl⟩⟩,
    curStr_setCurStr ..⟩

/-- What of the only load of a string is to leave the package is sent, where no store of the string is left to hold it back. -/
theorem sendDue_load {s : State} {l : Load} (only : s.curStr.lds = [l]) (free : s.curStr.sb = []) (plain : l.isAtomic = false) (norel : l.rel = none)
    (short : l.unsent = [] ∨ ∃ e, l.unsent = [e]) :
    OnlyCurrent s (s.sendDue s.cur.1 s.cur.2) ∧ (s.sendDue s.cur.1 s.cur.2).curStr = { s.curStr with lds := [{ l with unsent := [] }] } := by
  have due : s.sendDue s.cur.1 s.cur.2 = l.unsent.foldl (fun u e => u.sendEv s.cur.1 s.cur.2 l.seq e) s := by
    have lds : (s.str s.cur.1 s.cur.2).lds = [l] := only
    have sb : (s.str s.cur.1 s.cur.2).sb = [] := free
    simp [State.sendDue, lds, blocked, sb]
  rw [due]
  rcases short with gone | ⟨e, one⟩
  · have same : ({ l with unsent := [] } : Load) = l := by rw [← gone]
    rw [gone, same, ← only]
    exact ⟨.refl s, rfl⟩
  · have sent := sendEv_load (e := e) only plain norel
    rw [one] at sent ⊢
    simpa using sent

/-- A load of one event, which no store of its string holds back, enters the table, and what of it leaves the package is sent. -/
theorem issueEntry_load {s : State} {l : Load} {e : SectorEv} (quiet : s.curStr.lds = []) (free : s.curStr.sb = []) (one : l.evs = [e])
    (unsure : l.sure = false) (live : l.dead = false) (plain : l.isAtomic = false) (norel : l.rel = none) (scalar : l.ptrs = []) :
    OnlyCurrent s (s.issueEntry l) ∧ (s.issueEntry l).curStr = behind s.curStr (tabled s.curStr { l with unsent := [] }) := by
  have issued : s.issueEntry l = (s.enterLoad { l with unsent := l.evs.filter (fun e => outside e.place) }).sendDue s.cur.1 s.cur.2 := by
    simp [State.issueEntry, scalar]
  obtain ⟨entered, str⟩ := enterLoad_waits (s := s) (l := { l with unsent := l.evs.filter (fun e => outside e.place) }) quiet (by simp [one]) unsure live
  have short : l.evs.filter (fun e => outside e.place) = [] ∨ ∃ e, l.evs.filter (fun e => outside e.place) = [e] := by
    rw [one, List.filter_singleton]
    cases outside e.place with
    | true => exact .inr ⟨e, rfl⟩
    | false => exact .inl rfl
  have sent := sendDue_load (congrArg Str.lds str) ((congrArg Str.sb str).trans free) plain norel short
  rw [entered.cur, str] at sent
  rw [issued]
  exact ⟨entered.trans sent.1, sent.2⟩

/-! ## The scalar loads -/

theorem loadSpec_size (v : Nat) (q : LdKind) : (loadSpec v q).1 = ldBytes q := by cases q <;> rfl

theorem loadSpec_value (v : Nat) (q : LdKind) : (loadSpec v q).2 = loadValue q v := by cases q <;> rfl

/-- Each scalar load is the one instruction at its kind, its offset and its scope (R274, R276). -/
theorem exec_scalarLoads {rd ra : XReg} {imm : BitVec 16} {imm7 : BitVec 7} {sc : Scope} {x : Instr × LdKind × Int × Option Scope}
    (hx : x ∈ scalarLoads rd ra imm imm7 sc) (s : State) : exec x.1 s = runInstr (loadInstr rd x.2.1 ra x.2.2.1 x.2.2.2) s := by
  simp only [scalarLoads, List.mem_cons, List.not_mem_nil, or_false] at hx
  rcases hx with rfl | rfl | rfl | rfl | rfl | rfl | rfl | rfl | rfl | rfl | rfl | rfl | rfl | rfl <;>
    simp [execLdB, execLdH, execLdW, execLdD, execLdBu, execLdHu, execLdWu, execLdAcq, ldBytes]

/-- The entry of a scalar load of one event. -/
def scalarLoad (s : State) (rd : XReg) (q : LdKind) (p : Word) (acq : Option Scope) (e : SectorEv) : Load :=
  { seq := s.curStr.seq, dst := .x rd q, evs := [e], got := [], bad := none, flags := 0, near := [e].all (fun e => nearTo s.cur.1 e.place), acq := acq,
    owner := s.curStr.owner, ptr := p, ptrs := [], pc := s.curStr.pc, undo := none }

/-- The entry of one whose bytes a store of its string has given it. -/
def forwardedLoad (t : Str) (rd : XReg) (q : LdKind) (p : Word) (acq : Option Scope) (got : List (Nat × Byte)) : Load :=
  { seq := t.seq, dst := .x rd q, evs := [], got := got, bad := none, flags := 0, near := true, acq := acq, owner := t.owner, ptr := p, pc := t.pc }

section
variable {s s1 : State} {rd ra : XReg} {q : LdKind} {off : Int} {pl : Place} (acq : Option Scope)
variable (quiet : s.curStr.lds = []) (passes : Passes s .r (s.curStr.getX ra + BitVec.ofInt 64 off) (ldBytes q) pl s1)
include quiet passes

/-- A scalar load that passes its checks takes its bytes from the store buffer if it can, and else issues (R100, R104). -/
theorem runInstr_loadInstr : runInstr (loadInstr rd q ra off acq) s = .next (match forward s.curStr (evOf pl (ldBytes q) 0) with
    | some got => s1.enterLoad (forwardedLoad s.curStr rd q (s.curStr.getX ra + BitVec.ofInt 64 off) acq got)
    | none => s1.issueEntry (scalarLoad s1 rd q (s.curStr.getX ra + BitVec.ofInt 64 off) acq (evOf pl (ldBytes q) 0))) := by
  have ready : s.curStr.loadReady [rd.toNat, ra.toNat] = true := by simp [Str.loadReady, Str.ldCount, Str.pending, quiet]
  have free : ldsReady s.cur.1 s.curStr true [evOf pl (ldBytes q) 0] = true := by simp [ldsReady, quiet]
  have awaited : (await (s.curStr.loadReady [rd.toNat, ra.toNat])).run s = .ok ((), s) := by rw [run_await, if_pos ready]
  rw [runInstr_ended]
  unfold loadInstr
  rw [run_bind_ok (StateT.run_get s)]
  dsimp only
  rw [run_bind_ok awaited, run_bind_ok passes, free, if_pos rfl]
  cases forward s.curStr (evOf pl (ldBytes q) 0) <;> rfl

/-- With no store in the buffer the load enters the table, and nothing else changes. -/
theorem loadInstr_enters (free : s.curStr.sb = []) :
    ∃ u, runInstr (loadInstr rd q ra off acq) s = .next u ∧ OnlyCurrent s u ∧ u.curStr
      = behind s.curStr (tabled s.curStr (scalarLoad s rd q (s.curStr.getX ra + BitVec.ofInt 64 off) acq (evOf pl (ldBytes q) 0))) := by
  have kept : Kept s s1 := keeps_check _ _ _ _ _ s pl s1 passes
  have unserved : forward s.curStr (evOf pl (ldBytes q) 0) = none := by simp [forward, free]
  obtain ⟨only, str⟩ := issueEntry_load (l := scalarLoad s1 rd q (s.curStr.getX ra + BitVec.ofInt 64 off) acq (evOf pl (ldBytes q) 0))
    (by rw [kept.curStr, quiet]) (by rw [kept.curStr, free]) rfl rfl rfl rfl rfl rfl
  refine ⟨_, ?_, (OnlyCurrent.of_kept kept).trans only, ?_⟩
  · rw [runInstr_loadInstr acq quiet passes, unserved]
  · rw [str, kept.curStr, scalarLoad, scalarLoad, kept.curStr, kept.cur]

/-- A load whose bytes a store of its string holds completes with them (R100). -/
theorem loadInstr_forwards {got : List (Nat × Byte)} (held : forward s.curStr (evOf pl (ldBytes q) 0) = some got) :
    ∃ u, runInstr (loadInstr rd q ra off acq) s = .next u ∧ OnlyCurrent s u ∧ u.curStr
      = retired { s.curStr.setX rd (loadValue q (gotNum got (ldBytes q))) with seq := s.curStr.seq + 1 } := by
  have kept : Kept s s1 := keeps_check _ _ _ _ _ s pl s1 passes
  obtain ⟨only, str⟩ := enterLoad_comes (l := forwardedLoad s.curStr rd q (s.curStr.getX ra + BitVec.ofInt 64 off) acq got)
    (by rw [kept.curStr, quiet]) rfl rfl rfl rfl
  refine ⟨_, ?_, (OnlyCurrent.of_kept kept).trans only, ?_⟩
  · rw [runInstr_loadInstr acq quiet passes, held]
  · rw [str, kept.curStr, forwardedLoad]

end

theorem sameRegs_behind (t : Str) (l : Load) : SameRegs t (behind t l) :=
  ⟨rfl, rfl, rfl, rfl, rfl, rfl, rfl, rfl, rfl, rfl, rfl, rfl, rfl, rfl, rfl, rfl, rfl, rfl, rfl, rfl⟩

/-- Settles O21: a load with no store before it enters the table, and one that a store serves completes. -/
theorem scalarLoads : Obligations.ScalarLoads := by
  unfold Obligations.ScalarLoads
  intro s s1 rd ra imm imm7 sc pl quiet x hx
  dsimp only
  rw [loadSpec_size, exec_scalarLoads hx]
  intro passes
  refine ⟨fun free => ?_, fun got held => ?_⟩
  · obtain ⟨u, run, only, str⟩ := loadInstr_enters (rd := rd) x.2.2.2 quiet passes free
    refine ⟨u, _, run, congrArg Str.lds str, ?_⟩
    rw [str]
    exact ⟨rfl, rfl, rfl, rfl, rfl, rfl, rfl, rfl, rfl, rfl, rfl, rfl, rfl, rfl, free, rfl, sameRegs_behind .., only.mem, only.others,
      only.units⟩
  · obtain ⟨u, run, only, str⟩ := loadInstr_forwards (rd := rd) x.2.2.2 quiet passes held
    rw [loadSpec_value]
    exact ⟨u, (exec_scalarLoads hx s).trans run, str, only.mem, only.others, only.units⟩

end Sys2Proof.Proofs
end

section
/-! SUPPORT. The statement `Atomics` fails, on a string whose activation has committed early and is restartable at the same time. -/

namespace Sys2Proof.Proofs

open Sys2Proof Sys2Proof.Machine Sys2Proof.Laws Sys2Proof.Claims

/-- The record by which the activation was selected. -/
def recRestartable : Rec :=
  { launch := 5, hid := 1, key := 0, op := 0, src := 0, payload := 0, count := 0, armed := false, c := false, flags := 0, wrap := 0, nc := false,
    redo := 0, since := 0, ord := 0, spill := none }

/-- An activation that has committed early, and still is restartable with a line in its journal, although `commitEarly` takes `rst` and the
journal away as it sets `ec` (R166). -/
def actCommittedRestartable : Activation :=
  { id := 1, launch := 5, trig := recRestartable, epri := 0, ec := true, rst := true, outbox := [], journal := [(0, 1)], jmarks := [], mask0 := none }

/-- A string of owner 7 that holds it. -/
def strCommittedRestartable : Str := { Str.init with run := .running, owner := 7, act := some actCommittedRestartable }

/-- Its core has cached that virtual address 0 is a host page, and the rights of owner 7 over it; AMOFB of function 0 is 0. -/
def hostPageCore : Core :=
  { Core.init with
    part := some 0, strs := [(0, strCommittedRestartable)],
    tlb := [{ va := 0, size := 0x200000, target := 0, host := true, home := false, hcl := 0 }],
    plb := [{ owner := 7, entry := { base := 0, len := 0x200000, pkg := 0, colour := 0, rights := 15, q := false, grantor := 0 } }] }

/-- A state in which an atomic of that string at pointer 0 reaches a page of the host, under a function that may send no AtomicOp (R419). -/
def hostPageState : State :=
  { State.reset with
    cores := [(0, hostPageCore)], parts := [(0, { Partition.init with pstate := .running })],
    ats := [{ vf := 0, page := 0, pasid := 0, target := 0, reads := true, writes := true }] }

/-- The access passes every check. -/
theorem check_hostPageState : ∃ s1, Passes hostPageState .a 0 8 (.host 0 0 0) s1 := by
  have passes : (match (check (dataWho hostPageState) .a 0 8 8).run hostPageState with
      | .ok (pl, _) => decide (pl = .host 0 0 0) | .error _ => false) = true := by decide +kernel
  split at passes
  case h_1 pl s1 run => exact ⟨s1, by rw [Passes, run, of_decide_eq_true passes]⟩
  case h_2 => cases passes

/-- The atomic faults with HOST_AMO_UNSUPPORTED, and the fault restores the journal: byte 0 of the core's slice changes. -/
theorem mem_amo_hostPageState : ∀ u, exec (.amoAddD 2 0 .die .plain 0) hostPageState = .next u → u.mem ≠ hostPageState.mem := by
  have run : (match exec (.amoAddD 2 0 .die .plain 0) hostPageState with | .next u => u.mem.get (sliceFlat 0 0) | _ => 0) = 1 := by decide +kernel
  intro u h same
  rw [h] at run
  have changed : u.mem.get (sliceFlat 0 0) = 1 := run
  rw [same] at changed
  cases changed

/-- Refutes O25: an atomic to a host page that ends with HOST_AMO_UNSUPPORTED changes memory where its activation has committed early and is
restartable all the same: the trap restores the journal. -/
theorem not_atomics : ¬ Obligations.Atomics := by
  unfold Obligations.Atomics
  intro h
  obtain ⟨s1, passes⟩ := check_hostPageState
  obtain ⟨-, host, -⟩ := h hostPageState s1 2 0 .die .plain 0 _ List.mem_cons_self
  obtain ⟨u, run, mem, -⟩ := host 0 0 0 rfl rfl rfl rfl passes
  exact mem_amo_hostPageState u run mem

end Sys2Proof.Proofs
end

section
/-! SUPPORT. The statement `Messages` fails: a string that has committed early and finds no outbox slot free has the other activations of
its core commit early before it waits (R167). -/

namespace Sys2Proof.Proofs

open Sys2Proof Sys2Proof.Machine Sys2Proof.Laws Sys2Proof.Claims

/-- With no stream bound, no field names one. -/
theorem noStreams_unbound {t : Str} (free : t.st = Vector.replicate 4 none) : NoStreams t := by
  intro r
  unfold Str.streamOf
  split
  · simp [free]
  · rfl

/-- The record by which an activation of launch 5 was selected. -/
def senderRec : Rec :=
  { launch := 5, hid := 1, key := 0, op := 0, src := 0, payload := 0, count := 0, armed := false, c := false, flags := 0, wrap := 0, nc := false,
    redo := 0, since := 0, ord := 0, spill := none }

/-- A string with an activation of that launch, which has committed early or not, and its outbox. -/
def senderStr (early : Bool) (box : List Msg) : Str :=
  { Str.init with
    run := .running, pc := 0x1000, owner := 7,
    act := some { id := 1, launch := 5, trig := senderRec, epri := 0, ec := early, rst := false, outbox := box, journal := [], jmarks := [], mask0 := none } }

/-- A message of the launch to its core 0. -/
def senderMsg : Msg :=
  { launch := 5, dest := .core 0, hid := 2, key := 0, op := 0, cnt := false, src := 0, payload := 0, arm := none, mon := false }

/-- The launch, of one quire of one cluster: NLCORE is 16. -/
def senderLaunch : Launch := { Launch.init with phase := .running, record := BitVec.ofNat 1024 (2 ^ 320) }

/-- String 0 has committed early, and string 1 of its core, which has not, holds messages in all 32 outbox slots. -/
def fullOutbox : State :=
  { State.reset with
    cores := [(0, { Core.init with part := some 0, strs := [(0, senderStr true []), (1, senderStr false (List.replicate 32 senderMsg))] })],
    launches := [(5, senderLaunch)] }

/-- SEND of string 0 makes string 1 commit early. -/
theorem send_fullOutbox : exec (.send 1 2 3 false 0 2) fullOutbox ≠ .next fullOutbox := by
  have run : (match exec (.send 1 2 3 false 0 2) fullOutbox with | .next u => (u.str 0 1).act.map (·.ec) | _ => none) = some true := by
    decide +kernel
  intro same
  rw [same] at run
  exact absurd run (by decide +kernel)

/-- Refutes O39: a SEND after early commit that finds no slot free does not leave the state as it is where another activation of its core
holds messages and has not committed. -/
theorem not_messages : ¬ Obligations.Messages := by
  unfold Obligations.Messages
  intro h
  obtain ⟨-, sends⟩ := h fullOutbox 1 2 3 0 false 0 2 rfl (noStreams_unbound rfl)
  obtain ⟨-, -, full⟩ := sends _ senderLaunch (by rfl) (by rfl) _ List.mem_cons_self
  exact send_fullOutbox ((full (by unfold HeaderOk; decide +kernel)).2 rfl (by decide +kernel))

end Sys2Proof.Proofs
end

section
/-! SUPPORT. The statement `StreamBinding` fails, on a state in which the executing string has number 5, as no string of a core has (R16):
what is kept for requesters 4 to 7 belongs to streams. -/

namespace Sys2Proof.Proofs

open Sys2Proof Sys2Proof.Machine Sys2Proof.Laws Sys2Proof.Claims

/-- A monitor-mode string whose X2 points to physical 0 (R25). -/
def bindingStr : Str := { Str.init with run := .running, lvl := 1, xm := (Vector.replicate 32 0).set 2 (2 ^ 45) }

/-- It is string 5 of core 0 of partition 0, which has granule 0; the core keeps for requester 5 that its next packet is lost (R77). -/
def bindingState : State :=
  { State.reset with
    cur := (0, 5), cores := [(0, { Core.init with part := some 0, strs := [(5, bindingStr)], held := [(5, .lost)] })],
    parts := [(0, { Partition.init with pstate := .running, granules := [0] })] }

/-- A stream as no string of the state has bound it: what SBIND does of an unbound register says nothing of it. -/
def unboundStream : Stream :=
  { dst := false, base := 0, strides := Vector.replicate 5 0, extents := Vector.replicate 5 0, owner := 0, pos := 0, fetched := [], pushes := [] }

/-- The descriptor at physical 0 passes every check, which changes nothing. -/
theorem check_bindingState : Passes bindingState .r (2 ^ 45) 64 (.phys 0) bindingState := by
  have passes : (match (check (dataWho bindingState) .r (2 ^ 45) 64 64).run bindingState with
      | .ok (pl, t) => decide (pl = .phys 0 ∧ t = bindingState) | .error _ => false) = true := by decide +kernel
  split at passes
  case h_1 pl t run =>
    obtain ⟨rfl, rfl⟩ := of_decide_eq_true passes
    exact run
  case h_2 => cases passes

/-- SBIND ends with UNCORR, for its packet is lost (R77), and the monitor stops with it. -/
theorem monFault_sbind_bindingState : ∀ u, exec (.sbind 0 2) bindingState = .next u → u.curCore.monFault.map (·.code) = some 0x21 := by
  have run : (match exec (.sbind 0 2) bindingState with | .next u => u.curCore.monFault.map (·.code) | _ => none) = some 0x21 := by
    decide +kernel
  intro u h
  rw [h] at run
  exact run

/-- Refutes O43: SBIND of a descriptor of zeros ends with UNCORR and not with STREAM, where the string's number is that of a requester
whose packet is lost. -/
theorem not_streamBinding : ¬ Obligations.StreamBinding := by
  unfold Obligations.StreamBinding
  intro h
  obtain ⟨-, binds, -⟩ := h bindingState bindingState 0 0 2 (.phys 0) 0 unboundStream rfl
  obtain ⟨faults, -⟩ := binds (by decide +kernel) check_bindingState rfl (by decide +kernel) (by decide +kernel) (by decide +kernel)
    (by decide +kernel) (by decide +kernel) (by decide +kernel) (by decide +kernel)
  have fault := monFault_sbind_bindingState _ (faults (.inr ⟨0, by decide, by decide +kernel⟩))
  exact absurd fault (by decide +kernel)

end Sys2Proof.Proofs
end

section
/-! SUPPORT. RINIT, RFREE, RWAIT, RREL and RSTAT (R138, R166, R321 to R323, R412, R453), and the statement `Rings`. -/

namespace Sys2Proof.Proofs

open Sys2Proof Sys2Proof.Machine Sys2Proof.Laws Sys2Proof.Claims

/-! ## Which ring an instruction names -/

/-- Steps of which the first ends badly end so. -/
theorem run_bind_error {α β : Type} {f : M α} {g : α → M β} {s : State} {e : Stop} (h : f.run s = .error e) : (f >>= g).run s = .error e := by
  rw [StateT.run_bind, h]
  rfl

/-- A string with no activation has no launch (R453). -/
theorem run_needLaunch_free {s : State} (free : s.curStr.act = none) :
    needLaunch.run s = .error (.fault { code := 0x35, detail := 0, val := 0 }) := by
  simp only [needLaunch, StateT.run_bind, StateT.run_get, pure_bind, free, run_raise]

section
variable {s : State} {ra rb rd : XReg} (quiet : Quiet s)
include quiet

theorem run_theRing_noLaunch (free : s.curStr.act = none) (regs : List XReg) :
    (theRing ra regs).run s = .error (.fault { code := 0x35, detail := 0, val := 0 }) := by
  rw [theRing, run_bind_ok (run_settle_ready _ s quiet), run_bind_ok (StateT.run_get s)]
  exact run_bind_error (run_needLaunch_free free)

/-- Every ring instruction takes the fault that finding its ring ends with. -/
theorem faults_theRing {code : Nat} (bad : ∀ regs, (theRing ra regs).run s = .error (.fault { code := code, detail := 0, val := 0 })) :
    ∀ i ∈ [Instr.rinit ra rb, .rfree ra, .rwait ra rb, .rrel ra rb, .rstat rd ra], Faults i s code 0 0 := by
  have faulted (regs : List XReg) (rest : Nat × Activation → M Adv) :
      runInstr (theRing ra regs >>= rest) s = .next (s.fault { code := code, detail := 0, val := 0 }) := by
    rw [runInstr_ended, run_bind_error (bad regs)]
    exact faultDue_ready s _ quiet
  simp only [List.forall_mem_cons]
  exact ⟨faulted _ _, faulted _ _, faulted _ _, faulted _ _, faulted _ _, List.forall_mem_nil _⟩

end

/-- The launch of the executing string may use the ring (R321). -/
theorem ringOwned_iff {co : Core} {l : Nat} {o : OnCore} (on : co.on l = some o) (g : Nat) :
    ringOwned co l g = true ↔ g < 64 ∧ g / 16 ∈ o.strs := by
  simp [ringOwned, on]

/-! ## What changing a ring leaves -/

/-- `u` has `x` as ring `g` of the executing string's core, and every other string of the core is what `f` makes of it. -/
structure RingSet (s u : State) (g : Nat) (x : Ring) (f : Str → Str) : Prop where
  curStr : u.curStr = s.curStr
  ring : u.curCore.ring g = x
  rings : ∀ h, h ≠ g → u.curCore.ring h = s.curCore.ring h
  mem : u.mem = s.mem
  cur : u.cur = s.cur
  strs : ∀ k < 4, k ≠ s.cur.2 → u.str s.cur.1 k = f (s.str s.cur.1 k)

theorem retire_ring (s : State) (h : Nat) : s.retire.curCore.ring h = s.curCore.ring h := by
  obtain ⟨t, m, r, y, v, w, core⟩ := retireTo_core s (nextPtr s.curStr.pc 4) s.cur.1
  rw [State.curCore, State.retire, retireTo_cur, core]
  rfl

/-- So it stays as the instruction retires. -/
theorem RingSet.retires {s u : State} {g : Nat} {x : Ring} {f : Str → Str} (h : RingSet s u g x f) :
    u.retire.curStr = retired s.curStr ∧ u.retire.curCore.ring g = x ∧ u.retire.mem = s.mem
      ∧ (∀ h, h ≠ g → u.retire.curCore.ring h = s.curCore.ring h)
      ∧ ∀ k < 4, k ≠ s.cur.2 → u.retire.str s.cur.1 k = f (s.str s.cur.1 k) := by
  refine ⟨?_, (retire_ring u g).trans h.ring, (retireTo_mem ..).trans h.mem, fun i other => (retire_ring u i).trans (h.rings i other),
    fun k low other => ?_⟩
  · rw [State.retire, retireTo_curStr, h.curStr, retired]
  · rw [State.retire, retireTo_str _ _ (by rw [h.cur]; exact fun same => other (congrArg Prod.snd same)), h.strs k low other]

theorem ringSet_setRing (s : State) (g : Nat) (x : Ring) : RingSet s (s.setRing s.cur.1 g x) g x id where
  curStr := str_modCore s _ _ rfl _ _
  ring := by simp [State.curCore, State.setRing, Core.ring]
  rings h other := by simp [State.curCore, State.setRing, Core.ring, mget_mset_ne _ _ _ other]
  mem := rfl
  cur := rfl
  strs k _ _ := str_modCore s _ _ rfl _ _

theorem loseWait_keeps (co : Core) (l g : Nat) : (co.loseWait l g).strs = co.strs ∧ (co.loseWait l g).rings = co.rings := by
  unfold Core.loseWait
  split
  · exact ⟨rfl, rfl⟩
  · split
    · split <;> exact ⟨rfl, rfl⟩
    · exact ⟨rfl, rfl⟩

/-- Strings of a core that are changed one after another. -/
theorem str_modStrs (c : Nat) (h : Nat → Str → Str) (k : Nat) {l : List Nat} (nodup : l.Nodup) (s : State) :
    (l.foldl (fun u j => u.modStr c j (h j)) s).str c k = if k ∈ l then h k (s.str c k) else s.str c k := by
  induction l generalizing s with
  | nil => rfl
  | cons j l ih =>
    obtain ⟨fresh, nodup⟩ := List.nodup_cons.mp nodup
    rw [List.foldl_cons, ih nodup]
    by_cases here : k = j
    · subst here
      rw [if_neg fresh, if_pos List.mem_cons_self, State.modStr, str_setStr_self]
    · rw [State.modStr, str_setStr_ne _ _ (by simp [here])]
      simp [here]

theorem modStrs_rings (c : Nat) (h : Nat → Str → Str) (l : List Nat) (s : State) (d : Nat) :
    ((l.foldl (fun u j => u.modStr c j (h j)) s).core d).rings = (s.core d).rings ∧ (l.foldl (fun u j => u.modStr c j (h j)) s).mem = s.mem
      ∧ (l.foldl (fun u j => u.modStr c j (h j)) s).cur = s.cur := by
  refine List.foldlRecOn (motive := fun u : State => (u.core d).rings = (s.core d).rings ∧ u.mem = s.mem ∧ u.cur = s.cur) l _ ⟨rfl, rfl, rfl⟩
    (fun u ⟨rings, mem, cur⟩ j _ => ⟨?_, mem, cur⟩)
  rw [← rings, State.modStr, State.setStr]
  by_cases same : d = c
  · subst same; rw [core_modCore_self]; rfl
  · rw [core_modCore_ne _ _ same]

/-- An RWAIT of launch `l` that is stalled on ring `g` has lost it (R322). -/
def losing (l g : Nat) (t : Str) : Str :=
  match t.wait with
  | .ring h _ => if h = g ∧ t.launch = some l then { t with wait := .ringLost } else t
  | _ => t

/-- The executing string, of number `k`, loses nothing. -/
def losingBut (k l g j : Nat) (t : Str) : Str := if j = k then t else losing l g t

theorem wakeRing_eq (s : State) (l g : Nat) : s.wakeRing l g = strNums.foldl (fun u j => u.modStr s.cur.1 j (losingBut s.cur.2 l g j)) s := by
  have step (j : Nat) (t : Str) : (match t.wait with
      | .ring h _ => if h = g ∧ j ≠ s.cur.2 ∧ t.launch = some l then { t with wait := .ringLost } else t
      | _ => t) = losingBut s.cur.2 l g j t := by
    unfold losingBut losing
    by_cases here : j = s.cur.2
    · rw [if_pos here]; split <;> simp [here]
    · rw [if_neg here]; split <;> simp [here]
  show strNums.foldl (fun u j => u.modStr s.cur.1 j (fun t => match t.wait with
      | .ring h _ => if h = g ∧ j ≠ s.cur.2 ∧ t.launch = some l then { t with wait := .ringLost } else t
      | _ => t)) s = _
  simp only [step]

/-- A ring that is initialised or freed is lost to the RWAITs of its launch's other strings (R322). -/
theorem ringSet_changeRing (s : State) (l g : Nat) (x : Ring) : RingSet s (s.changeRing l g x) g x (losing l g) := by
  have set := ringSet_setRing (s.modCore s.cur.1 (fun co => co.loseWait l g)) g x
  have lost (d k : Nat) : (s.modCore s.cur.1 (fun co => co.loseWait l g)).str d k = s.str d k := str_modCore s _ _ (loseWait_keeps _ l g).1 d k
  have rings (h : Nat) : (s.modCore s.cur.1 (fun co => co.loseWait l g)).curCore.ring h = s.curCore.ring h := by
    rw [State.curCore, modCore_cur, core_modCore_self, Core.ring, (loseWait_keeps _ l g).2]; rfl
  have nodup : strNums.Nodup := by decide
  rw [State.changeRing, wakeRing_eq]
  show RingSet s (strNums.foldl (fun u j => u.modStr s.cur.1 j (losingBut s.cur.2 l g j))
    ((s.modCore s.cur.1 (fun co => co.loseWait l g)).setRing s.cur.1 g x)) g x (losing l g)
  obtain ⟨kept, mem, cur⟩ := modStrs_rings s.cur.1 (losingBut s.cur.2 l g) strNums
    ((s.modCore s.cur.1 (fun co => co.loseWait l g)).setRing s.cur.1 g x) s.cur.1
  have ring (h : Nat) : (strNums.foldl (fun u j => u.modStr s.cur.1 j (losingBut s.cur.2 l g j))
      ((s.modCore s.cur.1 (fun co => co.loseWait l g)).setRing s.cur.1 g x)).curCore.ring h
        = ((s.modCore s.cur.1 (fun co => co.loseWait l g)).setRing s.cur.1 g x).curCore.ring h := by
    rw [State.curCore, cur, Core.ring]
    exact congrArg (fun m => mget Ring.init m h) kept
  refine ⟨?_, (ring g).trans set.ring, fun h other => (ring h).trans ((set.rings h other).trans (rings h)), mem, cur, fun k low other => ?_⟩
  · rw [State.curStr, cur]
    refine (str_modStrs _ _ _ nodup _).trans ((if_congr Iff.rfl (if_pos rfl) rfl).trans ((ite_self _).trans ?_))
    exact set.curStr.trans (lost _ _)
  · have all : k ∈ strNums := by unfold strNums; simp; omega
    refine (str_modStrs _ _ _ nodup _).trans ((if_pos all).trans ((if_neg other).trans ?_))
    exact congrArg (losing l g) ((set.strs k low other).trans (lost _ _))

/-! ## The five instructions on a ring of the launch -/

/-- A check that fails ends the instruction with the fault. -/
theorem ended_raise {s : State} (quiet : Quiet s) {code detail : Nat} (bad : Prop) [Decidable bad] (rest : M Adv) (u : State) :
    ended s ((if bad then raise code detail else rest : M Adv).run u)
      = if bad then .next (s.fault { code := code, detail := detail, val := 0 }) else ended s (rest.run u) := by
  split
  · exact faultDue_ready s _ quiet
  · rfl

/-- A ring that is initialised with the value `c` of a register (R322). -/
def initialised (r : Ring) (c : Nat) : Ring :=
  { r with v := true, s := c % 32, l := BitVec.ofNat 32 (c / 2 ^ 32), a := BitVec.ofNat 32 (c / 2 ^ 32), filled := [] }

section
variable {s : State} {a : Activation} {l : Launch} {ra rb rd : XReg}
variable (quiet : Quiet s) (act : s.curStr.act = some a) (launch : s.launch a.launch = some l)
include quiet act launch

theorem run_theRing (regs : List XReg) : (theRing ra regs).run s = if ringOwned s.curCore a.launch (s.curStr.getX ra).toNat then
    .ok (((s.curStr.getX ra).toNat, a), s) else .error (.fault { code := 0x31, detail := 0, val := 0 }) := by
  rw [theRing, run_bind_ok (run_settle_ready _ s quiet), run_bind_ok (StateT.run_get s), run_bind_ok (run_needLaunch act launch)]
  dsimp only
  split <;> rfl

variable (owned : ringOwned s.curCore a.launch (s.curStr.getX ra).toNat = true)
include owned

theorem runInstr_theRing (regs : List XReg) (rest : Nat × Activation → M Adv) :
    runInstr (theRing ra regs >>= rest) s = ended s ((rest ((s.curStr.getX ra).toNat, a)).run s) := by
  rw [runInstr_ended, run_bind_ok ((run_theRing quiet act launch regs).trans (if_pos owned))]

theorem exec_rinit_owned : exec (.rinit ra rb) s =
    let c := (s.curStr.getX rb).toNat
    let g := (s.curStr.getX ra).toNat
    if c % 2 ^ 32 / 32 ≠ 0 ∨ 12 < c % 32 then .next (s.fault { code := 0x31, detail := 0, val := 0 })
    else if 0 < (s.curCore.ring g).pend then .next (s.fault { code := 0x30, detail := 0, val := 0 })
    else .next (s.changeRing a.launch g (initialised (s.curCore.ring g) c)).retire := by
  rw [exec_rinit, execRinit, runInstr_theRing quiet act launch owned, run_bind_ok (StateT.run_get s)]
  have high (c : Nat) : field c 5 27 = c % 2 ^ 32 / 32 := by rw [field_eq]; omega
  have size (c : Nat) : field c 0 5 = c % 32 := field_low c 5
  have first : field (s.curStr.getX rb).toNat 32 32 = (s.curStr.getX rb).toNat / 2 ^ 32 := by
    rw [field_eq]; have := (s.curStr.getX rb).isLt; omega
  dsimp only
  rw [ended_raise quiet, ended_raise quiet, high, size, first]
  rfl

theorem exec_rfree_owned : exec (.rfree ra) s =
    let g := (s.curStr.getX ra).toNat
    if 0 < (s.curCore.ring g).pend then .next (s.fault { code := 0x30, detail := 0, val := 0 })
    else .next (s.changeRing a.launch g { s.curCore.ring g with v := false }).retire := by
  rw [exec_rfree, execRfree, runInstr_theRing quiet act launch owned]
  rw [run_bind_ok (StateT.run_get s)]
  exact ended_raise quiet _ _ _

/-- RWAIT checks its window once: after that only the filling of its slot, or the loss of its ring, ends it (R322). -/
theorem exec_rwait_owned : exec (.rwait ra rb) s =
    let g := (s.curStr.getX ra).toNat
    let r := s.curCore.ring g
    let x := s.curStr.getX rb
    let j : BitVec 32 := BitVec.extractLsb' 0 32 x
    match s.curStr.wait with
    | .ringLost => .next (s.fault { code := 0x31, detail := 0, val := 0 })
    | .ring _ _ => if r.came j then .next s.retire else .next s
    | _ =>
      if r.v = false ∨ field x.toNat 32 32 ≠ 0 ∨ r.inWindow j = false then .next (s.fault { code := 0x31, detail := 0, val := 0 })
      else if r.came j then .next s.retire
      else .next (s.setCurStr { s.curStr with wait := .ring g j.toNat }) := by
  rw [exec_rwait, execRwait, runInstr_theRing quiet act launch owned, run_bind_ok (StateT.run_get s)]
  dsimp only
  cases s.curStr.wait with
  | ringLost => exact faultDue_ready s _ quiet
  | ring h i =>
    dsimp only
    split <;> rfl
  | _ =>
    dsimp only
    rw [ended_raise quiet, ended_raise quiet, ended_raise quiet]
    simp only [Bool.not_eq_true', ite_or]
    refine if_congr Iff.rfl rfl (if_congr Iff.rfl rfl (if_congr Iff.rfl rfl ?_))
    split <;> rfl

/-- RREL checks its count, commits its activation early, and then waits for what its string has written (R166, R322, R412). -/
theorem exec_rrel_owned : exec (.rrel ra rb) s =
    let g := (s.curStr.getX ra).toNat
    let r := s.curCore.ring g
    let n := (s.curStr.getX rb).toNat
    if r.v = false ∨ r.ready < n then .next (s.fault { code := 0x31, detail := 0, val := 0 })
    else if a.ec = false then .next (s.commitEarly s.cur.1 s.cur.2)
    else ended s ((releaseSys >>= fun done => if done then
      (modify (fun s => s.setRing s.cur.1 g (r.release n)) >>= fun _ => return .step) else return .again : M Adv).run s) := by
  rw [exec_rrel, execRrel, runInstr_theRing quiet act launch owned, run_bind_ok (StateT.run_get s)]
  dsimp only
  rw [ended_raise quiet, ended_raise quiet]
  simp only [Bool.not_eq_true', ite_or]
  refine if_congr Iff.rfl rfl (if_congr Iff.rfl rfl ?_)
  split <;> rfl

theorem exec_rstat_owned : Gives (.rstat rd ra) s (s.curStr.setX rd (s.curCore.ring (s.curStr.getX ra).toNat).stat) := by
  rw [Gives, exec_rstat, execRstat, runInstr_theRing quiet act launch owned]
  rfl

end

theorem drained_of_nothingDue {t : Str} (due : NothingDue t) : t.drained = true := by
  obtain ⟨stores, pushes⟩ := due
  simp only [Str.drained, stores, List.isEmpty_nil, Bool.true_and, List.all_eq_true]
  intro x bound
  obtain ⟨i, low, here⟩ := List.mem_iff_getElem.mp bound
  cases x with
  | none => rfl
  | some x =>
    rw [Vector.getElem_toList] at here
    exact List.isEmpty_iff.mpr (pushes i (by simpa using low) x here)

/-- Where nothing of the string has to perform, a release waits for no more than the read that shows its stores to the host to have
arrived (R107, R147). -/
theorem run_releaseSys {s : State} (quiet : Quiet s) (due : NothingDue s.curStr) :
    releaseSys.run s = if Hand.noFlush ∈ s.curStr.inHand then .error (.fault { code := 0x41, detail := 0, val := 0 })
      else if flushFirst s.curStr (some .sys) none then .ok (false, s.askFlush s.cur.1 s.cur.2) else .ok (true, s) := by
  have lds : s.curStr.lds = [] := quiet
  have done : (s.curStr.drained && s.curStr.lds.isEmpty) = true := by rw [drained_of_nothingDue due, lds]; rfl
  rw [releaseSys, run_bind_ok (StateT.run_get s)]
  dsimp only
  rw [StateT.run_bind, run_await, if_pos done]
  show (if s.curStr.inHand.contains .noFlush then raise 0x41
    else if flushFirst s.curStr (some .sys) none then set (s.askFlush s.cur.1 s.cur.2) >>= fun _ => return false
    else return true : M Bool).run s = _
  refine Eq.trans ?_ (if_congr List.contains_iff_mem rfl rfl)
  split
  · rfl
  · split <;> rfl

/-- The slots that a release leaves are those of no index that it passes (R322). -/
theorem release_eq (r : Ring) (n : Nat) : r.release n = { r with l := r.l + BitVec.ofNat 32 n, filled := r.filled.filter (fun x =>
    (List.range n).all (fun i => x != (r.l + BitVec.ofNat 32 i).toNat % 2 ^ r.s)) } := by
  have same (x : Nat) : (!((upTo n).map (fun i => r.slot (r.l + BitVec.ofNat 32 i))).contains x)
      = (List.range n).all (fun i => x != (r.l + BitVec.ofNat 32 i).toNat % 2 ^ r.s) := by
    rw [Bool.eq_iff_iff]
    simp only [upTo, Ring.slot, Bool.not_eq_true', ← Bool.not_eq_true, List.contains_iff_mem, List.mem_map, List.all_eq_true, bne_iff_ne]
    exact ⟨fun none i low same => none ⟨i, low, same.symm⟩, fun none ⟨i, low, same⟩ => none i low same.symm⟩
  unfold Ring.release
  simp only [same]

/-- The position of an RWAIT has been filled, or the release index has passed it since (R322). -/
theorem came_iff (r : Ring) (j : BitVec 32) : r.came j = true ↔
    ((j - r.l).toNat < (r.a - r.l).toNat ∧ j.toNat % 2 ^ r.s ∈ r.filled) ∨ (r.l ≠ j ∧ (r.l - j).toNat < 2 ^ 31) := by
  simp [Ring.came, Ring.slot]

theorem inWindow_false (r : Ring) (j : BitVec 32) : r.inWindow j = false ↔ 2 ^ r.s ≤ (j - r.l).toNat := by
  simp [Ring.inWindow]

theorem low32_eq (x : Word) : BitVec.extractLsb' 0 32 x = BitVec.ofNat 32 x.toNat := by
  rw [BitVec.extractLsb', Nat.shiftRight_zero]

theorem field_high (x : Word) : field x.toNat 32 32 ≠ 0 ↔ 2 ^ 32 ≤ x.toNat := by
  have := x.isLt
  rw [field_eq]
  omega

/-- Settles O42: an instruction that names no ring of its launch faults, and on a ring of it each of the five does what it is for. -/
theorem rings : Obligations.Rings := by
  unfold Obligations.Rings
  refine ⟨fun s rd ra rb quiet free => faults_theRing quiet (run_theRing_noLaunch quiet free), fun s rd ra rb a l o quiet act launch on => ?_⟩
  dsimp only
  have run (regs : List XReg) := run_theRing (ra := ra) quiet act launch regs
  have owned := ringOwned_iff on (s.curStr.getX ra).toNat
  have rinit := fun known => exec_rinit_owned (rb := rb) quiet act launch (owned.mpr known)
  have rfree := fun known => exec_rfree_owned quiet act launch (owned.mpr known)
  have rwait := fun known => exec_rwait_owned (rb := rb) quiet act launch (owned.mpr known)
  have rrel := fun known => exec_rrel_owned (rb := rb) quiet act launch (owned.mpr known)
  dsimp only at rinit rfree rwait rrel
  refine ⟨fun unknown => faults_theRing quiet (fun regs => (run regs).trans (if_neg (fun h => unknown (owned.mp h)))),
    fun known bad => (rinit known).trans (if_pos bad), fun known low pend => ?_, fun known low idle => ?_,
    fun known pend => (rfree known).trans (if_pos pend), fun known idle => ?_, fun known fresh bad => ?_, fun known fresh valid low window => ?_,
    fun known lost => ?_, fun known stalled => ?_, fun known bad => (rrel known).trans (if_pos bad), fun known valid low late => ?_,
    fun known valid low early due failed => ?_, fun known valid low early due fine dirty flush => ?_, fun known => ?_⟩
  · obtain ⟨high, size⟩ : ¬((s.curStr.getX rb).toNat % 2 ^ 32 / 32 ≠ 0) ∧ ¬12 < (s.curStr.getX rb).toNat % 32 := by omega
    rw [Faults, rinit known, if_neg (not_or.mpr ⟨high, size⟩), if_pos pend]
  · obtain ⟨high, size⟩ : ¬((s.curStr.getX rb).toNat % 2 ^ 32 / 32 ≠ 0) ∧ ¬12 < (s.curStr.getX rb).toNat % 32 := by omega
    refine ⟨_, (rinit known).trans ((if_neg (not_or.mpr ⟨high, size⟩)).trans (if_neg (by omega))), ?_⟩
    rw [initialised, idle]
    exact (ringSet_changeRing ..).retires
  · exact ⟨_, (rfree known).trans (if_neg (by omega)), (ringSet_changeRing ..).retires⟩
  · rw [Faults, rwait known]
    have bad : (s.curCore.ring (s.curStr.getX ra).toNat).v = false ∨ field (s.curStr.getX rb).toNat 32 32 ≠ 0
        ∨ (s.curCore.ring (s.curStr.getX ra).toNat).inWindow (BitVec.extractLsb' 0 32 (s.curStr.getX rb)) = false := by
      rw [inWindow_false, low32_eq, field_high]
      exact bad
    obtain ⟨running, kept⟩ := fresh
    split
    · rfl
    · exact absurd ⟨_, _, ‹_›⟩ running
    · exact if_pos bad
  · rw [Gives, retire_setCurStr_curStr, rwait known]
    have good : ¬((s.curCore.ring (s.curStr.getX ra).toNat).v = false ∨ field (s.curStr.getX rb).toNat 32 32 ≠ 0
        ∨ (s.curCore.ring (s.curStr.getX ra).toNat).inWindow (BitVec.extractLsb' 0 32 (s.curStr.getX rb)) = false) := by
      rw [inWindow_false, low32_eq, field_high]
      rintro (invalid | high | outside)
      · rw [valid] at invalid; cases invalid
      · omega
      · omega
    obtain ⟨running, kept⟩ := fresh
    split
    · exact absurd ‹_› kept
    · exact absurd ⟨_, _, ‹_›⟩ running
    · rw [← came_iff, ← low32_eq]
      refine ⟨fun came => (if_neg good).trans (if_pos came), fun not => (if_neg good).trans ((if_neg not).trans ?_)⟩
      rw [low32_eq, BitVec.toNat_ofNat, Nat.mod_eq_of_lt low]
  · rw [Faults, rwait known, lost]
  · obtain ⟨h, j, here⟩ := stalled
    rw [Gives, retire_setCurStr_curStr, rwait known, here, ← came_iff, low32_eq]
    exact ⟨fun came => if_pos came, fun not => if_neg not⟩
  · rw [rrel known, if_neg (not_or.mpr ⟨by simp [valid], not_lt.mpr low⟩), if_pos late]
  · rw [Faults, rrel known, if_neg (not_or.mpr ⟨by simp [valid], not_lt.mpr low⟩), if_neg (by simp [early]),
      run_bind_error ((run_releaseSys quiet due).trans (if_pos failed))]
    exact faultDue_ready s _ quiet
  · have settled : flushFirst s.curStr (some .sys) none = false := by simp [flushFirst, dirty, flush]
    rw [← release_eq]
    refine ⟨_, ?_, (ringSet_setRing ..).retires⟩
    rw [rrel known, if_neg (not_or.mpr ⟨by simp [valid], not_lt.mpr low⟩), if_neg (by simp [early]),
      run_bind_ok ((run_releaseSys quiet due).trans ((if_neg fine).trans (if_neg (by simp [settled]))))]
    rfl
  · exact exec_rstat_owned quiet act launch (owned.mpr known)

end Sys2Proof.Proofs
end

section
/-! SUPPORT. ENQ and ENQ_APPEND (R134, R252, R324, R340, R349, R361), and the statement `Enqueue`. -/

namespace Sys2Proof.Proofs

open Sys2Proof Sys2Proof.Machine Sys2Proof.Laws Sys2Proof.Claims

/-! ## Appending a command -/

/-- The queue of engine `e` that serves core `d` has space, and the completion ring has a free slot (R324). -/
def HasRoom (s : State) (d : Nat) (e : Engine) (ring : Option Nat) : Prop :=
  (s.engQueue d e).length < engCap e
    ∧ ∀ g, ring = some g → (((s.core d).ring g).a - ((s.core d).ring g).l).toNat < 2 ^ ((s.core d).ring g).s

/-- The command with the slot of its completion ring. -/
def slotted (s : State) (d : Nat) (cmd : Cmd) (ring : Option Nat) : Cmd :=
  match ring with
  | none => cmd
  | some g => { cmd with ring := some (g, ((s.core d).ring g).a) }

/-- A ring of which a command has taken the next slot. -/
def taken (r : Ring) : Ring := { r with a := r.a + 1, pend := r.pend + 1 }

/-- The rings of a core with that slot taken. -/
def slotRings (co : Core) (ring : Option Nat) : List (Nat × Ring) :=
  match ring with
  | none => co.rings
  | some g => mset co.rings g (taken (co.ring g))

theorem ring_slotRings {co d : Core} {g : Nat} (same : d.rings = slotRings co (some g)) : d.ring g = taken (co.ring g) := by
  rw [Core.ring, same]
  exact mget_mset_self ..

/-- A command of opcode MX.ROWS takes the armed injection with it (R340). -/
def disarmed (cmd : Cmd) (t : Str) : Str := { t with mxinj := if cmdOp cmd.word.toNat = 2 then t.mxinj &&& 0x7FFFFFFFFFFFFFFF else t.mxinj }

/-- `u` is `s` with the command appended for string `k` of core `d`. -/
structure Appended (s u : State) (d k : Nat) (e : Engine) (cmd : Cmd) (ring : Option Nat) : Prop where
  queue : u.engQueue d e = s.engQueue d e ++ [slotted s d cmd ring]
  rings : (u.core d).rings = slotRings (s.core d) ring
  str : u.str d k = disarmed cmd (s.str d k)
  mem : u.mem = s.mem
  cur : u.cur = s.cur
  holder : (u.core d).mxu.holder = (s.core d).mxu.holder

theorem engQueue_setEngQueue (s : State) (d : Nat) (e : Engine) (q : List Cmd) : (s.setEngQueue d e q).engQueue d e = q := by
  cases e with
  | mxu => rw [State.setEngQueue, State.engQueue, core_modCore_self]
  | bce => rw [State.setEngQueue, State.engQueue, core_modCore_self]
  | crypto => rfl

theorem core_setEngQueue (s : State) (d : Nat) (e : Engine) (q : List Cmd) :
    ∃ m b, (s.setEngQueue d e q).core d = { s.core d with mxu := { (s.core d).mxu with queue := m }, bce := b } := by
  cases e with
  | mxu => exact ⟨_, _, core_modCore_self s d _⟩
  | bce => exact ⟨_, _, core_modCore_self s d _⟩
  | crypto => exact ⟨_, _, rfl⟩

/-- What a change of a string's registers leaves of its core and of the root core. -/
theorem engQueue_modStr (s : State) (d k : Nat) (f : Str → Str) (e : Engine) : (s.modStr d k f).engQueue d e = s.engQueue d e := by
  cases e with
  | mxu => rw [State.engQueue, State.modStr, State.setStr, core_modCore_self]; rfl
  | bce => rw [State.engQueue, State.modStr, State.setStr, core_modCore_self]; rfl
  | crypto => rfl

theorem core_modStr (s : State) (d k : Nat) (f : Str → Str) : (s.modStr d k f).core d = (s.core d).setStr k (f (s.str d k)) := by
  rw [State.modStr, State.setStr, core_modCore_self]

/-- A command joins its queue, and MX.ROWS clears ARM (R340). -/
theorem appended_pushCmd (s : State) (d k : Nat) (e : Engine) (cmd : Cmd) : Appended s (s.pushCmd d k e cmd) d k e cmd none := by
  have queue := engQueue_setEngQueue s d e (s.engQueue d e ++ [cmd])
  obtain ⟨m, b, core⟩ := core_setEngQueue s d e (s.engQueue d e ++ [cmd])
  have str : (s.setEngQueue d e (s.engQueue d e ++ [cmd])).str d k = s.str d k := by rw [State.str, core]; rfl
  have outside : (s.setEngQueue d e (s.engQueue d e ++ [cmd])).mem = s.mem ∧ (s.setEngQueue d e (s.engQueue d e ++ [cmd])).cur = s.cur := by
    cases e <;> exact ⟨rfl, rfl⟩
  obtain ⟨mem, cur⟩ := outside
  unfold State.pushCmd
  dsimp only
  split
  · rename_i rows
    refine ⟨(engQueue_modStr ..).trans queue, by rw [core_modStr, core]; rfl, ?_, mem, cur, by rw [core_modStr, core]; rfl⟩
    rw [State.modStr, str_setStr_self, str, disarmed, if_pos rows]
  · rename_i other
    refine ⟨queue, by rw [core]; rfl, ?_, mem, cur, by rw [core]⟩
    rw [str, disarmed, if_neg other]

theorem appended_appendCmd {s : State} {d : Nat} {e : Engine} {ring : Option Nat} (room : HasRoom s d e ring) (k : Nat) (cmd : Cmd) :
    ∃ u, s.appendCmd d k e cmd ring = some u ∧ Appended s u d k e cmd ring := by
  obtain ⟨space, slot⟩ := room
  unfold State.appendCmd
  rw [if_neg (not_le.mpr space)]
  cases ring with
  | none => exact ⟨_, rfl, appended_pushCmd s d k e cmd⟩
  | some g =>
    dsimp only
    rw [if_pos (slot g rfl)]
    obtain ⟨queue, rings, str, mem, cur, holder⟩ := appended_pushCmd (s.setRing d g (taken ((s.core d).ring g))) d k e
      { cmd with ring := some (g, ((s.core d).ring g).a) }
    have core : (s.setRing d g (taken ((s.core d).ring g))).core d
        = { s.core d with rings := mset (s.core d).rings g (taken ((s.core d).ring g)) } := core_modCore_self s d _
    refine ⟨_, rfl, queue.trans ?_, rings.trans (congrArg Core.rings core), str.trans ?_, mem, cur, holder.trans (by rw [core])⟩
    · cases e with
      | crypto => rfl
      | _ => rw [State.engQueue, core]; rfl
    · rw [State.str, core]; rfl

theorem appendCmd_none {s : State} {d : Nat} {e : Engine} {ring : Option Nat} (full : ¬HasRoom s d e ring) (k : Nat) (cmd : Cmd) :
    s.appendCmd d k e cmd ring = none := by
  unfold State.appendCmd
  split
  · rfl
  · rename_i space
    cases ring with
    | none => exact absurd ⟨not_le.mp space, fun g none => (by cases none)⟩ full
    | some g =>
      dsimp only
      refine if_neg (fun slot => full ⟨not_le.mp space, fun h same => ?_⟩)
      cases same
      exact slot

theorem hasRoom_congr {s u : State} {d : Nat} {e : Engine} (queue : u.engQueue d e = s.engQueue d e) (rings : (u.core d).rings = (s.core d).rings)
    (ring : Option Nat) : HasRoom u d e ring ↔ HasRoom s d e ring := by
  simp only [HasRoom, Core.ring, queue, rings]

theorem slotted_congr {s u : State} {d : Nat} (rings : (u.core d).rings = (s.core d).rings) (cmd : Cmd) (ring : Option Nat) :
    slotted u d cmd ring = slotted s d cmd ring := by
  cases ring with
  | none => rfl
  | some g => simp only [slotted, Core.ring, rings]

theorem slotRings_congr {co d : Core} (rings : d.rings = co.rings) (ring : Option Nat) : slotRings d ring = slotRings co ring := by
  cases ring with
  | none => exact rings
  | some g => simp only [slotRings, Core.ring, rings]

/-- Retiring leaves the queues of the engines and the rings. -/
theorem engQueue_retireTo (s : State) (pc : Word) (d : Nat) (e : Engine) : (s.retireTo pc).engQueue d e = s.engQueue d e := by
  obtain ⟨t, m, r, y, v, w, core⟩ := retireTo_core s pc d
  cases e with
  | crypto => rw [State.engQueue, retireTo_root]; rfl
  | _ => rw [State.engQueue, core]; rfl

theorem rings_retireTo (s : State) (pc : Word) (d : Nat) : ((s.retireTo pc).core d).rings = (s.core d).rings := by
  obtain ⟨t, m, r, y, v, w, core⟩ := retireTo_core s pc d
  rw [core]

theorem mxu_retireTo (s : State) (pc : Word) (d : Nat) : ((s.retireTo pc).core d).mxu = (s.core d).mxu := by
  obtain ⟨t, m, r, y, v, w, core⟩ := retireTo_core s pc d
  rw [core]

theorem str_retire {s : State} {c k : Nat} (here : s.cur = (c, k)) : s.retire.str c k = retired (s.str c k) := by
  have cur : s.retire.cur = (c, k) := (retireTo_cur ..).trans here
  have retires : s.retire.curStr = retired s.curStr := retireTo_curStr ..
  rwa [State.curStr, State.curStr, cur, here] at retires

/-- A launch takes the matrix unit, and nothing else changes. -/
theorem core_takeMxu (s : State) (d : Nat) (e : Engine) (l : Option Nat) :
    ∃ h, (s.takeMxu d e l).core d = { s.core d with mxu := { (s.core d).mxu with holder := h } } ∧ (e = .mxu → h = l) := by
  cases e with
  | mxu => exact ⟨_, core_modCore_self s d _, fun _ => rfl⟩
  | bce => exact ⟨_, rfl, fun h => (by cases h)⟩
  | crypto => exact ⟨_, rfl, fun h => (by cases h)⟩

/-! ## The checks of ENQ, in order (R349) -/

/-- The state in which an ENQ that has sampled its command appends it: the launch has the matrix unit, and the command its number. -/
def enqReady (s s4 : State) (e : Engine) : State := { s4.takeMxu s.cur.1 e s.curStr.launch with nextId := s4.nextId + 1 }

/-- ENQ with its command sampled: its activation commits early first, and then the command joins its queue or the string waits (R166, R324). -/
def enqPlace (s : State) (e : Engine) (w : Nat) (tp : Word) (shape : BitVec 512) (wait : Option (Nat × BitVec 32)) (ring : Option Nat) : M Adv := do
  let s1 ← get
  set s
  if ← commitNow then return .again
  else
    set s1
    let cmd := buildCmd s.curStr s.cur.2 w (s.nextId + 1) shape tp wait
    modify (fun u => { u.takeMxu s.cur.1 e s.curStr.launch with nextId := u.nextId + 1 })
    match (← get).appendCmd s.cur.1 s.cur.2 e cmd ring with
    | some u =>
      set u
      return .step
    | none =>
      modify (fun u => u.modStr s.cur.1 s.cur.2 (fun t => { t with wait := .enq e cmd ring }))
      return .again

/-- ENQ with its command word checked. -/
def enqSampled (s : State) (e : Engine) (w : Nat) (tp : Word) : M Adv := do
  let shape ← fetchShape tp w
  let wait ← waitIndex s.curCore (s.curStr.launch.getD 0) w
  let ring ← completionRing s.curCore (s.curStr.launch.getD 0) w
  enqPlace s e w tp shape wait ring

section
variable {s s1 : State} {e : Engine} {ra rb : XReg} {off : BitVec 13} {b : List Byte} (quiet : Quiet s)
include quiet

theorem exec_enq_refused {x : Stop} (refused : (enqAllowed e).run s = .error x) : exec (.enq e ra rb off) s = ended s (.error x) := by
  rw [exec_enq, execEnq, runInstr_ended, run_bind_ok (run_settle_ready _ s quiet), run_bind_error refused]

theorem exec_enq_checked (allowed : (enqAllowed e).run s = .ok ((), s)) (fresh : ∀ x y z, s.curStr.wait ≠ .enq x y z)
    (fetched : (fetchBytes (tmplAddr s.curStr off) 32).run s = .ok (b, s1)) : exec (.enq e ra rb off) s =
    let w := patch s.curStr ra rb (leNat b)
    if ((e == .crypto && s.cur.1 != 4096) || !opcodeOk e (leNat b)) = true then .next (s.fault { code := 0x51, detail := 1, val := 0 })
    else if (!mxuFree s.curCore e s.curStr.launch) = true then .next (s.fault { code := 0x51, detail := 5, val := 0 })
    else if (!cmdFieldsOk w) = true then .next (s.fault { code := 0x51, detail := 2, val := 0 })
    else if (!cmdAligned w s.curStr.mscla) = true then .next (s.fault { code := 0x51, detail := 3, val := 0 })
    else if (!cmdSpaceOk w s.curStr.mscla) = true then .next (s.fault { code := 0x51, detail := 4, val := 0 })
    else ended s ((enqSampled s e w (tmplAddr s.curStr off)).run s1) := by
  rw [exec_enq, execEnq, runInstr_ended, run_bind_ok (run_settle_ready _ s quiet), run_bind_ok allowed, run_bind_ok (StateT.run_get s)]
  dsimp only
  refine (congrArg (ended s) (run_bind_ok (t := s) (a := ()) ?_)).trans ?_
  · split
    · exact absurd ‹_› (fresh _ _ _)
    · rfl
  rw [run_bind_ok fetched, ended_raise quiet, ended_raise quiet, ended_raise quiet, ended_raise quiet, ended_raise quiet]
  rfl

omit quiet in
/-- The command joins its queue with what ENQ samples. -/
theorem run_enqPlace {s4 : State} {w : Nat} {tp : Word} {shape : BitVec 512} {wait : Option (Nat × BitVec 32)} {ring : Option Nat}
    (early : ∀ a, s.curStr.act = some a → a.ec = true) :
    ended s ((enqPlace s e w tp shape wait ring).run s4) =
      match (enqReady s s4 e).appendCmd s.cur.1 s.cur.2 e (buildCmd s.curStr s.cur.2 w (s.nextId + 1) shape tp wait) ring with
      | some v => .next v.retire
      | none => .next ((enqReady s s4 e).modStr s.cur.1 s.cur.2
          (fun t => { t with wait := .enq e (buildCmd s.curStr s.cur.2 w (s.nextId + 1) shape tp wait) ring })) := by
  have commits : commitNow.run s = .ok (false, s) := by
    rw [commitNow, run_bind_ok (run_theStr s)]
    cases act : s.curStr.act with
    | none => rfl
    | some a =>
      dsimp only
      rw [early a act]
      rfl
  rw [enqPlace, run_bind_ok (StateT.run_get s4)]
  rw [run_bind_ok (StateT.run_set s4 s), run_bind_ok commits, if_neg (by decide), run_bind_ok (StateT.run_set s s4)]
  dsimp only
  rw [run_bind_ok (StateT.run_modify _ s4), run_bind_ok (StateT.run_get _)]
  dsimp only [enqReady]
  split <;> rfl

end

/-! ## The command joins its queue -/

theorem keeps_fetchShape (tp : Word) (w : Nat) : Keeps (fetchShape tp w) := by
  unfold fetchShape
  refine keeps_ite _ (keeps_bind (keeps_fetchBytes _ _) fun b1 => keeps_bind (keeps_fetchBytes _ _) fun b2 => ?_) (keeps_pure 0)
  exact keeps_ite _ (keeps_raise _ _ _) (keeps_ite _ (keeps_raise _ _ _) (keeps_pure _))

theorem keeps_waitIndex (co : Core) (l w : Nat) : Keeps (waitIndex co l w) :=
  keeps_ite _ (keeps_pure _) (keeps_ite _ (keeps_raise _ _ _) (keeps_pure _))

theorem keeps_completionRing (co : Core) (l w : Nat) : Keeps (completionRing co l w) :=
  keeps_ite _ (keeps_pure _) (keeps_ite _ (keeps_raise _ _ _) (keeps_pure _))

section
variable {s s4 : State} {e : Engine} (kept : Kept s s4)
include kept

theorem enqReady_core : ∃ a b i h, (enqReady s s4 e).core s.cur.1
    = { s.core s.cur.1 with tlb := a, plb := b, icache := i, mxu := { (s.core s.cur.1).mxu with holder := h } } ∧ (e = .mxu → h = s.curStr.launch) := by
  obtain ⟨a, b, i, core⟩ := kept.core s.cur.1
  obtain ⟨h, took, holder⟩ := core_takeMxu s4 s.cur.1 e s.curStr.launch
  refine ⟨a, b, i, h, ?_, holder⟩
  rw [core] at took
  exact took

theorem enqReady_rings : ((enqReady s s4 e).core s.cur.1).rings = (s.core s.cur.1).rings := by
  obtain ⟨a, b, i, h, core, -⟩ := enqReady_core kept (e := e)
  rw [core]

theorem enqReady_engQueue : (enqReady s s4 e).engQueue s.cur.1 e = s.engQueue s.cur.1 e := by
  obtain ⟨a, b, i, h, core, -⟩ := enqReady_core kept (e := e)
  cases e with
  | crypto => exact congrArg Root.crypto kept.root
  | _ => rw [State.engQueue, core]; rfl

theorem enqReady_str : (enqReady s s4 e).str s.cur.1 s.cur.2 = s.curStr := by
  obtain ⟨a, b, i, h, core, -⟩ := enqReady_core kept (e := e)
  rw [State.str, core]
  rfl

theorem enqReady_outside : (enqReady s s4 e).mem = s.mem ∧ (enqReady s s4 e).cur = s.cur := by
  rw [← kept.mem, ← kept.cur]
  cases e <;> exact ⟨rfl, rfl⟩

variable {w : Nat} {tp : Word} {shape : BitVec 512} {wait : Option (Nat × BitVec 32)} {ring : Option Nat}
variable (early : ∀ a, s.curStr.act = some a → a.ec = true)
include early

/-- With room, the command joins its queue, and ENQ retires (R324). -/
theorem enqPlace_joins (room : HasRoom s s.cur.1 e ring) :
    let cmd := buildCmd s.curStr s.cur.2 w (s.nextId + 1) shape tp wait
    ∃ u, ended s ((enqPlace s e w tp shape wait ring).run s4) = .next u
      ∧ u.engQueue s.cur.1 e = s.engQueue s.cur.1 e ++ [slotted s s.cur.1 cmd ring] ∧ u.curStr = retired (disarmed cmd s.curStr) ∧ u.mem = s.mem
      ∧ (u.core s.cur.1).rings = slotRings (s.core s.cur.1) ring ∧ (e = .mxu → u.curCore.mxu.holder = s.curStr.launch) := by
  intro cmd
  obtain ⟨mem0, cur0⟩ := enqReady_outside kept (e := e)
  obtain ⟨v, joins, queue, rings, str, mem, cur, holder⟩ := appended_appendCmd
    ((hasRoom_congr (enqReady_engQueue kept) (enqReady_rings kept) ring).mpr room) s.cur.2 cmd
  refine ⟨v.retire, ?_, ?_, ?_, ?_, ?_, fun mxu => ?_⟩
  · rw [run_enqPlace early, joins]
  · rw [State.retire, engQueue_retireTo, queue, slotted_congr (enqReady_rings kept), enqReady_engQueue kept]
  · rw [State.retire, retireTo_curStr, State.curStr, cur, cur0, str, enqReady_str kept]
    rfl
  · rw [State.retire, retireTo_mem, mem, mem0]
  · rw [State.retire, rings_retireTo, rings, slotRings_congr (enqReady_rings kept)]
  · obtain ⟨a, b, i, h, core, took⟩ := enqReady_core kept (e := e)
    rw [State.curCore, State.retire, retireTo_cur, cur, cur0, mxu_retireTo, holder, core]
    exact took mxu

/-- Without, its string waits (R324). -/
theorem enqPlace_waits (full : ¬HasRoom s s.cur.1 e ring) :
    let cmd := buildCmd s.curStr s.cur.2 w (s.nextId + 1) shape tp wait
    ∃ u, ended s ((enqPlace s e w tp shape wait ring).run s4) = .next u
      ∧ u.curStr = { s.curStr with wait := .enq e cmd ring, routed := u.curStr.routed } ∧ u.engQueue s.cur.1 e = s.engQueue s.cur.1 e := by
  intro cmd
  have none := appendCmd_none (fun room => full ((hasRoom_congr (enqReady_engQueue kept) (enqReady_rings kept) ring).mp room)) s.cur.2 cmd
  refine ⟨(enqReady s s4 e).modStr s.cur.1 s.cur.2 (fun t => { t with wait := .enq e cmd ring }), ?_, ?_, ?_⟩
  · rw [run_enqPlace early, none]
  · have str : ((enqReady s s4 e).modStr s.cur.1 s.cur.2 (fun t => { t with wait := .enq e cmd ring })).curStr
        = { s.curStr with wait := .enq e cmd ring } := by
      rw [State.curStr, State.modStr, State.setStr, modCore_cur, (enqReady_outside kept).2, enqReady_str kept]
      exact str_setStr_self ..
    rw [str]
  · rw [engQueue_modStr, enqReady_engQueue kept]

end

/-! ## The command word, its shape block and its rings -/

theorem bitAt_eq_testBit (v i : Nat) : bitAt v i = v.testBit i := by
  rw [bitAt, field_eq, Nat.testBit_eq_decide_div_mod_eq, beq_eq_decide, pow_one]

/-- The template with its patch slots filled (R252). -/
theorem patch_eq (t : Str) (ra rb : XReg) (w0 : Nat) : patch t ra rb w0
    = (if ra = 0 then w0 % 2 ^ 64 else (t.getX ra).toNat) + (if rb = 0 then w0 / 2 ^ 64 % 2 ^ 64 else (t.getX rb).toNat) * 2 ^ 64
      + w0 / 2 ^ 128 % 2 ^ 128 * 2 ^ 128 := by
  simp only [patch, field_eq, pow_zero, Nat.div_one]

/-- It is a word of 256 bits. -/
theorem toNat_patch (t : Str) (ra rb : XReg) (w0 : Nat) : (BitVec.ofNat 256 (patch t ra rb w0)).toNat = patch t ra rb w0 := by
  have slot (p : Prop) [Decidable p] (v : Nat) (x : Word) : (if p then v % 2 ^ 64 else x.toNat) < 2 ^ 64 := by
    split
    · exact Nat.mod_lt _ (by decide)
    · exact x.isLt
  have low := slot (ra = 0) w0 (t.getX ra)
  have high := slot (rb = 0) (w0 / 2 ^ 64) (t.getX rb)
  rw [BitVec.toNat_ofNat, Nat.mod_eq_of_lt]
  rw [patch_eq]
  omega

/-- Address of the shape block of a copy (R361). -/
def shapeAddr (tp : Word) (w : Nat) : Word := nextPtr tp ((32 * field w 193 16 : Nat) : Int)

/-- The shape block of a copy is read and checked (R361). -/
theorem run_fetchShape_copy {w : Nat} {tp : Word} {s1 s5 s6 : State} {b1 b2 : List Byte} (copy : cmdOp w = 0x11 ∨ cmdOp w = 0x12)
    (first : (fetchBytes (shapeAddr tp w) 32).run s1 = .ok (b1, s5))
    (second : (fetchBytes (nextPtr (shapeAddr tp w) 32) 32).run s5 = .ok (b2, s6)) : (fetchShape tp w).run s1 =
      if shapeOk (cmdOp w == 0x11) (leNat (b1 ++ b2)) = false then .error (.fault { code := 0x51, detail := 6, val := 0 })
      else if shapeAligned (elemSize w) (leNat (b1 ++ b2)) = false then .error (.fault { code := 0x51, detail := 3, val := 0 })
      else .ok (BitVec.ofNat 512 (leNat (b1 ++ b2)), s6) := by
  unfold shapeAddr at first second
  rw [fetchShape, if_pos copy, run_bind_ok first, run_bind_ok second]
  simp only [Bool.not_eq_true']
  split
  · rfl
  · split <;> rfl

theorem run_fetchShape_plain {w : Nat} {tp : Word} {s1 : State} (plain : ¬(cmdOp w = 0x11 ∨ cmdOp w = 0x12)) :
    (fetchShape tp w).run s1 = .ok (0, s1) := by
  rw [fetchShape, if_neg plain]
  rfl

/-- An index of 16 bits that is in the window of a ring is that of one of its positions (R352). -/
theorem windowIndex_eq (l : BitVec 32) (i : Nat) : (l + BitVec.ofNat 32 (BitVec.ofNat 16 i - l.setWidth 16).toNat).toNat % 2 ^ 16 = i % 2 ^ 16 := by
  rw [BitVec.toNat_add, BitVec.toNat_ofNat, BitVec.toNat_sub, BitVec.toNat_ofNat, BitVec.toNat_setWidth]
  omega

/-- A ring that a command waits on has to be a valid one of its launch, the index in its window (R349, R352). -/
theorem run_waitIndex_refused {co : Core} {l w : Nat} (waits : w.testBit 246 = true) (s : State)
    (bad : ¬(ringOwned co l (w / 2 ^ 228 % 2 ^ 6) = true ∧ (co.ring (w / 2 ^ 228 % 2 ^ 6)).v = true)
      ∨ ∀ j < 2 ^ (co.ring (w / 2 ^ 228 % 2 ^ 6)).s,
          ((co.ring (w / 2 ^ 228 % 2 ^ 6)).l + BitVec.ofNat 32 j).toNat % 2 ^ 16 ≠ w / 2 ^ 212 % 2 ^ 16) :
    (waitIndex co l w).run s = .error (.fault { code := 0x31, detail := 0, val := 0 }) := by
  rw [waitIndex, bitAt_eq_testBit, waits]
  simp only [field_eq]
  rw [if_neg (by decide), if_pos]
  · rfl
  · rw [← Bool.not_and, Bool.or_eq_true, decide_eq_true_eq, Bool.not_eq_true', ← Bool.not_eq_true, Bool.and_eq_true]
    refine bad.imp_right (fun none => not_lt.mp fun inside => none _ inside ?_)
    rw [windowIndex_eq, Nat.mod_mod]

/-- The completion ring has to be a valid one of the launch (R324). -/
theorem run_completionRing_refused {co : Core} {l w : Nat} (completes : w.testBit 247 = true) (s : State)
    (bad : ¬(ringOwned co l (w / 2 ^ 234 % 2 ^ 6) = true ∧ (co.ring (w / 2 ^ 234 % 2 ^ 6)).v = true)) :
    (completionRing co l w).run s = .error (.fault { code := 0x31, detail := 0, val := 0 }) := by
  rw [completionRing, bitAt_eq_testBit, completes]
  simp only [field_eq]
  rw [if_neg (by decide), if_pos]
  · rfl
  · rw [← Bool.not_and, Bool.not_eq_true', ← Bool.not_eq_true, Bool.and_eq_true]
    exact bad

theorem shapeAddr_eq (tp : Word) (w : Nat) : shapeAddr tp w = nextPtr tp (32 * ((w / 2 ^ 193 % 2 ^ 16 : Nat) : Int)) := by
  rw [shapeAddr, field_eq, Nat.cast_mul]
  rfl

/-! ## A command that waits joins its queue later -/

/-- ENQ_APPEND appends it, and the instruction of its string retires (R252, R324). -/
theorem exec_enqAppend_room {s : State} {e : Engine} {d j : Nat} {cmd : Cmd} {ring : Option Nat} (waits : (s.str d j).wait = .enq e cmd ring)
    (stays : (s.core d).sw = .none ∨ (s.str d j).lvl ≠ 0) (room : HasRoom s d e ring) :
    ∃ u, exec (.enqAppend d j) s = .next u ∧ u.engQueue d e = s.engQueue d e ++ [slotted s d cmd ring] ∧ u.cur = s.cur ∧ u.mem = s.mem
      ∧ (u.core d).rings = slotRings (s.core d) ring ∧ u.str d j = retired (disarmed cmd (s.str d j)) := by
  obtain ⟨v, joins, queue, rings, str, mem, -, -⟩ := appended_appendCmd room j cmd
  have told : ((s.core d).sw != .none && (s.str d j).lvl == 0) = false := by
    rcases stays with h | h
    · rw [h]; rfl
    · rw [beq_eq_false_iff_ne.mpr h, Bool.and_false]
  refine ⟨{ ({ v with cur := (d, j) } : State).retire with cur := s.cur }, ?_, ?_, rfl, (retireTo_mem ..).trans mem,
    (rings_retireTo ..).trans rings, ?_⟩
  · rw [exec_enqAppend, execEnqAppend, waits]
    dsimp only
    rw [told, joins]
    rfl
  · exact (engQueue_retireTo ..).trans queue
  · refine (str_retire (s := { v with cur := (d, j) }) rfl).trans ?_
    rw [← str]
    rfl

/-- Settles O45: the checks in their order, then the command in its queue, or its string waiting. -/
theorem enqueue : Obligations.Enqueue := by
  unfold Obligations.Enqueue
  intro s s1 s2 s3 s4 e ra rb off b shape wait ring quiet t c k tp w0 w bad room placed pends
  have word : patch s.curStr ra rb (leNat b) = w := patch_eq ..
  have wide : (BitVec.ofNat 256 w).toNat = w := word ▸ toNat_patch ..
  clear_value w
  have slots (u : State) (d : Nat) (same : (u.core d).rings = slotRings (s.core d) ring) : pends u d ring := by
    intro g taken
    subst taken
    exact ring_slotRings same
  refine ⟨fun free other => ?_, fun allowed fresh fetched => ?_, fun d j cmd => ?_⟩
  · have noLaunch : (enqAllowed e).run s = .error (.fault { code := 0x35, detail := 0, val := 0 }) := by
      rw [enqAllowed, run_bind_ok (StateT.run_get s), if_neg other]
      exact run_bind_error (run_needLaunch_free free)
    exact (exec_enq_refused quiet noLaunch).trans (faultDue_ready s _ quiet)
  · have checked := exec_enq_checked (ra := ra) (rb := rb) quiet allowed fresh fetched
    rw [word] at checked
    dsimp only at checked
    refine ⟨fun first => checked.trans (if_pos ?_), fun op root => ?_⟩
    · rcases first with op | ⟨crypto, far⟩
      · rw [op, Bool.not_false, Bool.or_true]
      · rw [crypto, beq_self_eq_true, Bool.true_and, bne_iff_ne.mpr far, Bool.true_or]
    replace checked := checked.trans (if_neg ?_)
    rotate_left
    · rw [op, Bool.not_true, Bool.or_false, Bool.and_eq_true, beq_iff_eq, bne_iff_ne]
      exact fun ⟨crypto, far⟩ => far (root crypto)
    refine ⟨fun busy => checked.trans (if_pos (by rw [busy]; rfl)), fun free => ?_⟩
    replace checked := checked.trans (if_neg (by rw [free]; decide))
    refine ⟨fun fields => checked.trans (if_pos (by rw [fields]; rfl)), fun fields aligned => ?_, fun fields aligned space => ?_,
      fun fields aligned space => ?_⟩
    · exact (checked.trans (if_neg (by rw [fields]; decide))).trans (if_pos (by rw [aligned]; rfl))
    all_goals replace checked := checked.trans ((if_neg (by rw [fields]; decide)).trans (if_neg (by rw [aligned]; decide)))
    · exact checked.trans (if_pos (by rw [space]; rfl))
    replace checked := checked.trans (if_neg (by rw [space]; decide))
    have ends {code detail : Nat} (failed : (enqSampled s e w tp).run s1 = .error (.fault { code := code, detail := detail, val := 0 })) :
        Faults (.enq e ra rb off) s code detail 0 :=
      checked.trans ((congrArg (ended s) failed).trans (faultDue_ready s _ quiet))
    dsimp only
    intro s5 s6 b1 b2
    refine ⟨fun copy first second => ?_, fun plain => run_fetchShape_plain plain, fun got => ⟨fun waits lost => ?_, fun index completes lost => ?_⟩,
      fun got index takes early => ?_⟩
    · have run := run_fetchShape_copy copy (by rw [shapeAddr_eq]; exact first) (by rw [shapeAddr_eq]; exact second)
      refine ⟨fun shape => ?_, fun shape aligned => ?_, fun shape aligned => ?_⟩
      · exact ends (run_bind_error (run.trans (if_pos shape)))
      · exact ends (run_bind_error (run.trans ((if_neg (by simp [shape])).trans (if_pos aligned))))
      · exact run.trans ((if_neg (by simp [shape])).trans (if_neg (by simp [aligned])))
    · refine ends ?_
      rw [enqSampled, run_bind_ok got]
      exact run_bind_error (run_waitIndex_refused waits s2 lost)
    · refine ends ?_
      rw [enqSampled, run_bind_ok got, run_bind_ok index]
      exact run_bind_error (run_completionRing_refused completes s3 lost)
    · have kept : Kept s s4 := (keeps_fetchBytes _ _ _ _ _ fetched).trans ((keeps_fetchShape _ _ _ _ _ got).trans
        ((keeps_waitIndex _ _ _ _ _ _ index).trans (keeps_completionRing _ _ _ _ _ _ takes)))
      have sampled : exec (.enq e ra rb off) s = ended s ((enqPlace s e w tp shape wait ring).run s4) := by
        refine checked.trans (congrArg (ended s) ?_)
        rw [enqSampled]
        exact (run_bind_ok got).trans ((run_bind_ok index).trans (run_bind_ok takes))
      rw [sampled]
      refine ⟨fun has => ?_, fun full => enqPlace_waits kept early full⟩
      obtain ⟨u, run, queue, str, mem, rings, holder⟩ := enqPlace_joins (w := w) (tp := tp) (shape := shape) (wait := wait) kept early has
      refine ⟨u, run, ?_, ?_, mem, slots u c rings, holder⟩
      · rw [queue]
        cases ring <;> rfl
      · rw [str, disarmed, buildCmd, wide]
  · dsimp only
    intro waits stays has
    obtain ⟨u, run, queue, cur, mem, rings, str⟩ := exec_enqAppend_room waits stays has
    refine ⟨u, run, ?_, cur, mem, slots u d rings, str⟩
    rw [queue]
    cases ring <;> rfl

end Sys2Proof.Proofs
end

section
/-! SUPPORT. START, the end of a launch by its first status, and the reading of a launch record (R155, R156, R161, R162): lemmas for the statement
`LaunchLife`. -/

namespace Sys2Proof.Proofs

open Sys2Proof Sys2Proof.Machine Sys2Proof.Laws Sys2Proof.Claims

/-! ## Messages that a unit sends -/

theorem post_launches (s : State) (unit : Nat) (f : Flight) : (s.post unit f).launches = s.launches := by
  unfold State.post
  split
  · dsimp only; split <;> rfl
  · rfl

/-- Messages that a unit sends one after another stand last in the network, in that order. -/
theorem posts_net {α : Type} (l : List α) (unit : Nat) (g : α → Flight) (s : State) :
    ∃ fs, (l.foldl (fun s x => s.post unit (g x)) s).net = s.net ++ fs ∧ fs.map (·.msg) = l.map (fun x => (g x).msg) := by
  induction l generalizing s with
  | nil => exact ⟨[], (List.append_nil _).symm, rfl⟩
  | cons x l ih =>
    obtain ⟨f, first, msg⟩ := post_net s unit (g x)
    obtain ⟨fs, rest, msgs⟩ := ih (s.post unit (g x))
    exact ⟨f :: fs, by rw [List.foldl_cons, rest, first, List.append_assoc, List.singleton_append], by rw [List.map_cons, List.map_cons, msg, msgs]⟩

/-- They change the network alone, among what a launch has. -/
theorem posts_others {α : Type} (l : List α) (unit : Nat) (g : α → Flight) (s : State) :
    let u := l.foldl (fun s x => s.post unit (g x)) s
    u.launches = s.launches ∧ u.mem = s.mem ∧ u.cores = s.cores :=
  List.foldlRecOn (motive := fun u : State => u.launches = s.launches ∧ u.mem = s.mem ∧ u.cores = s.cores) l _ ⟨rfl, rfl, rfl⟩
    (fun _ ⟨launches, mem, cores⟩ _ _ => ⟨(post_launches ..).trans launches, (post_mem ..).trans mem, (post_cores ..).trans cores⟩)

/-! ## START (R156, R160, R161) -/

/-- The START messages of launch `i`: one for each of its cores, in order. -/
def Starts (i : Nat) (l : Launch) (fs : List Flight) : Prop :=
  fs.length = l.place.length ∧ ∀ j (h : j < fs.length), let m := (fs[j]).msg
    m.launch = i ∧ m.dest = .core j ∧ m.hid = 0 ∧ m.op = 0 ∧ m.cnt = false ∧ m.src = 0xFFFF ∧ m.payload = 0 ∧ m.arm = none

theorem startMask_getLsbD (l : Launch) {h : Nat} (low : h < 64) : (startMask l).getLsbD h = (l.handler h).testBit 36 := by
  have elem := joinElems_elem 1 ((upTo 64).map (fun i => b2n (bitAt (l.handler i) 36))) h
  have here : ((upTo 64).map (fun i => b2n (bitAt (l.handler i) 36))).getD h 0 = b2n ((l.handler h).testBit 36) := by
    rw [← bitAt_eq_testBit]
    simp [upTo, List.getD_eq_getElem?_getD, low]
  rw [here, one_mul, pow_one] at elem
  rw [startMask, BitVec.getLsbD_ofNat, decide_eq_true low, Bool.true_and, Nat.testBit_eq_decide_div_mod_eq, elem]
  cases (l.handler h).testBit 36 <;> rfl

/-- A core that a launch starts on takes the handler mask, and its instruction cache is emptied (R156, R160). -/
def startOn (i : Nat) (l : Launch) (s : State) (c : Nat) : State :=
  (s.modOn c i (fun o => { o with mask := startMask l })).modCore c (fun co => { co with icache := [] })

/-- Core `c` is ready for the launch's first message. -/
def Started (i : Nat) (l : Launch) (c : Nat) (s : State) : Prop :=
  ∃ o, (s.core c).on i = some o ∧ o.mask = startMask l ∧ (s.core c).icache = []

theorem startOn_core_ne (i : Nat) (l : Launch) (s : State) {c d : Nat} (other : d ≠ c) : (startOn i l s c).core d = s.core d := by
  rw [startOn, core_modCore_ne _ _ other]
  unfold State.modOn
  split
  · exact core_modCore_ne _ _ other
  · rfl

theorem started_startOn {i c : Nat} {l : Launch} {s : State} {o : OnCore} (on : (s.core c).on i = some o) : Started i l c (startOn i l s c) := by
  refine ⟨{ o with mask := startMask l }, ?_, rfl, ?_⟩
  · rw [startOn, core_modCore_self, modOn_core_self on]
    exact mfind_mset_self ..
  · rw [startOn, core_modCore_self]

theorem sendStart_started {s : State} {i c : Nat} {l : Launch} {o : OnCore} (placed : c ∈ l.place) (on : (s.core c).on i = some o) :
    Started i l c (s.sendStart i l) := by
  have keeps (s : State) (d : Nat) (h : Started i l c s) : Started i l c (startOn i l s d) := by
    by_cases same : c = d
    · subst same
      obtain ⟨o, on, -, -⟩ := h
      exact started_startOn on
    · unfold Started
      rw [startOn_core_ne i l s same]
      exact h
  have started : Started i l c (l.place.foldl (startOn i l) s) := by
    refine foldl_reaches (fun s => ∃ o, (s.core c).on i = some o) (Started i l c) _ placed (fun s d ⟨o, on⟩ => ?_) keeps
      (fun s ⟨o, on⟩ => started_startOn on) ⟨o, on⟩
    by_cases same : c = d
    · subst same
      obtain ⟨p, on, -⟩ := started_startOn (l := l) on
      exact ⟨p, on⟩
    · rw [startOn_core_ne i l s same]
      exact ⟨o, on⟩
  obtain ⟨-, -, cores⟩ := posts_others (upTo l.place.length) (launchUnit l.part) (fun lc => unitFlight i l lc 0 0) (l.place.foldl (startOn i l) s)
  unfold Started State.core at started ⊢
  rw [← cores] at started
  exact started

theorem sameOutside_startOn (i : Nat) (l : Launch) (s : State) (c : Nat) : SameOutside s (startOn i l s c) :=
  (sameOutside_modOn ..).trans (sameOutside_modCore ..)

theorem startOn_launches (i : Nat) (l : Launch) (s : State) (c : Nat) : (startOn i l s c).launches = s.launches := modOn_launches ..

/-- Of what is outside the cores, sending START changes the network alone. -/
theorem sendStart_outside (s : State) (i : Nat) (l : Launch) :
    (s.sendStart i l).launches = s.launches ∧ (s.sendStart i l).mem = s.mem ∧ ∃ fs, (s.sendStart i l).net = s.net ++ fs ∧ Starts i l fs := by
  have launches : (l.place.foldl (startOn i l) s).launches = s.launches :=
    List.foldlRecOn (motive := fun u : State => u.launches = s.launches) l.place _ rfl (fun u h c _ => (startOn_launches ..).trans h)
  have outside : SameOutside s (l.place.foldl (startOn i l) s) := sameOutside_foldl l.place _ (sameOutside_startOn i l) s
  obtain ⟨launches', mem, -⟩ := posts_others (upTo l.place.length) (launchUnit l.part) (fun lc => unitFlight i l lc 0 0) (l.place.foldl (startOn i l) s)
  obtain ⟨fs, net, msgs⟩ := posts_net (upTo l.place.length) (launchUnit l.part) (fun lc => unitFlight i l lc 0 0) (l.place.foldl (startOn i l) s)
  have length : fs.length = l.place.length := by simpa [upTo] using congrArg List.length msgs
  refine ⟨launches'.trans launches, mem.trans outside.mem, fs, net.trans ?_, length, fun j low => ?_⟩
  · rw [outside]
  · have msg : (fs[j]).msg = (unitFlight i l j 0 0).msg := by
      have at_j : (fs.map (·.msg))[j]'(by simpa using low) = ((upTo l.place.length).map (fun lc => (unitFlight i l lc 0 0).msg))[j]'(by
        simpa [upTo, ← length] using low) := by simp only [msgs]
      simpa [upTo] using at_j
    rw [msg]
    exact ⟨rfl, rfl, rfl, rfl, rfl, rfl, rfl, rfl⟩

theorem modLaunch_found {s : State} {i : Nat} {l : Launch} (launch : s.launch i = some l) (f : Launch → Launch) :
    s.modLaunch i f = { s with launches := mset s.launches i (f l) } := by
  rw [State.modLaunch, launch]

/-- START_MESSAGE sends START to each core of an admitted launch (R161). -/
theorem startMessage_starts {s : State} {i : Nat} {l : Launch} (launch : s.launch i = some l) (admitted : l.phase = .admitted)
    (scheduled : ∀ c ∈ l.place, (s.core c).vf = some l.vf ∧ (s.core c).sw = .none) :
    ∃ u fs, exec (.startMessage i) s = .next u ∧ u.launch i = some { l with phase := .running } ∧ u.net = s.net ++ fs ∧ Starts i l fs
      ∧ u.mem = s.mem ∧ ∀ c ∈ l.place, ∀ o, (s.core c).on i = some o → Started i l c u := by
  obtain ⟨launches, mem, fs, net, starts⟩ := sendStart_outside (s.modLaunch i (fun l => { l with phase := .running })) i l
  have outside : SameOutside s (s.modLaunch i (fun l => { l with phase := .running })) := sameOutside_modLaunch ..
  have modified := modLaunch_found launch (fun l => { l with phase := .running })
  refine ⟨_, fs, ?_, ?_, ?_, starts, mem.trans outside.mem, fun c placed o on => sendStart_started placed (o := o) ?_⟩
  · have all : l.place.all (fun c => (s.core c).vf == some l.vf && (s.core c).sw == .none) = true := by
      simpa using scheduled
    rw [exec_startMessage, execStartMessage, launch]
    dsimp only
    rw [admitted, all]
    rfl
  · rw [State.launch, launches, modified]
    exact mfind_mset_self ..
  · rw [net, outside]
  · rw [modified]
    exact on

/-! ## The first status that arrives (R162) -/

theorem halt_stopped (t : Str) : t.halt.run ≠ .running := by
  unfold Str.halt
  dsimp only
  split <;> decide

/-- A launch stands on core `c` with the same strings, and for the same function. -/
def Stands (s u : State) (c : Nat) : Prop := (u.core c).res = (s.core c).res ∧ (u.core c).vf = (s.core c).vf

theorem Stands.stringsOf {s u : State} {c : Nat} (h : Stands s u c) (i : Nat) (l : Launch) : u.stringsOf i l c = s.stringsOf i l c := by
  obtain ⟨res, vf⟩ := h
  simp only [State.stringsOf, Core.on, res, vf]

/-- The strings `ks` of core `d` stop. -/
def haltStrs (d : Nat) (ks : List Nat) (s : State) : State := ks.foldl (fun s k => s.modStr d k Str.halt) s

theorem haltStrs_core (d : Nat) (ks : List Nat) (s : State) : ∃ t, (haltStrs d ks s).core d = { s.core d with strs := t } := by
  refine List.foldlRecOn (motive := fun u : State => ∃ t, u.core d = { s.core d with strs := t }) ks _ ⟨_, rfl⟩ (fun u ⟨t, core⟩ k _ => ?_)
  rw [core_modStr, core]
  exact ⟨_, rfl⟩

theorem haltStrs_core_ne {c d : Nat} (other : c ≠ d) (ks : List Nat) (s : State) : (haltStrs d ks s).core c = s.core c :=
  List.foldlRecOn (motive := fun u : State => u.core c = s.core c) ks _ rfl (fun _ core _ _ => (core_modCore_ne _ _ other).trans core)

theorem haltStrs_stops {d k : Nat} {ks : List Nat} (mem : k ∈ ks) (s : State) : ((haltStrs d ks s).str d k).run ≠ .running := by
  refine foldl_reaches (fun _ => True) (fun u => (u.str d k).run ≠ .running) _ mem (fun _ _ _ => trivial) (fun u j stopped => ?_)
    (fun u _ => ?_) trivial
  · by_cases same : k = j
    · subst same
      rw [State.modStr, str_setStr_self]
      exact halt_stopped _
    · rw [State.modStr, str_setStr_ne _ _ (by simp [same])]
      exact stopped
  · rw [State.modStr, str_setStr_self]
    exact halt_stopped _

theorem haltStrs_keepsStopped {c k : Nat} (d : Nat) (ks : List Nat) {s : State} (stopped : (s.str c k).run ≠ .running) :
    ((haltStrs d ks s).str c k).run ≠ .running := by
  refine List.foldlRecOn (motive := fun u : State => (u.str c k).run ≠ .running) ks _ stopped (fun u stopped j _ => ?_)
  by_cases same : (c, k) = (d, j)
  · cases same
    rw [State.modStr, str_setStr_self]
    exact halt_stopped _
  · rw [State.modStr, str_setStr_ne _ _ same]
    exact stopped

/-- What a launch that ends does on core `d` (R162). -/
def haltOn (i : Nat) (l : Launch) (s : State) (d : Nat) : State :=
  (haltStrs d (s.stringsOf i l d) s).modCore d (fun co =>
    { co with records := co.records.filter (fun r => r.launch != i), niStop := co.niStop.filter (· != i) })

theorem haltOn_stands (i : Nat) (l : Launch) (s : State) (c d : Nat) : Stands s (haltOn i l s d) c := by
  by_cases same : c = d
  · subst same
    obtain ⟨t, core⟩ := haltStrs_core c (s.stringsOf i l c) s
    unfold Stands
    rw [haltOn, core_modCore_self, core]
    exact ⟨rfl, rfl⟩
  · unfold Stands
    rw [haltOn, core_modCore_ne _ _ same, haltStrs_core_ne same]
    exact ⟨rfl, rfl⟩

/-- The strings `ks` of core `c` have stopped, and none of the launch's records stands in its queue. -/
def Halted (i c : Nat) (ks : List Nat) (s : State) : Prop := (∀ k ∈ ks, (s.str c k).run ≠ .running) ∧ ∀ r ∈ (s.core c).records, r.launch ≠ i

theorem haltOn_records (i : Nat) (l : Launch) (s : State) (c d : Nat) :
    ∀ r ∈ ((haltOn i l s d).core c).records, (c = d → r.launch ≠ i) ∧ r ∈ (s.core c).records := by
  intro r mem
  by_cases same : c = d
  · subst same
    obtain ⟨t, core⟩ := haltStrs_core c (s.stringsOf i l c) s
    rw [haltOn, core_modCore_self, core] at mem
    obtain ⟨old, kept⟩ := List.mem_filter.mp mem
    exact ⟨fun _ => by simpa using kept, old⟩
  · rw [haltOn, core_modCore_ne _ _ same, haltStrs_core_ne same] at mem
    exact ⟨fun h => absurd h same, mem⟩

theorem haltOn_str (i : Nat) (l : Launch) (s : State) (c d k : Nat) : (haltOn i l s d).str c k = (haltStrs d (s.stringsOf i l d) s).str c k :=
  str_modCore _ _ _ rfl c k

/-- A launch that ends stops its strings, and takes its records from their queues (R162). -/
theorem haltLaunch_halts (s : State) (i : Nat) {l : Launch} {c : Nat} (placed : c ∈ l.place) : Halted i c (s.stringsOf i l c) (s.haltLaunch i l) := by
  refine foldl_reaches (fun u => u.stringsOf i l c = s.stringsOf i l c) (Halted i c (s.stringsOf i l c)) (haltOn i l) placed
    (fun u d same => ((haltOn_stands i l u c d).stringsOf i l).trans same) (fun u d ⟨stopped, gone⟩ => ⟨fun k mem => ?_, fun r mem => ?_⟩)
    (fun u same => ⟨fun k mem => ?_, fun r mem => ?_⟩) rfl
  · rw [haltOn_str]
    exact haltStrs_keepsStopped d _ (stopped k mem)
  · exact gone r (haltOn_records i l u c d r mem).2
  · rw [haltOn_str, same]
    exact haltStrs_stops mem u
  · exact (haltOn_records i l u c c r mem).1 rfl

theorem haltStrs_launches (d : Nat) (ks : List Nat) (s : State) : (haltStrs d ks s).launches = s.launches :=
  List.foldlRecOn (motive := fun u : State => u.launches = s.launches) ks _ rfl (fun _ h _ _ => h)

theorem haltLaunch_launches (s : State) (i : Nat) (l : Launch) : (s.haltLaunch i l).launches = s.launches :=
  List.foldlRecOn (motive := fun u : State => u.launches = s.launches) l.place (haltOn i l) rfl
    (fun u h d _ => (haltStrs_launches d _ u).trans h)

/-- LAUNCH_END: the first status decides (R162). -/
theorem launchEnd_decides {s : State} {i p ix st v : Nat} {l : Launch} {keep : Bool} {rest : List (Nat × Nat × Bool)} (launch : s.launch i = some l)
    (able : (s.part p).pstate ≠ .fenced) (ended : s.ended p ix = some (i, l)) (first : l.ends = (st, v, keep) :: rest) :
    ∃ u, exec (.launchEnd p ix) s = .next u ∧ u.launch i = some { l with phase := .ending st v keep, ends := [] } ∧ u.mem = s.mem
      ∧ ∀ c ∈ l.place, Halted i c (s.stringsOf i l c) u := by
  have modified := modLaunch_found launch (fun l => { l with phase := .ending st v keep, ends := [] })
  refine ⟨(s.modLaunch i (fun l => { l with phase := .ending st v keep, ends := [] })).haltLaunch i l, ?_, ?_, ?_, fun c placed => ?_⟩
  · rw [exec_launchEnd, execLaunchEnd, if_neg (by simpa using able), ended]
    dsimp only
    rw [first]
  · rw [State.launch, haltLaunch_launches, modified]
    exact mfind_mset_self ..
  · rw [(sameOutside_haltLaunch _ i l).mem, modified]
  · rw [modified]
    exact haltLaunch_halts { s with launches := mset s.launches i _ } i placed

/-! ## LAUNCH_RECORD_READ (R155) -/

/-- The next record of the ring of function `f` is read: its launch, with the function's next serial number, joins the queue. -/
theorem launchRecordRead_queues {s : State} {f p : Nat} (r : BitVec 1024) (part : (s.vf f).part = some p) (runs : (s.part p).pstate = .running)
    (goes : (s.part p).stopping = false) (error : (s.vf f).le = false) (enabled : bitAt (s.vf f).lrcfg.toNat 5 = true)
    (posted : (s.vf f).lh ≠ (s.vf f).lp) :
    ∃ s1, exec (.launchRecordRead f (some r)) s = .next (State.enterQueue s1 { Launch.init with
        serial := BitVec.ofNat 64 (2 ^ 63 + f * 2 ^ 48 + (s.vf f).lcount.toNat), vf := f, part := p, record := r })
      ∧ s1.mem = s.mem ∧ (s1.vf f).lh = (s.vf f).lh + 1 ∧ (s1.vf f).lcount = (s.vf f).lcount + 1 := by
  refine ⟨s.modVf f (fun v => { v with lh := v.lh + 1, lcount := v.lcount + 1 }), ?_, rfl, ?_, ?_⟩
  · have able : ((s.part p).pstate != .running || (s.part p).stopping || (s.vf f).le || !bitAt (s.vf f).lrcfg.toNat 5
        || (s.vf f).lh == (s.vf f).lp) = false := by
      rw [runs, goes, error, enabled, beq_eq_false_iff_ne.mpr posted]
      rfl
    rw [exec_launchRecordRead, execLaunchRecordRead]
    dsimp only
    rw [part]
    dsimp only
    rw [able]
    rfl
  · rw [vf_modVf_self]
  · rw [vf_modVf_self]

end Sys2Proof.Proofs
end

section
/-! SUPPORT. What the loads that are sure leave of the copies of blocks as they perform before a block is switched (R169, R170; log 13): lemmas for
the statement `LaunchLife`. -/

namespace Sys2Proof.Proofs

open Sys2Proof Sys2Proof.Machine Sys2Proof.Laws Sys2Proof.Claims

/-- From `s` to `t` no commit switches a block, and a block that a launch has redirected stays so, with its copy where it lies. -/
structure Redirecting (s t : State) : Prop where
  switched : t.switched = s.switched
  redirects : ∀ r ∈ s.redirects, r ∈ t.redirects
  copyAt : ∀ r ∈ s.redirects, r.2 < 2 ^ 30 → mget 0 t.copyAt (copyKey r.1 r.2) = mget 0 s.copyAt (copyKey r.1 r.2)

theorem Redirecting.of_eq {s t : State} (redirects : t.redirects = s.redirects) (copyAt : t.copyAt = s.copyAt) (switched : t.switched = s.switched) :
    Redirecting s t :=
  ⟨switched, fun _ mem => by rwa [redirects], fun _ _ _ => by rw [copyAt]⟩

theorem Redirecting.refl (s : State) : Redirecting s s := .of_eq rfl rfl rfl

theorem Redirecting.trans {s t u : State} (h : Redirecting s t) (g : Redirecting t u) : Redirecting s u where
  switched := g.switched.trans h.switched
  redirects r mem := g.redirects r (h.redirects r mem)
  copyAt r mem low := (g.copyAt r (h.redirects r mem) low).trans (h.copyAt r mem low)

theorem Redirecting.foldl {β : Type} {l : List β} {f : State → β → State} (hf : ∀ s x, Redirecting s (f s x)) (s : State) :
    Redirecting s (l.foldl f s) :=
  List.foldlRecOn l f (.refl s) (fun t h x _ => h.trans (hf t x))

/-! ## The state's operations -/

theorem redirecting_modCore (s : State) (c : Nat) (f : Core → Core) : Redirecting s (s.modCore c f) := .of_eq rfl rfl rfl
theorem redirecting_setStr (s : State) (c k : Nat) (t : Str) : Redirecting s (s.setStr c k t) := .of_eq rfl rfl rfl
theorem redirecting_memory (s : State) (m : Memory) (b : List (Nat × Poison)) : Redirecting s { s with mem := m, bad := b } := .of_eq rfl rfl rfl
theorem redirecting_emit (s : State) (o : Out) : Redirecting s (s.emit o) := .of_eq rfl rfl rfl
theorem redirecting_modVf (s : State) (f : Nat) (g : Vf → Vf) : Redirecting s (s.modVf f g) := .of_eq rfl rfl rfl

theorem redirecting_modOn (s : State) (c l : Nat) (f : OnCore → OnCore) : Redirecting s (s.modOn c l f) :=
  .of_eq (modOn_redirects ..) (modOn_copyAt ..) (modOn_switched ..)

theorem redirecting_modLaunch (s : State) (l : Nat) (f : Launch → Launch) : Redirecting s (s.modLaunch l f) := by
  obtain ⟨x, h⟩ := modLaunch_eq s l f
  rw [h]; exact .of_eq rfl rfl rfl

theorem redirecting_meterOf (s : State) (c i n : Nat) : Redirecting s (s.meterOf c i n) := by
  unfold State.meterOf
  split <;> exact .of_eq rfl rfl rfl

theorem redirecting_meterWrite (s : State) (c : Nat) (l : Option Nat) (pl : Place) (n : Nat) : Redirecting s (s.meterWrite c l pl n) := by
  unfold State.meterWrite
  split
  · exact .refl s
  · exact redirecting_meterOf s c _ n

theorem redirecting_packets (s : State) (c u : Nat) (pl : Place) : Redirecting s (s.packets c u pl) := by
  obtain ⟨q, h⟩ := packets_eq s c u pl
  rw [h]; exact .of_eq rfl rfl rfl

theorem redirecting_poisonFound (s : State) (l : Option Nat) (a : Nat) : Redirecting s (s.poisonFound l a) := by
  unfold State.poisonFound
  split <;> exact .of_eq rfl rfl rfl

theorem redirecting_touch (s : State) (a : Nat) : Redirecting s (s.touch a) := by
  obtain ⟨r, k, h⟩ := touch_eq s a
  rw [h]; exact .of_eq rfl rfl rfl

theorem redirecting_putBytes (s : State) (a : Nat) (b : List Byte) : Redirecting s (s.putBytes a b) := by
  obtain ⟨m, r, k, h⟩ := putBytes_eq s a b
  rw [h]; exact .of_eq rfl rfl rfl

theorem redirecting_putLine (s : State) (a v : Nat) : Redirecting s (s.putLine a v) := (redirecting_putBytes s a (leBytes 64 v)).trans (.of_eq rfl rfl rfl)

theorem redirecting_copyBlock (s : State) (a b : Nat) : Redirecting s (s.copyBlock a b) :=
  (redirecting_putBytes s b (s.mem.bytes a 4096)).trans (.of_eq rfl rfl rfl)

/-- The key of the copy of a block tells its shadow number and the block (R170). -/
theorem copyKey_inj {k j b d : Nat} (hb : b < 2 ^ 30) (hd : d < 2 ^ 30) : copyKey k b = copyKey j d ↔ k = j ∧ b = d := by
  unfold copyKey
  omega

/-- A block that a launch redirects was not redirected for it before. -/
theorem redirecting_redirect (s : State) (l : Option Nat) (a : Nat) : Redirecting s (s.redirect l a) := by
  unfold State.redirect
  dsimp only
  split
  · exact .refl s
  next fresh =>
    simp only [Bool.or_eq_true, decide_eq_true_eq, not_or, List.contains_iff_mem] at fresh
    obtain ⟨⟨-, low⟩, fresh⟩ := fresh
    split
    · refine ⟨(redirecting_copyBlock s _ _).switched, fun r mem => List.mem_append_left _ mem, fun r mem small => mget_mset_ne _ _ _ fun same => ?_⟩
      obtain ⟨key, block⟩ := (copyKey_inj small (by omega)).mp same
      exact fresh (by rwa [← key, ← block])
    · exact redirecting_modLaunch ..
    · exact .refl s

theorem redirecting_writeEv (s : State) (l : Option Nat) (a : Nat) (bs : List (Nat × Nat)) (d : BitVec 4096) : Redirecting s (s.writeEv l a bs d) := by
  have first := redirecting_redirect s l a
  unfold State.writeEv
  dsimp only
  split
  · exact first
  · refine first.trans (Redirecting.trans ?_ (redirecting_touch _ _))
    exact .of_eq rfl rfl rfl

theorem redirecting_post (s : State) (unit : Nat) (f : Flight) : Redirecting s (s.post unit f) := by
  unfold State.post
  split
  · dsimp only; split <;> exact .of_eq rfl rfl rfl
  · exact .of_eq rfl rfl rfl

/-! ## Loads and stores that perform -/

theorem redirecting_readHome (s : State) (c : Nat) (la : Option Nat) (l : Load) (e : SectorEv) (d : Bool) : Redirecting s (s.readHome c la l e d).1 := by
  unfold State.readHome
  split
  · exact .refl s
  next a _ =>
    have sent := redirecting_packets s c (coreUnit c) e.place
    have counted := sent.trans (redirecting_meterOf _ c (byteMeter c e.place) e.bytes.length)
    dsimp only
    split
    · split
      · exact (counted.trans (redirecting_poisonFound _ la a)).trans (redirecting_meterOf _ c 15 1)
      · exact sent.trans (redirecting_poisonFound _ la a)
    · exact counted

theorem redirecting_performAtom (s : State) (c : Nat) (la : Option Nat) (l : Load) (e : SectorEv) : Redirecting s (s.performAtom c la l e).1 := by
  unfold State.performAtom
  split
  next at_ _ _ =>
    have sent := redirecting_packets s c (coreUnit c) e.place
    dsimp only
    split
    · exact sent.trans (redirecting_poisonFound _ la _)
    · split <;> split
      · exact (sent.trans (redirecting_meterWrite ..)).trans (redirecting_writeEv ..)
      · exact sent.trans (redirecting_meterWrite ..)
      · exact (sent.trans (redirecting_meterOf ..)).trans (redirecting_writeEv ..)
      · exact sent.trans (redirecting_meterOf ..)
  next => exact .refl s

theorem redirecting_commitEarly (s : State) (c k : Nat) : Redirecting s (s.commitEarly c k) := by
  unfold State.commitEarly
  dsimp only
  split
  · split
    · exact .refl s
    · exact (redirecting_setStr s c k _).trans (.foldl (fun s m => redirecting_post s _ _) _)
  · exact .refl s

theorem redirecting_commitForLine (s : State) (c k : Nat) : Redirecting s (s.commitForLine c k) := by
  unfold State.commitForLine State.commitWhere
  refine Redirecting.trans (Redirecting.foldl (fun s k => ?_) s) (redirecting_commitEarly _ c k)
  split
  · split
    · exact redirecting_commitEarly s c k
    · exact .refl s
  · exact .refl s

theorem redirecting_journalLine (s : State) (c k n : Nat) : Redirecting s (s.journalLine c k n) := by
  unfold State.journalLine
  split
  · split
    · exact .refl s
    · split
      · exact redirecting_commitEarly s c k
      · split
        · exact redirecting_commitForLine s c k
        · exact redirecting_setStr s c k _
  · exact .refl s

theorem redirecting_commitFor (s : State) (c k : Nat) (pl : Place) (n : Nat) : Redirecting s (s.commitFor c k pl n) := by
  unfold State.commitFor
  split
  · split
    · exact .foldl (fun s _ => redirecting_journalLine s c k _) s
    · exact redirecting_commitEarly s c k
  · exact redirecting_commitEarly s c k

theorem redirecting_commitEvs (s : State) (c k : Nat) (l : List SectorEv) : Redirecting s (s.commitEvs c k l) := by
  unfold State.commitEvs
  exact .foldl (fun s e => redirecting_commitFor s c k _ 32) s

/-! ## Faults -/

theorem redirecting_drainEvs (s : State) (c : Nat) (evs : List SectorEv) (d : BitVec 4096) : Redirecting s (s.drainEvs c evs d) := by
  unfold State.drainEvs
  refine .foldl (fun s e => ?_) s
  split
  · exact (redirecting_meterOf s c _ _).trans (redirecting_writeEv _ _ _ _ _)
  · exact .refl s

theorem redirecting_drainOwn (s : State) (c k : Nat) : Redirecting s (s.drainOwn c k) := by
  unfold State.drainOwn
  dsimp only
  refine (Redirecting.trans (Redirecting.foldl (fun s x => redirecting_drainEvs s c _ _) s) (Redirecting.foldl (fun s x => ?_) _)).trans
    (redirecting_setStr _ c k _)
  split
  · exact .foldl (fun s p => redirecting_drainEvs s c _ _) s
  · exact .refl s

theorem redirecting_restoreJournal (s : State) (c : Nat) (a : Activation) : Redirecting s (s.restoreJournal c a) := by
  have lines : Redirecting s (a.journal.foldl (fun s j =>
      { s with mem := s.mem.putNum (sliceFlat c (64 * j.1)) 64 j.2.toNat, bad := clearMarks s.bad (sliceFlat c (64 * j.1)) 64 }) s) :=
    .foldl (fun s _ => redirecting_memory s _ _) s
  unfold State.restoreJournal
  dsimp only
  split
  · refine Redirecting.trans ?_ (redirecting_modOn _ c _ _)
    exact lines.trans (.of_eq rfl rfl rfl)
  · exact lines.trans (.of_eq rfl rfl rfl)

theorem redirecting_placeRec {s t : State} {c : Nat} {r : Rec} (h : s.placeRec c r = some t) : Redirecting s t := by
  unfold State.placeRec at h
  dsimp only at h
  split at h
  · obtain ⟨sp, -, rfl⟩ := Option.map_eq_some_iff.mp h
    cases sp with
    | none => exact redirecting_modCore s c _
    | some i => exact (redirecting_putLine s _ _).trans (redirecting_modCore ..)
  · exact absurd h (by simp)

theorem redirecting_returnRec (s : State) (c : Nat) (a : Activation) (redo : Nat) : Redirecting s (s.returnRec c a redo) := by
  unfold State.returnRec
  dsimp only
  cases placed : s.placeRec c _ with
  | none => rw [Option.getD_none]; exact redirecting_modCore s c _
  | some t => rw [Option.getD_some]; exact redirecting_placeRec placed

theorem redirecting_rollBack (s : State) (c k redo : Nat) : Redirecting s (s.rollBack c k redo) := by
  unfold State.rollBack
  split
  · exact (((redirecting_drainOwn s c k).trans (redirecting_restoreJournal ..)).trans (redirecting_setStr ..)).trans (redirecting_returnRec ..)
  · exact .refl s

theorem redirecting_takeFault (s : State) (c k : Nat) (pc : Word) (f : FaultInfo) : Redirecting s (s.takeFault c k pc f) := by
  unfold State.takeFault
  dsimp only
  split
  · exact .refl s
  · split
    · exact (redirecting_setStr ..).trans (redirecting_modCore ..)
    · split
      · exact redirecting_setStr ..
      · split
        · exact redirecting_rollBack ..
        · split
          · exact ((redirecting_drainOwn s c k).trans (redirecting_restoreJournal ..)).trans (redirecting_setStr ..)
          · exact redirecting_setStr ..

theorem redirecting_bindLoads (s : State) (c k : Nat) : Redirecting s (s.bindLoads c k) := by
  unfold State.bindLoads
  dsimp only
  split
  · exact (redirecting_setStr ..).trans (redirecting_commitEvs ..)
  · split
    · refine Redirecting.trans ?_ (redirecting_takeFault ..)
      split
      · exact ((redirecting_setStr ..).trans (redirecting_commitEvs ..)).trans (redirecting_modOn _ c _ _)
      · exact (redirecting_setStr ..).trans (redirecting_commitEvs ..)
    · exact .refl s

theorem redirecting_performHome (s : State) (c k : Nat) (l : Load) (e : SectorEv) : Redirecting s (s.performHome c k l e) := by
  refine Redirecting.trans ?_ ((redirecting_setStr ..).trans (redirecting_bindLoads ..))
  split
  · exact redirecting_performAtom ..
  · exact redirecting_readHome ..

theorem redirecting_reportStore (s : State) (c : Nat) (x : Store) (e : SectorEv) (code : Nat) : Redirecting s (s.reportStore c x e code) := by
  unfold State.reportStore State.reportWrite State.forwardRec
  split
  · split
    · exact .refl s
    · exact redirecting_post ..
  · exact .refl s

theorem redirecting_settleInval (s : State) (f : Nat) : Redirecting s (s.settleInval f) := by
  unfold State.settleInval
  dsimp only
  split
  · exact .refl s
  · exact Redirecting.trans (.foldl (fun s _ => redirecting_emit s _) s) (redirecting_modVf ..)

theorem redirecting_performStore (s : State) (c k : Nat) (x : Store) (e : SectorEv) : Redirecting s (s.performStore c k x e) := by
  unfold State.performStore
  split
  · exact .refl s
  · have sent := redirecting_packets s c (coreUnit c) e.place
    have counted := sent.trans (redirecting_meterWrite _ c x.launch e.place e.bytes.length)
    dsimp only
    split
    · exact counted.trans (redirecting_writeEv ..)
    · split
      · exact (sent.trans (redirecting_redirect ..)).trans (redirecting_reportStore ..)
      · exact counted.trans (redirecting_writeEv ..)
    · exact ((counted.trans (redirecting_emit ..)).trans (redirecting_setStr ..)).trans (redirecting_settleInval ..)
    · exact counted.trans (redirecting_emit ..)
    · exact .refl s

/-! ## Loads that are sure perform before blocks are copied back -/

theorem redirecting_forceStores (s : State) (c k n : Nat) : Redirecting s (s.forceStores c k n) := by
  unfold State.forceStores
  refine .foldl (fun s x => ?_) s
  split
  · exact Redirecting.trans (redirecting_setStr s c k _) (.foldl (fun s e => redirecting_performStore s c k x e) _)
  · exact .refl s

theorem redirecting_forceLoad (s : State) (c k seq : Nat) : Redirecting s (s.forceLoad c k seq) := by
  unfold State.forceLoad
  cases (s.str c k).lds.find? (fun l => l.seq == seq) with
  | none => exact .refl s
  | some l =>
    refine .foldl (fun s e => ?_) s
    split
    · split
      · exact redirecting_performHome ..
      · exact .refl s
    · exact .refl s

theorem redirecting_forceTo (s : State) (c k n : Nat) : Redirecting s (s.forceTo c k n) := by
  unfold State.forceTo
  exact Redirecting.trans (.foldl (fun s l => (redirecting_forceStores s c k _).trans (redirecting_forceLoad _ c k _)) s) (redirecting_forceStores _ c k n)

theorem redirecting_forceEv (s : State) (c k seq : Nat) (e : SectorEv) : Redirecting s (s.forceEv c k seq e) := by
  have home (t : State) : Redirecting t (match (t.str c k).lds.find? (fun l => l.seq == seq) with
      | some l => if l.evs.contains e then t.performHome c k l e else t
      | none => t) := by
    split
    · split
      · exact redirecting_performHome t c k _ e
      · exact .refl t
    · exact .refl t
  unfold State.forceEv
  dsimp only
  refine Redirecting.trans ?_ (home _)
  split
  · split
    · exact redirecting_forceTo s c k seq
    · exact .refl s
  · exact .refl s

theorem redirecting_sureFirst (s : State) (hit : Nat → Bool) : Redirecting s (s.sureFirst hit) := by
  unfold State.sureFirst
  refine .foldl (fun s c => .foldl (fun s k => ?_) s) s
  unfold State.sureStr
  exact .foldl (fun s x => redirecting_forceEv s _ k _ _) s

end Sys2Proof.Proofs
end

section
/-! SUPPORT. The blocks that a commit switches, and their copying back (R84, R170): lemmas for the statement `LaunchLife`. -/

namespace Sys2Proof.Proofs

open Sys2Proof Sys2Proof.Machine Sys2Proof.Laws Sys2Proof.Claims

/-! ## A commit switches a block -/

theorem mget_mdel_ne {α : Type} (d : α) (m : Map α) {k j : Nat} (other : j ≠ k) : mget d (mdel m k) j = mget d m j := by
  rw [mget, mget, mfind_mdel_ne m other]

/-- Copies of a block that are dropped take no other copy with them. -/
theorem dropCopies_eq (rs : List (Nat × Nat)) (b : Nat) (s : State) :
    ∃ m, rs.foldl (fun s r => s.dropCopy r.1 b) s = { s with copyAt := m }
      ∧ ∀ key, b < 2 ^ 30 → (∀ r ∈ rs, r.1 ≠ key) → mget 0 m (copyKey key b) = mget 0 s.copyAt (copyKey key b) := by
  induction rs generalizing s with
  | nil => exact ⟨s.copyAt, rfl, fun _ _ _ => rfl⟩
  | cons r rs ih =>
    obtain ⟨m, fold, copies⟩ := ih (s.dropCopy r.1 b)
    refine ⟨m, fold, fun key small others => ?_⟩
    obtain ⟨other, others⟩ := List.forall_mem_cons.mp others
    exact (copies key small others).trans (mget_mdel_ne 0 _ fun same => other ((copyKey_inj small small).mp same).1.symm)

theorem redirecting_beforeSwitch (s : State) (b : Nat) : Redirecting s (s.beforeSwitch b) := redirecting_sureFirst ..

/-- A commit of one block switches it to the launch's copy (R170). -/
theorem switchBlock_switches {s : State} {key b : Nat} (redirected : (key, b) ∈ s.redirects) (fresh : (key, b) ∉ s.switched) :
    let u := s.switchBlock key b
    (key, b) ∉ u.redirects ∧ (∀ r ∈ s.redirects, r ≠ (key, b) → r ∈ u.redirects)
      ∧ (∀ y, y / 4096 = b → y < 2 ^ 42 → u.version 0 y = s.copyPa key y) ∧ (NoneSure s → u.mem = s.mem ∧ u.bad = s.bad) := by
  obtain ⟨switched, redirects, copyAt⟩ := redirecting_beforeSwitch s b
  obtain ⟨m, dropped, copies⟩ := dropCopies_eq ((s.beforeSwitch b).switched.filter (fun r => r.2 == b)) b (s.beforeSwitch b)
  have others : ∀ r ∈ (s.beforeSwitch b).switched.filter (fun r => r.2 == b), r.1 ≠ key := by
    intro r mem same
    obtain ⟨mem, block⟩ := List.mem_filter.mp mem
    rw [switched] at mem
    exact fresh (by rwa [← same, ← beq_iff_eq.mp block])
  dsimp only
  rw [State.switchBlock]
  dsimp only
  rw [dropped]
  refine ⟨fun mem => ?_, fun r mem other => List.mem_filter.mpr ⟨redirects r mem, bne_iff_ne.mpr other⟩, fun y block low => ?_, fun none => ?_⟩
  · simpa using (List.mem_filter.mp mem).2
  · have small : b < 2 ^ 30 := by omega
    rw [State.version, if_neg (not_le.mpr low), if_neg (by simp), block, List.find?_cons_of_pos (by simp)]
    simp only [State.copyPa, block]
    rw [copies key small others, copyAt _ redirected small]
  · rw [State.beforeSwitch, sureFirst_none none]
    exact ⟨rfl, rfl⟩

theorem commitBlock_switches {s : State} {i key b : Nat} {l : Launch} (launch : s.launch i = some l) (commits : l.commitKey = key)
    (redirected : (key, b) ∈ s.redirects) (idle : s.mayComplete i l = true) : makeMove (.commitBlock key b) s = .next (s.switchBlock key b) := by
  have any : s.launches.any (fun l => l.2.commitKey == key && s.mayComplete l.1 l.2) = true :=
    List.any_eq_true.mpr ⟨(i, l), mem_of_mfind launch, by rw [commits, idle, beq_self_eq_true]; rfl⟩
  show Host.Outcome.next (s.commitBlock key b) = _
  rw [State.commitBlock, any, List.contains_iff_mem.mpr redirected]
  rfl

/-! ## The copy goes back -/

/-- A copied block has the bytes that it is copied from, and nothing else of memory changes (R170). -/
theorem get_copyBlock {s : State} {a b : Nat} (clear : ∀ x ∈ s.allSpans, overlaps x.pa x.len (b * 4096) 4096 = false) (y : Nat) :
    (s.copyBlock a (b * 4096)).mem.get y = if y / 4096 = b then s.mem.get (a + y % 4096) else s.mem.get y := by
  have length : (s.mem.bytes a 4096).length = 4096 := by rw [memory_bytes_eq, List.length_map, List.length_range]
  have written : (s.copyBlock a (b * 4096)).mem = s.mem.putBytes (b * 4096) (s.mem.bytes a 4096) :=
    (putBytes_mem ..).trans (outsideSpans_clear _ _ _ _ (by rwa [length]))
  rw [written]
  split
  next inside =>
    have low : y % 4096 < (s.mem.bytes a 4096).length := by rw [length]; omega
    have byte := get_putBytes_in (s.mem.bytes a 4096) s.mem (b * 4096) (y % 4096) low
    rw [show b * 4096 + y % 4096 = y by omega] at byte
    simpa [memory_bytes_eq] using byte
  next outside => exact get_putBytes_out _ _ _ _ (by omega)

theorem poisoned_mset {m : Map Poison} {k : Nat} (j : Nat) (h : mfind m k = some .poisoned) : mfind (mset m j .poisoned) k = some .poisoned := by
  by_cases same : k = j
  · rw [same, mfind_mset_self]
  · rw [mfind_mset_ne _ _ same, h]

/-- Marks of sectors `g i` that are set to poisoned one after another, each with those that `f i` sets, stand in the end. -/
theorem poisoned_marks (g : Nat → Nat) (f : Map Poison → Nat → Map Poison)
    (keeps : ∀ m i k, mfind m k = some .poisoned → mfind (f m i) k = some .poisoned) {l : List Nat} {j : Nat} (m : Map Poison)
    (h : j ∈ l ∨ mfind m (g j) = some .poisoned) : mfind (l.foldl (fun m i => mset (f m i) (g i) .poisoned) m) (g j) = some .poisoned := by
  induction l generalizing m with
  | nil => exact h.resolve_left (List.not_mem_nil)
  | cons i l ih =>
    refine ih _ ?_
    rcases h with mem | set
    · rcases List.mem_cons.mp mem with same | later
      · exact .inr (by rw [same, mfind_mset_self])
      · exact .inl later
    · exact .inr (poisoned_mset _ (keeps m i _ set))

/-- Where a block is copied from a bad sector, the copy is poisoned (R84). -/
theorem copyBlock_poisons {s : State} {a b j : Nat} (low : j < 128) (hurt : s.markAt (a + 32 * j) ≠ none) :
    mfind (s.copyBlock a b).bad (b / 32 + j) = some .poisoned := by
  refine poisoned_marks (b / 32 + ·) (fun m i => if s.inSpan (a + 32 * i) then m else mset m (a / 32 + i) .poisoned) (fun m i k h => ?_) _
    (.inl (List.mem_filter.mpr ⟨by simpa [upTo] using low, Option.isSome_iff_ne_none.mpr hurt⟩))
  split
  · exact h
  · exact poisoned_mset _ h

/-- What has been switched is copied back in an event of its own, poison with it (R170). -/
theorem copyBack_copies {s : State} {key b : Nat} (switched : (key, b) ∈ s.switched) :
    ∃ u, makeMove (.copyBack key b) s = .next u ∧ (key, b) ∉ u.switched
      ∧ (NoneSure s → ((∀ x ∈ s.allSpans, overlaps x.pa x.len (b * 4096) 4096 = false) →
          ∀ y, y < 2 ^ 42 → u.mem.get y = if y / 4096 = b then s.mem.get (s.copyPa key y) else s.mem.get y)
        ∧ ∀ j < 128, s.markAt (s.copyPa key (b * 4096) + 32 * j) ≠ none → mfind u.bad (b * 128 + j) = some .poisoned) := by
  refine ⟨s.copyBack key b, ?_, fun mem => ?_, fun none => ⟨fun clear y _ => ?_, fun j low hurt => ?_⟩⟩
  · show Host.Outcome.next (if s.switched.contains (key, b) then s.copyBack key b else s) = _
    rw [if_pos (List.contains_iff_mem.mpr switched)]
  · simpa using (List.mem_filter.mp mem).2
  · have mem : (s.copyBack key b).mem = (s.copyBlock (s.copyPa key (b * 4096)) (b * 4096)).mem := by
      rw [State.copyBack, State.beforeSwitch, sureFirst_none none]
      rfl
    rw [mem, get_copyBlock clear]
    have copy (block : y / 4096 = b) : s.copyPa key (b * 4096) + y % 4096 = s.copyPa key y := by
      simp only [State.copyPa, block, Nat.mul_div_cancel _ (show 0 < 4096 by decide), Nat.mul_mod_left, Nat.add_zero]
    split
    next block => rw [copy block]
    next => rfl
  · have bad : (s.copyBack key b).bad = (s.copyBlock (s.copyPa key (b * 4096)) (b * 4096)).bad := by
      rw [State.copyBack, State.beforeSwitch, sureFirst_none none]
      rfl
    rw [bad, show b * 128 = b * 4096 / 32 by omega]
    exact copyBlock_poisons low hurt

end Sys2Proof.Proofs
end

section
/-! SUPPORT. A launch departs from its cores, and its completion is written (R91, R95, R146, R162, R170, R171, R406): lemmas for the statement
`LaunchLife`. -/

namespace Sys2Proof.Proofs

open Sys2Proof Sys2Proof.Machine Sys2Proof.Laws Sys2Proof.Claims

/-! ## What the end of a launch leaves as it is -/

/-- From `s` to `t` no launch, function, message, message count or switched block changes. -/
structure SameRecords (s t : State) : Prop where
  launches : t.launches = s.launches
  vfs : t.vfs = s.vfs
  net : t.net = s.net
  counts : t.counts = s.counts
  switched : t.switched = s.switched

theorem SameRecords.refl (s : State) : SameRecords s s := ⟨rfl, rfl, rfl, rfl, rfl⟩

theorem SameRecords.trans {s t u : State} (h : SameRecords s t) (g : SameRecords t u) : SameRecords s u :=
  ⟨g.launches.trans h.launches, g.vfs.trans h.vfs, g.net.trans h.net, g.counts.trans h.counts, g.switched.trans h.switched⟩

theorem SameRecords.foldl {β : Type} {l : List β} {f : State → β → State} (hf : ∀ s x, SameRecords s (f s x)) (s : State) :
    SameRecords s (l.foldl f s) :=
  List.foldlRecOn l f (.refl s) (fun t h x _ => h.trans (hf t x))

theorem sameRecords_modCore (s : State) (c : Nat) (f : Core → Core) : SameRecords s (s.modCore c f) := ⟨rfl, rfl, rfl, rfl, rfl⟩

theorem sameRecords_clearRange (s : State) (a n : Nat) : SameRecords s (s.clearRange a n) := ⟨rfl, rfl, rfl, rfl, rfl⟩

/-! ## The launch leaves its cores (R91, R95) -/

/-- A launch leaves core `c`. -/
def departOn (i : Nat) (l : Launch) (s : State) (c : Nat) : State := (s.clearOn i l c).modCore c (fun co => { co with res := mdel co.res i })

theorem sameRecords_clearOn (s : State) (i : Nat) (l : Launch) (c : Nat) : SameRecords s (s.clearOn i l c) := by
  unfold State.clearOn
  dsimp only
  split
  · exact .refl s
  · split
    · exact ⟨rfl, rfl, rfl, rfl, rfl⟩
    · exact .refl s

theorem sameRecords_retireCore (s : State) (c : Nat) : SameRecords s (s.retireCore c) := by
  unfold State.retireCore
  dsimp only
  split
  · exact ⟨rfl, rfl, rfl, rfl, rfl⟩
  · exact .refl s

theorem sameRecords_goIfSaved (s : State) (p : Nat) : SameRecords s (s.goIfSaved p) := by
  unfold State.goIfSaved
  split
  · split
    · rw [tellCores_rest]
      exact ⟨rfl, rfl, rfl, rfl, rfl⟩
    · exact .refl s
  · exact .refl s

theorem sameRecords_departOn (i : Nat) (l : Launch) (s : State) (c : Nat) : SameRecords s (departOn i l s c) :=
  (sameRecords_clearOn s i l c).trans (sameRecords_modCore ..)

theorem sameRecords_departLaunch (s : State) (i : Nat) (l : Launch) : SameRecords s (s.departLaunch i l) :=
  (SameRecords.trans (.foldl (sameRecords_departOn i l) s) (.foldl sameRecords_retireCore _)).trans
    (sameRecords_goIfSaved ..)

/-! ## Its window reads zero -/

/-- The bytes of core `c`'s slice from `base` on, `n` of them, are zero. -/
def WindowClear (c base n : Nat) (s : State) : Prop := ∀ j < n, s.mem.get (sliceFlat c base + j) = 0

theorem windowClear_clear {c base n : Nat} {s t : State} (h : WindowClear c base n s) {a m : Nat} (mem : t.mem = s.mem.clear a m) :
    WindowClear c base n t := by
  intro j low
  rw [mem, get_clear]
  split
  · rfl
  · exact h j low

theorem windowClear_of_mem {c base n : Nat} {s t : State} (h : WindowClear c base n s) (mem : t.mem = s.mem) : WindowClear c base n t := by
  unfold WindowClear
  rw [mem]
  exact h

theorem windowClear_clearOn {c base n : Nat} {s : State} (h : WindowClear c base n s) (i : Nat) (l : Launch) (d : Nat) :
    WindowClear c base n (s.clearOn i l d) := by
  unfold State.clearOn
  dsimp only
  split
  · exact h
  · split
    · exact windowClear_clear h rfl
    · exact h

theorem windowClear_retireCore {c base n : Nat} {s : State} (h : WindowClear c base n s) (d : Nat) : WindowClear c base n (s.retireCore d) := by
  unfold State.retireCore
  dsimp only
  split
  · exact windowClear_clear h rfl
  · exact h

theorem departOn_core_ne (i : Nat) (l : Launch) (s : State) {c d : Nat} (other : c ≠ d) : (departOn i l s d).core c = s.core c := by
  rw [departOn, core_modCore_ne _ _ other]
  unfold State.clearOn
  dsimp only
  split
  · rfl
  · split
    · rw [core_clearRange]
      exact core_modCore_ne s (fun _ => _) other
    · rfl

/-- The window of a launch on a core on which its function is scheduled reads zero when the launch has departed (R91). -/
theorem departLaunch_window {s : State} {i c : Nat} {l : Launch} {o : OnCore} (placed : c ∈ l.place) (on : (s.core c).on i = some o)
    (vf : (s.core c).vf = some l.vf) : WindowClear c o.wbase l.winBytes (s.departLaunch i l) := by
  have left : WindowClear c o.wbase l.winBytes (l.place.foldl (departOn i l) s) := by
    have clears (u : State) (same : u.core c = s.core c) : WindowClear c o.wbase l.winBytes (departOn i l u c) := by
      refine windowClear_of_mem (s := u.clearOn i l c) ?_ rfl
      unfold State.clearOn
      dsimp only
      rw [same, on]
      dsimp only
      rw [vf, if_pos (beq_self_eq_true _)]
      intro j low
      rw [clearRange_mem, get_clear, if_pos (by omega)]
    have keeps (u : State) (d : Nat) (h : WindowClear c o.wbase l.winBytes u) : WindowClear c o.wbase l.winBytes (departOn i l u d) :=
      windowClear_of_mem (windowClear_clearOn h i l d) rfl
    refine foldl_reaches (fun u => u.core c = s.core c ∨ WindowClear c o.wbase l.winBytes u) _ _ placed (fun u d h => ?_) keeps
      (fun u h => h.elim (clears u) (keeps u c)) (.inl rfl)
    rcases h with same | clear
    · by_cases here : c = d
      · subst here
        exact .inr (clears u same)
      · exact .inl ((departOn_core_ne i l u here).trans same)
    · exact .inr (keeps u d clear)
  refine windowClear_of_mem ?_ (goIfSaved_mem ..)
  exact List.foldlRecOn (motive := WindowClear c o.wbase l.winBytes) l.place _ left (fun u h d _ => windowClear_retireCore h d)

/-! ## No load becomes sure -/

/-- From `s` to `t` strings get no load. -/
def FewerLoads (s t : State) : Prop := ∀ c k, ∀ x ∈ (t.str c k).lds, x ∈ (s.str c k).lds

theorem FewerLoads.refl (s : State) : FewerLoads s s := fun _ _ _ h => h

theorem FewerLoads.trans {s t u : State} (h : FewerLoads s t) (g : FewerLoads t u) : FewerLoads s u := fun c k x mem => h c k x (g c k x mem)

theorem FewerLoads.foldl {β : Type} {l : List β} {f : State → β → State} (hf : ∀ s x, FewerLoads s (f s x)) (s : State) :
    FewerLoads s (l.foldl f s) :=
  List.foldlRecOn l f (.refl s) (fun t h x _ => h.trans (hf t x))

theorem FewerLoads.noneSure {s t : State} (h : FewerLoads s t) (none : NoneSure s) : NoneSure t := fun c k x mem => none c k x (h c k x mem)

theorem fewerLoads_of_cores {s t : State} (same : t.cores = s.cores) : FewerLoads s t := by
  intro c k x mem
  rwa [State.str, State.core, same] at mem

theorem fewerLoads_setCore (s : State) (c : Nat) {co : Core} (fewer : ∀ k, ∀ x ∈ (co.str k).lds, x ∈ (s.str c k).lds) :
    FewerLoads s (s.setCore c co) := by
  intro d k x mem
  by_cases same : d = c
  · subst same
    rw [State.str, core_setCore_self] at mem
    exact fewer k x mem
  · rwa [State.str, core_setCore_ne _ _ same] at mem

theorem freed_lds (t : Str) : ∀ x ∈ t.freed.lds, x ∈ t.lds := fun _ mem => (List.mem_filter.mp mem).1

/-- Strings that are freed get no load. -/
theorem freedStrs_lds (ks : List Nat) (m : Map Str) (k : Nat) :
    ∀ x ∈ (mget Str.init (ks.foldl (fun m k => mset m k (mget Str.init m k).freed) m) k).lds, x ∈ (mget Str.init m k).lds := by
  refine List.foldlRecOn (motive := fun n : Map Str => ∀ x ∈ (mget Str.init n k).lds, x ∈ (mget Str.init m k).lds) ks _ (fun _ h => h)
    (fun n h j _ x mem => ?_)
  by_cases same : k = j
  · subst same
    rw [mget_mset_self] at mem
    exact h x (freed_lds _ x mem)
  · rw [mget_mset_ne _ _ _ same] at mem
    exact h x mem

theorem fewerLoads_clearOn (s : State) (i : Nat) (l : Launch) (c : Nat) : FewerLoads s (s.clearOn i l c) := by
  unfold State.clearOn
  dsimp only
  split
  · exact .refl s
  next o _ =>
    split
    · refine FewerLoads.trans ?_ (fewerLoads_of_cores rfl)
      exact fewerLoads_setCore s c (fun k => freedStrs_lds o.strs (s.core c).strs k)
    · exact .refl s

theorem fewerLoads_retireCore (s : State) (c : Nat) : FewerLoads s (s.retireCore c) := by
  unfold State.retireCore
  dsimp only
  split
  · refine FewerLoads.trans ?_ (fewerLoads_of_cores rfl)
    exact fewerLoads_setCore s c (fun k x mem => absurd mem List.not_mem_nil)
  · exact .refl s

theorem fewerLoads_goIfSaved (s : State) (p : Nat) : FewerLoads s (s.goIfSaved p) := by
  intro c k x mem
  obtain ⟨w, core, -⟩ := goIfSaved_core s p c
  rwa [State.str, core, str_sw] at mem

theorem fewerLoads_departOn (i : Nat) (l : Launch) (s : State) (c : Nat) : FewerLoads s (departOn i l s c) :=
  (fewerLoads_clearOn s i l c).trans (fewerLoads_setCore _ c (fun _ _ mem => mem))

theorem fewerLoads_departLaunch (s : State) (i : Nat) (l : Launch) : FewerLoads s (s.departLaunch i l) :=
  (FewerLoads.trans (.foldl (fewerLoads_departOn i l) s) (.foldl fewerLoads_retireCore _)).trans (fewerLoads_goIfSaved _ _)

end Sys2Proof.Proofs
end

section
/-! SUPPORT. The completion of a launch that has departed (R146, R162, R170, R171, R406): lemmas for the statement `LaunchLife`. -/

namespace Sys2Proof.Proofs

open Sys2Proof Sys2Proof.Machine Sys2Proof.Laws Sys2Proof.Claims

/-! ## Blocks that its commits have switched go back (R170) -/

theorem copyBack_switched (s : State) (key b : Nat) : (s.copyBack key b).switched = s.switched.filter (fun r => r != (key, b)) := by
  have before := (redirecting_beforeSwitch s b).switched
  have copied := (redirecting_copyBlock (s.beforeSwitch b) ((s.beforeSwitch b).copyPa key (b * 4096)) (b * 4096)).switched
  exact congrArg (List.filter (fun r => r != (key, b))) ((redirecting_copyBlock _ _ _).switched.trans before)

theorem copyBacks_switched (rs : List (Nat × Nat)) (s : State) :
    ∀ r ∈ (rs.foldl (fun s r => s.copyBack r.1 r.2) s).switched, r ∈ s.switched ∧ r ∉ rs := by
  induction rs generalizing s with
  | nil => exact fun r mem => ⟨mem, List.not_mem_nil⟩
  | cons x rs ih =>
    intro r mem
    obtain ⟨old, others⟩ := ih (s.copyBack x.1 x.2) r mem
    rw [copyBack_switched] at old
    obtain ⟨old, other⟩ := List.mem_filter.mp old
    exact ⟨old, List.not_mem_cons_of_ne_of_not_mem (bne_iff_ne.mp other) others⟩

/-- No block stands switched under a key whose blocks have been copied back. -/
theorem keyBack_switched (s : State) (key : Nat) : ∀ r ∈ (s.keyBack key).switched, r.1 ≠ key := by
  intro r mem same
  obtain ⟨old, other⟩ := copyBacks_switched _ s r mem
  exact other (List.mem_filter.mpr ⟨old, beq_iff_eq.mpr same⟩)

/-- From `s` to `t`, of what the end of a launch shows, blocks of DRAM alone change, and which of them are switched. -/
structure BlocksOnly (s t : State) : Prop where
  records : SameRecords { s with switched := t.switched } t
  slices : ∀ y, 2 ^ 42 ≤ y → t.mem.get y = s.mem.get y
  loads : FewerLoads s t

theorem BlocksOnly.refl (s : State) : BlocksOnly s s := ⟨.refl s, fun _ _ => rfl, .refl s⟩

theorem BlocksOnly.trans {s t u : State} (h : BlocksOnly s t) (g : BlocksOnly t u) : BlocksOnly s u :=
  ⟨⟨g.records.launches.trans h.records.launches, g.records.vfs.trans h.records.vfs, g.records.net.trans h.records.net,
    g.records.counts.trans h.records.counts, rfl⟩, fun y high => (g.slices y high).trans (h.slices y high), h.loads.trans g.loads⟩

/-- Where no load is sure, the copying back of a block changes nothing else. -/
theorem blocksOnly_copyBack {s : State} (none : NoneSure s) (key : Nat) {b : Nat} (small : b < 2 ^ 30) : BlocksOnly s (s.copyBack key b) := by
  obtain ⟨m, r, k, put⟩ := putBytes_eq s (b * 4096) (s.mem.bytes (s.copyPa key (b * 4096)) 4096)
  have length : (s.mem.bytes (s.copyPa key (b * 4096)) 4096).length = 4096 := by rw [memory_bytes_eq, List.length_map, List.length_range]
  have out (y : Nat) (high : 2 ^ 42 ≤ y) : (s.putBytes (b * 4096) (s.mem.bytes (s.copyPa key (b * 4096)) 4096)).mem.get y = s.mem.get y :=
    get_putBytes_mem_out _ _ _ _ (by rw [length]; omega)
  rw [put] at out
  unfold State.copyBack State.beforeSwitch State.copyBlock
  dsimp only
  rw [sureFirst_none none, put]
  exact ⟨⟨rfl, rfl, rfl, rfl, rfl⟩, out, fewerLoads_of_cores rfl⟩

/-- Either no load is sure and what is switched lies in DRAM, or nothing is switched under the key. -/
def BackQuiet (s : State) (key : Nat) : Prop := NoneSure s ∧ (∀ r ∈ s.switched, r.2 < 2 ^ 30) ∨ ∀ r ∈ s.switched, r.1 ≠ key

theorem blocksOnly_keyBack {s : State} {key : Nat} (quiet : BackQuiet s key) : BlocksOnly s (s.keyBack key) := by
  rcases quiet with ⟨none, small⟩ | other
  · refine List.foldlRecOn (motive := BlocksOnly s) _ _ (.refl s) (fun u h r mem => h.trans ?_)
    exact blocksOnly_copyBack (h.loads.noneSure none) r.1 (small r (List.mem_filter.mp mem).1)
  · have empty : s.switched.filter (fun r => r.1 == key) = [] :=
      List.filter_eq_nil_iff.mpr (fun r mem same => other r mem (beq_iff_eq.mp same))
    rw [State.keyBack, empty]
    exact .refl s

theorem discardShadow_eq (s : State) (key : Nat) : ∃ x m, s.discardShadow key = { s with redirects := x, copyAt := m } := by
  have dropped (bs : List Nat) : ∃ m, bs.foldl (fun s b => s.dropCopy key b) s = { s with copyAt := m } :=
    List.foldlRecOn (motive := fun u : State => ∃ m, u = { s with copyAt := m }) bs _ ⟨s.copyAt, rfl⟩
      (fun u ⟨m, same⟩ b _ => ⟨mdel m (copyKey key b), by rw [same]; rfl⟩)
  obtain ⟨m, same⟩ := dropped ((s.redirects.filter (fun r => r.1 == key)).map (·.2))
  unfold State.discardShadow
  dsimp only
  rw [same]
  exact ⟨_, m, rfl⟩

/-- The copies of a launch are given up. -/
def copiesGone (l : Launch) (s : State) : State :=
  if l.shadow = 0 then s else (s.keyBack (shadowKey l.part l.shadow)).discardShadow (shadowKey l.part l.shadow)

theorem blocksOnly_copiesGone {s : State} {l : Launch} (quiet : BackQuiet s (shadowKey l.part l.shadow)) : BlocksOnly s (copiesGone l s) := by
  unfold copiesGone
  split
  · exact .refl s
  · obtain ⟨x, m, same⟩ := discardShadow_eq (s.keyBack (shadowKey l.part l.shadow)) (shadowKey l.part l.shadow)
    rw [same]
    exact (blocksOnly_keyBack quiet).trans ⟨⟨rfl, rfl, rfl, rfl, rfl⟩, fun _ _ => rfl, fewerLoads_of_cores rfl⟩

theorem copiesGone_switched (s : State) {l : Launch} (shadow : l.shadow ≠ 0) :
    ∀ r ∈ (copiesGone l s).switched, r.1 ≠ shadowKey l.part l.shadow := by
  rw [copiesGone, if_neg shadow]
  obtain ⟨x, m, same⟩ := discardShadow_eq (s.keyBack (shadowKey l.part l.shadow)) (shadowKey l.part l.shadow)
  rw [same]
  exact keyBack_switched s _

/-! ## Its message to its parent (R162, R171) -/

theorem tellParent_others (s : State) (l : Launch) (bits : BitVec 512) :
    (s.tellParent l bits).vfs = s.vfs ∧ (s.tellParent l bits).mem = s.mem ∧ (s.tellParent l bits).switched = s.switched
      ∧ (s.tellParent l bits).launches = s.launches := by
  unfold State.tellParent
  split
  · exact ⟨rfl, rfl, rfl, rfl⟩
  · exact ⟨rfl, rfl, rfl, rfl⟩
  · unfold State.post
    split
    · dsimp only; split <;> exact ⟨rfl, rfl, rfl, rfl⟩
    · exact ⟨rfl, rfl, rfl, rfl⟩

theorem tellParent_none (s : State) {l : Launch} (bits : BitVec 512) (alone : l.pcore = none) : s.tellParent l bits = s := by
  rw [State.tellParent, alone]

/-- A message to a parent that has gone is counted at the core that it is for. -/
theorem tellParent_gone {s : State} {l : Launch} {d : Nat} (bits : BitVec 512) (core : l.pcore = some d) (gone : l.parent.bind s.launch = none) :
    (s.tellParent l bits).net = s.net ∧ mget 0 (s.tellParent l bits).counts (coreUnit d) = mget 0 s.counts (coreUnit d) + 1 := by
  have none : l.parent.bind (fun i => (s.launch i).map (fun x => (i, x))) = Option.none := by
    cases parent : l.parent with
    | none => rfl
    | some j =>
      rw [parent] at gone
      show (s.launch j).map (fun x => (j, x)) = Option.none
      rw [show s.launch j = Option.none from gone]
      rfl
  rw [State.tellParent, core, none]
  exact ⟨rfl, mget_mset_self ..⟩

theorem tellParent_sends {s : State} {l x : Launch} {d j : Nat} (bits : BitVec 512) (core : l.pcore = some d) (parent : l.parent = some j)
    (runs : s.launch j = some x) : ∃ f, (s.tellParent l bits).net = s.net ++ [f]
      ∧ f.msg = (unitFlight j x (l.f 704 12) (l.f 716 6) (BitVec.extractLsb' 0 256 bits)).msg := by
  have found : l.parent.bind (fun i => (s.launch i).map (fun x => (i, x))) = some (j, x) := by
    rw [parent]
    show (s.launch j).map (fun x => (j, x)) = some (j, x)
    rw [runs]
    rfl
  rw [State.tellParent, core, found]
  exact post_net ..

/-! ## Its entry, and what its end leaves (R146, R162, R404, R406) -/

theorem stopPart_eq (s : State) (p : Nat) : SameRecords s (s.stopPart p) ∧ (s.stopPart p).mem = s.mem := by
  unfold State.stopPart
  dsimp only
  exact List.foldlRecOn (motive := fun u : State => SameRecords s u ∧ u.mem = s.mem) _ _ ⟨⟨rfl, rfl, rfl, rfl, rfl⟩, rfl⟩
    (fun u ⟨records, mem⟩ c _ => ⟨records.trans (sameRecords_modCore u c _), mem⟩)

/-- A command of the mailbox that waited for the launch may complete (R398, R404). -/
theorem settleCmd_eq (s : State) : SameRecords s s.settleCmd ∧ s.settleCmd.mem = s.mem := by
  have finished (t : State) (st : Nat) : SameRecords t (t.finishCmd st 0) ∧ (t.finishCmd st 0).mem = t.mem := ⟨⟨rfl, rfl, rfl, rfl, rfl⟩, rfl⟩
  unfold State.settleCmd
  dsimp only
  split
  · exact ⟨.refl s, rfl⟩
  · split
    · split
      · obtain ⟨records, mem⟩ := stopPart_eq s s.root.mbox.p
        exact ⟨records.trans (finished _ _).1, mem⟩
      · exact finished s 3
    · split
      · exact finished s 0
      · exact ⟨.refl s, rfl⟩

theorem blocksOnly_snapshot (s : State) (p cause fn status : Nat) (serial : Word) : BlocksOnly s (s.snapshot p cause fn status serial) := by
  obtain ⟨o, w, snap⟩ := snapshot_eq s p cause fn status serial
  rw [snap]
  exact ⟨⟨rfl, rfl, rfl, rfl, rfl⟩, fun _ _ => rfl, fewerLoads_of_cores rfl⟩

theorem snapshot_switched (s : State) (p cause fn status : Nat) (serial : Word) : (s.snapshot p cause fn status serial).switched = s.switched := by
  obtain ⟨o, w, snap⟩ := snapshot_eq s p cause fn status serial
  rw [snap]
  rfl

/-- The event entry of the completion (R406). -/
def completionEntry (l : Launch) (st v : Nat) : EventEntry := { bits := completionBits l st v, notify := bitAt l.record.toNat 9, msgOf := none }

/-- What the launch unit has asked for the launch is forgotten. -/
def askedNoMore (l : Launch) (s : State) : State :=
  if l.reading then s.modCore (4100 + l.part) (fun co => co.dropFor (· == 8 + l.vf)) else s

/-- The completion with its entry written, before its parent is told. -/
def entryWritten (l : Launch) (st v : Nat) (d : State) : State :=
  (((copiesGone l (askedNoMore l d)).snapshot l.part 1 l.vf st l.serial).modVf l.vf (fun v => { v with pfree := v.pfree ++ l.pblocks })).putEntry
    l.vf (completionEntry l st v)

/-- And with its parent told. -/
def parentTold (l : Launch) (st v : Nat) (s : State) : State :=
  if bitAt l.record.toNat 722 then s.tellParent l (completionBits l st v) else s

/-- The launch is gone. -/
def launchGone (i : Nat) (s : State) : State := { s with launches := mdel s.launches i }

theorem complete_eq (d : State) (i : Nat) (l : Launch) (st v : Nat) :
    d.complete i l st v = (launchGone i (parentTold l st v (entryWritten l st v d))).settleCmd := rfl

theorem parentTold_others (l : Launch) (st v : Nat) (s : State) :
    (parentTold l st v s).vfs = s.vfs ∧ (parentTold l st v s).mem = s.mem ∧ (parentTold l st v s).switched = s.switched
      ∧ (parentTold l st v s).launches = s.launches := by
  unfold parentTold
  split
  · exact tellParent_others ..
  · exact ⟨rfl, rfl, rfl, rfl⟩

/-- An entry and the blocks of the parameter area that are given back change the function alone. -/
theorem putEntry_others (x : State) (f : Nat) (g : Vf → Vf) (e : EventEntry) :
    let u := (x.modVf f g).putEntry f e
    u.launches = x.launches ∧ u.net = x.net ∧ u.counts = x.counts ∧ u.mem = x.mem ∧ u.switched = x.switched
      ∧ (u.vf f).entries = (g (x.vf f)).entries ++ [e] := by
  refine ⟨rfl, rfl, rfl, rfl, rfl, ?_⟩
  rw [State.putEntry, vf_modVf_self, vf_modVf_self]

section
variable {d : State} {l : Launch} (st v : Nat)

theorem askedNoMore_quiet (h : BackQuiet d (shadowKey l.part l.shadow)) : BackQuiet (askedNoMore l d) (shadowKey l.part l.shadow) := by
  unfold askedNoMore
  split
  · refine h.imp_left (fun ⟨unsure, small⟩ => ⟨FewerLoads.noneSure ?_ unsure, small⟩)
    exact fewerLoads_setCore d _ (fun _ _ mem => mem)
  · exact h

theorem blocksOnly_askedNoMore : BlocksOnly d (askedNoMore l d) := by
  unfold askedNoMore
  split
  · exact ⟨⟨rfl, rfl, rfl, rfl, rfl⟩, fun _ _ => rfl, fewerLoads_setCore d _ (fun _ _ mem => mem)⟩
  · exact .refl d

theorem entryWritten_eq (h : BackQuiet d (shadowKey l.part l.shadow)) :
    let e := entryWritten l st v d
    e.launches = d.launches ∧ e.net = d.net ∧ e.counts = d.counts ∧ (∀ y, 2 ^ 42 ≤ y → e.mem.get y = d.mem.get y)
      ∧ (e.vf l.vf).entries = (d.vf l.vf).entries ++ [completionEntry l st v]
      ∧ (l.shadow ≠ 0 → ∀ r ∈ e.switched, r.1 ≠ shadowKey l.part l.shadow) := by
  obtain ⟨records, slices, -⟩ := (blocksOnly_askedNoMore.trans (blocksOnly_copiesGone (askedNoMore_quiet h))).trans
    (blocksOnly_snapshot _ l.part 1 l.vf st l.serial)
  obtain ⟨launches, net, counts, mem, switched, entries⟩ := putEntry_others ((copiesGone l (askedNoMore l d)).snapshot l.part 1 l.vf st l.serial) l.vf
    (fun v => { v with pfree := v.pfree ++ l.pblocks }) (completionEntry l st v)
  rw [vf_of_vfs records.vfs l.vf] at entries
  have gone := copiesGone_switched (askedNoMore l d) (l := l)
  rw [← snapshot_switched _ l.part 1 l.vf st l.serial, ← switched] at gone
  exact ⟨launches.trans records.launches, net.trans records.net, counts.trans records.counts,
    fun y high => (congrArg (Memory.get · y) mem).trans (slices y high), entries, gone⟩

/-- A launch that has departed completes: it is gone, and its entry is queued. -/
theorem complete_completes (i : Nat) (h : BackQuiet d (shadowKey l.part l.shadow)) :
    let u := d.complete i l st v
    let e := entryWritten l st v d
    u.launch i = none ∧ (l.shadow ≠ 0 → ∀ r ∈ u.switched, r.1 ≠ shadowKey l.part l.shadow) ∧ (∀ y, 2 ^ 42 ≤ y → u.mem.get y = d.mem.get y)
      ∧ (u.vf l.vf).entries = (d.vf l.vf).entries ++ [completionEntry l st v] ∧ u.net = (parentTold l st v e).net
      ∧ u.counts = (parentTold l st v e).counts := by
  intro u e
  obtain ⟨-, -, -, slices, entries, gone⟩ := entryWritten_eq (l := l) st v h
  obtain ⟨vfs, mem, switched, launches⟩ := parentTold_others l st v e
  obtain ⟨records, settled⟩ : SameRecords (launchGone i (parentTold l st v e)) u ∧ u.mem = (launchGone i (parentTold l st v e)).mem :=
    settleCmd_eq _
  refine ⟨?_, fun shadow r there => ?_, fun y high => ?_, ?_, records.net, records.counts⟩
  · rw [State.launch, records.launches]
    exact mfind_mdel_self ..
  · rw [records.switched] at there
    exact gone shadow r (switched ▸ there)
  · rw [← slices y high]
    exact congrArg (fun m => Memory.get m y) (settled.trans mem)
  · rw [← entries]
    exact congrArg Vf.entries (vf_of_vfs (records.vfs.trans vfs) l.vf)

end

/-! ## COMPLETION_RECORD_WRITE (R146) -/

/-- The word that a completion's entry and message carry (R162, R406). -/
def completionWord (l : Launch) (st v : Nat) : Nat := l.serial.toNat * 2 ^ 192 + v % 2 ^ 32 * 2 ^ 160 + l.f 32 32 * 2 ^ 128 + st * 2 ^ 40 + 16

theorem completionWord_lt (l : Launch) {st : Nat} (v : Nat) (small : st < 256) : completionWord l st v < 2 ^ 256 := by
  have serial := l.serial.isLt
  have tag : l.f 32 32 < 2 ^ 32 := by
    rw [Launch.f, field_eq]
    exact Nat.mod_lt _ (by decide)
  unfold completionWord
  omega

theorem toNat_ofNat_of_lt {x m n : Nat} (small : x < 2 ^ m) (le : m ≤ n) : (BitVec.ofNat n x).toNat = x := by
  rw [BitVec.toNat_ofNat]
  exact Nat.mod_eq_of_lt (small.trans_le (Nat.pow_le_pow_right (by decide) le))

theorem toNat_completionBits (l : Launch) {st : Nat} (v : Nat) (small : st < 256) : (completionBits l st v).toNat = completionWord l st v := by
  exact toNat_ofNat_of_lt (completionWord_lt l v small) (by decide)

theorem toNat_completionPayload (l : Launch) {st : Nat} (v : Nat) (small : st < 256) :
    (BitVec.extractLsb' 0 256 (completionBits l st v)).toNat = completionWord l st v := by
  rw [BitVec.extractLsb'_toNat, toNat_completionBits l v small, Nat.shiftRight_zero]
  exact Nat.mod_eq_of_lt (completionWord_lt l v small)

theorem exec_completionRecordWrite_due {s : State} {i st v : Nat} {l : Launch} {keep : Bool} (launch : s.launch i = some l)
    (ending : l.phase = .ending st v keep) (idle : s.launchIdle i l = true) (able : (s.part l.part).pstate ≠ .fenced)
    (switched : l.shadow = 0 ∨ ∀ r ∈ s.redirects, r.1 ≠ shadowKey l.part l.shadow) :
    exec (.completionRecordWrite i) s = .next ((((s.departLaunch i l).complete i l st v).decideQueue l.vf).decideShadows l) := by
  have may : s.mayComplete i l = true := by
    rw [State.mayComplete, idle, bne_iff_ne.mpr able]
    rfl
  have done : (l.commitKey != 0 && s.redirects.any (fun r => r.1 == l.commitKey)) = false := by
    rw [Bool.and_eq_false_iff]
    by_cases none : l.commitKey = 0
    · exact .inl (by rw [none]; rfl)
    · refine .inr (List.any_eq_false.mpr fun r mem same => ?_)
      have key : l.shadow ≠ 0 ∧ l.commitKey = shadowKey l.part l.shadow := by
        unfold Launch.commitKey at none ⊢
        rw [ending] at none ⊢
        cases keep with
        | false => exact absurd rfl none
        | true =>
          dsimp only at none ⊢
          split at none
          · exact absurd rfl none
          next shadow => exact ⟨shadow, if_neg shadow⟩
      exact switched.resolve_left key.1 r mem ((beq_iff_eq.mp same).trans key.2)
  rw [exec_completionRecordWrite, execCompletionRecordWrite, launch]
  dsimp only
  rw [ending]
  dsimp only
  rw [may, done]
  rfl

section
variable {s : State} {i : Nat} {l : Launch} {st : Nat} (v : Nat) (quiet : BackQuiet s (shadowKey l.part l.shadow))
include quiet

theorem backQuiet_departLaunch : BackQuiet (s.departLaunch i l) (shadowKey l.part l.shadow) := by
  unfold BackQuiet
  rw [(sameRecords_departLaunch s i l).switched]
  exact quiet.imp_left (fun ⟨unsure, small⟩ => ⟨(fewerLoads_departLaunch s i l).noneSure unsure, small⟩)

/-- The launch departs, its windows read zero, and its completion is an entry of the event ring and, with PV, a message to its parent, which is
discarded and counted if the parent has gone (R91, R146, R162, R171). -/
theorem complete_departed (small : st < 256) :
    let w := completionWord l st v
    let u := (s.departLaunch i l).complete i l st v
    u.launch i = none ∧ (l.shadow ≠ 0 → ∀ r ∈ u.switched, r.1 ≠ shadowKey l.part l.shadow)
      ∧ (∀ c ∈ l.place, ∀ o, (s.core c).on i = some o → (s.core c).vf = some l.vf → ∀ j < l.winBytes, u.mem.get (sliceFlat c o.wbase + j) = 0)
      ∧ (∃ e : EventEntry, (u.vf l.vf).entries = (s.vf l.vf).entries ++ [e] ∧ e.notify = l.record.getLsbD 9 ∧ e.bits.toNat = w)
      ∧ (l.record.getLsbD 722 = false ∨ l.pcore = none → u.net = s.net)
      ∧ (∀ d, l.record.getLsbD 722 = true → l.pcore = some d → l.parent.bind s.launch = none →
          u.net = s.net ∧ mget 0 u.counts (coreUnit d) = mget 0 s.counts (coreUnit d) + 1)
      ∧ (∀ d j x, l.record.getLsbD 722 = true → l.pcore = some d → l.parent = some j → s.launch j = some x →
          ∃ f, u.net = s.net ++ [f] ∧ f.msg.launch = j ∧ f.msg.dest = .core (l.f 704 12) ∧ f.msg.hid = l.f 716 6 ∧ f.msg.op = 0
            ∧ f.msg.payload.toNat = w) := by
  have departed := sameRecords_departLaunch s i l
  have left : BackQuiet (s.departLaunch i l) (shadowKey l.part l.shadow) := backQuiet_departLaunch quiet
  obtain ⟨gone, unswitched, slices, entries, net, counts⟩ := complete_completes (l := l) st v i left
  obtain ⟨launches', net', counts', -, -, -⟩ := entryWritten_eq (l := l) st v left
  have launches (j : Nat) : (entryWritten l st v (s.departLaunch i l)).launch j = s.launch j := by
    rw [State.launch, launches', departed.launches]
    rfl
  have network : (entryWritten l st v (s.departLaunch i l)).net = s.net := net'.trans departed.net
  dsimp only
  refine ⟨gone, unswitched, fun c placed o on vf j low => ?_, ⟨completionEntry l st v, ?_, ?_, ?_⟩, fun quiet => ?_,
    fun d tells core lost => ?_, fun d j x tells core parent runs => ?_⟩
  · rw [slices _ (by unfold sliceFlat; omega)]
    exact departLaunch_window placed on vf j low
  · rw [entries, vf_of_vfs departed.vfs]
  · exact bitAt_toNat l.record 9
  · exact toNat_completionBits l v small
  · rw [net, parentTold, bitAt_toNat]
    rcases quiet with silent | alone
    · rw [if_neg (by rw [silent]; decide), network]
    · rw [tellParent_none _ _ alone, ite_self, network]
  · rw [net, counts, parentTold, bitAt_toNat, if_pos tells]
    have lost' : l.parent.bind (entryWritten l st v (s.departLaunch i l)).launch = none := by
      rw [← lost]
      exact congrArg l.parent.bind (funext launches)
    obtain ⟨same, count⟩ := tellParent_gone (completionBits l st v) core lost'
    exact ⟨same.trans network, count.trans (by rw [counts', departed.counts])⟩
  · rw [net, parentTold, bitAt_toNat, if_pos tells]
    obtain ⟨f, sent, msg⟩ := tellParent_sends (completionBits l st v) core parent ((launches j).trans runs)
    refine ⟨f, sent.trans (by rw [network]), ?_⟩
    rw [msg]
    exact ⟨rfl, rfl, rfl, rfl, toNat_completionPayload l v small⟩

end

end Sys2Proof.Proofs
end

section
/-! SUPPORT. REPLAY (R169), and the statement `LaunchLife`. -/

namespace Sys2Proof.Proofs

open Sys2Proof Sys2Proof.Machine Sys2Proof.Laws Sys2Proof.Claims

/-! ## REPLAY (R169) -/

/-- Core `c` is cleared for a replay; the launch keeps the matrix unit that it holds (R372). -/
def replayOn (i : Nat) (l : Launch) (s : State) (c : Nat) : State :=
  if (s.core c).mxu.holder == some i then (s.clearOn i l c).modCore c (fun co => { co with mxu := { co.mxu with holder := some i } })
  else s.clearOn i l c

/-- The launch's cores are cleared, and its copies discarded. -/
def replayCleared (i : Nat) (l : Launch) (s : State) : State :=
  if l.shadow = 0 then l.place.foldl (replayOn i l) s else (l.place.foldl (replayOn i l) s).discardShadow (shadowKey l.part l.shadow)

/-- A launch that starts again. -/
def replayed (l : Launch) : Launch := { l with replays := l.replays + 1, replayDue := false, barriers := [], ends := [] }

/-- And no message to a core of the launch is on its way. -/
def replayQuiet (i : Nat) (l : Launch) (s : State) : State :=
  { replayCleared i l s with net := (replayCleared i l s).net.filter (fun f => f.msg.launch != i || f.msg.dest == MsgDest.host) }

/-- The state from which START is sent again. -/
def replayReady (i : Nat) (l : Launch) (s : State) : State := (replayQuiet i l s).modLaunch i replayed

theorem replayCleared_launches (i : Nat) (l : Launch) (s : State) : (replayCleared i l s).launches = s.launches := by
  have cleared : SameRecords s (l.place.foldl (replayOn i l) s) := by
    refine .foldl (fun s c => ?_) s
    unfold replayOn
    split
    · exact (sameRecords_clearOn s i l c).trans (sameRecords_modCore ..)
    · exact sameRecords_clearOn s i l c
  unfold replayCleared
  split
  · exact cleared.launches
  · obtain ⟨x, m, same⟩ := discardShadow_eq (l.place.foldl (replayOn i l) s) (shadowKey l.part l.shadow)
    rw [same]
    exact cleared.launches

section
variable {s : State} {i : Nat} {l : Launch} (launch : s.launch i = some l)
include launch

theorem replayReady_eq : (replayReady i l s).launch i = some (replayed l)
    ∧ (replayReady i l s).net = (replayCleared i l s).net.filter (fun f => f.msg.launch != i || f.msg.dest == MsgDest.host) := by
  have here : (replayQuiet i l s).launch i = some l := by
    rw [State.launch, show (replayQuiet i l s).launches = s.launches from replayCleared_launches i l s]
    exact launch
  rw [replayReady, modLaunch_found here]
  exact ⟨mfind_mset_self .., rfl⟩

theorem exec_replay_due (running : l.phase = .running) (due : l.replayDue = true)
    (scheduled : ∀ c ∈ l.place, (s.core c).vf = some l.vf ∧ (s.core c).sw = .none)
    (stopped : ∀ c ∈ l.place, ∀ k ∈ s.stringsOf i l c, (s.str c k).run ≠ .running) (idle : s.launchIdle i l = true) :
    exec (.replay i) s = .next ((replayReady i l s).sendStart i l) := by
  have all : l.place.all (fun c => (s.core c).vf == some l.vf && (s.core c).sw == .none) = true := by simpa using scheduled
  have none : l.place.any (fun c => (s.stringsOf i l c).any (fun k => (s.str c k).run == .running)) = false := by
    simpa [List.any_eq_false] using stopped
  rw [exec_replay, execReplay, launch]
  dsimp only
  rw [running, due, all, if_neg (by decide), none, if_neg (by decide), idle, if_neg (by decide)]
  rfl

/-- A replay clears the launch's messages to cores and sends START again. -/
theorem replay_starts (running : l.phase = .running) (due : l.replayDue = true)
    (scheduled : ∀ c ∈ l.place, (s.core c).vf = some l.vf ∧ (s.core c).sw = .none)
    (stopped : ∀ c ∈ l.place, ∀ k ∈ s.stringsOf i l c, (s.str c k).run ≠ .running) (idle : s.launchIdle i l = true) :
    ∃ u fs, exec (.replay i) s = .next u ∧ u.launch i = some (replayed l)
      ∧ (∃ old, u.net = old ++ fs ∧ ∀ f ∈ old, f.msg.launch ≠ i ∨ f.msg.dest = .host) ∧ Starts i l fs := by
  obtain ⟨told, net⟩ := replayReady_eq launch
  obtain ⟨launches, -, fs, sent, starts⟩ := sendStart_outside (replayReady i l s) i l
  refine ⟨_, fs, exec_replay_due launch running due scheduled stopped idle, ?_, ⟨_, sent, fun f mem => ?_⟩, starts⟩
  · rw [State.launch, launches]
    exact told
  · rw [net] at mem
    simpa using (List.mem_filter.mp mem).2

end

/-- Settles O51: what each step of a launch's life does, from its record to its completion. -/
theorem launchLife : Obligations.LaunchLife := by
  unfold Obligations.LaunchLife
  intro s i l launch
  refine ⟨fun admitted scheduled => ?_, fun p ix st v keep rest able ended first => launchEnd_decides launch able ended first,
    fun st v keep ending idle able switched small quiet => ?_, fun key b commits _ redirected fresh idle => ?_,
    fun key b switched => copyBack_copies switched, fun running due scheduled stopped idle => replay_starts launch running due scheduled stopped idle,
    fun f p r part runs goes error enabled posted => launchRecordRead_queues r part runs goes error enabled posted⟩
  · obtain ⟨u, fs, run, told, net, starts, mem, cores⟩ := startMessage_starts launch admitted scheduled
    refine ⟨u, fs, run, told, net, starts, mem, fun c placed o on => ?_⟩
    obtain ⟨o, on, mask, icache⟩ := cores c placed o on
    exact ⟨o, on, fun h low => by rw [mask, startMask_getLsbD l low], icache⟩
  · exact ⟨_, exec_completionRecordWrite_due launch ending idle able switched, complete_departed v quiet small⟩
  · exact ⟨_, commitBlock_switches launch commits redirected idle, switchBlock_switches redirected fresh⟩

end Sys2Proof.Proofs
end

section
/-! SUPPORT. What the stores and the journal of a restartable activation leave, where a fault ends it (R166, R169): lemmas for the statements
`FaultsTrap` and `PoisonRollsBack`. -/

namespace Sys2Proof.Proofs

open Sys2Proof Sys2Proof.Machine Sys2Proof.Laws Sys2Proof.Claims

/-! ## Writes to a slice -/

/-- `t` is `s` with the memory `m`, but for meters, marks, valid bits and counters. -/
def Wrote (s t : State) (m : Memory) : Prop := ∃ p b r k, t = { s with mem := m, parts := p, bad := b, rows := r, ctrs := k }

theorem Wrote.refl (s : State) : Wrote s s s.mem := ⟨_, _, _, _, rfl⟩

section
variable {s t u : State} {m : Memory} (h : Wrote s t m)
include h

/-- What is then written of the memory, whatever it is. -/
theorem Wrote.andThen {g : Memory → Memory} (rest : Wrote t u (g t.mem)) : Wrote s u (g m) := by
  obtain ⟨_, _, _, _, rfl⟩ := h
  obtain ⟨p, b, r, k, rfl⟩ := rest
  exact ⟨p, b, r, k, rfl⟩

theorem Wrote.mem : t.mem = m := by obtain ⟨_, _, _, _, rfl⟩ := h; rfl
theorem Wrote.cores : t.cores = s.cores := by obtain ⟨_, _, _, _, rfl⟩ := h; rfl
theorem Wrote.net : t.net = s.net := by obtain ⟨_, _, _, _, rfl⟩ := h; rfl
theorem Wrote.cur : t.cur = s.cur := by obtain ⟨_, _, _, _, rfl⟩ := h; rfl

end

/-- One write after another. -/
theorem Wrote.foldl {β : Type} {f : State → β → State} {g : Memory → β → Memory} (step : ∀ s x, Wrote s (f s x) (g s.mem x)) (l : List β)
    (s : State) : Wrote s (l.foldl f s) (l.foldl g s.mem) := by
  induction l generalizing s with
  | nil => exact .refl s
  | cons x l ih => exact (step s x).andThen (g := fun m => l.foldl g m) (ih (f s x))

theorem wrote_meterOf (s : State) (c i n : Nat) : Wrote s (s.meterOf c i n) s.mem := by
  unfold State.meterOf
  split <;> exact ⟨_, _, _, _, rfl⟩

/-- No copy of a block stands for a byte of a slice (R170). -/
theorem version_slice (s : State) (key c o i : Nat) : s.version key (sliceFlat c o + i) = sliceFlat c o + i := by
  have high : 2 ^ 42 ≤ sliceFlat c o + i := by unfold sliceFlat; omega
  rw [State.version, if_pos high]

/-- Memory with the bytes of an event at its home in a slice. -/
def putEvent (d : BitVec 4096) (m : Memory) (e : SectorEv) : Memory :=
  match e.place with
  | .slice c o => e.bytes.foldl (fun m b => m.put (sliceFlat c o + b.1) (dataByte d b.2)) m
  | _ => m

theorem wrote_slice (s : State) (c o : Nat) (bs : List (Nat × Nat)) (d : BitVec 4096) :
    Wrote s (s.writeEv none (sliceFlat c o) bs d) (bs.foldl (fun m b => m.put (sliceFlat c o + b.1) (dataByte d b.2)) s.mem) := by
  have plain : s.shadowOf none = 0 := rfl
  unfold State.writeEv
  simp only [redirect_plain plain, plain, version_slice]
  rw [if_neg (by simp)]
  obtain ⟨r, k, touched⟩ := touch_eq { s with
    mem := bs.foldl (fun m b => m.put (sliceFlat c o + b.1) (dataByte d b.2)) s.mem
    bad := if decide (32 ≤ bs.length) then mdel s.bad (s.version 0 (sliceFlat c o) / 32) else s.bad } (s.version 0 (sliceFlat c o))
  exact ⟨_, _, r, k, touched⟩

theorem wrote_drainEvs (s : State) (c : Nat) (evs : List SectorEv) (d : BitVec 4096) :
    Wrote s (s.drainEvs c evs d) (evs.foldl (putEvent d) s.mem) := by
  refine .foldl (fun s e => ?_) evs s
  unfold putEvent
  cases e.place with
  | slice b o =>
    exact (wrote_meterOf s c _ _).andThen (g := fun m => e.bytes.foldl (fun m x => m.put (sliceFlat b o + x.1) (dataByte d x.2)) m) (wrote_slice ..)
  | _ => exact .refl s

/-! ## The stores of an activation perform (R166, R275) -/

/-- Memory with the pushes of a stream. -/
def putPushes (m : Memory) (x : Option Stream) : Memory :=
  match x with
  | some x => x.pushes.foldl (fun m p => p.evs.foldl (putEvent (p.data.zeroExtend 4096)) m) m
  | none => m

/-- Memory with the stores and then the pushes of a string. -/
def putOwn (t : Str) (m : Memory) : Memory := t.st.toList.foldl putPushes (t.sb.foldl (fun m x => x.evs.foldl (putEvent x.data) m) m)

/-- The string with nothing to perform. -/
def withoutStores (t : Str) : Str := { t with sb := [], st := t.st.map (fun x => x.map (fun x => { x with pushes := [] })) }

theorem drainOwn_eq (s : State) (c k : Nat) :
    ∃ u, Wrote s u (putOwn (s.str c k) s.mem) ∧ s.drainOwn c k = u.setStr c k (withoutStores (s.str c k)) := by
  have stores := Wrote.foldl (f := fun s x => s.drainEvs c (Store.evs x) x.data) (g := fun m x => x.evs.foldl (putEvent x.data) m)
    (fun s x => wrote_drainEvs s c x.evs x.data) (s.str c k).sb s
  have pushes (s : State) (x : Option Stream) : Wrote s (match x with
      | some x => x.pushes.foldl (fun s p => s.drainEvs c p.evs (p.data.zeroExtend 4096)) s
      | none => s) (putPushes s.mem x) := by
    cases x with
    | none => exact .refl s
    | some x => exact .foldl (fun s p => wrote_drainEvs s c (Push.evs p) (p.data.zeroExtend 4096)) x.pushes s
  exact ⟨_, stores.andThen (g := fun m => (s.str c k).st.toList.foldl putPushes m) (.foldl pushes (s.str c k).st.toList _), rfl⟩

/-! ## The journal is restored (R169, R317) -/

/-- Memory with a line of a journal. -/
def putLineBack (c : Nat) (m : Memory) (j : Nat × Vec) : Memory := m.putNum (sliceFlat c (64 * j.1)) 64 j.2.toNat

/-- Memory with the lines of a journal. -/
def putJournal (c : Nat) (js : List (Nat × Vec)) (m : Memory) : Memory := js.foldl (putLineBack c) m

/-- No other byte changes. -/
theorem get_putJournal_out {c x : Nat} {js : List (Nat × Vec)} (m : Memory)
    (out : ∀ j ∈ js, x < sliceFlat c (64 * j.1) ∨ sliceFlat c (64 * j.1) + 64 ≤ x) : (putJournal c js m).get x = m.get x :=
  List.foldlRecOn js _ (motive := fun t : Memory => t.get x = m.get x) rfl
    (fun _ same j here => (get_memory_putNum_out _ _ _ _ _ (out j here)).trans same)

theorem get_putLine (m : Memory) (a : Nat) (v : Vec) {i : Nat} (low : i < 64) :
    (m.putNum a 64 v.toNat).get (a + i) = BitVec.extractLsb' (8 * i) 8 v := by
  have len : i < (leBytes 64 v.toNat).length := by rwa [leBytes_length]
  rw [Memory.putNum, get_putBytes_in _ _ _ _ len, getElem_leBytes]
  apply BitVec.eq_of_toNat_eq
  rw [BitVec.toNat_ofNat, BitVec.extractLsb'_toNat, Nat.shiftRight_eq_div_pow, Nat.pow_mul]

/-- A line that the journal holds with one value reads so. -/
theorem get_putJournal_in {c n i : Nat} {v : Vec} {js : List (Nat × Vec)} (m : Memory) (here : (n, v) ∈ js)
    (one : ∀ w, (n, w) ∈ js → w = v) (low : i < 64) : (putJournal c js m).get (sliceFlat c (64 * n) + i) = BitVec.extractLsb' (8 * i) 8 v := by
  induction js generalizing m with
  | nil => simp at here
  | cons j js ih =>
    show (putJournal c js (m.putNum (sliceFlat c (64 * j.1)) 64 j.2.toNat)).get _ = _
    by_cases later : ∃ w, (n, w) ∈ js
    · obtain ⟨w, later⟩ := later
      rw [one w (List.mem_cons_of_mem _ later)] at later
      exact ih _ later (fun w held => one w (List.mem_cons_of_mem _ held))
    · obtain rfl : (n, v) = j := (List.mem_cons.mp here).resolve_right (fun held => later ⟨v, held⟩)
      rw [get_putJournal_out, get_putLine _ _ _ low]
      intro j held
      have other : j.1 ≠ n := fun same => later ⟨j.2, same ▸ held⟩
      unfold sliceFlat
      omega

/-- The handler mask is what it was before the activation changed it. -/
def maskBack (s : State) (c : Nat) (a : Activation) : State :=
  match a.mask0 with
  | some w => s.modOn c a.launch (fun o => { o with mask := w })
  | none => s

theorem restoreJournal_eq (s : State) (c : Nat) (a : Activation) :
    ∃ u, Wrote s u (putJournal c a.journal s.mem) ∧ s.restoreJournal c a = maskBack u c a := by
  have line (s : State) (j : Nat × Vec) : Wrote s { s with
      mem := putLineBack c s.mem j, bad := clearMarks s.bad (sliceFlat c (64 * j.1)) 64 } (putLineBack c s.mem j) :=
    ⟨s.parts, clearMarks s.bad (sliceFlat c (64 * j.1)) 64, s.rows, s.ctrs, rfl⟩
  obtain ⟨p, b, r, k, lines⟩ := Wrote.foldl line a.journal s
  refine ⟨{ s with
    mem := putJournal c a.journal s.mem, parts := p, rows := r, ctrs := k,
    bad := a.jmarks.foldl (fun m x => mset m (sliceFlat c (32 * x.1) / 32) x.2) b }, ⟨_, _, _, _, rfl⟩, ?_⟩
  unfold State.restoreJournal
  unfold putLineBack at lines
  rw [lines]
  rfl

/-! ## Both -/

/-- The state in which the stores of an activation have performed, and its journal has then been restored. -/
def undone (s : State) (c k : Nat) (a : Activation) : State := (s.drainOwn c k).restoreJournal c a

/-- No message is sent, no record is lost, the string has nothing to perform; and what memory then holds. -/
structure Undone (s u : State) (c k : Nat) (a : Activation) : Prop where
  str : u.str c k = withoutStores (s.str c k)
  net : u.net = s.net
  cur : u.cur = s.cur
  records : (u.core c).records = (s.core c).records
  mask : ∀ w o, a.mask0 = some w → (s.core c).on a.launch = some o → ∃ p, (u.core c).on a.launch = some p ∧ p.mask = w
  mem : u.mem = putJournal c a.journal (s.drainOwn c k).mem

theorem undone_undone (s : State) (c k : Nat) (a : Activation) : Undone s (undone s c k a) c k a := by
  obtain ⟨t, drained, own⟩ := drainOwn_eq s c k
  obtain ⟨u, journal, restored⟩ := restoreJournal_eq (s.drainOwn c k) c a
  rw [undone, restored]
  have strs : u.str c k = withoutStores (s.str c k) := by
    rw [str_of_cores journal.cores, own, str_setStr_self]
  have core : ∃ l, u.core c = { s.core c with strs := l } := by
    obtain ⟨l, core⟩ := setStr_core t c k (withoutStores (s.str c k)) c
    exact ⟨l, by rw [core_of_cores journal.cores, own, core, core_of_cores drained.cores]⟩
  obtain ⟨l, core⟩ := core
  have net : u.net = s.net := by rw [journal.net, own, setStr_net, drained.net]
  have cur : u.cur = s.cur := by rw [journal.cur, own, setStr_cur, drained.cur]
  have on : (u.core c).on a.launch = (s.core c).on a.launch := by rw [core]; rfl
  cases mask0 : a.mask0 with
  | none =>
    rw [maskBack, mask0]
    exact ⟨strs, net, cur, by rw [core], fun w o held => (nomatch mask0.symm.trans held), journal.mem⟩
  | some w =>
    rw [maskBack, mask0]
    obtain ⟨r, changed⟩ := modOn_core u c a.launch (fun o => { o with mask := w }) c
    refine ⟨(modOn_str ..).trans strs, (modOn_net ..).trans net, (modOn_cur ..).trans cur, by rw [changed, core], fun v o held here => ?_,
      (modOn_mem ..).trans journal.mem⟩
    obtain rfl : w = v := Option.some.inj (mask0.symm.trans held)
    rw [modOn_core_self (on.trans here)]
    exact ⟨_, mfind_mset_self .., rfl⟩

/-- That is what `Restored` says, of any state with that memory and those masks. -/
theorem restored_of_undone {s u v : State} {a : Activation} (h : Undone s v s.cur.1 s.cur.2 a) (mem : u.mem = v.mem)
    (masks : (u.core s.cur.1).on a.launch = (v.core s.cur.1).on a.launch) : Restored s u a := by
  refine ⟨fun n w i here one low => ?_, fun x out => ?_, fun w o held here => ?_⟩
  · rw [mem, h.mem, get_putJournal_in _ here one low]
  · rw [mem, h.mem, get_putJournal_out _ out]
  · rw [masks]
    exact h.mask w o held here

end Sys2Proof.Proofs
end

section
/-! SUPPORT. What a fault does of the string that meets it (R169, R341, R343, R387, R393), and the statements `FaultsTrap` and
`PoisonRollsBack`. -/

namespace Sys2Proof.Proofs

open Sys2Proof Sys2Proof.Machine Sys2Proof.Laws Sys2Proof.Claims

/-! ## The ways to take a fault -/

/-- An activation whose outbox and journal are dropped. -/
def dropped (a : Activation) : Activation := { a with outbox := [], journal := [], jmarks := [], mask0 := none }

/-- A string of an activation that traps with a fault. -/
def faulted (t : Str) (a : Activation) (mentry : Word) (f : FaultInfo) (pc : Word) : Str :=
  ({ t with act := some (dropped a) } : Str).trap mentry 0 f.detail f.code f.val pc

/-- A string that a fault in monitor mode stops. -/
def stoppedStr (t : Str) : Str := { t with run := .stopped, wait := .none, inHand := [] }

section
variable {s : State} {c k : Nat} {a : Activation} (pc : Word) {f : FaultInfo} (running : (s.str c k).run = .running)
include running

/-- In monitor mode the string stops, and the core holds the fault (R393). -/
theorem takeFault_monitor (monitor : (s.str c k).lvl ≠ 0) :
    s.takeFault c k pc f = (s.setStr c k (stoppedStr (s.str c k))).modCore c (fun co => { co with monFault := some f }) := by
  have going : (s.str c k).run ≠ .stopped := by rw [running]; decide
  simp only [State.takeFault, if_neg going, if_pos monitor]
  rfl

variable (user : (s.str c k).lvl = 0) (act : (s.str c k).act = some a)
include user act

/-- In user mode it traps, what the activation has done standing if it is not restartable (R387). -/
theorem takeFault_user (final : a.rst = false) :
    s.takeFault c k pc f = s.setStr c k (faulted (s.str c k) a (s.core c).mentry f pc) := by
  have going : (s.str c k).run ≠ .stopped := by rw [running]; decide
  have standing : ¬a.rst = true := by simp [final]
  have trapping : (a.rst && isPoisonCode f.code && decide (a.trig.redo < 2)) = false := by simp [final]
  simp only [State.takeFault, if_neg going, if_neg (not_not.mpr user), act, trapping, Bool.false_eq_true, if_false, if_neg standing]
  rfl

/-- A restartable one is undone first (R166). -/
theorem takeFault_undoes (restartable : a.rst = true) (kept : 2 ≤ a.trig.redo ∨ f.code ≠ 0x20 ∧ f.code ≠ 0x21) :
    s.takeFault c k pc f = (undone s c k a).setStr c k (faulted ((undone s c k a).str c k) a (s.core c).mentry f pc) := by
  have going : (s.str c k).run ≠ .stopped := by rw [running]; decide
  have trapping : (a.rst && isPoisonCode f.code && decide (a.trig.redo < 2)) = false := by
    simp only [restartable, Bool.true_and, isPoisonCode, Bool.and_eq_false_iff, Bool.or_eq_false_iff, beq_eq_false_iff_ne,
      decide_eq_false_iff_not, Nat.not_lt]
    exact kept.symm
  simp only [State.takeFault, if_neg going, if_neg (not_not.mpr user), act, trapping, Bool.false_eq_true, if_false, if_pos restartable]
  rfl

/-- Or its record returns and the string is free, where it has met poison (R169). -/
theorem takeFault_rollsBack (restartable : a.rst = true) (poison : f.code = 0x20 ∨ f.code = 0x21) (again : a.trig.redo < 2) :
    s.takeFault c k pc f
      = ((undone s c k a).setStr c k ((undone s c k a).str c k).freed).returnRec c a (a.trig.redo + 1) := by
  have going : (s.str c k).run ≠ .stopped := by rw [running]; decide
  have absorbed : (a.rst && isPoisonCode f.code && decide (a.trig.redo < 2)) = true := by
    simpa [restartable, isPoisonCode, again] using poison
  simp only [State.takeFault, if_neg going, if_neg (not_not.mpr user), act, absorbed, if_true, State.rollBack]
  rfl

end

/-! ## The record of an activation that is rolled back -/

/-- The record as it returns. -/
def returnedRec (s : State) (c : Nat) (a : Activation) (redo : Nat) : Rec :=
  { a.trig with nc := true, redo := redo, since := (s.core c).cycle, ord := (s.core c).stamp, spill := none }

/-- A spill entry that is written is a change of memory. -/
theorem wrote_putLine (s : State) (a v : Nat) : ∃ m, Wrote s (s.putLine a v) m := by
  obtain ⟨m, r, k, written⟩ := putBytes_eq s a (leBytes 64 v)
  refine ⟨m, s.parts, clearMarks s.bad a 64, r, k, ?_⟩
  rw [State.putLine, State.putNum, written]

/-- It goes to the end of its core's list, with or without a spill entry, which is written; with a slot free, without (R186, R189). -/
theorem returnRec_eq (s : State) (c : Nat) (a : Activation) (redo : Nat) :
    ∃ t m sp, s.returnRec c a redo = withRec t c { returnedRec s c a redo with spill := sp } ∧ Wrote s t m
      ∧ (((s.core c).records.filter (fun r => r.spill.isNone)).length < 256 → m = s.mem) := by
  have returns : s.returnRec c a redo = (s.placeRec c (returnedRec s c a redo)).getD (withRec s c (returnedRec s c a redo)) := rfl
  rw [returns]
  cases placed : s.placeRec c (returnedRec s c a redo) with
  | none => exact ⟨s, s.mem, none, rfl, .refl s, fun _ => rfl⟩
  | some u =>
    rw [Option.getD_some]
    unfold State.placeRec at placed
    dsimp only at placed
    split at placed
    · obtain ⟨sp, chosen, rfl⟩ := Option.map_eq_some_iff.mp placed
      cases sp with
      | none => exact ⟨s, s.mem, none, rfl, .refl s, fun _ => rfl⟩
      | some i =>
        obtain ⟨m, wrote⟩ := wrote_putLine s _ _
        refine ⟨_, m, some i, rfl, wrote, fun room => ?_⟩
        simp [returnedRec, room] at chosen
    · cases placed

theorem withRec_core (s : State) (c : Nat) (r : Rec) : (withRec s c r).core c
    = { s.core c with records := (s.core c).records ++ [r], stamp := (s.core c).stamp + 1 } := core_modCore_self ..

theorem withRec_str (s : State) (c : Nat) (r : Rec) (d j : Nat) : (withRec s c r).str d j = s.str d j := str_modCore s c _ rfl d j

/-! ## A fault of the executing instruction -/

/-- The state as the executing string's fault finds it: its misses are forgotten. -/
def atItsFault (s : State) : State := s.modCore s.cur.1 (fun co => co.dropMisses s.cur.2)

theorem fault_eq (s : State) (f : FaultInfo) : s.fault f = (atItsFault s).takeFault s.cur.1 s.cur.2 s.curStr.pc f := rfl

theorem str_atItsFault (s : State) (c k : Nat) : (atItsFault s).str c k = s.str c k := str_dropMisses ..

theorem core_atItsFault (s : State) : (atItsFault s).core s.cur.1 = s.curCore.dropMisses s.cur.2 := core_modCore_self ..

/-- What the stores of a string leave of memory does not depend on its misses. -/
theorem drainOwn_atItsFault (s : State) : ((atItsFault s).drainOwn s.cur.1 s.cur.2).mem = (s.drainOwn s.cur.1 s.cur.2).mem := by
  obtain ⟨u, own, drained⟩ := drainOwn_eq (atItsFault s) s.cur.1 s.cur.2
  obtain ⟨v, own', drained'⟩ := drainOwn_eq s s.cur.1 s.cur.2
  rw [drained, drained', setStr_mem, setStr_mem, own.mem, own'.mem, str_atItsFault]
  rfl

/-- The state in which the executing activation is undone. -/
def undoneHere (s : State) (a : Activation) : State := undone (atItsFault s) s.cur.1 s.cur.2 a

theorem undone_undoneHere (s : State) (a : Activation) : Undone s (undoneHere s a) s.cur.1 s.cur.2 a := by
  have h := undone_undone (atItsFault s) s.cur.1 s.cur.2 a
  have core := core_atItsFault s
  refine ⟨?_, h.net, h.cur, ?_, fun w o held here => h.mask w o held ?_, ?_⟩
  · rw [undoneHere, h.str, str_atItsFault]
  · rw [undoneHere, h.records, core]
    rfl
  · rw [core]
    exact here
  · rw [undoneHere, h.mem, drainOwn_atItsFault]

/-- And the string is freed. -/
def freedHere (s : State) (a : Activation) : State := (undoneHere s a).setStr s.cur.1 s.cur.2 (withoutStores s.curStr).freed

theorem curStr_of_str {s u : State} (cur : u.cur = s.cur) : u.curStr = u.str s.cur.1 s.cur.2 := by rw [State.curStr, cur]

theorem curStr_setStr_here {s u : State} (cur : u.cur = s.cur) (t : Str) : (u.setStr s.cur.1 s.cur.2 t).curStr = t := by
  rw [curStr_of_str (u := u.setStr _ _ t) cur, str_setStr_self]

section
variable {s : State} {f : FaultInfo} (running : s.curStr.run = .running)
include running

theorem fault_monitor (monitor : s.curStr.lvl ≠ 0) : s.fault f = ((atItsFault s).setStr s.cur.1 s.cur.2 (stoppedStr s.curStr)).modCore s.cur.1
    (fun co => { co with monFault := some f }) := by
  have same := str_atItsFault s s.cur.1 s.cur.2
  rw [fault_eq, takeFault_monitor _ ((congrArg Str.run same).trans running) ((congrArg Str.lvl same).trans_ne monitor), same]
  rfl

variable {a : Activation} (user : s.curStr.lvl = 0) (act : s.curStr.act = some a)
include user act

theorem fault_user (final : a.rst = false) :
    s.fault f = (atItsFault s).setStr s.cur.1 s.cur.2 (faulted s.curStr a s.curCore.mentry f s.curStr.pc) := by
  have same := str_atItsFault s s.cur.1 s.cur.2
  rw [fault_eq, takeFault_user _ ((congrArg Str.run same).trans running) ((congrArg Str.lvl same).trans user)
    ((congrArg Str.act same).trans act) final, same, core_atItsFault]
  rfl

/-- A trap of a restartable activation that is not rolled back: its stores have performed, and its journal is restored (R166, R387). -/
theorem fault_undoes (restartable : a.rst = true) (kept : 2 ≤ a.trig.redo ∨ f.code ≠ 0x20 ∧ f.code ≠ 0x21) :
    (s.fault f).curStr = faulted (withoutStores s.curStr) a s.curCore.mentry f s.curStr.pc ∧ (s.fault f).net = s.net
      ∧ Restored s (s.fault f) a := by
  have same := str_atItsFault s s.cur.1 s.cur.2
  have h := undone_undoneHere s a
  have trapped : s.fault f = (undoneHere s a).setStr s.cur.1 s.cur.2 (faulted (withoutStores s.curStr) a s.curCore.mentry f s.curStr.pc) := by
    rw [fault_eq, takeFault_undoes s.curStr.pc ((congrArg Str.run same).trans running) ((congrArg Str.lvl same).trans user)
      ((congrArg Str.act same).trans act) restartable kept, core_atItsFault]
    exact congrArg (fun t => (undoneHere s a).setStr s.cur.1 s.cur.2 (faulted t a s.curCore.mentry f s.curStr.pc)) h.str
  rw [trapped]
  refine ⟨curStr_setStr_here h.cur _, h.net, restored_of_undone h rfl ?_⟩
  rw [State.setStr, core_modCore_self]
  rfl

/-- A rollback frees the string, and its record matches nothing as it returns; with a slot for it, nothing is written after the
journal is restored (R169, R189). -/
theorem fault_rollsBack (restartable : a.rst = true) (poison : f.code = 0x20 ∨ f.code = 0x21) (again : a.trig.redo < 2) :
    (s.fault f).curStr = (withoutStores s.curStr).freed ∧ (s.fault f).net = s.net
      ∧ (∃ r ∈ (s.fault f).curCore.records, ∃ since ord sp,
          r = { a.trig with nc := true, redo := a.trig.redo + 1, since := since, ord := ord, spill := sp })
      ∧ ((s.curCore.records.filter (fun r => r.spill.isNone)).length < 256 → Restored s (s.fault f) a) := by
  have same := str_atItsFault s s.cur.1 s.cur.2
  have h := undone_undoneHere s a
  have rolled : s.fault f = (freedHere s a).returnRec s.cur.1 a (a.trig.redo + 1) := by
    rw [fault_eq, takeFault_rollsBack s.curStr.pc ((congrArg Str.run same).trans running) ((congrArg Str.lvl same).trans user)
      ((congrArg Str.act same).trans act) restartable poison again]
    exact congrArg (fun t => ((undoneHere s a).setStr s.cur.1 s.cur.2 (Str.freed t)).returnRec s.cur.1 a (a.trig.redo + 1)) h.str
  obtain ⟨l, core⟩ : ∃ l, (freedHere s a).core s.cur.1 = { (undoneHere s a).core s.cur.1 with strs := l } := setStr_core ..
  obtain ⟨t, m, sp, returned, wrote, clear⟩ := returnRec_eq (freedHere s a) s.cur.1 a (a.trig.redo + 1)
  rw [rolled, returned]
  have cur : (withRec t s.cur.1 { returnedRec (freedHere s a) s.cur.1 a (a.trig.redo + 1) with spill := sp }).cur = s.cur :=
    wrote.cur.trans h.cur
  refine ⟨?_, wrote.net.trans h.net, ?_, fun room => restored_of_undone h ?_ ?_⟩
  · rw [curStr_of_str cur, withRec_str, str_of_cores wrote.cores]
    exact str_setStr_self ..
  · rw [State.curCore, cur, withRec_core]
    exact ⟨_, List.mem_append_right _ (List.mem_singleton_self _), _, _, sp, rfl⟩
  · refine wrote.mem.trans (clear ?_)
    rw [core, h.records]
    exact room
  · rw [withRec_core, core_of_cores wrote.cores, core]
    rfl

end

/-! ## The statements -/

/-- A fault that undoes nothing changes no memory and no other string. -/
theorem fault_leaves {s : State} (f : FaultInfo) (running : s.curStr.run = .running)
    (plain : s.curStr.lvl ≠ 0 ∨ ∃ a, s.curStr.act = some a ∧ a.rst = false) :
    (s.fault f).mem = s.mem ∧ ∀ c k, (c, k) ≠ s.cur → (s.fault f).str c k = s.str c k := by
  by_cases monitor : s.curStr.lvl ≠ 0
  · rw [fault_monitor running monitor]
    refine ⟨rfl, fun c k other => ?_⟩
    rw [str_modCore _ _ _ rfl, str_setStr_ne _ _ other, str_atItsFault]
  · obtain ⟨a, act, final⟩ := plain.resolve_left monitor
    rw [fault_user running (not_not.mp monitor) act final]
    exact ⟨rfl, fun c k other => by rw [str_setStr_ne _ _ other, str_atItsFault]⟩

/-- Settles O16, by the mode of the string and whether its activation is restartable. -/
theorem faultsTrap : Obligations.FaultsTrap := by
  unfold Obligations.FaultsTrap
  intro s f t running
  refine ⟨fault_leaves f running, fun a user act final => ?_, fun a user act restartable kept => ?_, fun monitor => ?_⟩
  · rw [fault_user running user act final, curStr_setStr_here (s := s) (u := atItsFault s) rfl]
    exact ⟨trapped_trap .., rfl, rfl⟩
  · obtain ⟨trap, net, restored⟩ := fault_undoes (f := f) running user act restartable kept
    rw [trap]
    exact ⟨trapped_trap .., rfl, net, restored⟩
  · rw [fault_monitor running monitor]
    exact ⟨(str_modCore _ _ _ rfl _ _).trans (curStr_setStr_here (s := s) (u := atItsFault s) rfl _),
      congrArg Core.monFault (core_modCore_self ..)⟩

/-- Settles O17: the rollback of `fault_rollsBack`. -/
theorem poisonRollsBack : Obligations.PoisonRollsBack := by
  unfold Obligations.PoisonRollsBack
  intro s f a t running user act restartable poison again u
  obtain ⟨free, net, ⟨r, held, since, ord, sp, returned⟩, restored⟩ := fault_rollsBack running user act restartable poison again
  rw [show u.curStr = _ from free]
  refine ⟨rfl, rfl, rfl, rfl, net, ⟨r, held, ?_⟩, restored⟩
  rw [returned]
  exact ⟨rfl, rfl, rfl, rfl, rfl, rfl⟩

end Sys2Proof.Proofs
end

section
/-! SUPPORT. DONE, ENDL and MSK (R141, R162, R165, R316 to R318, R453), and the statement `LaunchInstructions`. -/

namespace Sys2Proof.Proofs

open Sys2Proof Sys2Proof.Machine Sys2Proof.Laws Sys2Proof.Claims

/-- A string with no load outstanding does not wait for one (log 13). -/
theorem run_quiet_ready {s : State} (quiet : Quiet s) : Machine.quiet.run s = .ok ((), s) := by
  rw [run_quiet, if_pos (List.isEmpty_iff.mpr quiet)]

/-! ## DONE -/

/-- Requests of bound streams are forgotten, and what theirs found. -/
def dropStreams (k : Nat) (xs : List (Option Stream)) (co : Core) : Core :=
  xs.foldl (fun co x => match x with
    | some x => co.dropHeld (x.asks k)
    | none => co) co

theorem dropStreams_strs (k : Nat) (xs : List (Option Stream)) (co : Core) : (dropStreams k xs co).strs = co.strs := by
  refine List.foldlRecOn xs _ (motive := fun d : Core => d.strs = co.strs) rfl (fun d same x _ => ?_)
  cases x with
  | none => exact same
  | some x => exact same

/-- What an activation's outbox still holds. -/
def outboxOf (t : Str) : List Msg :=
  match t.act with
  | some a => a.outbox
  | none => []

/-- DONE has retired, and what the outbox holds is sent (R141). -/
def doneSent (s : State) : State :=
  match s.curStr.act with
  | some a => s.retire.sendAll s.cur.1 s.cur.2 a.id 0 a.outbox
  | none => s.retire

theorem doneSent_keeps (s : State) : (doneSent s).mem = s.mem ∧ (doneSent s).cores = s.retire.cores ∧ (doneSent s).cur = s.cur := by
  have retired : s.retire.mem = s.mem ∧ s.retire.cur = s.cur := ⟨retireTo_mem .., retireTo_cur ..⟩
  unfold doneSent
  split
  · rename_i a _
    obtain ⟨q, n, sent⟩ := sendAll_eq s.retire s.cur.1 s.cur.2 a.id 0 a.outbox
    rw [sent]
    exact ⟨retired.1, rfl, retired.2⟩
  · exact ⟨retired.1, rfl, retired.2⟩

theorem doneSent_net (s : State) : (doneSent s).net.map (·.msg) = s.net.map (·.msg) ++ outboxOf s.curStr := by
  have net : s.retire.net = s.net := retireTo_net ..
  unfold doneSent outboxOf
  split
  · rename_i a _
    obtain ⟨fs, sent, msgs⟩ := posts_net a.outbox (coreUnit s.cur.1) (fun m => {
      msg := m, fromCore := s.cur.1, fromStr := s.cur.2, after := 0, slot := true, actId := a.id, nacks := 0, nacked := false }) s.retire
    rw [State.sendAll, sent, List.map_append, msgs, List.map_id', net]
  · rw [net, List.append_nil]

/-- The string is free, and its streams ask for nothing more. -/
def doneFreed (s : State) : State :=
  ((doneSent s).setStr s.cur.1 s.cur.2 s.curStr.freed).modCore s.cur.1 (dropStreams s.cur.2 s.curStr.st.toList)

theorem exec_done_due {s : State} (quiet : Quiet s) (due : NothingDue s.curStr) : exec .done s = .next (doneFreed s) := by
  rw [exec_done, execDone, runInstr_ended, run_bind_ok (run_quiet_ready quiet), run_bind_ok (StateT.run_get s)]
  dsimp only
  rw [StateT.run_bind, run_await, if_pos (drained_of_nothingDue due)]
  rfl

theorem doneFreed_str (s : State) (c k : Nat) :
    (doneFreed s).str c k = ((doneSent s).setStr s.cur.1 s.cur.2 s.curStr.freed).str c k :=
  str_modCore _ _ _ (dropStreams_strs ..) c k

/-- Only DONE's own string changes. -/
theorem doneFreed_others (s : State) {c k : Nat} (other : (c, k) ≠ s.cur) : (doneFreed s).str c k = s.str c k := by
  obtain ⟨-, cores, -⟩ := doneSent_keeps s
  rw [doneFreed_str, str_setStr_ne _ _ other, str_of_cores cores]
  exact retireTo_str s _ other

theorem doneFreed_curStr (s : State) : (doneFreed s).curStr = s.curStr.freed := by
  obtain ⟨-, -, cur⟩ := doneSent_keeps s
  have here : (doneFreed s).cur = s.cur := cur
  rw [State.curStr, here, doneFreed_str, str_setStr_self]

/-! ## ENDL and MSK -/

/-- A status of a launch is with the launch unit, and the string that has sent it stops (R162, R318). -/
def statusSent (s : State) (i status value : Nat) : State :=
  (s.retire.endWith i status value true).modStr s.cur.1 s.cur.2 (fun t => { t with run := .stopped })

theorem statusSent_ends {s : State} {i : Nat} {l : Launch} (launch : s.launch i = some l) (status value : Nat) :
    (statusSent s i status value).curStr.run = .stopped ∧ (statusSent s i status value).mem = s.mem
      ∧ (statusSent s i status value).launch i = some { l with ends := l.ends ++ [(status, value, true)] } := by
  have known : s.retire.launch i = some l := by rw [State.launch, State.retire, retireTo_launches]; exact launch
  have cur : s.retire.cur = s.cur := retireTo_cur ..
  have sent : s.retire.endWith i status value true = { s.retire with
      launches := mset s.retire.launches i { l with ends := l.ends ++ [(status, value, true)] } } := modLaunch_found known _
  rw [statusSent, sent]
  refine ⟨?_, retireTo_mem .., mfind_mset_self ..⟩
  exact congrArg Str.run (curStr_setStr_here (s := s) (u := { s.retire with launches := _ }) cur _)

section
variable {s : State} (quiet : Quiet s) {rd ra rb : XReg} {st : EndStatus}
include quiet

/-- A string with no activation has no launch to end (R453). -/
theorem faults_endl_free (free : s.curStr.act = none) : Faults (.endl ra st) s 0x35 0 0 := by
  rw [Faults, exec_endl, execEndl, runInstr_ended, run_bind_ok (run_quiet_ready quiet), run_bind_ok (StateT.run_get s)]
  dsimp only
  rw [run_bind_error (run_needLaunch_free free)]
  exact faultDue_ready s _ quiet

/-- Nor a handler mask. -/
theorem faults_msk_free (free : s.curStr.act = none) : Faults (.msk rd ra rb) s 0x35 0 0 := by
  rw [Faults, exec_msk, execMsk, runInstr_ended, run_bind_ok (run_settle_ready _ s quiet), run_bind_ok (StateT.run_get s)]
  dsimp only
  rw [run_bind_error (run_needLaunch_free free)]
  exact faultDue_ready s _ quiet

variable {a : Activation} {l : Launch} (act : s.curStr.act = some a) (launch : s.launch a.launch = some l)
include act launch

/-- ENDL commits early, and then waits for its accesses and its messages (R166, R318). -/
theorem exec_endl_eq : exec (.endl ra st) s = if a.ec = false then .next (s.commitEarly s.cur.1 s.cur.2)
    else if (s.curStr.drained && !s.sentOpen s.cur.1 a.id) = true then
      .next (statusSent s a.launch (Machine.endCode st) (endValue st (s.curStr.getX ra)))
    else .next s := by
  rw [exec_endl, execEndl, runInstr_ended, run_bind_ok (run_quiet_ready quiet), run_bind_ok (StateT.run_get s)]
  dsimp only
  rw [run_bind_ok (run_needLaunch act launch)]
  cases a.ec with
  | false => rfl
  | true =>
    show ended s ((await (s.curStr.drained && !s.sentOpen s.cur.1 a.id) >>= _ : M Adv).run s) = _
    rw [StateT.run_bind, run_await]
    cases (s.curStr.drained && !s.sentOpen s.cur.1 a.id) <;> rfl

/-- MSK changes the mask of its launch on its core, and a restartable activation keeps the first mask that it found (R317). -/
def masked (s : State) (a : Activation) (o : OnCore) (rd ra rb : XReg) : State :=
  let a1 := if a.rst && a.mask0.isNone then { a with mask0 := some o.mask } else a
  (s.modOn s.cur.1 a.launch (fun x => { x with mask := (o.mask &&& ~~~(s.curStr.getX ra)) ||| s.curStr.getX rb })).setCurStr
    ({ s.curStr with act := some a1 }.setX rd o.mask)

theorem exec_msk_eq {o : OnCore} (on : s.curCore.on a.launch = some o) : exec (.msk rd ra rb) s = .next (masked s a o rd ra rb).retire := by
  rw [exec_msk, execMsk, runInstr_ended, run_bind_ok (run_settle_ready _ s quiet), run_bind_ok (StateT.run_get s)]
  dsimp only
  rw [run_bind_ok (run_needLaunch act launch)]
  dsimp only
  rw [on]
  rfl

end

theorem firstMask_eq (a : Activation) (w : BitVec 64) : (if a.rst && a.mask0.isNone then { a with mask0 := some w } else a)
    = { a with mask0 := if a.rst = true ∧ a.mask0 = none then some w else a.mask0 } := by
  simp only [Bool.and_eq_true, Option.isNone_iff_eq_none]
  split <;> rfl

/-- The status that ENDL sends, with its value (R162, R318). -/
theorem endl_status (st : EndStatus) (w : Word) : (Machine.endCode st, endValue st w, true) = match st with
    | .ok => (0, 0, true)
    | .fault => (3, w.toNat % 2 ^ 8, true)
    | .user => (6, w.toNat % 2 ^ 32, true) := by
  cases st with
  | ok => rfl
  | fault => rw [Machine.endCode, endValue, field_low]
  | user => rw [Machine.endCode, endValue, field_low]

/-- Settles O40: DONE once nothing is due, and ENDL and MSK by whether their string holds an activation. -/
theorem launchInstructions : Obligations.LaunchInstructions := by
  unfold Obligations.LaunchInstructions
  intro s rd ra rb st quiet t
  refine ⟨fun due => ⟨_, exec_done_due quiet due, ?_⟩, fun free => ⟨faults_endl_free quiet free, faults_msk_free quiet free⟩,
    fun a l o act launch on => ⟨fun late => ?_, fun early due arrived => ?_, ?_⟩⟩
  · obtain ⟨mem, -, -⟩ := doneSent_keeps s
    rw [doneFreed_curStr]
    exact ⟨rfl, rfl, rfl, doneSent_net s, mem, fun c k other => doneFreed_others s other⟩
  · rw [exec_endl_eq quiet act launch, if_pos late]
  · obtain ⟨run, mem, ends⟩ := statusSent_ends launch (Machine.endCode st) (endValue st (s.curStr.getX ra))
    rw [endl_status] at ends
    have drained : s.curStr.drained = true := drained_of_nothingDue due
    refine ⟨_, _, ?_, run, mem, ends, rfl⟩
    rw [exec_endl_eq quiet act launch, if_neg (by simp [early]), if_pos (by rw [drained, arrived]; rfl)]
  · have launched : (masked s a o rd ra rb).curStr.launch = some a.launch := by
      rw [masked, curStr_setCurStr, firstMask_eq, Str.launch, setX_act]
      rfl
    have held : (masked s a o rd ra rb).curCore.on a.launch
        = some { o with mask := (o.mask &&& ~~~(s.curStr.getX ra)) ||| s.curStr.getX rb } := by
      rw [masked, curCore_setCurStr, State.curCore, modOn_cur, modOn_core_self on]
      exact mfind_mset_self ..
    obtain ⟨w, counted⟩ := retireTo_on launched held (nextPtr (masked s a o rd ra rb).curStr.pc 4)
    refine ⟨_, _, exec_msk_eq quiet act launch on, ?_, ?_, counted, rfl⟩
    · exact (retireTo_mem ..).trans (modOn_mem ..)
    · rw [State.retire, retireTo_curStr, masked, curStr_setCurStr, firstMask_eq]
      rfl

end Sys2Proof.Proofs
end

section
/-! SUPPORT. LNCH (R155, R162, R319, R412, R453), and the statement `LaunchIsQueued`. -/

namespace Sys2Proof.Proofs

open Sys2Proof Sys2Proof.Machine Sys2Proof.Laws Sys2Proof.Claims

/-! ## The record is copied -/

/-- Checking the sectors of a record changes no more than a check does. -/
theorem keeps_checkSectors (n : Nat) : ∀ p, Keeps (checkSectors p n) := by
  induction n with
  | zero => exact fun p => keeps_pure _
  | succ n ih => exact fun p => keeps_bind keeps_get (fun s => keeps_bind (keeps_check _ _ _ _ _) (fun _ => keeps_bind (ih _) (fun _ => keeps_pure _)))

/-- Nor does reading them. -/
theorem keeps_readSectors (l : List (Word × Place)) : Keeps (readSectors l) := by
  induction l with
  | nil => exact keeps_pure _
  | cons x l ih =>
    have sector : Keeps (readSector x.2 x.1) := keeps_bind keeps_get (fun s => keeps_bind (keeps_takeSector _ _ _ _)
      (fun _ => keeps_bind (keeps_modify _ (fun s => kept_meterOf s _ _ _)) (fun _ => keeps_pure _)))
    exact keeps_bind sector (fun _ => keeps_bind ih (fun _ => keeps_pure _))

/-! ## The launch unit takes the record, or has no room (R319 steps 5 and 6) -/

section
variable (s : State) (rd : XReg) (a : Activation) (l : Launch) (r : BitVec 1024)

/-- The launch that LNCH queues. -/
def submitted : Launch :=
  { Launch.init with
    serial := (s.part l.part).serial, vf := l.vf, part := l.part, record := r, issuer := some s.curStr.owner, parent := some a.launch,
    pcore := l.place[r.toNat / 2 ^ 704 % 2 ^ 12]? }

/-- The serial number that follows. -/
def nextSerial (q : Partition) : Partition := { q with serial := (q.serial + 1) &&& 0x7FFFFFFFFFFFFFFF }

/-- The string has its serial number, and LNCH has retired. -/
def numbered : State := ((s.setCurStr (s.curStr.setX rd (s.part l.part).serial)).modPart l.part nextSerial).retire

/-- The string waits with the copy that it has made. -/
def holdingCopy : State := s.setCurStr { s.curStr with wait := .lnch r }

theorem run_submit : (submit rd a l r).run s = if 64 ≤ s.lnchHeld l.part then .ok (.again, holdingCopy s r)
    else .ok (.placed, (numbered s rd l).enterQueue (submitted s a l r)) := by
  rw [submitted, ← field_eq, submit, run_bind_ok (StateT.run_get s)]
  dsimp only
  split <;> rfl

end

/-- Serial numbers have 63 bits. -/
theorem nextSerial_serial (q : Partition) : (nextSerial q).serial.toNat = (q.serial.toNat + 1) % 2 ^ 63 := by
  have mask : (0x7FFFFFFFFFFFFFFF : Word).toNat = 2 ^ 63 - 1 := by decide
  have one : (1 : Word).toNat = 1 := rfl
  rw [nextSerial, BitVec.toNat_and, mask, Nat.and_two_pow_sub_one_eq_mod, BitVec.toNat_add, one]
  omega

section
variable {s u : State} (kept : Kept s u) (rd : XReg) (a : Activation) (l : Launch) (r : BitVec 1024)
include kept

/-- The checks and the reads change no number that LNCH uses. -/
theorem serial_of_kept : (u.part l.part).serial = (s.part l.part).serial := by
  obtain ⟨m, part⟩ := kept.part l.part
  rw [part]

theorem lnchHeld_of_kept (p : Nat) : u.lnchHeld p = s.lnchHeld p := by rw [State.lnchHeld, kept.launches]; rfl

theorem submitted_of_kept : submitted u a l r = submitted s a l r := by rw [submitted, serial_of_kept kept, kept.curStr]; rfl

theorem numbered_keeps : (numbered u rd l).curStr = retired (s.curStr.setX rd (s.part l.part).serial) ∧ (numbered u rd l).mem = s.mem
    ∧ (numbered u rd l).launches = s.launches
    ∧ ((numbered u rd l).part l.part).serial.toNat = ((s.part l.part).serial.toNat + 1) % 2 ^ 63 := by
  refine ⟨?_, (retireTo_mem ..).trans kept.mem, (retireTo_launches ..).trans kept.launches, ?_⟩
  · have here : ((u.setCurStr (u.curStr.setX rd (u.part l.part).serial)).modPart l.part nextSerial).curStr
        = u.curStr.setX rd (u.part l.part).serial := curStr_setCurStr ..
    rw [numbered, State.retire, retireTo_curStr, here, serial_of_kept kept, kept.curStr, retired]
  · obtain ⟨m, w, part⟩ := retireTo_part ((u.setCurStr (u.curStr.setX rd (u.part l.part).serial)).modPart l.part nextSerial)
      (nextPtr ((u.setCurStr (u.curStr.setX rd (u.part l.part).serial)).modPart l.part nextSerial).curStr.pc 4) l.part
    rw [numbered, State.retire, part, part_modPart_self, setCurStr_part]
    exact (nextSerial_serial _).trans (by rw [serial_of_kept kept])

theorem holdingCopy_keeps : (holdingCopy u r).curStr = { s.curStr with wait := .lnch r } ∧ (holdingCopy u r).mem = s.mem
    ∧ (holdingCopy u r).launches = s.launches := by
  rw [← kept.curStr]
  exact ⟨curStr_setCurStr .., kept.mem, kept.launches⟩

end

/-! ## The instruction -/

section
variable {s : State} (quiet : Quiet s) {rd ra : XReg}
include quiet

theorem faults_lnch_free (free : s.curStr.act = none) : Faults (.lnch rd ra) s 0x35 0 0 := by
  rw [Faults, exec_lnch, execLnch, runInstr_ended, run_bind_ok (run_quiet_ready quiet), run_bind_ok (run_theStr s),
    run_bind_error (run_needLaunch_free free)]
  exact faultDue_ready s _ quiet

variable {a : Activation} {l : Launch} (act : s.curStr.act = some a) (launch : s.launch a.launch = some l)
include act launch

/-- A string that waits with its copy goes on from it. -/
theorem exec_lnch_copied {r : BitVec 1024} (wait : s.curStr.wait = .lnch r) : exec (.lnch rd ra) s = ended s ((submit rd a l r).run s) := by
  rw [exec_lnch, execLnch, runInstr_ended, run_bind_ok (run_quiet_ready quiet), run_bind_ok (run_theStr s),
    run_bind_ok (run_needLaunch act launch)]
  dsimp only
  rw [wait]

variable {s1 : State} {secs : List (Word × Place)} (wait : ∀ r, s.curStr.wait ≠ .lnch r)
  (checked : (checkSectors (s.curStr.getX ra) 4).run s = .ok (secs, s1))
include wait checked

/-- One that does not wait checks its record, commits early, and waits for what it has written; then it copies the record (R319). -/
theorem exec_lnch_checked : exec (.lnch rd ra) s = if a.ec = false then .next (s.commitEarly s.cur.1 s.cur.2)
    else ended s ((releaseSys >>= fun done => if done then
      (set s1 >>= fun _ => readSectors secs >>= fun b => submit rd a l (BitVec.ofNat 1024 (leNat b))) else return .again : M Adv).run s) := by
  rw [exec_lnch, execLnch, runInstr_ended, run_bind_ok (run_quiet_ready quiet), run_bind_ok (run_theStr s),
    run_bind_ok (run_needLaunch act launch)]
  dsimp only
  cases present : s.curStr.wait with
  | lnch r => exact absurd present (wait r)
  | _ =>
    dsimp only
    rw [run_bind_ok (StateT.run_get s), run_bind_ok checked]
    cases a.ec <;> rfl

/-- The copy that a string makes, once all that it has written has performed and no read has to show it to have arrived (R147, R319). -/
theorem exec_lnch_copies {s2 : State} {b : List Byte} (early : a.ec = true) (due : NothingDue s.curStr) (fine : Hand.noFlush ∉ s.curStr.inHand)
    (dirty : s.curStr.hostDirty = false) (flush : s.curStr.flush = none) (read : (readSectors secs).run s1 = .ok (b, s2)) :
    exec (.lnch rd ra) s = ended s ((submit rd a l (BitVec.ofNat 1024 (leNat b))).run s2) := by
  have settled : flushFirst s.curStr (some .sys) none = false := by simp [flushFirst, dirty, flush]
  rw [exec_lnch_checked quiet act launch wait checked, if_neg (by simp [early]),
    run_bind_ok ((run_releaseSys quiet due).trans ((if_neg fine).trans (if_neg (by simp [settled]))))]
  show ended s ((readSectors secs >>= fun b => submit rd a l (BitVec.ofNat 1024 (leNat b)) : M Adv).run s1) = _
  rw [run_bind_ok read]

end

/-- Settles O41, by whether the string waits with a copy and whether the launch unit has room. -/
theorem launchIsQueued : Obligations.LaunchIsQueued := by
  unfold Obligations.LaunchIsQueued
  refine ⟨fun s rd ra quiet free => faults_lnch_free quiet free, fun s s1 s2 rd ra a l secs b quiet act launch => ?_⟩
  intro t queued waits
  have taken {u : State} {r : BitVec 1024} (kept : Kept s u) (run : exec (.lnch rd ra) s = ended s ((submit rd a l r).run u))
      (room : s.lnchHeld l.part < 64) : queued r := by
    rw [run_submit, lnchHeld_of_kept kept, if_neg (not_le.mpr room), submitted_of_kept kept] at run
    exact ⟨_, run, numbered_keeps kept rd l⟩
  have stalled {u : State} {r : BitVec 1024} (kept : Kept s u) (run : exec (.lnch rd ra) s = ended s ((submit rd a l r).run u))
      (full : 64 ≤ s.lnchHeld l.part) : waits r := by
    rw [run_submit, lnchHeld_of_kept kept, if_pos full] at run
    obtain ⟨copy, mem, launches⟩ := holdingCopy_keeps kept r
    refine ⟨_, run, ?_, ?_, ?_, mem, launches⟩
    all_goals rw [copy]
    exact ⟨rfl, rfl, rfl, rfl, rfl, rfl, rfl, rfl, rfl, rfl, rfl, rfl, rfl, rfl, rfl, rfl, rfl, rfl, rfl, rfl⟩
  refine ⟨fun fresh checked late => ?_, fun fresh checked early due failed => ?_, fun fresh checked early due fine dirty flush read => ?_,
    fun r wait => ?_⟩
  · rw [exec_lnch_checked quiet act launch fresh checked, if_pos late]
  · rw [Faults, exec_lnch_checked quiet act launch fresh checked, if_neg (by simp [early]),
      run_bind_error ((run_releaseSys quiet due).trans (if_pos failed))]
    exact faultDue_ready s _ quiet
  · have kept : Kept s s2 := (keeps_checkSectors 4 _ s secs s1 checked).trans (keeps_readSectors secs s1 b s2 read)
    have run := exec_lnch_copies (rd := rd) quiet act launch fresh checked early due fine dirty flush read
    exact ⟨taken kept run, stalled kept run⟩
  · have run := exec_lnch_copied quiet (ra := ra) (rd := rd) act launch wait
    exact ⟨taken (.refl s) run, stalled (.refl s) run⟩

end Sys2Proof.Proofs
end

section
/-! SUPPORT. The statement `Selection` fails, on a state in which a free string still has a load outstanding of an activation that has been
rolled back: such a load stays with its string until it has come back (R380). -/

namespace Sys2Proof.Proofs

open Sys2Proof Sys2Proof.Machine Sys2Proof.Laws Sys2Proof.Claims

/-- A load of an activation that has been rolled back, which awaits byte 0 of package 1: nothing comes of it any more. -/
def rolledBackLoad : Load :=
  { seq := 0, dst := .x 1 .bu, evs := [{ place := .remote 1 0, bytes := [(0, 0)] }], got := [], bad := none, flags := 0, near := false,
    acq := none, owner := 7, ptr := 2 ^ 46, pc := 0x1000, dead := true }

/-- The launch on the core, whose string 0 serves it. -/
def selectingOn : OnCore := { lcore := 0, wbase := 0, strs := [0], mask := 0, mxcorr := 0, opcnt := 0, wearu := 0 }

/-- A core of function 0 with a free string that has that load outstanding, and a record to select. -/
def selectingCore : Core :=
  { Core.init with
    part := some 0, vf := some 0, strs := [(0, { Str.init with lds := [rolledBackLoad] })], res := [(5, selectingOn)], records := [senderRec] }

/-- The core alone, and the launch. -/
def selectingState : State := { State.reset with cores := [(0, selectingCore)], launches := [(5, senderLaunch)] }

/-- The string runs the record's handler with the load still outstanding. -/
theorem lds_recordSelection_selectingState : ∀ u, exec (.recordSelection 0 0) selectingState = .next u → (u.str 0 0).lds = [rolledBackLoad] := by
  have run : (match exec (.recordSelection 0 0) selectingState with | .next u => (u.str 0 0).lds | _ => []) = [rolledBackLoad] := by
    decide +kernel
  intro u h
  rw [h] at run
  exact run

/-- Refutes O50: a string that is selected keeps a load outstanding of an activation that was rolled back, where the statement has none. -/
theorem not_selection : ¬ Obligations.Selection := by
  unfold Obligations.Selection
  intro h
  obtain ⟨selects, -⟩ := h selectingState 0 0
  obtain ⟨u, a, run, -, -, entry, -⟩ := selects 5 selectingOn senderLaunch senderRec (by decide +kernel) rfl (by decide +kernel) rfl
    (by decide +kernel) rfl
  obtain ⟨-, -, -, -, -, -, -, -, -, -, -, -, -, -, -, -, -, -, -, -, -, -, lds⟩ := entry
  rw [lds_recordSelection_selectingState u run] at lds
  cases lds

end Sys2Proof.Proofs
end

section
/-! SUPPORT. Operations with a NaN operand (R193, R201, R270), and the statement `NaNOperands`. -/

namespace Sys2Proof.Proofs

open Sys2Proof Sys2Proof.Machine Sys2Proof.Laws Sys2Proof.Claims

/-! ## Exact numbers that are no number -/

theorem decode_of_isNan {f : Fmt} {a : Nat} (nan : f.isNan a = true) : f.decode a = .nan := by simp [Fmt.decode, nan]

@[simp] theorem nan_mul (x : Ex) : Ex.nan.mul x = (.nan, 0) := rfl

@[simp] theorem mul_nan (x : Ex) : x.mul .nan = (.nan, 0) := by cases x <;> rfl

@[simp] theorem nan_div (x : Ex) : Ex.nan.div x = (.nan, 0) := rfl

@[simp] theorem div_nan (x : Ex) : x.div .nan = (.nan, 0) := by cases x <;> rfl

@[simp] theorem nan_lt (x : Ex) : Ex.nan.lt x = false := rfl

@[simp] theorem lt_nan (x : Ex) : x.lt .nan = false := by cases x <;> rfl

@[simp] theorem nan_eqv (x : Ex) : Ex.nan.eqv x = false := rfl

@[simp] theorem eqv_nan (x : Ex) : x.eqv .nan = false := by simp [Ex.eqv]

/-- A sum with a NaN among its terms is a NaN without a flag. -/
theorem sum_nan {l : List Ex} (mem : Ex.nan ∈ l) (m : Mode) : Ex.sum m l = (.nan, 0) := by
  rw [Ex.sum, if_pos (List.any_eq_true.mpr ⟨_, mem, rfl⟩)]

theorem finish_nan (f : Fmt) (m : Mode) (ops : List Nat) (fl : Nat) : finish f m ops (.nan, fl) = (f.nan, fl ||| sigFlag f ops) := by
  simp [finish, Ex.round]

/-! ## Operations with a NaN operand -/

section
variable {f : Fmt} {a b : Nat} (nan : f.decode a = .nan ∨ f.decode b = .nan) (m : Mode)
include nan

theorem fpAdd_nan : fpAdd f m a b = (f.nan, sigFlag f [a, b]) := by
  rw [fpAdd, sum_nan (by simpa [eq_comm] using nan), finish_nan, Nat.zero_or]

theorem fpSub_nan : fpSub f m a b = (f.nan, sigFlag f [a, b]) := by
  have term : Ex.nan ∈ [f.decode a, (f.decode b).neg] := by
    rcases nan with h | h <;> simp [h, Ex.neg]
  rw [fpSub, sum_nan term, finish_nan, Nat.zero_or]

theorem fpMul_nan : fpMul f m a b = (f.nan, sigFlag f [a, b]) := by
  have product : (f.decode a).mul (f.decode b) = (.nan, 0) := by
    rcases nan with h | h <;> simp [h]
  rw [fpMul, product, finish_nan, Nat.zero_or]

theorem fpDiv_nan : fpDiv f m a b = (f.nan, sigFlag f [a, b]) := by
  have quotient : (f.decode a).div (f.decode b) = (.nan, 0) := by
    rcases nan with h | h <;> simp [h]
  rw [fpDiv, quotient, finish_nan, Nat.zero_or]

/-- No comparison with a NaN is true but "not equal" (R193, R267). -/
theorem fpCmp_nan (c : Cond) : fpCmp f c a b = (c == .ne, sigFlag f [a, b]) := by
  have unordered : (f.decode a).eqv (f.decode b) = false ∧ (f.decode a).lt (f.decode b) = false := by
    rcases nan with h | h <;> simp [h]
  obtain ⟨equal, less⟩ := unordered
  cases c <;> simp [fpCmp, equal, less]

end

/-- A fused product-sum is a NaN where its product or its addend is (R270). -/
theorem fpFma_nan {f : Fmt} {a b c : Nat} (nan : f.decode a = .nan ∨ f.decode b = .nan ∨ f.decode c = .nan) (m : Mode) :
    (fpFma f m false false a b c).1 = f.nan := by
  have term : Ex.nan ∈ [((f.decode a).mul (f.decode b)).1, f.decode c] := by
    rcases nan with h | h | h <;> simp [h]
  simp [fpFma, sum_nan term, finish_nan]

/-- Settles O14: each operation on its exact numbers, of which one is a NaN. -/
theorem naNOperands : Obligations.NaNOperands := by
  unfold Obligations.NaNOperands
  intro f m a b c _
  refine ⟨fun nan => ?_, fun nan => ?_, fun nan => fpFma_nan (.inr (.inr (decode_of_isNan nan))) m⟩
  · have one : f.decode a = .nan ∨ f.decode b = .nan := nan.imp decode_of_isNan decode_of_isNan
    have either : (f.isNan a || f.isNan b) = true := by simpa using nan
    exact ⟨fpAdd_nan one m, fpSub_nan one m, fpMul_nan one m, fpDiv_nan one m, if_pos either, if_pos either, fpCmp_nan one .eq,
      fpCmp_nan one .lt, fpCmp_nan one .le, fpCmp_nan one .ne, fpFma_nan (by tauto) m⟩
  · rw [fpSqrt, decode_of_isNan nan]
    rfl

end Sys2Proof.Proofs
end

section
/-! SUPPORT. Rounding to a multiple of a power of two, by mode (R194, R195), and the statement `RoundingToAGrid`. -/

namespace Sys2Proof.Proofs

open Sys2Proof Sys2Proof.Machine Sys2Proof.Laws Sys2Proof.Claims

/-! ## Rounding to a grid -/

/-- The step up from a whole part `q` with a rest `t` below one, by mode (R194). -/
def stepsUp (m : Mode) (neg : Bool) (q : Nat) (t : ℚ) : Bool :=
  match m.toNat with
  | 0 => decide (1 / 2 < t) || (decide (t = 1 / 2) && q % 2 == 1)
  | 1 => false
  | 2 => neg && decide (t ≠ 0)
  | _ => !neg && decide (t ≠ 0)

/-- A quotient is its whole part and its remainder over the divisor. -/
theorem natCast_div_eq (a : Nat) {b : Nat} (pos : 0 < b) : (a : ℚ) / b = (a / b : Nat) + ((a % b : Nat) : ℚ) / b := by
  have whole : (a : ℚ) = b * (a / b : Nat) + (a % b : Nat) := by exact_mod_cast (Nat.div_add_mod a b).symm
  have : (b : ℚ) ≠ 0 := by positivity
  rw [div_eq_iff this, add_mul, div_mul_cancel₀ _ this, mul_comm ((a / b : Nat) : ℚ)]
  exact whole

/-- The value n / d / 2^e as a quotient of whole numbers. -/
theorem gridValue_eq (n d : Nat) (e : Int) :
    (n : ℚ) / d / (2 : ℚ) ^ e
      = ((if 0 ≤ e then n else n <<< (-e).toNat : Nat) : ℚ) / ((if 0 ≤ e then d <<< e.toNat else d : Nat) : ℚ) := by
  split
  case isTrue up =>
    obtain ⟨k, rfl⟩ := Int.eq_ofNat_of_zero_le up
    simp [Nat.shiftLeft_eq, div_div]
  case isFalse down =>
    obtain ⟨k, rfl⟩ : ∃ k : Nat, e = -k := ⟨(-e).toNat, by omega⟩
    simp [Nat.shiftLeft_eq]
    ring

/-- The whole part and the remainder give every mode's multiple, and whether it is exact. -/
theorem roundGrid_eq (m : Mode) (neg : Bool) (n d : Nat) (e : Int) {a b : Nat} (num : (if 0 ≤ e then n else n <<< (-e).toNat) = a)
    (den : (if 0 ≤ e then d <<< e.toNat else d) = b) (pos : 0 < b) :
    roundGrid m neg false n d 0 e = (a / b + b2n (stepsUp m neg (a / b) (((a % b : Nat) : ℚ) / b)), decide (((a % b : Nat) : ℚ) / b ≠ 0)) := by
  have bq : (0 : ℚ) < b := by exact_mod_cast pos
  have none_left : ((a % b : Nat) : ℚ) / b = 0 ↔ a % b = 0 := by
    rw [div_eq_zero_iff, Nat.cast_eq_zero, or_iff_left bq.ne']
  have over_half : 1 / 2 < ((a % b : Nat) : ℚ) / b ↔ b < 2 * (a % b) := by
    rw [div_lt_div_iff₀ two_pos bq, one_mul, mul_comm]; exact_mod_cast Iff.rfl
  have at_half : ((a % b : Nat) : ℚ) / b = 1 / 2 ↔ 2 * (a % b) = b := by
    rw [div_eq_div_iff bq.ne' two_ne_zero, one_mul, mul_comm]; exact_mod_cast Iff.rfl
  have rest : (a % b != 0) = !decide (a % b = 0) := by rw [Bool.eq_iff_iff]; simp
  have modes : m = 0 ∨ m = 1 ∨ m = 2 ∨ m = 3 := by revert m; decide
  rcases modes with rfl | rfl | rfl | rfl <;>
    simp [roundGrid, stepsUp, none_left, over_half, at_half, num, den, rest, -one_div, -div_eq_zero_iff]

/-- The value is a whole part and a rest below one; rounding to the grid adds the step up of its mode to the whole part. -/
theorem roundGrid_rest (neg : Bool) (n : Nat) {d : Nat} (e : Int) (pos : 0 < d) :
    ∃ (q : Nat) (t : ℚ), (n : ℚ) / d / (2 : ℚ) ^ e = q + t ∧ 0 ≤ t ∧ t < 1
      ∧ ∀ m, roundGrid m neg false n d 0 e = (q + b2n (stepsUp m neg q t), decide (t ≠ 0)) := by
  have den : 0 < (if 0 ≤ e then d <<< e.toNat else d) := by
    split
    · rw [Nat.shiftLeft_eq]; positivity
    · exact pos
  refine ⟨_, _, (gridValue_eq n d e).trans (natCast_div_eq _ den), by positivity, ?_, fun m => roundGrid_eq m neg n d e rfl rfl den⟩
  rw [div_lt_one (by exact_mod_cast den)]
  exact_mod_cast Nat.mod_lt _ den

/-- Rounding up where the value has a rest. -/
theorem ceil_bounds {q : Nat} {t : ℚ} (lo : 0 ≤ t) (hi : t < 1) :
    (q : ℚ) + t ≤ (q + b2n (decide (t ≠ 0)) : Nat) ∧ ((q + b2n (decide (t ≠ 0)) : Nat) : ℚ) < q + t + 1 := by
  rcases lo.eq_or_lt with rfl | above
  · simp [b2n]
  · simp only [b2n, above.ne', ne_eq, not_false_eq_true, decide_true, if_true]
    push_cast
    constructor <;> linarith

/-- Rounding down. -/
theorem floor_bounds {q : Nat} {t : ℚ} (lo : 0 ≤ t) (hi : t < 1) :
    ((q + b2n false : Nat) : ℚ) ≤ q + t ∧ (q : ℚ) + t < (q + b2n false : Nat) + 1 := by
  simp only [b2n, Bool.false_eq_true, if_false, Nat.add_zero]
  constructor <;> linarith

/-- To the nearest: below, at and above the middle of the step. -/
theorem nearest_bounds {q : Nat} {t : ℚ} (lo : 0 ≤ t) (hi : t < 1) (neg : Bool) :
    let z := q + b2n (stepsUp 0 neg q t)
    |(z : ℚ) - (q + t)| ≤ 1 / 2 ∧ (|(z : ℚ) - (q + t)| = 1 / 2 → z % 2 = 0) := by
  have up : stepsUp 0 neg q t = (decide (1 / 2 < t) || (decide (t = 1 / 2) && q % 2 == 1)) := rfl
  dsimp only
  rcases lt_trichotomy t (1 / 2) with below | rfl | above
  · have stays : stepsUp 0 neg q t = false := by rw [up]; simp [below.not_gt, below.ne, -one_div]
    have off : |((q + b2n false : Nat) : ℚ) - (q + t)| = t := by simp [b2n, abs_of_nonneg lo]
    rw [stays, off]
    exact ⟨below.le, fun tie => absurd tie below.ne⟩
  · have even : (q + b2n (stepsUp 0 neg q (1 / 2))) % 2 = 0 := by
      rw [up]
      rcases Nat.mod_two_eq_zero_or_one q with h | h <;> simp [h, b2n, Nat.add_mod]
    refine ⟨?_, fun _ => even⟩
    cases stepsUp 0 neg q (1 / 2) <;> norm_num [b2n, abs_le]
  · have steps : stepsUp 0 neg q t = true := by rw [up]; simp [above, -one_div]
    have off : |((q + b2n true : Nat) : ℚ) - (q + t)| = 1 - t := by
      have : (0 : ℚ) ≤ (q + b2n true : Nat) - (q + t) := by simp [b2n]; linarith
      rw [abs_of_nonneg this]
      simp [b2n]
    rw [steps, off]
    exact ⟨by linarith, fun tie => by linarith⟩

/-- Settles O15: the value is a whole part and a rest below one, and each mode steps up or does not by the rest and the sign. -/
theorem roundingToAGrid : Obligations.RoundingToAGrid := by
  unfold Obligations.RoundingToAGrid
  intro neg n d e pos
  obtain ⟨q, t, value, lo, hi, rounds⟩ := roundGrid_rest neg n e pos
  dsimp only
  simp only [value, rounds]
  refine ⟨nearest_bounds lo hi neg, floor_bounds lo hi, ?_, ?_, fun m => ?_⟩
  · cases neg
    · exact floor_bounds lo hi
    · exact ceil_bounds lo hi
  · cases neg
    · exact ceil_bounds lo hi
    · exact floor_bounds lo hi
  · simp [stepsUp, b2n]

end Sys2Proof.Proofs
end

section
/-! SUPPORT. The formulas of jets (R199, R212 to R214), and the statement `JetFormulas`. -/

namespace Sys2Proof.Proofs

open Sys2Proof Sys2Proof.Machine Sys2Proof.Laws Sys2Proof.Claims

/-! ## Jets -/

theorem jetGo_length (f : Fmt) (m : Mode) (g : List Nat → Nat → Ex × Nat) (n k : Nat) (c : List (Nat × Nat)) :
    (jetGo f m g n k c).length = c.length + n := by
  induction n generalizing k c with
  | zero => rfl
  | succ n ih => simp [jetGo, ih]; omega

theorem mkJet_length (f : Fmt) (m : Mode) (n : Nat) (c : Nat × Nat) (g : List Nat → Nat → Ex × Nat) : (mkJet f m n c g).length = n + 1 := by
  unfold mkJet
  split
  · simp
  · simp [jetGo_length]; omega

/-- A jet of order 0 is its coefficient 0. -/
theorem mkJet_zero (f : Fmt) (m : Mode) (c : Nat × Nat) (g : List Nat → Nat → Ex × Nat) : mkJet f m 0 c g = [c] := by
  unfold mkJet
  split <;> rfl

/-- Coefficient 1 is the formula's value on coefficient 0, rounded once. -/
theorem mkJet_getD_one {f : Fmt} {c : Nat × Nat} (number : f.isNan c.1 = false) (m : Mode) (g : List Nat → Nat → Ex × Nat) :
    ((mkJet f m 1 c g).getD 1 (0, 0)).1 = ((g [c.1] 1).1.round f m).1 := by
  simp [mkJet, jetGo, number]

/-- A jet whose coefficient 0 is a NaN is the canonical NaN from coefficient 1 on, with no flag (R214). -/
theorem mkJet_getD_nan {f : Fmt} {c : Nat × Nat} (nan : f.isNan c.1 = true) (m : Mode) (g : List Nat → Nat → Ex × Nat) {n k : Nat} (low : 1 ≤ k)
    (high : k ≤ n) : (mkJet f m n c g).getD k (0, 0) = (f.nan, 0) := by
  obtain ⟨k, rfl⟩ : ∃ j, k = j + 1 := ⟨k - 1, by omega⟩
  rw [mkJet, if_pos nan, List.getD_cons_succ]
  exact List.getD_replicate _ (by omega)

/-! ## The formula of a product -/

@[simp] theorem one_mul_ex (x : Ex) : (Ex.rat false 1 1).mul x = (x, 0) := by cases x <;> simp [Ex.mul]

/-- A term of two factors is their product. -/
theorem value_product (x y : Ex) : Term.value { cn := 1, cd := 1, factors := [x, y] } = x.mul y := by
  simp [Term.value]

/-- Coefficient 1 of a product is a_0 b_1 + a_1 b_0 (R213). -/
theorem conv_one (f : Fmt) (a b : List Nat) : conv f a b 1 0 1 (fun _ => (1, 1))
    = [{ cn := 1, cd := 1, factors := [co f a 0, co f b 1] }, { cn := 1, cd := 1, factors := [co f a 1, co f b 0] }] := rfl

/-- Two products of numbers, neither of zero and infinity, are summed as they are. -/
theorem evalSum_products {x y x1 y1 : Ex} (m : Mode) (valid : (x.mul y1).2 = 0) (valid1 : (x1.mul y).2 = 0)
    (numbers : x ≠ .nan ∧ x1 ≠ .nan ∧ y ≠ .nan ∧ y1 ≠ .nan) :
    evalSum m [{ cn := 1, cd := 1, factors := [x, y1] }, { cn := 1, cd := 1, factors := [x1, y] }]
      = Ex.sum m [(x.mul y1).1, (x1.mul y).1] := by
  obtain ⟨hx, hx1, hy, hy1⟩ := numbers
  simp [evalSum, value_product, valid, valid1, hx.symm, hx1.symm, hy.symm, hy1.symm]

/-- Settles O34: a jet is its coefficient 0 and, from it on, its formula. -/
theorem jetFormulas : Obligations.JetFormulas := by
  unfold Obligations.JetFormulas
  intro f m a b
  refine ⟨mkJet_zero .., mkJet_zero .., mkJet_zero .., mkJet_zero .., mkJet_zero .., fun n => ⟨mkJet_length .., mkJet_length .., mkJet_length ..⟩,
    fun number valid valid1 hx hx1 hy hy1 => ?_, fun n k nan low high => mkJet_getD_nan nan m _ low high⟩
  rw [jetMul, c0, c0, mkJet_getD_one number, conv_one]
  exact congrArg (fun r : Ex × Nat => (r.1.round f m).1) (evalSum_products m valid valid1 ⟨hx, hx1, hy, hy1⟩)

end Sys2Proof.Proofs
end

section
/-! SUPPORT. Elements of V registers, and vector instructions whose fields name no stream (R211, R233, R287 to R290): lemmas for the statements on
vectors. -/

namespace Sys2Proof.Proofs

open Sys2Proof Sys2Proof.Machine Sys2Proof.Laws Sys2Proof.Claims

/-! ## Elements of a register (R287) -/

theorem szBits_eq (e : Sz) : szBits e = 8 * sizeOf8 e := by cases e <;> rfl

theorem tyFmt_eq (ty : FTy) : tyFmt ty = vfmt ty := by cases ty <;> rfl

theorem ty8Fmt_eq (ty : FTy8) : ty8Fmt ty = vfmt8 ty := by cases ty <;> rfl

theorem el_eq (w : Nat) (v : Vec) (j : Nat) : el w v j = v.toNat / 2 ^ (w * j) % 2 ^ w := by
  rw [el, BitVec.extractLsb'_toNat, Nat.shiftRight_eq_div_pow]

theorem el_lt (w : Nat) (v : Vec) (j : Nat) : el w v j < 2 ^ w := (BitVec.extractLsb' (w * j) w v).isLt

theorem el_mod (w : Nat) (v : Vec) (j : Nat) : el w v j % 2 ^ w = el w v j := Nat.mod_eq_of_lt (el_lt w v j)

@[simp] theorem el_zero (w j : Nat) : el w 0 j = 0 := by simp [el]

theorem length_splitElems (w n v : Nat) : (splitElems w n v).length = n := by
  induction n generalizing v with
  | zero => rfl
  | succ n ih => simp [splitElems, ih]

@[simp] theorem length_elems (w : Nat) (v : Vec) : (elems w v).length = 512 / w := length_splitElems ..

theorem getD_splitElems {w n j : Nat} (v : Nat) (low : j < n) : (splitElems w n v).getD j 0 = v / 2 ^ (w * j) % 2 ^ w := by
  induction n generalizing v j with
  | zero => omega
  | succ n ih =>
    cases j with
    | zero => simp [splitElems]
    | succ j =>
      rw [splitElems, List.getD_cons_succ, ih _ (by omega), Nat.div_div_eq_div_mul, ← Nat.pow_add, Nat.mul_succ, Nat.add_comm]

theorem getD_elems {w j : Nat} (v : Vec) (low : j < 512 / w) : (elems w v).getD j 0 = el w v j := by
  rw [elems, getD_splitElems _ low, el_eq]

theorem getD_elems_past {w j : Nat} (v : Vec) (high : 512 / w ≤ j) : (elems w v).getD j 0 = 0 :=
  List.getD_eq_default _ _ (by rwa [length_elems])

/-- An element of a register that is made of elements. -/
theorem el_ofElems {w j : Nat} (l : List Nat) (low : j < 512 / w) : el w (ofElems w l) j = l.getD j 0 % 2 ^ w := by
  have fits : w * j + w ≤ 512 := calc
    w * j + w = w * (j + 1) := by ring
    _ ≤ w * (512 / w) := Nat.mul_le_mul_left w low
    _ ≤ 512 := Nat.mul_div_le ..
  rw [← joinElems_elem]
  apply Nat.eq_of_testBit_eq
  intro b
  simp only [el, ofElems, BitVec.testBit_toNat, BitVec.getLsbD_extractLsb', BitVec.getLsbD_ofNat, Nat.testBit_mod_two_pow, Nat.testBit_div_two_pow]
  by_cases inside : b < w
  · simp [inside, show b + w * j < 512 by omega, Nat.add_comm (w * j)]
  · simp [inside]

theorem length_map_upTo {α : Type} (n : Nat) (g : Nat → α) : ((upTo n).map g).length = n := by simp [upTo]

theorem getD_map_upTo {α : Type} {n k : Nat} (g : Nat → α) (d : α) (low : k < n) : ((upTo n).map g).getD k d = g k := by
  simp [upTo, low]

/-- Active elements take their new value, the others keep theirs (R288). -/
theorem getD_mergeElems {mask : BitVec 64} {old new : List Nat} {j : Nat} (low : j < old.length) :
    (mergeElems mask old new).getD j 0 = if active mask j then new.getD j 0 else old.getD j 0 :=
  getD_map_upTo _ _ low

/-- The same, of a register. -/
theorem el_merged {w j : Nat} (mask : BitVec 64) (old : Vec) (new : List Nat) (low : j < 512 / w) :
    el w (ofElems w (mergeElems mask (elems w old) new)) j = if active mask j then new.getD j 0 % 2 ^ w else el w old j := by
  rw [el_ofElems _ low, getD_mergeElems (by rwa [length_elems]), getD_elems old low]
  split
  · rfl
  · exact el_mod ..

/-- Element 0 alone, the others zero (R294). -/
theorem el_onlyFirst {w j : Nat} (x : Nat) (low : j < 512 / w) : el w (onlyFirst w x) j = if j = 0 then x % 2 ^ w else 0 := by
  rw [onlyFirst, el_ofElems _ low]
  cases j <;> simp

/-! ## Groups of registers (R211) -/

@[simp] theorem length_oldVs (t : Str) (r : VReg) (n : Nat) : (t.oldVs r n).length = n := length_map_upTo ..

theorem getD_oldVs (t : Str) (r : VReg) {n k : Nat} (d : Vec) (low : k < n) : (t.oldVs r n).getD k d = t.rawV (r + BitVec.ofNat 5 k) :=
  getD_map_upTo _ _ low

theorem getD_oldVs_zero (t : Str) (r : VReg) (n : Nat) (d : Vec) : (t.oldVs r (n + 1)).getD 0 d = t.rawV r := by
  rw [getD_oldVs t r d (Nat.succ_pos n), BitVec.add_zero]

theorem setVs_one (t : Str) (r : VReg) (v : Vec) : t.setVs r [v] 0 = t.setV r v := by simp [Str.setVs, regUp]

/-- With no stream bound a group is misaligned exactly where it is not aligned for JORD. -/
theorem misaligned_iff {t : Str} (free : NoStreams t) (r : VReg) :
    misaligned t r = true ↔ (t.jord = 1 ∧ r.toNat % 2 = 1) ∨ (2 ≤ t.jord.toNat ∧ r.toNat % 4 ≠ 0) := by
  have one : t.jord = 1 ↔ t.jord.toNat = 1 := by rw [← BitVec.toNat_inj]; rfl
  rw [misaligned, free r, Str.ord, one]
  split_ifs with zero bound single
  · simp [zero]
  · simp at bound
  · simp [single]
  · have : 2 ≤ t.jord.toNat := by omega
    simp [single, this]

theorem misaligned_of_aligned {t : Str} {rs : List VReg} (free : NoStreams t) (aligned : Aligned t rs) : rs.any (misaligned t) = false := by
  rw [List.any_eq_false]
  intro r hr
  rw [misaligned_iff free]
  rcases aligned r hr with zero | ⟨one, even⟩ | ⟨high, fourth⟩
  · simp [zero]
  · simp [one, even]
  · simp only [fourth, ne_eq, not_true_eq_false, and_false, or_false, not_and]
    intro one
    simp [one] at high

/-! ## The frame of a vector instruction with no stream bound (R233, R289) -/

theorem run_checkGroups (rs : List VReg) (s : State) : (checkGroups rs).run s
    = if rs.any (misaligned s.curStr) then .error (.fault { code := 0x50, detail := 0, val := 0 }) else .ok ((), s) := by
  unfold checkGroups
  rw [run_bind_ok (run_theStr s)]
  split <;> rfl

theorem run_mapM_ok {α β : Type} {f : α → M β} {g : α → β} {s : State} (each : ∀ a, (f a).run s = .ok (g a, s)) (l : List α) :
    (l.mapM f).run s = .ok (l.map g, s) := by
  induction l with
  | nil => rfl
  | cons a l ih =>
    rw [List.mapM_cons, run_bind_ok (each a), run_bind_ok ih]
    rfl

section
variable {s : State} (free : NoStreams s.curStr)
include free

theorem popOrder_none (before l : List (VReg × Nat)) : popOrder s.curStr before l = [] := by
  induction l generalizing before with
  | nil => rfl
  | cons p l ih => rw [popOrder, free p.1, ih]; rfl

theorem run_checkStreams (srcs dsts : List (VReg × Nat)) : (checkStreams srcs dsts).run s = .ok ((), s) := by
  unfold checkStreams
  rw [run_bind_ok (run_theStr s)]
  have right (l : List (VReg × Nat)) : l.any (fun _ => false) = false := List.any_eq_false.mpr (by simp)
  simp only [free _, right, popOrder_none free, List.any_nil]
  rfl

/-- A source field takes its registers. -/
theorem run_popSrc (r : VReg) (n : Nat) : (popSrc r n).run s = .ok (s.curStr.oldVs r n, s) := by
  unfold popSrc
  rw [run_bind_ok (run_theStr s), free r]
  rfl

theorem run_pushPlan (r : VReg) (n : Nat) : (pushPlan r n).run s = .ok (none, s) := by
  unfold pushPlan
  rw [run_bind_ok (run_theStr s), free r]
  rfl

variable (quiet : Quiet s)
include quiet

/-- A vector instruction with a V destination runs on the registers of its string. -/
theorem run_vecOp (xs : List XReg) {groups : List VReg} (aligned : Aligned s.curStr groups) (srcs : List (VReg × Nat)) (rd : VReg) (nd : Nat)
    (f : Str → List (List Vec) → List Vec → List Vec × (Str → Str)) :
    let r := f s.curStr (srcs.map (fun p => s.curStr.oldVs p.1 p.2)) (s.curStr.oldVs rd nd)
    (vecOp xs groups srcs rd nd f).run s = .ok (.step, s.setCurStr (r.2 (s.curStr.setVs rd r.1 0))) := by
  unfold vecOp
  rw [run_bind_ok (run_settle_ready _ s quiet), run_bind_ok (by rw [run_checkGroups, misaligned_of_aligned free aligned]; rfl),
    run_bind_ok (run_checkStreams free _ _), run_bind_ok (run_theStr s), run_bind_ok (run_mapM_ok (fun p => run_popSrc free p.1 p.2) srcs),
    run_bind_ok (run_pushPlan free rd nd)]
  show Except.ok (Adv.step, (s.setCurStr _).setCurStr _) = _
  rw [setCurStr_setCurStr, curStr_setCurStr]

/-- One whose result is no vector. -/
theorem run_vecRead (xs : List XReg) {groups : List VReg} (aligned : Aligned s.curStr groups) (srcs : List (VReg × Nat))
    (g : Str → List (List Vec) → Str → Str) :
    (vecRead xs groups srcs g).run s
      = .ok (.step, s.setCurStr (g s.curStr (srcs.map (fun p => s.curStr.oldVs p.1 p.2)) s.curStr)) := by
  unfold vecRead
  rw [run_bind_ok (run_settle_ready _ s quiet), run_bind_ok (by rw [run_checkGroups, misaligned_of_aligned free aligned]; rfl),
    run_bind_ok (run_checkStreams free _ _), run_bind_ok (run_theStr s), run_bind_ok (run_mapM_ok (fun p => run_popSrc free p.1 p.2) srcs)]
  rfl

omit free in
/-- A misaligned group faults before any effect (R211). -/
theorem run_vecOp_misaligned (xs : List XReg) {groups : List VReg} (bad : groups.any (misaligned s.curStr) = true) (srcs : List (VReg × Nat))
    (rd : VReg) (nd : Nat) (f : Str → List (List Vec) → List Vec → List Vec × (Str → Str)) :
    (vecOp xs groups srcs rd nd f).run s = .error (.fault { code := 0x50, detail := 0, val := 0 }) := by
  unfold vecOp
  rw [run_bind_ok (run_settle_ready _ s quiet), StateT.run_bind, run_checkGroups, if_pos bad]
  rfl

end

/-! ## How it completes -/

/-- An instruction that begins by looking at its string is what it does on that string. -/
theorem runInstr_theStr (g : Str → M Adv) (s : State) : runInstr (theStr >>= g) s = runInstr (g s.curStr) s := rfl

/-- An instruction whose steps change its string alone completes. -/
theorem completes_of_run {i : Instr} {f : M Adv} {s u : State} {t : Str} (meaning : exec i s = runInstr f s) (run : f.run s = .ok (.step, u))
    (only : OnlyCurrent s u) (str : u.curStr = t) : Completes i s t := by
  have all := only.trans (onlyCurrent_retire u)
  refine ⟨u.retire, ?_, ?_, all.mem, all.others, all.units⟩
  · rw [meaning, runInstr_ended, run]; rfl
  · rw [State.retire, retireTo_curStr, str]; rfl

theorem onlyCurrent_setCurStr (s : State) (t : Str) : OnlyCurrent s (s.setCurStr t) := onlyCurrent_setStr rfl t

/-- Elements that are active count in a VOP meter, and nothing else changes (R436). -/
theorem run_countVop (ty : FTy) (mask : BitVec 64) (n k : Nat) (a : Adv) (s : State) :
    ∃ u, (countVop ty mask n k >>= fun _ => pure a : M Adv).run s = .ok (a, u) ∧ Kept s u :=
  ⟨_, rfl, kept_meterOf ..⟩

section
variable {i : Instr} {s : State} {groups : List VReg} (free : NoStreams s.curStr) (quiet : Quiet s) (aligned : Aligned s.curStr groups)
variable {xs : List XReg} {srcs : List (VReg × Nat)} {rd : VReg} {nd : Nat} {f : Str → List (List Vec) → List Vec → List Vec × (Str → Str)}
include free quiet aligned

/-- A vector instruction with a V destination completes. -/
theorem completes_vecOp (meaning : exec i s = runInstr (vecOp xs groups srcs rd nd f) s) :
    let r := f s.curStr (srcs.map (fun p => s.curStr.oldVs p.1 p.2)) (s.curStr.oldVs rd nd)
    Completes i s (r.2 (s.curStr.setVs rd r.1 0)) :=
  completes_of_run meaning (run_vecOp free quiet xs aligned srcs rd nd f) (onlyCurrent_setCurStr ..) (curStr_setCurStr ..)

/-- The same, for one that counts its active elements. -/
theorem completes_vecOp_counted {ty : FTy} {mask : BitVec 64} {n k : Nat}
    (meaning : exec i s = runInstr (vecOp xs groups srcs rd nd f >>= fun a => countVop ty mask n k >>= fun _ => pure a) s) :
    let r := f s.curStr (srcs.map (fun p => s.curStr.oldVs p.1 p.2)) (s.curStr.oldVs rd nd)
    Completes i s (r.2 (s.curStr.setVs rd r.1 0)) := by
  intro r
  obtain ⟨u, counted, kept⟩ := run_countVop ty mask n k .step (s.setCurStr (r.2 (s.curStr.setVs rd r.1 0)))
  refine completes_of_run meaning ((run_bind_ok (run_vecOp free quiet xs aligned srcs rd nd f)).trans counted)
    ((onlyCurrent_setCurStr ..).trans (.of_kept kept)) ?_
  rw [kept.curStr, curStr_setCurStr]

theorem completes_vecRead {g : Str → List (List Vec) → Str → Str} (meaning : exec i s = runInstr (vecRead xs groups srcs g) s) :
    Completes i s (g s.curStr (srcs.map (fun p => s.curStr.oldVs p.1 p.2)) s.curStr) :=
  completes_of_run meaning (run_vecRead free quiet xs aligned srcs g) (onlyCurrent_setCurStr ..) (curStr_setCurStr ..)

end

/-- A fault of an instruction with no load outstanding is taken at once. -/
theorem faults_of_run {i : Instr} {f : M Adv} {s : State} {code detail : Nat} {val : Word} (quiet : Quiet s) (meaning : exec i s = runInstr f s)
    (run : f.run s = .error (.fault { code := code, detail := detail, val := val })) : Faults i s code detail val := by
  rw [Faults, meaning, runInstr_ended, run]
  exact faultDue_ready s _ quiet

section
variable {i : Instr} {s : State} {r : VReg} (quiet : Quiet s) (bad : misaligned s.curStr r = true)
variable {xs : List XReg} {groups : List VReg} {srcs : List (VReg × Nat)} {rd : VReg} {nd : Nat}
variable {f : Str → List (List Vec) → List Vec → List Vec × (Str → Str)}
include quiet bad

/-- A vector instruction whose first group is misaligned faults with JETGRP (R211). -/
theorem faults_vecOp (meaning : exec i s = runInstr (vecOp xs (r :: groups) srcs rd nd f) s) : Faults i s 0x50 0 0 :=
  faults_of_run quiet meaning (run_vecOp_misaligned quiet xs (by rw [List.any_cons, bad, Bool.true_or]) srcs rd nd f)

/-- The same, whatever it would do after its effect. -/
theorem faults_vecOp_bind {g : Adv → M Adv} (meaning : exec i s = runInstr (vecOp xs (r :: groups) srcs rd nd f >>= g) s) : Faults i s 0x50 0 0 :=
  faults_of_run quiet meaning (run_bind_error (run_vecOp_misaligned quiet xs (by rw [List.any_cons, bad, Bool.true_or]) srcs rd nd f))

end

end Sys2Proof.Proofs
end

section
/-! SUPPORT. Groups of registers that are written, and moves of whole groups (R211, R290, R301, R303), and the statement `VectorMoves`. -/

namespace Sys2Proof.Proofs

open Sys2Proof Sys2Proof.Machine Sys2Proof.Laws Sys2Proof.Claims

/-! ## Groups that are written -/

section
variable {i : Instr} {s : State} {rd : VReg} {n w : Nat} {f : Nat → Nat → Nat}

theorem writesGroup_of {keep : Nat → Bool} {g : Nat → Vec} (done : Completes i s (s.curStr.setVs rd ((upTo n).map g) 0))
    (each : ∀ k < n, ∀ j < 512 / w, el w (g k) j
      = if keep j then el w (s.curStr.rawV (rd + BitVec.ofNat 5 k)) j else f k j % 2 ^ w) : WritesGroup i s rd n w keep f :=
  ⟨_, length_map_upTo .., done, fun k hk j hj => by rw [getD_map_upTo g 0 hk]; exact each k hk j hj⟩

/-- The active elements of each register are written. -/
theorem writesGroup_merged {mk : MReg} {new : Nat → List Nat}
    (done : Completes i s (s.curStr.setVs rd ((upTo n).map (fun k =>
      ofElems w (mergeElems (s.curStr.getM mk) (elems w ((s.curStr.oldVs rd n).getD k 0)) (new k)))) 0))
    (each : ∀ k < n, ∀ j < 512 / w, (new k).getD j 0 % 2 ^ w = f k j % 2 ^ w) :
    WritesGroup i s rd n w (fun j => !on s.curStr mk j) f := by
  refine writesGroup_of done fun k hk j hj => ?_
  rw [el_merged _ _ _ hj, getD_oldVs _ _ _ hk, each k hk j hj]
  show (if on s.curStr mk j then _ else _) = _
  cases on s.curStr mk j <;> rfl

end

theorem getD_map_elems {w j : Nat} (g : Nat → Nat) (v : Vec) (low : j < 512 / w) : ((elems w v).map g).getD j 0 = g (el w v j) := by
  rw [← getD_elems v low]
  simp [List.getD_eq_getElem?_getD, low]

/-! ## Moves (R301, R303) -/

section
variable {i : Instr} {s : State} {groups : List VReg} (free : NoStreams s.curStr) (quiet : Quiet s) (aligned : Aligned s.curStr groups)
variable {xs : List XReg} {srcs : List VReg} {rd : VReg} {e : Sz} {h : Str → List (List Nat) → List Nat → List Nat}
include free quiet aligned

/-- A move makes each register of its group from the sources' registers of the same plane. -/
theorem completes_moveOp (meaning : exec i s = runInstr (moveOp xs groups srcs rd e h) s) :
    let t := s.curStr
    let n := t.jord.toNat + 1
    Completes i s (t.setVs rd ((upTo n).map (fun k => ofElems (szBits e)
      (h t (srcs.map (fun r => elems (szBits e) ((t.oldVs r n).getD k 0))) (elems (szBits e) ((t.oldVs rd n).getD k 0))))) 0) := by
  have done := completes_vecOp free quiet aligned (meaning.trans (runInstr_theStr _ s))
  simp only [List.map_map] at done
  exact done

end

/-- An element of a register whose elements move by a distance (R303). -/
theorem getD_slide {w j : Nat} (d : Int) (v : Vec) (low : j < 512 / w) :
    (slide d (elems w v)).getD j 0 = if 0 ≤ (j : Int) + d ∧ (j : Int) + d < (512 / w : Nat) then el w v ((j : Int) + d).toNat else 0 := by
  rw [slide, length_elems, getD_map_upTo _ _ low]
  by_cases start : 0 ≤ (j : Int) + d
  · by_cases inside : (j : Int) + d < (512 / w : Nat)
    · rw [if_pos start, if_pos ⟨start, inside⟩, getD_elems v (by omega)]
    · rw [if_pos start, if_neg (by tauto), getD_elems_past v (by omega)]
  · rw [if_neg start, if_neg (by tauto)]

/-- Settles O31: each move writes the elements that its rule names, and a misaligned group faults first. -/
theorem vectorMoves : Obligations.VectorMoves := by
  unfold Obligations.VectorMoves
  intro s rd ra rb rc rx mk e ty rm quiet free
  dsimp only
  rw [← szBits_eq]
  refine ⟨fun aligned => ?_, fun aligned => ?_, fun aligned => ?_, fun aligned => ?_, fun aligned => ?_, fun off => ?_⟩
  · have done := completes_moveOp free quiet aligned (exec_vmov rd ra mk e s)
    refine writesGroup_merged done fun k hk j hj => ?_
    rw [List.map_singleton, List.getD_cons_zero, getD_elems _ hj, getD_oldVs _ _ _ hk]
  · have done := completes_moveOp free quiet aligned (exec_vsel rd ra rb mk e s)
    refine writesGroup_of done fun k hk j hj => ?_
    simp only [List.map_cons, List.map_nil, List.getD_cons_zero, List.getD_cons_succ]
    rw [el_merged _ _ _ hj, getD_elems _ hj, getD_oldVs _ _ _ hk, getD_oldVs _ _ _ hk]
    show (if on s.curStr mk j then _ else _) = (if on s.curStr mk j then _ else _) % _
    split
    · rfl
    · exact (el_mod ..).symm
  · have done := completes_vecOp free quiet aligned ((exec_vbcast rd rx mk e s).trans (runInstr_theStr _ s))
    refine writesGroup_merged done fun k hk j hj => ?_
    rw [getD_map_elems _ _ hj]
    split
    · exact Nat.mod_mod ..
    · rfl
  · have done := completes_vecOp free quiet aligned ((exec_vperm rd ra rb mk e s).trans (runInstr_theStr _ s))
    refine writesGroup_merged done fun k hk j hj => ?_
    rw [getD_map_elems _ _ hj]
    show (elems _ ((s.curStr.oldVs ra (s.curStr.jord.toNat + 1)).getD k 0)).getD (el _ ((s.curStr.oldVs rb 1).getD 0 0) j) 0 % _ = _
    rw [getD_oldVs _ _ _ hk, getD_oldVs_zero]
    split
    case isTrue inside => rw [getD_elems _ inside]
    case isFalse past => rw [getD_elems_past _ (Nat.le_of_not_lt past)]
  · have done := completes_moveOp free quiet aligned (exec_vslide rd ra rx mk e s)
    refine writesGroup_merged done fun k hk j hj => ?_
    rw [List.map_singleton, List.getD_cons_zero, getD_slide _ _ hj, getD_oldVs _ _ _ hk]
  · have bad := (misaligned_iff free rd).mpr off
    simp only [List.forall_mem_cons, List.not_mem_nil, false_implies, implies_true, and_true]
    exact ⟨faults_vecOp_bind quiet bad ((exec_vaddFp ..).trans (runInstr_theStr _ s)),
      faults_vecOp_bind quiet bad ((exec_vmulFp ..).trans (runInstr_theStr _ s)),
      faults_vecOp_bind quiet bad ((exec_vdiv ..).trans (runInstr_theStr _ s)),
      faults_vecOp_bind quiet bad ((exec_vexp ..).trans (runInstr_theStr _ s)),
      faults_vecOp_bind quiet bad ((exec_vminFp ..).trans (runInstr_theStr _ s)),
      faults_vecOp_bind quiet bad ((exec_vredsumFp ..).trans (runInstr_theStr _ s)),
      faults_vecOp_bind quiet bad ((exec_vfmaF32 ..).trans (runInstr_theStr _ s)),
      faults_vecOp quiet bad ((exec_jseed ..).trans (runInstr_theStr _ s)),
      faults_vecOp quiet bad ((exec_vmov ..).trans (runInstr_theStr _ s)),
      faults_vecOp quiet bad ((exec_vperm ..).trans (runInstr_theStr _ s))⟩

end Sys2Proof.Proofs
end

section
/-! SUPPORT. Vector floating point on whole jets (R198, R211 to R213, R288, R292, R295), and the statement `VectorFpResults`. -/

namespace Sys2Proof.Proofs

open Sys2Proof Sys2Proof.Machine Sys2Proof.Laws Sys2Proof.Claims

theorem mode_eq (t : Str) (rm : Rm) : t.mode rm = modeOf t rm := by cases rm <;> rfl

/-! ## Flags (R198, R212) -/

theorem testBit_foldl_or {α : Type} (g : α → Nat) (b : Nat) (l : List α) (x : Nat) :
    (l.foldl (fun y a => y ||| g a) x).testBit b = (x.testBit b || l.any (fun a => (g a).testBit b)) := by
  induction l generalizing x with
  | nil => simp
  | cons a l ih => rw [List.foldl_cons, ih, Nat.testBit_or, List.any_cons, Bool.or_assoc]

/-- The flags of all results are collected for each of the two registers by itself. -/
theorem allFlags_eq (l : List (List (Nat × Nat))) :
    allFlags l = (l.foldl (fun x r => x ||| (jetFlags r).1) 0, l.foldl (fun x r => x ||| (jetFlags r).2) 0) := by
  have pair (l : List (List (Nat × Nat))) (x y : Nat) : l.foldl (fun a r => (a.1 ||| (jetFlags r).1, a.2 ||| (jetFlags r).2)) (x, y)
      = (l.foldl (fun x r => x ||| (jetFlags r).1) x, l.foldl (fun x r => x ||| (jetFlags r).2) y) := by
    induction l generalizing x y with
    | nil => rfl
    | cons r l ih => exact ih _ _
  exact pair l 0 0

/-- Coefficient 0 of a jet gives the flags of FFLG. -/
theorem jetFlags_zeroth (n : Nat) (g : Nat → Nat × Nat) : (jetFlags ((upTo (n + 1)).map g)).1 = (g 0).2 :=
  congrArg Prod.snd (getD_map_upTo g (0, 0) (Nat.succ_pos n))

/-- Flags that are ORed into a flag register. -/
theorem getLsbD_or_ofNat {n b : Nat} (v : BitVec n) (x : Nat) (low : b < n) : (v ||| BitVec.ofNat n x).getLsbD b = (v.getLsbD b || x.testBit b) := by
  rw [BitVec.getLsbD_or, BitVec.getLsbD_ofNat, decide_eq_true low, Bool.true_and]

/-! ## Results of the active elements -/

/-- Results of the active elements, in order; inactive ones have none. -/
def resultsOn (w : Nat) (mask : BitVec 64) (h : Nat → List (Nat × Nat)) : List (List (Nat × Nat)) :=
  (upTo (512 / w)).map (fun j => if active mask j then h j else [])

/-- Coefficient `k` of the results in a register (R288). -/
theorem el_planeOf {w j : Nat} (mask : BitVec 64) (h : Nat → List (Nat × Nat)) (k : Nat) (old : Vec) (low : j < 512 / w) :
    el w (planeOf w mask (resultsOn w mask h) k old) j = if active mask j then ((h j).getD k (0, 0)).1 % 2 ^ w else el w old j := by
  rw [planeOf, el_merged _ _ _ low, resultsOn, List.map_map, getD_map_upTo _ _ low]
  by_cases act : active mask j = true
  · simp [act]
  · simp [act]

/-- A flag is set where it was set before, or where the result of some active element raises it. -/
theorem getLsbD_or_resultsOn {n b w : Nat} (v : BitVec n) (mask : BitVec 64) (h : Nat → List (Nat × Nat)) {g : List (Nat × Nat) → Nat}
    (idle : g [] = 0) (low : b < n) : (v ||| BitVec.ofNat n ((resultsOn w mask h).foldl (fun x r => x ||| g r) 0)).getLsbD b
      = (v.getLsbD b || (List.range (512 / w)).any (fun j => active mask j && (g (h j)).testBit b)) := by
  rw [getLsbD_or_ofNat _ _ low, testBit_foldl_or, Nat.zero_testBit, Bool.false_or, resultsOn, List.any_map]
  refine congrArg (fun p => v.getLsbD b || List.any _ p) (funext fun j => ?_)
  show (g (if active mask j then h j else [])).testBit b = _
  cases active mask j
  · exact (congrArg (Nat.testBit · b) idle).trans (Nat.zero_testBit b)
  · rfl

/-- The jets of the operands at an element. -/
theorem elemResults_oldVs (t : Str) (w : Nat) (mask : BitVec 64) (h : List (List Nat) → List (Nat × Nat)) (srcs : List VReg) :
    elemResults w mask h ((srcs.map (fun r => (r, t.planes))).map (fun p => t.oldVs p.1 p.2))
      = resultsOn w mask (fun j => h (srcs.map (fun r => jetOf t w r j))) := by
  refine List.map_congr_left fun j hj => ?_
  have low : j < 512 / w := List.mem_range.mp hj
  have jet (r : VReg) : jetAt w (t.oldVs r t.planes) j = jetOf t w r j := by
    simp only [jetAt, Str.oldVs, List.map_map, jetOf]
    exact List.map_congr_left fun k _ => getD_elems _ low
  simp only [List.map_map, Function.comp_def, jet]

/-! ## Whole jets -/

/-- Writing V registers leaves the rest of a string. -/
theorem setVs_eq (t : Str) (r : VReg) (vs : List Vec) (k : Nat) : ∃ v, t.setVs r vs k = { t with v := v } := by
  induction vs generalizing t k with
  | nil => exact ⟨_, rfl⟩
  | cons x vs ih => exact ih (t.setV (regUp r k) x) (k + 1)

/-- Flags that are ORed after V registers are written. -/
theorem orJet_setVs (t : Str) (r : VReg) (vs : List Vec) (x : Nat × Nat) : (t.setVs r vs 0).orJet x
    = { t.setVs r vs 0 with fflg := t.fflg ||| BitVec.ofNat 5 x.1, jflg := t.jflg ||| BitVec.ofNat 15 x.2 } := by
  obtain ⟨v, h⟩ := setVs_eq t r vs 0
  rw [h]
  rfl

/-- A whole-jet operation writes the jets of its active elements. -/
theorem writesJets_jetOp {i : Instr} {s : State} {ty : FTy} {rd : VReg} {srcs : List VReg} {mk : MReg}
    {h : Str → Nat → List (List Nat) → List (Nat × Nat)} (free : NoStreams s.curStr) (quiet : Quiet s) (aligned : Aligned s.curStr (rd :: srcs))
    (meaning : exec i s = runInstr (jetOp ty rd srcs mk h) s) :
    WritesJets i s rd ty mk (fun j => h s.curStr s.curStr.ord (srcs.map (fun r => jetOf s.curStr (tyFmt ty).w r j))) := by
  have done := completes_vecOp_counted free quiet aligned (meaning.trans (runInstr_theStr _ s))
  dsimp only at done
  rw [elemResults_oldVs, orJet_setVs, allFlags_eq] at done
  unfold WritesJets
  rw [← tyFmt_eq]
  refine ⟨_, _, _, length_map_upTo .., done, fun k hk j hj => ?_, fun b hb => ?_, fun b hb => ?_⟩
  · have low : k < s.curStr.jord.toNat + 1 := Nat.lt_succ_of_le hk
    rw [getD_map_upTo _ _ low, el_planeOf _ _ _ _ hj, getD_oldVs _ _ _ (show k < s.curStr.planes from low)]
    rfl
  · exact getLsbD_or_resultsOn _ _ _ rfl hb
  · exact getLsbD_or_resultsOn _ _ _ rfl hb

/-- Settles O33: each operation is a whole-jet operation by its formula. -/
theorem vectorFpResults : Obligations.VectorFpResults := by
  unfold Obligations.VectorFpResults
  intro s ty rd ra rb rc mk rm quiet free aligned
  dsimp only
  have mem {rs : List VReg} (more : Aligned s.curStr rs) : Aligned s.curStr (rd :: ra :: rs) := fun r hr => by
    simp only [List.mem_cons] at hr
    rcases hr with rfl | rfl | hr
    · exact aligned _ (by simp)
    · exact aligned _ (by simp)
    · exact more _ hr
  rw [← tyFmt_eq, ← mode_eq]
  have jets {i : Instr} {ty : FTy} {srcs : List VReg} {h : Str → Nat → List (List Nat) → List (Nat × Nat)} (groups : Aligned s.curStr (rd :: srcs))
      (meaning : exec i s = runInstr (jetOp ty rd srcs mk h) s) := writesJets_jetOp free quiet groups meaning
  refine ⟨fun b => ?_, ?_⟩
  · exact ⟨(jets (mem b) (exec_vaddFp ty rd ra rb mk rm s) :),
      (jets (mem b) (exec_vsubFp ty rd ra rb mk rm s) :),
      (jets (mem b) (exec_vmulFp ty rd ra rb mk rm s) :),
      (jets (mem b) (exec_vdiv ty rd ra rb mk rm s) :),
      (jets (mem b) (exec_vminFp ty rd ra rb mk s) :),
      (jets (mem b) (exec_vmaxFp ty rd ra rb mk s) :)⟩
  · refine ⟨(jets aligned (exec_vsqrt ty rd ra mk rm s) :),
      (jets aligned (exec_vrsq ty rd ra mk rm s) :),
      (jets aligned (exec_vexp ty rd ra mk rm s) :),
      (jets aligned (exec_vlog ty rd ra mk rm s) :),
      (jets aligned (exec_vsin ty rd ra mk rm s) :),
      (jets aligned (exec_vcos ty rd ra mk rm s) :),
      (jets aligned (exec_vtanh ty rd ra mk rm s) :),
      (jets aligned (exec_vabsFp ty rd ra mk s) :),
      (jets aligned (exec_vnegFp ty rd ra mk s) :), fun bc => ?_⟩
    exact ⟨(jets (mem bc) (exec_vfmaF64 rd ra rb rc rm mk s) :),
      (jets (mem bc) (exec_vfmaF32 rd ra rb rc rm mk s) :),
      (jets (mem bc) (exec_vfmaBf16 rd ra rb rc rm mk s) :),
      (jets (mem bc) (exec_vfmsF64 rd ra rb rc rm mk s) :),
      (jets (mem bc) (exec_vfmsF32 rd ra rb rc rm mk s) :),
      (jets (mem bc) (exec_vfmsBf16 rd ra rb rc rm mk s) :),
      (jets (mem bc) (exec_vfnmaF64 rd ra rb rc rm mk s) :),
      (jets (mem bc) (exec_vfnmaF32 rd ra rb rc rm mk s) :),
      (jets (mem bc) (exec_vfnmaBf16 rd ra rb rc rm mk s) :),
      (jets (mem bc) (exec_vfnmsF64 rd ra rb rc rm mk s) :),
      (jets (mem bc) (exec_vfnmsF32 rd ra rb rc rm mk s) :),
      (jets (mem bc) (exec_vfnmsBf16 rd ra rb rc rm mk s) :)⟩

end Sys2Proof.Proofs
end

section
/-! SUPPORT. Jets are built and taken apart (R198, R296 to R298), and the statement `JetParts`. -/

namespace Sys2Proof.Proofs

open Sys2Proof Sys2Proof.Machine Sys2Proof.Laws Sys2Proof.Claims

/-! ## Flags of the active elements (R198) -/

/-- Flags collected from the active elements alone are those of every element, an inactive one having none. -/
theorem foldl_or_active (mask : BitVec 64) (n : Nat) (g : Nat → Nat) :
    (upTo n).foldl (fun x j => x ||| if active mask j then g j else 0) 0 = orOf ((List.range n).filter (active mask)) g := by
  rw [orOf, List.foldl_filter]
  refine List.foldl_ext _ _ _ fun x j _ => ?_
  cases active mask j
  · exact Nat.or_zero x
  · rfl

/-- The flags that the results of active elements leave for FFLG. -/
theorem allFlags_resultsOn (w : Nat) (mask : BitVec 64) (h : Nat → List (Nat × Nat)) :
    (allFlags (resultsOn w mask h)).1 = orOf ((List.range (512 / w)).filter (active mask)) (fun j => (jetFlags (h j)).1) := by
  rw [allFlags_eq, resultsOn, List.foldl_map, ← foldl_or_active]
  refine List.foldl_ext _ _ _ fun x j _ => ?_
  cases active mask j <;> rfl

/-- The only operand of an instruction that works on single elements. -/
theorem elemResults_one (w : Nat) (mask : BitVec 64) (h : List (List Nat) → List (Nat × Nat)) (v : Vec) :
    elemResults w mask h [[v]] = resultsOn w mask (fun j => h [[el w v j]]) := by
  refine List.map_congr_left fun j hj => ?_
  show (if active mask j then h [[(elems w v).getD j 0]] else []) = _
  rw [getD_elems v (List.mem_range.mp hj)]

/-- What an active element gives for its derivative: k! times coefficient `kk`, or zero past JORD. -/
def derivative (t : Str) (f : Fmt) (m : Mode) (ra : VReg) (kk : BitVec 2) (j : Nat) : Nat × Nat :=
  if kk.toNat < t.jord.toNat + 1 then derElem f m kk.toNat (el f.w (t.rawV (ra + BitVec.ofNat 5 kk.toNat)) j) else (0, 0)

/-- JORD admits coefficient `k`. -/
theorem le_ord_iff (t : Str) (k : Nat) : k ≤ t.ord ↔ k < t.jord.toNat + 1 := Nat.lt_succ_iff.symm

/-! ## Building jets (R296, R297) -/

section
variable {i : Instr} {s : State} {ty : FTy} {rd ra : VReg} {mk : MReg} (free : NoStreams s.curStr) (quiet : Quiet s)
include free quiet

/-- A jet from one register: the value, `c1`, and zeros. -/
theorem writesGroup_seedJet {c1 : Nat} (aligned : Aligned s.curStr [rd]) (meaning : exec i s = runInstr (seedJet ty c1 rd ra mk) s) :
    WritesGroup i s rd (s.curStr.jord.toNat + 1) (tyFmt ty).w (fun j => !on s.curStr mk j)
      (fun k j => if k = 0 then el (tyFmt ty).w (s.curStr.rawV ra) j else if k = 1 then c1 else 0) := by
  have done := completes_vecOp free quiet aligned (meaning.trans (runInstr_theStr _ s))
  refine writesGroup_merged done fun k hk j hj => ?_
  by_cases first : k = 0
  · rw [if_pos first, if_pos first, getD_elems _ hj]
    show el _ ((s.curStr.oldVs ra 1).getD 0 0) j % _ = _
    rw [getD_oldVs_zero]
  · rw [if_neg first, if_neg first, getD_map_elems _ _ hj]

/-- One coefficient of a jet is replaced. -/
theorem writesGroup_jset {kk : BitVec 2} (aligned : Aligned s.curStr [rd]) :
    WritesGroup (.jset ty rd ra kk mk) s rd (s.curStr.jord.toNat + 1) (tyFmt ty).w (fun j => !on s.curStr mk j)
      (fun k j => if k = kk.toNat then el (tyFmt ty).w (s.curStr.rawV ra) j else el (tyFmt ty).w (s.curStr.rawV (rd + BitVec.ofNat 5 k)) j) := by
  have done := completes_vecOp free quiet aligned ((exec_jset ty rd ra kk mk s).trans (runInstr_theStr _ s))
  refine writesGroup_of done fun k hk j hj => ?_
  have old : (s.curStr.oldVs rd s.curStr.planes).getD k 0 = s.curStr.rawV (rd + BitVec.ofNat 5 k) := getD_oldVs _ _ _ hk
  have new : (s.curStr.oldVs ra 1).getD 0 0 = s.curStr.rawV ra := getD_oldVs_zero ..
  by_cases here : k = kk.toNat
  · rw [if_pos here, if_pos here, el_merged _ _ _ hj, getD_elems _ hj]
    show (if on s.curStr mk j then el _ ((s.curStr.oldVs ra 1).getD 0 0) j % _ else el _ ((s.curStr.oldVs rd _).getD k 0) j) = _
    rw [new, old]
    cases on s.curStr mk j <;> rfl
  · rw [if_neg here, if_neg here, el_mod, ite_self]
    exact congrArg (el _ · j) old

/-! ## Taking them apart (R297, R298) -/

/-- Coefficient `kk` of a group, or zero past JORD. -/
theorem writesGroup_jget {kk : BitVec 2} (aligned : Aligned s.curStr [ra]) :
    WritesGroup (.jget ty rd ra kk mk) s rd 1 (tyFmt ty).w (fun j => !on s.curStr mk j)
      (fun _ j => if kk.toNat < s.curStr.jord.toNat + 1 then el (tyFmt ty).w (s.curStr.rawV (ra + BitVec.ofNat 5 kk.toNat)) j else 0) := by
  have done := completes_vecOp free quiet aligned ((exec_jget ty rd ra kk mk s).trans (runInstr_theStr _ s))
  refine writesGroup_merged (new := fun _ => _) done fun k hk j hj => ?_
  simp only [getD_elems _ hj, le_ord_iff]
  split
  case isTrue within => exact congrArg (el _ · j % _) (getD_oldVs _ _ _ within)
  case isFalse => rw [el_zero]

theorem completes_jder {kk : BitVec 2} {rm : Rm} (aligned : Aligned s.curStr [ra]) :
    let h := derivative s.curStr (tyFmt ty) (s.curStr.mode rm) ra kk
    let w := (tyFmt ty).w
    Completes (.jder ty rd ra kk mk rm) s (withFlags
      (s.curStr.setV rd (planeOf w (s.curStr.getM mk) (resultsOn w (s.curStr.getM mk) (fun j => [h j])) 0 (s.curStr.rawV rd)))
      (orOf ((List.range (512 / w)).filter (active (s.curStr.getM mk))) (fun j => (h j).2))) := by
  have done := completes_vecOp_counted free quiet aligned ((exec_jder ty rd ra kk mk rm s).trans (runInstr_theStr _ s))
  have result (j : Nat) : (if kk.toNat ≤ s.curStr.ord then [derElem (tyFmt ty) (s.curStr.mode rm) kk.toNat
        (el (tyFmt ty).w ((s.curStr.oldVs ra s.curStr.planes).getD kk.toNat 0) j)] else [(0, 0)])
      = [derivative s.curStr (tyFmt ty) (s.curStr.mode rm) ra kk j] := by
    simp only [derivative, le_ord_iff]
    split
    case isTrue within => rw [getD_oldVs _ _ _ (show _ < s.curStr.planes from within)]
    case isFalse => rfl
  simp only [elemResults_one, List.map_cons, List.map_nil, List.getD_cons_zero, result, allFlags_resultsOn, setVs_one, getD_oldVs_zero] at done
  exact done

end

/-- Settles O36: what each writes, and for a derivative its flags. -/
theorem jetParts : Obligations.JetParts := by
  unfold Obligations.JetParts
  intro s ty rd ra kk mk rm quiet free
  dsimp only
  rw [← tyFmt_eq, ← mode_eq]
  simp only [BitVec.add_zero]
  refine ⟨fun aligned => ⟨writesGroup_seedJet free quiet aligned (exec_jseed ..), ?_, writesGroup_jset free quiet aligned⟩,
    fun aligned => ⟨writesGroup_jget free quiet aligned, ?_⟩⟩
  · have constant := writesGroup_seedJet free quiet aligned (exec_jconst ty rd ra mk s)
    simpa only [ite_self] using constant
  · exact ⟨_, completes_jder free quiet aligned, fun j hj => el_planeOf _ _ 0 _ hj⟩

end Sys2Proof.Proofs
end

section
/-! SUPPORT. The order in which R201 selects among numbers, and the element that a reduction takes (R201, R294): lemmas for the statement
`VectorFpTests`. -/

namespace Sys2Proof.Proofs

open Sys2Proof Sys2Proof.Machine Sys2Proof.Laws Sys2Proof.Claims

/-! ## Numbers by value -/

/-- An extended number that is no NaN, and whose quotient has a denominator. -/
def IsNumber : Ex → Prop
  | .nan => False
  | .inf _ => True
  | .rat _ _ d => 0 < d

/-- Its value, the infinities standing outside the rationals. -/
def exValue : Ex → ℤ ×ₗ ℚ
  | .nan => toLex (0, 0)
  | .inf s => toLex (if s then -1 else 1, 0)
  | .rat s n d => toLex (0, ((if s then -(n : Int) else n : Int) : ℚ) / d)

theorem isNumber_dyadic (s : Bool) (m : Nat) (e : Int) : IsNumber (Ex.dyadic s m e) := by
  unfold Ex.dyadic
  split
  · exact Nat.one_pos
  · show 0 < 1 <<< _
    rw [Nat.shiftLeft_eq]; positivity

theorem isNumber_decode {f : Fmt} {a : Nat} (number : f.isNan a = false) : IsNumber (f.decode a) := by
  unfold Fmt.decode
  simp only [number, Bool.false_eq_true, if_false]
  split
  · trivial
  · split <;> exact isNumber_dyadic ..

section
variable {x y : Ex} (hx : IsNumber x) (hy : IsNumber y)
include hx hy

theorem ex_lt_iff : x.lt y = true ↔ exValue x < exValue y := by
  cases x with
  | nan => exact hx.elim
  | inf s =>
    cases y with
    | nan => exact hy.elim
    | inf t => cases s <;> cases t <;> simp [Ex.lt, exValue, Prod.Lex.toLex_lt_toLex]
    | rat t m e => cases s <;> simp [Ex.lt, exValue, Prod.Lex.toLex_lt_toLex]
  | rat s n d =>
    cases y with
    | nan => exact hy.elim
    | inf t => cases t <;> simp [Ex.lt, exValue, Prod.Lex.toLex_lt_toLex]
    | rat t m e =>
      have dpos : (0 : ℚ) < d := Nat.cast_pos.mpr hx
      have epos : (0 : ℚ) < e := Nat.cast_pos.mpr hy
      simp only [exValue, Prod.Lex.toLex_lt_toLex, lt_irrefl, false_or, true_and, div_lt_div_iff₀ dpos epos]
      show decide ((if s then -(n : Int) else n) * (e : Int) < (if t then -(m : Int) else m) * (d : Int)) = true ↔ _
      rw [decide_eq_true_iff]
      norm_cast

theorem ex_eqv_iff : x.eqv y = true ↔ exValue x = exValue y := by
  have numbers : x ≠ .nan ∧ y ≠ .nan := ⟨by rintro rfl; exact hx, by rintro rfl; exact hy⟩
  have unordered : x.eqv y = true ↔ ¬x.lt y = true ∧ ¬y.lt x = true := by simp [Ex.eqv, numbers]
  rw [unordered, ex_lt_iff hx hy, ex_lt_iff hy hx, not_lt, not_lt, and_comm, ← le_antisymm_iff]

omit hy in
theorem ex_isZero_iff : x.isZero = true ↔ exValue x = toLex (0, 0) := by
  cases x with
  | nan => exact hx.elim
  | inf s => cases s <;> simp [Ex.isZero, exValue]
  | rat s n d => cases s <;> simp [Ex.isZero, exValue, (show d ≠ 0 from hx.ne')]

end

/-! ## The order of R201 -/

/-- The place of a number among all: by value, and −0 before +0 (R201). -/
def rank (x : Ex) : (ℤ ×ₗ ℚ) ×ₗ Bool := toLex (exValue x, !(x.isZero && x.isNeg))

theorem rank_le_iff (x y : Ex) : rank x ≤ rank y
    ↔ exValue x < exValue y ∨ exValue x = exValue y ∧ (y.isZero = true → y.isNeg = true → x.isZero = true ∧ x.isNeg = true) := by
  rw [rank, rank, Prod.Lex.toLex_le_toLex]
  refine or_congr_right (and_congr_right fun _ => ?_)
  show (!(x.isZero && x.isNeg)) ≤ (!(y.isZero && y.isNeg)) ↔ _
  cases x.isZero <;> cases x.isNeg <;> cases y.isZero <;> cases y.isNeg <;> decide

section
variable {x y : Ex} (hx : IsNumber x) (hy : IsNumber y)
include hx hy

theorem firstMore_iff : x.firstMore y = true ↔ rank y ≤ rank x := by
  simp only [Ex.firstMore, rank_le_iff, Bool.or_eq_true, Bool.and_eq_true, ex_lt_iff hy hx, ex_eqv_iff hx hy, eq_comm (a := exValue y)]
  refine or_congr_right (and_congr_right fun same => ?_)
  have zeros : x.isZero = y.isZero := by rw [Bool.eq_iff_iff, ex_isZero_iff hx, ex_isZero_iff hy, same]
  rw [zeros]
  cases y.isZero <;> cases x.isNeg <;> cases y.isNeg <;> decide

theorem firstLess_iff : x.firstLess y = true ↔ rank x ≤ rank y := by
  simp only [Ex.firstLess, rank_le_iff, Bool.or_eq_true, Bool.and_eq_true, ex_lt_iff hx hy, ex_eqv_iff hx hy]
  refine or_congr_right (and_congr_right fun same => ?_)
  have zeros : x.isZero = y.isZero := by rw [Bool.eq_iff_iff, ex_isZero_iff hx, ex_isZero_iff hy, same]
  rw [zeros]
  cases y.isZero <;> cases x.isNeg <;> cases y.isNeg <;> decide

end

/-- The encoding `a` is selected against `b`: as the greater, or as the less. -/
def prefers (f : Fmt) (mx : Bool) (a b : Nat) : Bool :=
  if mx then (f.decode a).firstMore (f.decode b) else (f.decode a).firstLess (f.decode b)

section
variable {f : Fmt} {a b : Nat} (ha : f.isNan a = false) (hb : f.isNan b = false)
include ha hb

theorem prefers_iff (mx : Bool) : prefers f mx a b = true
    ↔ if mx then rank (f.decode b) ≤ rank (f.decode a) else rank (f.decode a) ≤ rank (f.decode b) := by
  cases mx
  · exact firstLess_iff (isNumber_decode ha) (isNumber_decode hb)
  · exact firstMore_iff (isNumber_decode ha) (isNumber_decode hb)

theorem prefers_total (mx : Bool) (not : ¬prefers f mx a b = true) : prefers f mx b a = true := by
  rw [prefers_iff ha hb] at not
  rw [prefers_iff hb ha]
  cases mx <;> exact (not_le.mp not).le

theorem prefers_trans {c : Nat} (hc : f.isNan c = false) (mx : Bool) (ab : prefers f mx a b = true) (bc : prefers f mx b c = true) :
    prefers f mx a c = true := by
  rw [prefers_iff ha hb] at ab
  rw [prefers_iff hb hc] at bc
  rw [prefers_iff ha hc]
  cases mx
  · exact ab.trans bc
  · exact bc.trans ab

/-- Minimum and maximum of numbers deliver the one that is selected (R201). -/
theorem fpMinMax_eq (mx : Bool) : (if mx then fpMax f a b else fpMin f a b).1 = if prefers f mx a b then a else b := by
  cases mx <;> simp [fpMax, fpMin, prefers, ha, hb]

end

theorem prefers_refl {f : Fmt} {a : Nat} (ha : f.isNan a = false) (mx : Bool) : prefers f mx a a = true := by
  rw [prefers_iff ha ha]
  cases mx <;> exact le_refl _

/-! ## The element that a reduction takes (R294) -/

/-- Of elements in order of their index, none a NaN, the one that is selected against every other, the first of equal ones. -/
theorem pickElem_spec {f : Fmt} {vs : List Nat} (mx : Bool) {ix : List Nat} (nonempty : ix ≠ []) (order : ix.Pairwise (· < ·))
    (numbers : ∀ i ∈ ix, f.isNan (vs.getD i 0) = false) :
    ∃ j ∈ ix, pickElem f mx vs ix = some j ∧ (∀ i ∈ ix, prefers f mx (vs.getD j 0) (vs.getD i 0) = true)
      ∧ ∀ i ∈ ix, i < j → vs.getD i 0 ≠ vs.getD j 0 := by
  induction ix with
  | nil => exact absurd rfl nonempty
  | cons i t ih =>
    obtain ⟨first, order⟩ := List.pairwise_cons.mp order
    have hi : f.isNan (vs.getD i 0) = false := numbers i (List.mem_cons_self ..)
    have ht : ∀ k ∈ t, f.isNan (vs.getD k 0) = false := fun k hk => numbers k (List.mem_cons_of_mem _ hk)
    have self := prefers_refl hi mx
    by_cases last : t = []
    · subst last
      exact ⟨i, List.mem_cons_self .., rfl, List.forall_mem_cons.mpr ⟨self, by simp⟩, by simp⟩
    · obtain ⟨j, mem, pick, best, lowest⟩ := ih last order ht
      have hj := ht j mem
      have step : pickElem f mx vs (i :: t) = if prefers f mx (vs.getD i 0) (vs.getD j 0) then some i else some j := by
        rw [pickElem, pick]; rfl
      by_cases keep : prefers f mx (vs.getD i 0) (vs.getD j 0) = true
      · refine ⟨i, List.mem_cons_self .., by rw [step, if_pos keep], List.forall_mem_cons.mpr ⟨self, fun k hk => ?_⟩,
          List.forall_mem_cons.mpr ⟨fun h => absurd h (lt_irrefl i), fun k hk h => absurd h (first k hk).not_gt⟩⟩
        exact prefers_trans hi hj (ht k hk) mx keep (best k hk)
      · refine ⟨j, List.mem_cons_of_mem _ mem, by rw [step, if_neg keep], List.forall_mem_cons.mpr ⟨prefers_total hi hj mx keep, best⟩,
          List.forall_mem_cons.mpr ⟨fun _ same => keep (same ▸ self), lowest⟩⟩

end Sys2Proof.Proofs
end

section
/-! SUPPORT. Floating-point compares and reductions (R198, R201, R202, R293, R294), and the statement `VectorFpTests`. -/

namespace Sys2Proof.Proofs

open Sys2Proof Sys2Proof.Machine Sys2Proof.Laws Sys2Proof.Claims

/-! ## The active elements -/

theorem activeIx_lt {n : Nat} {mask : BitVec 64} {j : Nat} (hj : j ∈ activeIx n mask) : j < n := List.mem_range.mp (List.mem_of_mem_filter hj)

theorem activeIx_order (n : Nat) (mask : BitVec 64) : (activeIx n mask).Pairwise (· < ·) := List.pairwise_lt_range.filter _

/-- Active elements of a register. -/
theorem map_activeIx_elems (w : Nat) (mask : BitVec 64) (v : Vec) :
    (activeIx (512 / w) mask).map (fun j => (elems w v).getD j 0) = (activeIx (512 / w) mask).map (el w v) :=
  List.map_congr_left fun _ hj => getD_elems v (activeIx_lt hj)

/-- A register of a group that is made register by register. -/
theorem getD_map_oldVs {α : Type} (t : Str) (r : VReg) {n k : Nat} (g : Vec → α) (d : α) (low : k < n) :
    ((t.oldVs r n).map g).getD k d = g (t.rawV (r + BitVec.ofNat 5 k)) := by
  rw [Str.oldVs, List.map_map, getD_map_upTo _ _ low]
  rfl

/-! ## Compares (R293) -/

/-- A mask bit is set where the element is active and passes the test. -/
theorem getLsbD_cmpMask {n j : Nat} (mask : BitVec 64) (p : Nat → Bool) (word : j < 64) :
    (cmpMask n mask p).getLsbD j = (decide (j < n) && active mask j && p j) := by
  have bit := joinElems_elem 1 ((upTo n).map (fun i => b2n (active mask i && p i))) j
  rw [Nat.one_mul, Nat.pow_one] at bit
  rw [cmpMask, BitVec.getLsbD_ofNat, decide_eq_true word, Bool.true_and, Nat.testBit_eq_decide_div_mod_eq, bit]
  by_cases inside : j < n
  · rw [getD_map_upTo _ _ inside]
    cases active mask j <;> cases p j <;> simp [inside, b2n]
  · rw [List.getD_eq_default _ _ (by simpa [upTo] using inside)]
    simp [inside]

section
variable {s : State} {ty : FTy} {rd ra : VReg} {mk : MReg} (free : NoStreams s.curStr) (quiet : Quiet s)
include free quiet

theorem completes_vcmpFp (md : MReg) (rb : VReg) (c : Cond) :
    let f := tyFmt ty
    let mask := s.curStr.getM mk
    let r (j : Nat) := fpCmp f c (el f.w (s.curStr.rawV ra) j) (el f.w (s.curStr.rawV rb) j)
    ∃ m, Completes (.vcmpFp ty md ra rb mk c) s (withFlags (s.curStr.setM md m) (orOf (activeIx (512 / f.w) mask) (fun j => (r j).2)))
      ∧ ∀ j < 64, m.getLsbD j = (decide (j < 512 / f.w) && active mask j && (r j).1) := by
  intro f mask r
  have aligned : Aligned s.curStr [] := fun r hr => absurd hr List.not_mem_nil
  have done := completes_vecRead free quiet aligned (exec_vcmpFp ty md ra rb mk c s)
  simp only [List.map_cons, List.map_nil, List.getD_cons_zero, List.getD_cons_succ, getD_oldVs_zero] at done
  let raw (j : Nat) := fpCmp f c ((elems f.w (s.curStr.rawV ra)).getD j 0) ((elems f.w (s.curStr.rawV rb)).getD j 0)
  have test {j : Nat} (low : j < 512 / f.w) : raw j = r j := congrArg₂ (fpCmp f c) (getD_elems _ low) (getD_elems _ low)
  have flags : orOf (activeIx (512 / f.w) mask) (fun j => (raw j).2) = orOf (activeIx (512 / f.w) mask) (fun j => (r j).2) :=
    List.foldl_ext _ _ _ fun x j hj => congrArg (fun y => x ||| y.2) (test (activeIx_lt hj))
  refine ⟨cmpMask (512 / f.w) mask (fun j => (raw j).1), flags ▸ done, fun j hj => ?_⟩
  rw [getLsbD_cmpMask _ _ hj]
  by_cases low : j < 512 / f.w
  · rw [test low]
  · rw [decide_eq_false low, Bool.false_and, Bool.false_and, Bool.false_and]

/-! ## Sums (R202, R294) -/

variable (aligned : Aligned s.curStr [rd, ra])
include aligned

/-- Each plane is summed and rounded by itself, with its own flags. -/
theorem completes_vredsumFp (rm : Rm) :
    let f := tyFmt ty
    let n := s.curStr.jord.toNat + 1
    let sum (k : Nat) := fpSum f (s.curStr.mode rm) ((activeIx (512 / f.w) (s.curStr.getM mk)).map (el f.w (s.curStr.rawV (ra + BitVec.ofNat 5 k))))
    Completes (.vredsumFp ty rd ra mk rm) s { s.curStr.setVs rd ((upTo n).map (fun k => onlyFirst f.w (sum k).1)) 0 with
      fflg := s.curStr.fflg ||| BitVec.ofNat 5 (sum 0).2, jflg := s.curStr.jflg ||| BitVec.ofNat 15 (jetFlags ((List.range n).map sum)).2 } := by
  intro f n sum
  have done := completes_vecOp_counted free quiet aligned ((exec_vredsumFp ty rd ra mk rm s).trans (runInstr_theStr _ s))
  have sums : (s.curStr.oldVs ra n).map (fun v => fpSum f (s.curStr.mode rm) ((activeIx (512 / f.w) (s.curStr.getM mk)).map (el f.w v)))
      = (upTo n).map sum := List.map_map
  simp only [List.map_cons, List.map_nil, List.getD_cons_zero, map_activeIx_elems, orJet_setVs] at done
  rw [show s.curStr.planes = n from rfl, sums, jetFlags_zeroth, List.map_map] at done
  exact done

/-! ## Extremes (R201, R294) -/

/-- What an extreme writes and which flags it raises. -/
def extreme (t : Str) (f : Fmt) (mx : Bool) (ra : VReg) (mask : BitVec 64) : List Vec × (Str → Str) :=
  let planes := t.oldVs ra t.planes
  let ix := activeIx (512 / f.w) mask
  let act := ix.map (el f.w (t.rawV ra))
  if act.any f.isNan then (planes.map (fun _ => onlyFirst f.w f.nan), fun t => t.orFlags (sigFlag f act))
  else match pickElem f mx (elems f.w (t.rawV ra)) ix with
    | some i => (planes.map (fun v => onlyFirst f.w ((elems f.w v).getD i 0)), id)
    | none => ((upTo t.planes).map (fun k => if k = 0 then onlyFirst f.w (f.inf mx) else 0), id)

omit free quiet aligned in
theorem exec_extreme (ty : FTy) (mx : Bool) (rd ra : VReg) (mk : MReg) (s : State) :
    exec (if mx then .vredmaxFp ty rd ra mk else .vredminFp ty rd ra mk) s = runInstr (redMinMax ty mx rd ra mk) s := by
  cases mx
  · exact exec_vredminFp ty rd ra mk s
  · exact exec_vredmaxFp ty rd ra mk s

theorem completes_redMinMax {i : Instr} {mx : Bool} (meaning : exec i s = runInstr (redMinMax ty mx rd ra mk) s) :
    let r := extreme s.curStr (tyFmt ty) mx ra (s.curStr.getM mk)
    Completes i s (r.2 (s.curStr.setVs rd r.1 0)) := by
  have done := completes_vecOp_counted free quiet aligned (meaning.trans (runInstr_theStr _ s))
  have first : (s.curStr.oldVs ra s.curStr.planes).getD 0 0 = s.curStr.rawV ra := getD_oldVs_zero ..
  simp only [List.map_cons, List.map_nil, List.getD_cons_zero, first, map_activeIx_elems] at done
  exact done

end

section
variable {t : Str} {f : Fmt} {mx : Bool} {ra : VReg} {mask : BitVec 64}

/-- With no active element it is the infinity that no number passes. -/
theorem extreme_none (idle : activeIx (512 / f.w) mask = []) :
    extreme t f mx ra mask = ((upTo t.planes).map (fun k => if k = 0 then onlyFirst f.w (f.inf mx) else 0), id) := by
  rw [extreme, idle]
  rfl

theorem extreme_nan (nan : ∃ j ∈ activeIx (512 / f.w) mask, f.isNan (el f.w (t.rawV ra) j) = true) :
    extreme t f mx ra mask = ((t.oldVs ra t.planes).map (fun _ => onlyFirst f.w f.nan),
      fun u => u.orFlags (sigFlag f ((activeIx (512 / f.w) mask).map (el f.w (t.rawV ra))))) := by
  rw [extreme, if_pos]
  rwa [List.any_map, List.any_eq_true]

/-- Among numbers it is the whole jet of the element that is selected against every other. -/
theorem extreme_number (nonempty : activeIx (512 / f.w) mask ≠ []) (numbers : ∀ j ∈ activeIx (512 / f.w) mask, f.isNan (el f.w (t.rawV ra) j) = false) :
    ∃ j ∈ activeIx (512 / f.w) mask,
      (∀ i ∈ activeIx (512 / f.w) mask, prefers f mx (el f.w (t.rawV ra) j) (el f.w (t.rawV ra) i) = true)
      ∧ (∀ i ∈ activeIx (512 / f.w) mask, i < j → el f.w (t.rawV ra) i ≠ el f.w (t.rawV ra) j)
      ∧ extreme t f mx ra mask = ((t.oldVs ra t.planes).map (fun v => onlyFirst f.w (el f.w v j)), id) := by
  have element {i : Nat} (hi : i ∈ activeIx (512 / f.w) mask) : (elems f.w (t.rawV ra)).getD i 0 = el f.w (t.rawV ra) i := getD_elems _ (activeIx_lt hi)
  obtain ⟨j, mem, pick, best, lowest⟩ := pickElem_spec mx nonempty (activeIx_order _ _) fun i hi => by rw [element hi]; exact numbers i hi
  refine ⟨j, mem, fun i hi => ?_, fun i hi lower => ?_, ?_⟩
  · rw [← element mem, ← element hi]; exact best i hi
  · rw [← element mem, ← element hi]; exact lowest i hi lower
  · have none_nan : ¬((activeIx (512 / f.w) mask).map (el f.w (t.rawV ra))).any f.isNan = true := by
      simpa [List.any_map] using numbers
    simp only [extreme, none_nan, Bool.false_eq_true, if_false, pick, getD_elems _ (activeIx_lt mem)]

end

/-- Settles O35: a compare tests coefficient 0, a sum rounds each plane once, and an extreme takes one element's whole jet. -/
theorem vectorFpTests : Obligations.VectorFpTests := by
  unfold Obligations.VectorFpTests
  intro s ty md rd ra rb mk c rm quiet free
  dsimp only
  rw [← tyFmt_eq, ← mode_eq]
  refine ⟨?_, fun aligned => ⟨?_, fun mx => ?_⟩⟩
  · simp only [BitVec.add_zero]
    exact completes_vcmpFp free quiet md rb c
  · have done := completes_vredsumFp (ty := ty) (mk := mk) free quiet aligned rm
    refine ⟨_, length_map_upTo .., done, fun k hk j hj => ?_⟩
    have low : k < s.curStr.jord.toNat + 1 := Nat.lt_succ_of_le hk
    rw [getD_map_upTo _ _ low, el_onlyFirst _ hj]
    rfl
  · have done := completes_redMinMax free quiet aligned (exec_extreme ty mx rd ra mk s)
    simp only [BitVec.add_zero]
    refine ⟨fun idle => ?_, fun nan => ?_, fun nonempty numbers => ?_⟩
    · rw [extreme_none idle] at done
      refine ⟨_, length_map_upTo .., done, fun k hk j hj => ?_⟩
      rw [getD_map_upTo _ _ (show k < s.curStr.jord.toNat + 1 from Nat.lt_succ_of_le hk)]
      by_cases first : k = 0
      · rw [if_pos first, if_pos first, el_onlyFirst _ hj]
      · rw [if_neg first, if_neg first, el_zero, Nat.zero_mod, ite_self]
    · rw [extreme_nan nan] at done
      refine ⟨_, (List.length_map ..).trans (length_oldVs ..), done, fun k hk j hj => ?_⟩
      rw [getD_map_oldVs _ _ _ _ (show k < s.curStr.jord.toNat + 1 from Nat.lt_succ_of_le hk), el_onlyFirst _ hj]
    · obtain ⟨j, mem, best, lowest, whole⟩ := extreme_number (mx := mx) nonempty numbers
      rw [whole] at done
      refine ⟨_, j, mem, fun i hi => ?_, lowest, (List.length_map ..).trans (length_oldVs ..), done, fun k hk i hi => ?_⟩
      · rw [fpMinMax_eq (numbers j mem) (numbers i hi) mx, if_pos (best i hi)]
      · rw [getD_map_oldVs _ _ _ _ (show k < s.curStr.jord.toNat + 1 from Nat.lt_succ_of_le hk), el_onlyFirst _ hi]

end Sys2Proof.Proofs
end

section
/-! SUPPORT. Conversions between integers, formats and FP8 (R198, R203 to R205, R305 to R307), and the statement `Conversions`. -/

namespace Sys2Proof.Proofs

open Sys2Proof Sys2Proof.Machine Sys2Proof.Laws Sys2Proof.Claims

/-! ## The low elements of a register convert (R306) -/

/-- The flags of the elements that convert. -/
def convFlags (ws wd : Nat) (mask : BitVec 64) (h : Nat → Nat × Nat) (v : Vec) : Nat :=
  orOf (activeIx (512 / max ws wd) mask) (fun j => (h (el ws v j)).2)

/-- An element below the number of the wider type stands in a register of either type. -/
theorem low_of_max {ws wd j : Nat} (pos : 0 < ws) (low : j < 512 / max ws wd) : j < 512 / ws :=
  low.trans_le (Nat.div_le_div_left (Nat.le_max_left ws wd) pos)

theorem convReg_flags {ws : Nat} (pos : 0 < ws) (wd : Nat) (mask : BitVec 64) (h : Nat → Nat × Nat) (v old : Vec) :
    (convReg ws wd mask h v old).2 = convFlags ws wd mask h v := by
  rw [convFlags, activeIx, upTo, ← foldl_or_active, convReg, List.foldl_map]
  refine List.foldl_ext _ _ _ fun x j hj => ?_
  rw [getD_elems v (low_of_max pos (List.mem_range.mp hj))]
  cases active mask j <;> rfl

theorem converts_convReg {t : Str} {mk : MReg} {ws : Nat} (pos : 0 < ws) (wd : Nat) (h : Nat → Nat × Nat) (v old : Vec) :
    Converts t mk ws wd h v old (convReg ws wd (t.getM mk) h v old).1 := by
  intro j hj
  have act : on t mk j = active (t.getM mk) j := rfl
  rw [convReg, el_ofElems _ hj, List.map_map]
  by_cases low : j < 512 / max ws wd
  · rw [getD_map_upTo _ _ low, if_pos low, Function.comp_apply, getD_elems v (low_of_max pos low), getD_elems old hj, act]
    cases active (t.getM mk) j
    · exact el_mod ..
    · rfl
  · rw [if_neg low, List.getD_eq_default _ _ (by simpa [upTo] using low), Nat.zero_mod]

theorem szBits_pos (e : Sz) : 0 < szBits e := by cases e <;> decide

theorem tyFmt_width_pos (ty : FTy) : 0 < (tyFmt ty).w := by cases ty <;> decide

theorem ty8Fmt_width_pos (ty : FTy8) : 0 < (ty8Fmt ty).w := by cases ty <;> decide

/-! ## One register (R306, R307) -/

section
variable {s : State} (free : NoStreams s.curStr) (quiet : Quiet s)
include free quiet

/-- A conversion of one register writes its low elements, and `g` is what it makes of its string with their flags. -/
theorem converts_one {i : Instr} {rd ra : VReg} {xs : List XReg} {ws wd : Nat} (pos : 0 < ws) {mk : MReg} {ty : FTy} {n k : Nat}
    (h : Str → Nat → Nat × Nat) (g : Vec → Str → Nat → Str) (meaning : exec i s = runInstr (vecOp xs [] [(ra, 1)] rd 1 (fun t vs old =>
      let x := convReg ws wd (s.curStr.getM mk) (h t) (src vs 0) (old.getD 0 0)
      ([x.1], fun t => g (src vs 0) t x.2)) >>= fun a => countVop ty (s.curStr.getM mk) n k >>= fun _ => pure a) s) :
    ∃ v, Completes i s (g (s.curStr.rawV ra) (s.curStr.setV rd v) (convFlags ws wd (s.curStr.getM mk) (h s.curStr) (s.curStr.rawV ra)))
      ∧ Converts s.curStr mk ws wd (h s.curStr) (s.curStr.rawV ra) (s.curStr.rawV rd) v := by
  have done := completes_vecOp_counted free quiet (fun r hr => absurd hr List.not_mem_nil) meaning
  simp only [src, List.map_cons, List.map_nil, List.getD_cons_zero, getD_oldVs_zero, setVs_one, convReg_flags pos] at done
  exact ⟨_, done, converts_convReg pos wd _ _ _⟩

/-! ## Whole jets (R306) -/

/-- A conversion between formats converts each plane, with its own flags. -/
theorem completes_vcvtFpFp {rd ra : VReg} (aligned : Aligned s.curStr [rd, ra]) (rb : XReg) (mk : MReg) {dst : FTy8} (src : FTy8) (rm : Rm)
    (wide : dst ≠ .fp8) :
    let fs := ty8Fmt src
    let fd := ty8Fmt dst
    let h := fpConv fs fd (s.curStr.mode rm)
    let n := s.curStr.jord.toNat + 1
    let plane (k : Nat) := convFlags fs.w fd.w (s.curStr.getM mk) h (s.curStr.rawV (ra + BitVec.ofNat 5 k))
    Completes (.vcvtFpFp rd ra rb mk dst src rm) s ((s.curStr.setVs rd ((upTo n).map (fun k => (convReg fs.w fd.w (s.curStr.getM mk) h
        (s.curStr.rawV (ra + BitVec.ofNat 5 k)) (s.curStr.rawV (rd + BitVec.ofNat 5 k))).1)) 0).orJet
      (jetFlags ((upTo n).map (fun k => (0, plane k))))) := by
  intro fs fd h n plane
  have meaning := (exec_vcvtFpFp rd ra rb mk dst src rm s).trans (runInstr_theStr _ s)
  dsimp only at meaning
  rw [if_neg wide] at meaning
  have done := completes_vecOp_counted free quiet aligned meaning
  let conv (k : Nat) := convReg fs.w fd.w (s.curStr.getM mk) h (s.curStr.rawV (ra + BitVec.ofNat 5 k)) (s.curStr.rawV (rd + BitVec.ofNat 5 k))
  have planes : (upTo n).map (fun k => convReg fs.w fd.w (s.curStr.getM mk) h ((s.curStr.oldVs ra n).getD k 0) ((s.curStr.oldVs rd n).getD k 0))
      = (upTo n).map conv :=
    List.map_congr_left fun k hk => by rw [getD_oldVs _ _ _ (List.mem_range.mp hk), getD_oldVs _ _ _ (List.mem_range.mp hk)]
  have values : ((upTo n).map conv).map (·.1) = (upTo n).map (fun k => (conv k).1) := List.map_map
  have flags : ((upTo n).map conv).map (fun x => (0, x.2)) = (upTo n).map (fun k => (0, plane k)) := by
    rw [List.map_map]
    exact List.map_congr_left fun k _ => congrArg (0, ·) (convReg_flags (ty8Fmt_width_pos src) ..)
  simp only [List.map_cons, List.map_nil, List.getD_cons_zero] at done
  rw [show s.curStr.planes = n from rfl, planes, values, flags] at done
  exact done

end

/-! ## Bounds and elements of integers, and AMAX (R203, R205) -/

theorem toElem_eq (w : Nat) (i : Int) : toElem w i = (i % 2 ^ w).toNat := by
  rw [toElem, Nat.cast_pow, Nat.cast_ofNat]

/-- The largest integer of `w` bits. -/
theorem cast_maxInt (w : Nat) : ((2 ^ (w - 1) - 1 : Nat) : Int) = 2 ^ (w - 1) - 1 := by
  rw [Nat.cast_sub Nat.one_le_two_pow, Nat.cast_pow, Nat.cast_ofNat, Nat.cast_one]

theorem amaxOver_eq (f : Fmt) (mask : BitVec 64) (v : Vec) {n : Nat} (le : n ≤ 512 / f.w) (a : BitVec 33) :
    amaxOver f mask n v a = (activeIx n mask).foldl (fun x j => amaxStep f x (el f.w v j)) a :=
  List.foldl_ext _ _ _ fun x j hj => by rw [getD_elems v ((activeIx_lt hj).trans_le le)]

/-- Settles O37: one register converts, or each plane of a jet. -/
theorem conversions : Obligations.Conversions := by
  unfold Obligations.Conversions
  intro s rd ra rb mk dst src ity fty rm quiet free
  dsimp only
  rw [← szBits_eq, ← tyFmt_eq, ← ty8Fmt_eq, ← ty8Fmt_eq, ← mode_eq]
  refine ⟨?_, ?_, ?_, fun wide aligned => ?_⟩
  · exact converts_one free quiet (szBits_pos ity) (fun t a => fpOfInt (tyFmt fty) (t.mode rm) (selem (szBits ity) a))
      (fun _ t x => t.orFlags x) ((exec_vcvtIntToFp rd ra mk ity fty rm s).trans (runInstr_theStr _ s))
  · have done := converts_one (mk := mk) free quiet (tyFmt_width_pos fty) _ (fun _ t x => t.orFlags x)
      ((exec_vcvtFpToInt rd ra mk ity fty rm s).trans (runInstr_theStr _ s))
    simp only [toElem_eq, cast_maxInt, Nat.cast_pow, Nat.cast_ofNat] at done
    exact done
  · rintro rfl
    have meaning := (exec_vcvtFpFp rd ra rb mk .fp8 src rm s).trans (runInstr_theStr _ s)
    dsimp only at meaning
    rw [if_pos rfl] at meaning
    obtain ⟨v, done, low⟩ := converts_one free quiet (ty8Fmt_width_pos src)
      (fun t a => fpToFp8 (ty8Fmt src) (t.mode rm) a ((t.getX rb).toNat % 2 ^ 32))
      (fun v t x => { t.orFlags x with amax := amaxOver (ty8Fmt src) (s.curStr.getM mk) (512 / max 8 (ty8Fmt src).w) v t.amax }) meaning
    rw [amaxOver_eq _ _ _ (Nat.div_le_div_left (Nat.le_max_right ..) (ty8Fmt_width_pos src))] at done
    exact ⟨v, done, low⟩
  · have done := completes_vcvtFpFp free quiet aligned rb mk src rm wide
    dsimp only at done
    rw [orJet_setVs, jetFlags_zeroth] at done
    refine ⟨_, length_map_upTo .., done, fun k hk => ?_⟩
    rw [getD_map_upTo _ _ (show k < s.curStr.jord.toNat + 1 from Nat.lt_succ_of_le hk)]
    exact converts_convReg (ty8Fmt_width_pos src) _ _ _ _

end Sys2Proof.Proofs
end
